-- ==== Sys2Proof/Word.lean ====
section
/-! DEFINITION. The word types of the Poton Z128: 32-bit register words (R6), bytes, 16-bit converter codes,
64-bit device time in tq (R147), and the plainest arithmetic on them. -/

namespace Sys2Proof

/-- A register word; registers are 32 bits wide (R6). -/
abbrev Word := BitVec 32

/-- One byte of an addressed memory; memory is little-endian (Notation of the scope chapter). -/
abbrev Byte := BitVec 8

/-- Device time: a 64-bit unsigned count of tq, 1 tq = 5 ps (R147). -/
abbrev Time := BitVec 64

/-- A converter code, 16-bit two's complement (R37). -/
abbrev Code := BitVec 16

/-- Device time `now` has reached instant `x` (R148): `(now - x) mod 2^64 < 2^63`. -/
def Time.reached (now x : Time) : Bool := (now - x).toNat < 2 ^ 63

/-- The tq from instant `a` to instant `b`, modulo 2^64. -/
def Time.since (a b : Time) : Nat := (b - a).toNat

/-- Limit an integer to a closed range. -/
def clampInt (lo hi v : Int) : Int := if v < lo then lo else if hi < v then hi else v

/-- Add one to a saturating counter. -/
def satInc (lim v : Nat) : Nat := if v < lim then v + 1 else lim

end Sys2Proof
end

