-- ==== Sys2Proof/Machine/AMap.lean ====
section
/-! DEFINITION. Sparse data by key: a list of (key, value) pairs in one canonical form, keys strictly rising and no
entry equal to the value an unlisted key reads as. Every bank of like units of the device (R9) and every register
word is held so; two equal banks are equal lists. -/

namespace Sys2Proof

/-- A bank of values by number. -/
abbrev AMap (α : Type) := List (Nat × α)

/-- The value at key `k`; an unlisted key reads as `d`. -/
def AMap.get {α : Type} (d : α) : AMap α → Nat → α
  | [], _ => d
  | (k', v) :: m, k => if k = k' then v else AMap.get d m k

/-- The map without key `k`. -/
def AMap.without {α : Type} (m : AMap α) (k : Nat) : AMap α := m.filter (fun e => e.1 != k)

/-- List `v` at key `k` before the first greater key. -/
def AMap.insert {α : Type} : AMap α → Nat → α → AMap α
  | [], k, v => [(k, v)]
  | (k', v') :: m, k, v => if k < k' then (k, v) :: (k', v') :: m else (k', v') :: AMap.insert m k v

/-- Write `v` at key `k`; writing the default leaves the key unlisted. -/
def AMap.set {α : Type} [DecidableEq α] (d : α) (m : AMap α) (k : Nat) (v : α) : AMap α :=
  if v = d then m.without k else (m.without k).insert k v

/-- Change the value at key `k` by `f`. -/
def AMap.upd {α : Type} [DecidableEq α] (d : α) (m : AMap α) (k : Nat) (f : α → α) : AMap α :=
  AMap.set d m k (f (AMap.get d m k))

/-- Keep the entries whose key satisfies `p`; every other key reads as the default again. -/
def AMap.keep {α : Type} (p : Nat → Bool) (m : AMap α) : AMap α := m.filter (fun e => p e.1)

/-- The canonical form: every key lies above `lo`-many, rising strictly, and no entry holds the default. -/
def AMap.wfFrom {α : Type} [DecidableEq α] (d : α) : Nat → AMap α → Bool
  | _, [] => true
  | lo, (k, v) :: m => decide (lo ≤ k) && decide (v ≠ d) && AMap.wfFrom d (k + 1) m

/-- The map is in canonical form. -/
def AMap.wf {α : Type} [DecidableEq α] (d : α) (m : AMap α) : Bool := AMap.wfFrom d 0 m

end Sys2Proof
end

