-- ==== Sys2Proof/Machine/Types.lean ====
section
/-! DEFINITION. The operand types of the commands: who makes an access and with what rights (R20, R297), which converter
is meant, frames of the shaft link (R392), frames of the networks, and the outcome data that reaches the block from
outside it. -/

namespace Sys2Proof

/-- The two worlds (R18, R20). -/
inductive World where
  | pit | bank
  deriving DecidableEq, Repr

/-- The world as its bit: 0 Pit, 1 Bank. -/
def World.bit : World → Nat
  | .pit => 0
  | .bank => 1

/-- The world a bit names. -/
def World.ofBit (b : Nat) : World := if b = 0 then .pit else .bank

/-- The other world. -/
def World.other : World → World
  | .pit => .bank
  | .bank => .pit

/-- An access by a master: `master` is bits [6:0] of the owner tag of R297 (processor p is p, DMA channel c is
0x10 + c, the PCIe host 0x50, cascade device d 0x58 + d), `world` by R20, `sup` for Supervisor level, `size` in bytes. -/
structure Access where
  master : Nat
  world : World
  sup : Bool
  size : Nat
  deriving DecidableEq, Repr

/-- The owner tag of an access (R297). -/
def Access.tag (a : Access) : Nat := a.world.bit * 128 + a.master % 128

/-- A converter: a channel's own, or a face's standby converter. -/
inductive Conv where
  | own (n : Fin 128)
  | sby (f : Fin 8)
  deriving DecidableEq, Repr

/-- The bank number of a converter's state. -/
def Conv.key : Conv → Nat
  | .own n => n.val
  | .sby f => 128 + f.val

/-- One of the two window comparators of a channel. -/
inductive CmpId where
  | a | b
  deriving DecidableEq, Repr

/-- One of the two gate outputs of a channel, before SWAP: the high-side or the low-side command's output. -/
inductive Side where
  | hi | lo
  deriving DecidableEq, Repr

/-- The other output of the pair. -/
def Side.other : Side → Side
  | .hi => .lo
  | .lo => .hi

/-- An access one Deputy copy presents (R237): address, size, data, type and world. -/
structure DepAccess where
  write : Bool
  world : World
  addr : Word
  size : Nat
  data : Word
  deriving DecidableEq, Repr

/-- An asynchronous input the Deputy copies agree on (R238). -/
inductive DepInput where
  | interrupt | wake | halt | service
  deriving DecidableEq, Repr

/-- A shaft-link frame (R392): the header fields, the payload words and the CRC-32 its EOF block carries. -/
structure Frame where
  express : Bool
  type : Nat
  src : Nat
  world : World
  odir : Bool
  dst : Nat
  bcast : Bool
  turned : Bool
  ttl : Nat
  seq : Nat
  addr : Word
  tag : Nat
  status : Nat
  payload : List Word
  crc : Word
  deriving DecidableEq, Repr

/-- A CAL block (R403) as a port presents it: a request with its departure time, an echo of this device's request with the
neighbour's echo turnaround, or the neighbour's report of the path delay of the link and its PCAL_OK, whose form the manual
leaves open. -/
inductive CalBlock where
  | request (t48 : BitVec 48)
  | echo (t48 : BitVec 48) (turn : Nat)
  | report (dly : Word) (ok : Bool)
  deriving DecidableEq, Repr

/-- A CAN frame on the bus (R416, R417). -/
structure CanFrame where
  ide : Bool
  rtr : Bool
  fdf : Bool
  id : Nat
  brs : Bool
  esi : Bool
  dlc : Nat
  data : List Byte
  deriving DecidableEq, Repr

/-- How a store read-back or an outbound read ended, as the path presents it (R326, R414). -/
inductive PathReply where
  | data (bytes : List Byte)
  | failed
  deriving DecidableEq, Repr

/-- The monitored supplies (R430). -/
inductive Supply where
  | vddCore | vddaF (f : Fin 8) | vddio
  deriving DecidableEq, Repr

/-- The quantities a Canary measures (R381). -/
inductive CanaryQty where
  | fvref | vdda | vddio
  deriving DecidableEq, Repr

/-- The address spaces of the PCIe endpoint a host's access reaches (R412, R413): the two base address regions and the
configuration space. -/
inductive PcieSpace where
  | bar0 | bar2 | config
  deriving DecidableEq, Repr

/-- What LOAD reads from the OTP after a power-on (R50, R271, R350, R352, R357): the programmed key hashes and their revocation
bits, the slot-B base, LOAD's flash commands, the trims by channel and gain (8 × channel + gain; standby converters by face), and the indexes of
words found uncorrectable. An item held in such a word, or not programmed, is not listed. -/
structure Otp where
  keyHash : AMap (List Byte) := []
  revoked : AMap Bool := []
  slotB : Option Nat := none
  chOfs : AMap (Option Word) := []
  chGain : AMap (Option Word) := []
  sbyOfs : AMap (Option Word) := []
  sbyGain : AMap (Option Word) := []
  /-- LOAD's read command with its dummy cycles, and the enable sequence, if there is one (R418). -/
  rdCode : Nat := 0xEE11
  rdDummy : Nat := 20
  enable : Option (List Byte) := none
  bad : List Nat := []
  deriving DecidableEq, Repr

/-- The wake sources of PARK (R342), by their bit. -/
inductive WakeSource where
  | ta | ang | link | dbg | can (i : Fin 4) | safeN
  deriving DecidableEq, Repr

/-- The bit of a wake source in WAKE_CFG and WAKE_STAT (R342). -/
def WakeSource.bit : WakeSource → Nat
  | .ta => 0
  | .ang => 1
  | .link => 2
  | .dbg => 3
  | .can i => 4 + i.val
  | .safeN => 9

end Sys2Proof
end

