-- ==== Sys2Proof/Syntax.lean ====
section
/-! DEFINITION. The commands of the block: one constructor for each row of spec/opcode_table.json, in the table's order.
Every command carries `dt`, the reference time in units of 5 ps that passes before it (R147; log entry 1). A command that
is a register write or read by a master carries the access (R20) and the word; a command that is an event of the world
outside the block carries what the world presents. -/

namespace Sys2Proof

/-- The commands of the Poton Z128. -/
inductive Instr where
  /-- REGISTER_WRITE (R4). A write to a register that has no row of its own, acting by its field types. -/
  | registerWrite (dt : Nat) (a : Access) (addr : Word) (w : Word)
  /-- EXECUTE_INSTRUCTION (R210). A core executes an ordinary RV32IMFC instruction that has no row of its own. -/
  | executeInstruction (dt : Nat) (p : Fin 7)
  /-- CORE_LOAD (R232). A core issues a load, which is forwarded from the store buffer, waits, or goes to its target. -/
  | coreLoad (dt : Nat) (p : Fin 7)
  /-- LOAD_DATA_RETURN (R209). The data of an issued load returns to the core. -/
  | loadDataReturn (dt : Nat) (p : Fin 7)
  /-- CORE_STORE (R23). A core retires a store into its store buffer. -/
  | coreStore (dt : Nat) (p : Fin 7)
  /-- STORE_BUFFER_DRAIN (R23). A buffered store reaches its target, which accepts it or refuses it. -/
  | storeBufferDrain (dt : Nat) (p : Fin 7)
  /-- STORE_ERROR (R234). A store refused after it left the buffer raises vector 9 at the next instruction boundary. -/
  | storeError (dt : Nat) (p : Fin 7)
  /-- FENCE (R211). FENCE waits until every buffered store of the core has drained. -/
  | fence (dt : Nat) (p : Fin 7)
  /-- FENCE_I (R211). FENCE.I drains the stores and then makes instruction fetch see them. -/
  | fenceI (dt : Nat) (p : Fin 7)
  /-- ECALL (R220). A system call enters Supervisor level at SYSENT, or raises a fast-path fault. -/
  | ecall (dt : Nat) (p : Fin 7)
  /-- EBREAK (R224). EBREAK raises the breakpoint exception when debug halting is disabled. -/
  | ebreak (dt : Nat) (p : Fin 7)
  /-- SRTN (R220). A return from a system call through SRET. -/
  | srtn (dt : Nat) (p : Fin 7)
  /-- XCALL (R221). A crossing into the other world at entry i. -/
  | xcall (dt : Nat) (p : Fin 7)
  /-- XRTN (R221). A return from a world crossing through XRET. -/
  | xrtn (dt : Nat) (p : Fin 7)
  /-- ERTN (R228). A return from an exception, which pops the frame or restores from the shadow bank. -/
  | ertn (dt : Nat) (p : Fin 7)
  /-- QUIESCE (R235). A quiescent point, at which a bank swap or a pending slice or withdrawal may take place. -/
  | quiesce (dt : Nat) (p : Fin 7)
  /-- WAIT (R213). The core suspends until an interrupt is deliverable or a debug halt is requested. -/
  | wait (dt : Nat) (p : Fin 7)
  /-- INTERRUPT_ENTRY (R251). A core takes an offered interrupt at an instruction boundary and enters vector 16 + q. -/
  | interruptEntry (dt : Nat) (p : Fin 7)
  /-- CP_SINCOS (R214). The coprocessor computes the cosine and sine of an angle in turns. -/
  | cpSincos (dt : Nat) (p : Fin 7)
  /-- CP_ATAN2 (R214). The coprocessor computes atan2 in turns. -/
  | cpAtan2 (dt : Nat) (p : Fin 7)
  /-- CP_SQRT (R214). The coprocessor computes a square root. -/
  | cpSqrt (dt : Nat) (p : Fin 7)
  /-- CP_RECIP (R214). The coprocessor computes a reciprocal. -/
  | cpRecip (dt : Nat) (p : Fin 7)
  /-- CP_CLARKE (R214). The coprocessor computes the Clarke transform. -/
  | cpClarke (dt : Nat) (p : Fin 7)
  /-- CP_ICLARKE (R214). The coprocessor computes the inverse Clarke transform. -/
  | cpIclarke (dt : Nat) (p : Fin 7)
  /-- CP_PARK (R214). The coprocessor computes the Park transform. -/
  | cpPark (dt : Nat) (p : Fin 7)
  /-- CP_IPARK (R214). The coprocessor computes the inverse Park transform. -/
  | cpIpark (dt : Nat) (p : Fin 7)
  /-- CP_RESULT (R216). A running coprocessor instruction finishes and writes its results, or discards them if it was squashed. -/
  | cpResult (dt : Nat) (p : Fin 7)
  /-- DEPUTY_AGREEMENT (R238). Copy A proposes an asynchronous input at a retired-instruction count, and copy B acknowledges it at the
  same count. -/
  | deputyAgreement (dt : Nat) (i : DepInput) (v : Bool)
  /-- DEPUTY_MISMATCH (R240). The Deputy copies present differing accesses; the access is withheld and both copies stop. -/
  | deputyMismatch (dt : Nat) (accA : Option DepAccess) (accB : Option DepAccess) (proposal : Bool)
  /-- DEPUTY_TIMEOUT (R240). No matching access or acknowledgement arrives within 1 µs, which is a mismatch. -/
  | deputyTimeout (dt : Nat) (accA : Option DepAccess) (accB : Option DepAccess) (proposal : Bool)
  /-- DEPUTY_SELF_TEST_DONE (R241). The 38 µs self-test of both Deputy copies ends and the outcome is applied by class. -/
  | deputySelfTestDone (dt : Nat) (passA : Bool) (passB : Bool)
  /-- DEPUTY_RESYNC_DONE (R242). The memory copy from copy A to copy B completes and the Deputy core reset is released. -/
  | deputyResyncDone (dt : Nat)
  /-- CH_ADC_SWTRIG (R43). A write of GO issues one converter start request. -/
  | chAdcSwtrig (dt : Nat) (a : Access) (n : Fin 128) (w : Word)
  /-- FREE_RUN_REQUEST (R44). The free-running interval or a period boundary gives the next converter start request with SRC = 3. -/
  | freeRunRequest (dt : Nat) (n : Fin 128)
  /-- CONVERSION_START_REQUEST (R46). A start request reaches the converter and is accepted, or is discarded as an overrun. -/
  | conversionStartRequest (dt : Nat) (c : Conv)
  /-- SAMPLING_INSTANT (R45). The converter stops tracking at the requested or postponed instant and begins the conversion. -/
  | samplingInstant (dt : Nat) (c : Conv)
  /-- CONVERSION_END (R47). A conversion ends; CH_RESULT and CH_SMP_TIME update and tracking resumes. -/
  | conversionEnd (dt : Nat) (c : Conv) (raw : Code)
  /-- RESULT_DELIVERY (R51). A corrected result reaches the loop engine with its flags. -/
  | resultDelivery (dt : Nat) (n : Fin 128)
  /-- SBY_TAKE_OVER (R59). The take-over command to the standby converter is accepted or refused. -/
  | sbyTakeOver (dt : Nat) (a : Access) (f : Fin 8) (w : Word)
  /-- SBY_RETURN (R59). The return command to the standby converter is accepted or refused. -/
  | sbyReturn (dt : Nat) (a : Access) (f : Fin 8) (w : Word)
  /-- SBY_ABANDON (R59). The abandon command to the standby converter is accepted or refused. -/
  | sbyAbandon (dt : Nat) (a : Access) (f : Fin 8) (w : Word)
  /-- COMPARATOR_INPUT_CROSSING (R61). The input crosses a threshold, which changes the comparator's unfiltered state. -/
  | comparatorInputCrossing (dt : Nat) (n : Fin 128) (k : CmpId) (x : Int)
  /-- COMPARATOR_OUTPUT_CHANGE (R62). The filtered comparator output changes after the filter time. -/
  | comparatorOutputChange (dt : Nat) (n : Fin 128) (k : CmpId)
  /-- COMMIT_ARRIVAL (R66). A commit reaches the edge generator and is applied as an edge, CLAMP or LATE. -/
  | commitArrival (dt : Nat) (n : Fin 128)
  /-- LOOP_RUN_START (R77). A loop engine starts a run and takes its snapshot, or discards the request as an overrun. -/
  | loopRunStart (dt : Nat) (e : Fin 136)
  /-- LEG_WAIT_TIMEOUT (R76). 100 ns pass without every leg's result, and the bridge run starts with LEG_MISS. -/
  | legWaitTimeout (dt : Nat) (e : Fin 136)
  /-- NOP (R86). A loop step that does nothing. -/
  | stNop (dt : Nat) (e : Fin 136)
  /-- END (R86). A loop step that ends the run; held engine-state writes then apply. -/
  | stEnd (dt : Nat) (e : Fin 136)
  /-- MOV (R86). A loop step that copies A to DST. -/
  | stMov (dt : Nat) (e : Fin 136)
  /-- ADD (R86). A loop step that adds with saturation. -/
  | stAdd (dt : Nat) (e : Fin 136)
  /-- SUB (R86). A loop step that subtracts with saturation. -/
  | stSub (dt : Nat) (e : Fin 136)
  /-- NEG (R86). A loop step that negates with saturation. -/
  | stNeg (dt : Nat) (e : Fin 136)
  /-- ABS (R86). A loop step that takes the absolute value with saturation. -/
  | stAbs (dt : Nat) (e : Fin 136)
  /-- MIN (R86). A loop step that takes the signed minimum. -/
  | stMin (dt : Nat) (e : Fin 136)
  /-- MAX (R86). A loop step that takes the signed maximum. -/
  | stMax (dt : Nat) (e : Fin 136)
  /-- LIM (R86). A loop step that limits D between A and B. -/
  | stLim (dt : Nat) (e : Fin 136)
  /-- SHL (R86). A loop step that shifts left with saturation. -/
  | stShl (dt : Nat) (e : Fin 136)
  /-- SHR (R86). A loop step that shifts right arithmetically with rounding. -/
  | stShr (dt : Nat) (e : Fin 136)
  /-- MUL (R86). A loop step that multiplies, then shifts with rounding and saturation. -/
  | stMul (dt : Nat) (e : Fin 136)
  /-- MAC (R86). A loop step that adds a scaled product to ACC. -/
  | stMac (dt : Nat) (e : Fin 136)
  /-- MSU (R86). A loop step that subtracts a scaled product from ACC. -/
  | stMsu (dt : Nat) (e : Fin 136)
  /-- ACLR (R86). A loop step that clears ACC. -/
  | stAclr (dt : Nat) (e : Fin 136)
  /-- ACCA (R86). A loop step that adds A shifted left to ACC. -/
  | stAcca (dt : Nat) (e : Fin 136)
  /-- ACCL (R86). A loop step that loads ACC with A shifted left. -/
  | stAccl (dt : Nat) (e : Fin 136)
  /-- ACLM (R86). A loop step that limits ACC between A and B. -/
  | stAclm (dt : Nat) (e : Fin 136)
  /-- RDA (R86). A loop step that reads ACC, shifted right and saturated, into DST. -/
  | stRda (dt : Nat) (e : Fin 136)
  /-- TBL (R104). A loop step that reads a face table with interpolation. -/
  | stTbl (dt : Nat) (e : Fin 136)
  /-- CLARKE (R98). An XFM step that computes the Clarke transform in W0 to W2. -/
  | stClarke (dt : Nat) (e : Fin 136)
  /-- PARK (R98). An XFM step that computes the Park transform. -/
  | stPark (dt : Nat) (e : Fin 136)
  /-- IPARK (R98). An XFM step that computes the inverse Park transform. -/
  | stIpark (dt : Nat) (e : Fin 136)
  /-- ICLARKE (R98). An XFM step that computes the inverse Clarke transform. -/
  | stIclarke (dt : Nat) (e : Fin 136)
  /-- FWD (R98). An XFM step that computes Clarke then Park. -/
  | stFwd (dt : Nat) (e : Fin 136)
  /-- INV (R98). An XFM step that computes inverse Park then inverse Clarke. -/
  | stInv (dt : Nat) (e : Fin 136)
  /-- SVPWM (R98). An XFM step that computes space-vector duties. -/
  | stSvpwm (dt : Nat) (e : Fin 136)
  /-- SINCOS (R98). An XFM step that writes the cosine and sine of the angle. -/
  | stSincos (dt : Nat) (e : Fin 136)
  /-- CMT (R87). A loop step that commits a duty fraction to a leg. -/
  | stCmt (dt : Nat) (e : Fin 136)
  /-- CMTT (R86). A loop step that commits a tq value to a leg. -/
  | stCmtt (dt : Nat) (e : Fin 136)
  /-- PUB (R91). A loop step that queues a write to a signal, or is dropped when the queue is full. -/
  | stPub (dt : Nat) (e : Fin 136)
  /-- SKC (R86). A loop step that skips the following steps when its condition holds. -/
  | stSkc (dt : Nat) (e : Fin 136)
  /-- AND (R86). A loop step that takes the bitwise AND. -/
  | stAnd (dt : Nat) (e : Fin 136)
  /-- OR (R86). A loop step that takes the bitwise OR. -/
  | stOr (dt : Nat) (e : Fin 136)
  /-- XOR (R86). A loop step that takes the bitwise XOR. -/
  | stXor (dt : Nat) (e : Fin 136)
  /-- BADOP (R86). A reserved opcode executes as NOP and sets BADOP. -/
  | stBadop (dt : Nat) (e : Fin 136)
  /-- ENGINE_STATE_WRITE (R80). A software write to W0 to W7 takes effect, or waits until the run ends. -/
  | engineStateWrite (dt : Nat) (a : Access) (e : Fin 128) (i : Fin 8) (w : Word)
  /-- ACC_LO (R108). A write to ACC_LO is held until ACC_HI is written. -/
  | accLo (dt : Nat) (a : Access) (e : Fin 128) (w : Word)
  /-- ACC_HI (R108). A write to ACC_HI loads the whole of ACC. -/
  | accHi (dt : Nat) (a : Access) (e : Fin 128) (w : Word)
  /-- PUB_QUEUE_DRAIN (R91). An entry of an engine's publish queue drains into the signal table. -/
  | pubQueueDrain (dt : Nat) (e : Fin 136)
  /-- TABLE_WRITE (R100). A write to a table bank is accepted, or is ignored with WR_REJ. -/
  | tableWrite (dt : Nat) (a : Access) (f : Fin 8) (t : Fin 32) (b : Bool) (j : Fin 513) (w : Word)
  /-- OPEN (R101). The OPEN command starts a table rebuild. -/
  | tblOpen (dt : Nat) (a : Access) (f : Fin 8) (t : Fin 32) (w : Word)
  /-- COMMIT (R101). The COMMIT command captures the size and starts the CRC check of the inactive bank. -/
  | tblCommit (dt : Nat) (a : Access) (f : Fin 8) (t : Fin 32) (w : Word)
  /-- ABANDON (R101). The ABANDON command ends a rebuild before the swap. -/
  | tblAbandon (dt : Nat) (a : Access) (f : Fin 8) (t : Fin 32) (w : Word)
  /-- TABLE_CHECK_DONE (R101). The table CRC check ends and sets PASSED or FAIL. -/
  | tableCheckDone (dt : Nat) (f : Fin 8) (t : Fin 32)
  /-- SPR_TAKE_OVER (R106). The take-over command to the spare engine is accepted or refused. -/
  | sprTakeOver (dt : Nat) (a : Access) (f : Fin 8) (w : Word)
  /-- SPR_RETURN (R106). The return command to the spare engine is accepted or refused. -/
  | sprReturn (dt : Nat) (a : Access) (f : Fin 8) (w : Word)
  /-- SPR_ABANDON (R106). The abandon command to the spare engine is accepted or refused. -/
  | sprAbandon (dt : Nat) (a : Access) (f : Fin 8) (w : Word)
  /-- CARRIER_PERIOD_BOUNDARY (R109). A carrier group's count restarts at 0 with its next period length. -/
  | carrierPeriodBoundary (dt : Nat) (g : Fin 32)
  /-- TRAILING_EDGE (R113). The high-side command ends at the trailing edge. -/
  | trailingEdge (dt : Nat) (n : Fin 128)
  /-- OUTPUT_EDGE (R115). A gate output turns on or off after its rising or falling delay. -/
  | outputEdge (dt : Nat) (n : Fin 128) (o : Side)
  /-- EVENT_COMPARE_MATCH (R119). A group's count reaches an event-compare value. -/
  | eventCompareMatch (dt : Nat) (n : Fin 128) (i : Fin 2)
  /-- FLT_ASSERT (R126). CH_FLT_N goes low. -/
  | fltAssert (dt : Nat) (n : Fin 128)
  /-- FLT_DEASSERT (R126). CH_FLT_N goes high. -/
  | fltDeassert (dt : Nat) (n : Fin 128)
  /-- BLANKING_WINDOW_END (R130). A blanking window closes, and a source still active trips. -/
  | blankingWindowEnd (dt : Nat) (n : Fin 128)
  /-- PROT_CLEAR (R135). A clear request of a channel latch is accepted or refused. -/
  | protClear (dt : Nat) (a : Access) (n : Fin 128) (w : Word)
  /-- BRIDGE_CLEAR (R142). A bridge clear is accepted or refused. -/
  | bridgeClear (dt : Nat) (a : Access) (n : Fin 128) (w : Word)
  /-- SAFE_DT_EXPIRY (R140). SAFE_DT after the other output of its leg is off, a safe-pattern output turns on. -/
  | safeDtExpiry (dt : Nat) (n : Fin 128)
  /-- CALIBRATION_DONE (R151). The time-base calibration converges and CAL_OK sets. -/
  | calibrationDone (dt : Nat)
  /-- REF_LOSS (R153). Reference loss is detected; holdover begins and a system reset follows. -/
  | refLoss (dt : Nat)
  /-- REF_VALID (R155). The reference is valid again; the reset is released and the phase is measured. -/
  | refValid (dt : Nat) (phase : Int)
  /-- HOLDOVER_END (R155). The holdover phase has been removed and HOLDOVER clears. -/
  | holdoverEnd (dt : Nat)
  /-- TB_TIME_LO_READ (R149). A read of TB_TIME_LO captures the HI copy for the reading master. -/
  | tbTimeLoRead (dt : Nat) (a : Access)
  /-- TB_VTIME_LO_READ (R149). A read of TB_VTIME_LO captures the HI copy for the reading master. -/
  | tbVtimeLoRead (dt : Nat) (a : Access)
  /-- ANG_TP_LO_READ (R149). A read of ANG_TP_LO captures the HI copy for the reading master. -/
  | angTpLoRead (dt : Nat) (a : Access) (k : Fin 16)
  /-- TB_RATE_WRITE (R156). A write of the standing rate is stored with its limit, or refused in a subordinate. -/
  | tbRateWrite (dt : Nat) (a : Access) (w : Word)
  /-- TB_ADJ_WRITE (R157). A write adds to ADJ_REM with saturation, or is refused in a subordinate. -/
  | tbAdjWrite (dt : Nat) (a : Access) (w : Word)
  /-- TB_STEP (R158). A time step loads device time, or is refused. -/
  | tbStep (dt : Nat) (a : Access) (w : Word)
  /-- TB_VT_OFS_HI_WRITE (R159). A write to the HI half loads VT_OFS with the held LO half. -/
  | tbVtOfsHiWrite (dt : Nat) (a : Access) (w : Word)
  /-- ADJ_DRAINED (R156). ADJ_REM reaches zero and the slew term ends. -/
  | adjDrained (dt : Nat)
  /-- TA_HI_WRITE (R162). A write to TA_HI loads an alarm target and arms the alarm if it is enabled. -/
  | taHiWrite (dt : Nat) (a : Access) (i : Fin 16) (w : Word)
  /-- TA_CTL_WRITE (R162). Setting EN arms the alarm, which fires late at once if its target has passed. -/
  | taCtlWrite (dt : Nat) (a : Access) (i : Fin 16) (w : Word)
  /-- TIMER_ALARM_FIRE (R162). Device time reaches an alarm target and the alarm fires. -/
  | timerAlarmFire (dt : Nat) (i : Fin 16)
  /-- CASC_LOCK_ACQUIRED (R160). A subordinate's device time comes within ±40 ps of the master's time. -/
  | cascLockAcquired (dt : Nat)
  /-- ANG_PULSE (R165). A filtered edge arrives at ANG_IN and is timestamped, or is ignored as noise. -/
  | angPulse (dt : Nat) (k : Fin 16) (level : Bool)
  /-- ANG_PULSE_ACTION (R166). The tracker classifies and acts on a pulse after its delay. -/
  | angPulseAction (dt : Nat) (k : Fin 16)
  /-- COAST (R167). No tooth arrives within 1.6 × s × Tp and COAST sets. -/
  | coast (dt : Nat) (k : Fin 16)
  /-- ANG_STALL (R168). The interval exceeds COAST_LIM and the tracker enters STALL. -/
  | angStall (dt : Nat) (k : Fin 16)
  /-- ANG_PUBLISH (R170). The publishing interval expires and the tracker writes its angle signal. -/
  | angPublish (dt : Nat) (k : Fin 16)
  /-- AEV_FIRE (R171). An angle slot fires at its scheduled instant. -/
  | aevFire (dt : Nat) (i : Fin 64)
  /-- ENC_OUTPUT_EDGE (R173). An encoder emulator output changes as the angle crosses a threshold, or in a burst. -/
  | encOutputEdge (dt : Nat) (e : Fin 8)
  /-- SIGNAL_VALUE_WRITE (R177). The signal table accepts or refuses a write to a signal value. -/
  | signalValueWrite (dt : Nat) (a : Access) (i : Fin 131072) (w : Word)
  /-- SIGNAL_STATUS_WRITE (R178). A word write to the status region sets QUAL of owned signals. -/
  | signalStatusWrite (dt : Nat) (a : Access) (i : Fin 32768) (w : Word)
  /-- BOUND_INPUT_LOAD (R90). An accepted signal write loads a bound input of a loop engine. -/
  | boundInputLoad (dt : Nat) (e : Fin 128) (i : Fin 16)
  /-- PUBLISH_QUEUE_SEND (R181). The shaft link sends queued signal updates to the peers. -/
  | publishQueueSend (dt : Nat)
  /-- MARKED_RESEND (R182). Marked signals enter the publish queue once it has room. -/
  | markedResend (dt : Nat)
  /-- SIGNAL_REFRESH (R182). The refresh interval expires and every published owned signal is sent. -/
  | signalRefresh (dt : Nat)
  /-- SIGNAL_AGE_EXPIRY (R183). A copy's age exceeds the limit and the copy turns stale. -/
  | signalAgeExpiry (dt : Nat) (i : Fin 131072)
  /-- FEV_EVENT (R188). A face-local event channel passes or gates a producer's event. -/
  | fevEvent (dt : Nat) (f : Fin 8) (j : Fin 64)
  /-- GEV_EVENT (R190). A global event channel passes an event. -/
  | gevEvent (dt : Nat) (j : Fin 256)
  /-- FACE_FEV_FIRE (R189). A software write fires face-local event channels. -/
  | faceFevFire (dt : Nat) (a : Access) (f : Fin 8) (i : Fin 2) (w : Word)
  /-- GEV_FIRE (R189). A software write fires global event channels. -/
  | gevFire (dt : Nat) (a : Access) (i : Fin 8) (w : Word)
  /-- STAGING_WRITE (R196). A write to an ST-typed word lands in the staging copy, or is refused. -/
  | stagingWrite (dt : Nat) (a : Access) (addr : Word) (w : Word)
  /-- CHECK (R198). The CHECK command starts the consistency check, or is refused. -/
  | stgCheckCmd (dt : Nat) (a : Access) (w : Word)
  /-- ARM (R199). The ARM command starts the arm evaluation, or is refused. -/
  | stgArmCmd (dt : Nat) (a : Access) (w : Word)
  /-- CANCEL (R203). The CANCEL command cancels an armed shift change. -/
  | stgCancelCmd (dt : Nat) (a : Access) (w : Word)
  /-- DISCARD (R203). The DISCARD command empties the staging copy, or is refused. -/
  | stgDiscardCmd (dt : Nat) (a : Access) (w : Word)
  /-- CHECK_DONE (R198). The consistency check completes with PASS or FAIL. -/
  | stgCheckDone (dt : Nat)
  /-- ARM_DONE (R199). The arm evaluation completes; ARMED sets with apply instant A, or rules 14 to 16 fail. -/
  | stgArmDone (dt : Nat)
  /-- SHIFT_CHANGE_APPLY (R204). At A, every staged value becomes active at once. -/
  | shiftChangeApply (dt : Nat)
  /-- CASC_CONFIRM_TIMEOUT (R206). A device does not confirm within 20 µs, so rule 16 fails and no device arms. -/
  | cascConfirmTimeout (dt : Nat)
  /-- INT_DOORBELL (R247). A doorbell write raises an interrupt source as one edge event, or is refused. -/
  | intDoorbell (dt : Nat) (a : Access) (w : Word)
  /-- INT_PEND_WRITE (R248). A write of 1 clears PENDING bits, emptying their counts. -/
  | intPendWrite (dt : Nat) (a : Access) (i : Fin 128) (w : Word)
  /-- SRC_CFG_WRITE (R254). A write configures a source, with the world restrictions. -/
  | srcCfgWrite (dt : Nat) (a : Access) (i : Fin 4096) (w : Word)
  /-- COALESCE_TIMEOUT (R249). The coalescing time limit expires and a pending source becomes ready. -/
  | coalesceTimeout (dt : Nat) (i : Fin 4096)
  /-- TGT_COMPLETE (R252). A completion write clears ACTIVE and re-samples the source, or is refused. -/
  | tgtComplete (dt : Nat) (a : Access) (t : Fin 7) (w : Word)
  /-- DMA_CFG_WRITE (R258). A write configures a DMA channel and sets its WORLD. -/
  | dmaCfgWrite (dt : Nat) (a : Access) (c : Fin 64) (w : Word)
  /-- DMA_START (R260). START checks the configuration and starts the channel. -/
  | dmaStart (dt : Nat) (a : Access) (c : Fin 64) (w : Word)
  /-- DMA_STOP (R267). STOP stops the issue of new reads. -/
  | dmaStop (dt : Nat) (a : Access) (c : Fin 64) (w : Word)
  /-- DMA_FLUSH (R263). FLUSH drains the source queue once. -/
  | dmaFlush (dt : Nat) (a : Access) (c : Fin 64) (w : Word)
  /-- DMA_POINTER_WRITE (R262). A write to PUT or TAKE re-evaluates the pacing machine. -/
  | dmaPointerWrite (dt : Nat) (a : Access) (c : Fin 64) (put : Bool) (w : Word)
  /-- DMA_REQUEST (R261). A GEV event requests a transfer, or is lost as an overrun. -/
  | dmaRequest (dt : Nat) (c : Fin 64)
  /-- DMA_BURST_ISSUE (R269). An engine reserves buffer space and issues the next burst. -/
  | dmaBurstIssue (dt : Nat) (write : Bool)
  /-- DMA_READ_RESPONSE (R268). A read response returns, or an error stops the channel. -/
  | dmaReadResponse (dt : Nat) (c : Fin 64)
  /-- DMA_WRITE_RESPONSE (R266). A write response returns; buffer space is released and the transfer may complete. -/
  | dmaWriteResponse (dt : Nat) (c : Fin 64)
  /-- DMA_DESCRIPTOR_READ (R265). A scatter-gather descriptor is read and checked. -/
  | dmaDescriptorRead (dt : Nat) (c : Fin 64)
  /-- SCRUB_READ (R285). The scrubber reads a word or codeword and writes back any correction. -/
  | scrubRead (dt : Nat) (i : Fin 20)
  /-- TALLY_HELD_REPORT (R288). A held report enters the input queue once it has room. -/
  | tallyHeldReport (dt : Nat)
  /-- TALLY_TAKE (R289). Tally takes a report and merges it or makes a new entry. -/
  | tallyTake (dt : Nat)
  /-- TALLY_TAIL (R290). A TAIL write frees log entries, or is ignored. -/
  | tallyTail (dt : Nat) (a : Access) (w : Word)
  /-- TALLY_SAFE_WRITE (R293). A write to TALLY_SAFE clears set bits inside the release window, or is refused. -/
  | tallySafeWrite (dt : Nat) (a : Access) (w : Word)
  /-- TUB_CFG (R296). A write defines the pool and frees every buffer, or is refused. -/
  | tubCfg (dt : Nat) (a : Access) (w : Word)
  /-- TUB_ALLOC (R298). A read allocates and tags a buffer. -/
  | tubAlloc (dt : Nat) (a : Access)
  /-- TUB_FREE (R299). A write returns a buffer to the free list, or is rejected. -/
  | tubFree (dt : Nat) (a : Access) (w : Word)
  /-- TUB_GIVE (R300). A write retags a buffer, or is rejected. -/
  | tubGive (dt : Nat) (a : Access) (w : Word)
  /-- SIGNAL_LANE_RECORD (R304). A pending signal-lane record is written 400 ns after the latest record. -/
  | signalLaneRecord (dt : Nat) (l : Fin 32)
  /-- TRIGGER_CONDITION (R308). A condition reaches the lane and names a trigger record. -/
  | triggerCondition (dt : Nat) (l : Fin 32) (j : Fin 4)
  /-- SWTRIG (R307). A write of SWTRIG meets software condition C4. -/
  | swtrig (dt : Nat) (a : Access) (l : Fin 32) (w : Word)
  /-- REL (R319). A write of REL releases the oldest committed segments. -/
  | rel (dt : Nat) (a : Access) (l : Fin 32) (w : Word)
  /-- REARM_END (R309). The re-arm time expires; the lane starts a queued core or arms. -/
  | rearmEnd (dt : Nat) (l : Fin 32)
  /-- LANE_ENABLE (R328). Setting EN checks the lane's configuration and starts recording. -/
  | laneEnable (dt : Nat) (a : Access) (l : Fin 32) (w : Word)
  /-- LANE_DISABLE (R312). Clearing EN stops recording and truncates the running core. -/
  | laneDisable (dt : Nat) (a : Access) (l : Fin 32) (w : Word)
  /-- DRAIN_WRITE (R315). The output path writes a codeword or a header to the store. -/
  | drainWrite (dt : Nat) (l : Fin 32)
  /-- PATH_WRITE_DONE (R321). A store write counts as done after a read-back or an ACK. -/
  | pathWriteDone (dt : Nat) (l : Fin 32)
  /-- CORER_ACK (R325). An ACK datagram advances the acknowledged sequence. -/
  | corerAck (dt : Nat) (m : Fin 2) (seq : Word)
  /-- CORER_RTO (R325). The retransmission timeout expires and unacknowledged datagrams are resent, or the path stops. -/
  | corerRto (dt : Nat) (m : Fin 2)
  /-- PATH_ERR_CLEAR (R325). Clearing PATH_ERR restarts the Ethernet path. -/
  | pathErrClear (dt : Nat) (a : Access) (w : Word)
  /-- GO (R326). A write of GO starts a store read-back. -/
  | go (dt : Nat) (a : Access) (w : Word)
  /-- STORE_READ_DONE (R326). A store read-back completes with its RESULT. -/
  | storeReadDone (dt : Nat) (reply : PathReply)
  /-- MODE_REQUEST_RUN (R332). A request for RUN is accepted or refused. -/
  | modeRequestRun (dt : Nat) (a : Access) (w : Word)
  /-- MODE_REQUEST_LIMP (R332). A request for LIMP sets LIMP_CAUSE.SW. -/
  | modeRequestLimp (dt : Nat) (a : Access) (w : Word)
  /-- MODE_REQUEST_HOLD (R332). A request for HOLD enters HOLD. -/
  | modeRequestHold (dt : Nat) (a : Access) (w : Word)
  /-- MODE_REQUEST_PARK (R341). A request for PARK is accepted or refused. -/
  | modeRequestPark (dt : Nat) (a : Access) (w : Word)
  /-- SAFE_N_ASSERT (R334). SAFE_N is recognised low and triggers HOLD. -/
  | safeNAssert (dt : Nat) (low : Bool)
  /-- RELEASE_OPEN (R338). KEY 0x52 opens the release window, or is refused. -/
  | releaseOpen (dt : Nat) (a : Access) (w : Word)
  /-- RELEASE_COMPLETE (R339). KEY 0x53 completes the HOLD release, or is refused. -/
  | releaseComplete (dt : Nat) (a : Access) (w : Word)
  /-- RELEASE_WINDOW_EXPIRY (R338). The 10 ms release window expires. -/
  | releaseWindowExpiry (dt : Nat)
  /-- PARK_ENTRY (R341). Every running core has stopped at WAIT, and the device enters PARK. -/
  | parkEntry (dt : Nat)
  /-- PARK_TIMEOUT (R341). PARK entry times out after 10 ms and PARK_TO sets. -/
  | parkTimeout (dt : Nat)
  /-- WAKE (R343). A wake source ends PARK and the cores continue. -/
  | wake (dt : Nat) (src : WakeSource)
  /-- POWER_ON (R344). All supplies rise past their thresholds and every domain is reset. -/
  | powerOn (dt : Nat) (role : BitVec 2) (id : Fin 8)
  /-- BROWN_OUT (R430). A monitored supply stays below its falling threshold and a power-on-level reset occurs. -/
  | brownOut (dt : Nat) (sup : Supply)
  /-- RESET_N_ASSERT (R344). RESET_N is recognised low and causes a system reset. -/
  | resetNAssert (dt : Nat)
  /-- SOFTWARE_SYSTEM_RESET (R344). RST_REQ with SYS set requests a system reset. -/
  | softwareSystemReset (dt : Nat) (a : Access) (w : Word)
  /-- SOFTWARE_CORE_RESET (R344). RST_REQ with core bits set requests core resets. -/
  | softwareCoreReset (dt : Nat) (a : Access) (w : Word)
  /-- CORE_START (R218). A core released from reset starts at its reset entry. -/
  | coreStart (dt : Nat) (p : Fin 7)
  /-- LOAD_START (R345). LOAD begins after the reset source ends. -/
  | loadStart (dt : Nat) (otp : Otp)
  /-- LOAD_SLOT_CHECK (R356). LOAD judges both slots' headers and tables and chooses a slot. -/
  | loadSlotCheck (dt : Nat) (slotA : List (List Byte)) (slotB : List (List Byte))
  /-- LOAD_SECTIONS_DONE (R358). LOAD has read and checked every section and applies the settings. -/
  | loadSectionsDone (dt : Nat) (slotA : List (List Byte)) (slotB : List (List Byte))
  /-- MODE_ENTRY (R359). At E, the mode chosen by R333 is entered and the groups and cores start. -/
  | modeEntry (dt : Nat)
  /-- WDOG_KICK (R348). A kick write to the device watchdog is accepted or ignored. -/
  | wdogKick (dt : Nat) (a : Access) (w : Word)
  /-- DEVICE_WATCHDOG_EXPIRY (R348). The device watchdog expires and causes a system reset. -/
  | deviceWatchdogExpiry (dt : Nat)
  /-- CWDOG_ENABLE (R349). Setting EN starts a core watchdog. -/
  | cwdogEnable (dt : Nat) (p : Fin 7) (a : Access) (w : Word)
  /-- CWDOG_KICK (R349). A write restarts the core watchdog timeout. -/
  | cwdogKick (dt : Nat) (p : Fin 7) (a : Access) (w : Word)
  /-- CORE_WATCHDOG_EXPIRY (R349). A core watchdog expires and causes a core reset. -/
  | coreWatchdogExpiry (dt : Nat) (p : Fin 7)
  /-- UPDATE_WINDOW_WRITE (R362). A write to the update area clears SECT_OK, and HDR_OK in the header bytes. -/
  | updateWindowWrite (dt : Nat) (a : Access) (ofs : Fin 32768) (w : Word)
  /-- VERIFY_HDR (R363). The VERIFY_HDR command starts the header check. -/
  | verifyHdr (dt : Nat) (a : Access) (w : Word)
  /-- VERIFY_SECT (R364). The VERIFY_SECT command starts the section digest check. -/
  | verifySect (dt : Nat) (a : Access) (w : Word)
  /-- STAGE (R365). The STAGE command stages a verified section. -/
  | updStage (dt : Nat) (a : Access) (w : Word)
  /-- CLEAR (R365). The CLEAR command clears HDR_OK, SECT_OK and PEND. -/
  | updClear (dt : Nat) (a : Access) (w : Word)
  /-- VERIFY_HDR_DONE (R363). The header check completes with HDR_OK or an error. -/
  | verifyHdrDone (dt : Nat)
  /-- VERIFY_SECT_DONE (R364). The section check completes with SECT_OK or an error. -/
  | verifySectDone (dt : Nat)
  /-- STAGE_DONE (R365). STAGE completes, setting PEND and for a Hewer CODE section VERIFIED. -/
  | updStageDone (dt : Nat)
  /-- SLICE_DUE (R371). The sequencer interval expires and a slice falls due. -/
  | sliceDue (dt : Nat) (y : Fin 5)
  /-- TS_REQ_GO (R371). A write of GO starts one slice, or is refused. -/
  | tsReqGo (dt : Nat) (a : Access) (w : Word)
  /-- SLICE_END (R370). A slice ends, restores its unit, and reports a pass or a failure. -/
  | sliceEnd (dt : Nat) (y : Fin 5) (passA : Bool) (passB : Bool)
  /-- SLICE_QUIESCE_TIMEOUT (R372). No qualifying QUIESCE follows within 10 ms and the slice is skipped. -/
  | sliceQuiesceTimeout (dt : Nat) (y : Fin 5)
  /-- SLICE_GRANT_TIMEOUT (R380). No grant arrives within 1 ms and the slice is skipped. -/
  | sliceGrantTimeout (dt : Nat)
  /-- LOOPBACK_MISMATCH (R375). A gate pin differs from its commanded level for 50 ns. -/
  | loopbackMismatch (dt : Nat) (n : Fin 128) (o : Side)
  /-- CANARY_MEASUREMENT (R381). The Canary measures FVREF and the face supplies and updates its flags. -/
  | canaryMeasurement (dt : Nat) (f : Fin 8) (q : CanaryQty) (mv : Nat) (code : Nat)
  /-- SERVICE_WITHDRAW (R383). A withdrawal command for a bridge, face or Hewer is accepted, waits or is refused. -/
  | serviceWithdraw (dt : Nat) (a : Access) (w : Word)
  /-- SERVICE_RETURN (R383). A return command for a withdrawn unit is accepted, waits or is refused. -/
  | serviceReturn (dt : Nat) (a : Access) (w : Word)
  /-- DEBUG_ACCESS_ENABLE (R385). Enabling debug or scan access clears the secrets first. -/
  | debugAccessEnable (dt : Nat) (scan : Bool)
  /-- LANE_LOCK (R390). A shaft-link lane locks after 64 valid sync headers. -/
  | laneLock (dt : Nat) (u : Fin 2) (lane : Fin 2)
  /-- LANE_UNLOCK (R390). A shaft-link lane unlocks after 16 invalid headers in 64. -/
  | laneUnlock (dt : Nat) (u : Fin 2) (lane : Fin 2)
  /-- PORT_TIMEOUT (R390). No valid block arrives for 1 µs and the port goes DOWN. -/
  | portTimeout (dt : Nat) (u : Fin 2)
  /-- IDLE (R391). An IDLE block announces the neighbour's position and may bring the port UP. -/
  | shlIdle (dt : Nat) (u : Fin 2) (b1 : Byte)
  /-- TIME (R404). A TIME block carries the sender's device time for steering. -/
  | shlTime (dt : Nat) (u : Fin 2) (t48 : BitVec 48) (hops : Fin 8) (locked : Bool)
  /-- CAL (R403). A CAL request is echoed, or an echo updates the path delay. -/
  | shlCal (dt : Nat) (u : Fin 2) (c : CalBlock)
  /-- WAKE_BLOCK (R406). A WAKE block wakes a parked subordinate, which repeats it. -/
  | wakeBlock (dt : Nat) (u : Fin 2)
  /-- ABORT (R399). An ABORT block discards the open frame of its class. -/
  | shlAbort (dt : Nat) (u : Fin 2) (express : Bool) (copied : Bool)
  /-- SIG (R181). A SIG frame delivers signal updates to the peer's copies. -/
  | frameSig (dt : Nat) (u : Fin 2) (fr : Frame)
  /-- GEV (R191). A GEV frame fires remotely driven GEVs. -/
  | frameGev (dt : Nat) (u : Fin 2) (fr : Frame)
  /-- HEARTBEAT (R401). A HEARTBEAT frame updates presence and LOST. -/
  | frameHeartbeat (dt : Nat) (u : Fin 2) (fr : Frame) (master : Bool)
  /-- GMARK (R405). A GMARK frame gives a sync instant to subordinate groups. -/
  | frameGmark (dt : Nat) (u : Fin 2) (fr : Frame)
  /-- STG_CHECK (R205). A STG_CHECK frame runs the check in a subordinate. -/
  | frameStgCheck (dt : Nat) (u : Fin 2) (fr : Frame)
  /-- STG_RESULT (R205). A STG_RESULT frame reports a device's check outcome to the master. -/
  | frameStgResult (dt : Nat) (u : Fin 2) (fr : Frame)
  /-- STG_GROUP (R206). A STG_GROUP frame reports a running group to the master. -/
  | frameStgGroup (dt : Nat) (u : Fin 2) (fr : Frame)
  /-- STG_APPLY (R206). A STG_APPLY frame sends A to a device. -/
  | frameStgApply (dt : Nat) (u : Fin 2) (fr : Frame)
  /-- STG_CONFIRM (R206). A STG_CONFIRM frame confirms A to the master. -/
  | frameStgConfirm (dt : Nat) (u : Fin 2) (fr : Frame)
  /-- STG_COMMIT (R206). A STG_COMMIT frame arms the device. -/
  | frameStgCommit (dt : Nat) (u : Fin 2) (fr : Frame)
  /-- STG_CANCEL (R207). A STG_CANCEL frame cancels an armed cascade shift change. -/
  | frameStgCancel (dt : Nat) (u : Fin 2) (fr : Frame)
  /-- TS_REQ (R380). A TS_REQ frame asks the master for a slice grant. -/
  | frameTsReq (dt : Nat) (u : Fin 2) (fr : Frame)
  /-- TS_GRANT (R380). A TS_GRANT frame grants or refuses a slice. -/
  | frameTsGrant (dt : Nat) (u : Fin 2) (fr : Frame)
  /-- WR (R400). A WR frame performs a remote write and answers with WR_RSP. -/
  | frameWr (dt : Nat) (u : Fin 2) (fr : Frame)
  /-- RD (R400). A RD frame performs a remote read and answers with RD_RSP. -/
  | frameRd (dt : Nat) (u : Fin 2) (fr : Frame)
  /-- RD_RSP (R400). A RD_RSP frame completes a remote read. -/
  | frameRdRsp (dt : Nat) (u : Fin 2) (fr : Frame)
  /-- WR_RSP (R400). A WR_RSP frame completes a remote write. -/
  | frameWrRsp (dt : Nat) (u : Fin 2) (fr : Frame)
  /-- FRAME_TRANSMIT (R398). A port sends the next frame in express-first order. -/
  | frameTransmit (dt : Nat) (u : Fin 2)
  /-- PARTIAL_FRAME_TIMEOUT (R399). A partial frame is held for 2 µs, then discarded. -/
  | partialFrameTimeout (dt : Nat) (u : Fin 2) (express : Bool) (copied : Bool)
  /-- REMOTE_ACCESS_TIMEOUT (R400). No response arrives within 100 µs and the access completes with an error. -/
  | remoteAccessTimeout (dt : Nat) (tag : BitVec 16)
  /-- HEARTBEAT_SEND (R401). A device sends its HEARTBEAT every 10 µs. -/
  | heartbeatSend (dt : Nat)
  /-- PRESENCE_TIMEOUT (R401). LOST_HB intervals pass without a heartbeat and PRESENT clears. -/
  | presenceTimeout (dt : Nat) (d : Fin 8)
  /-- ISOLATION (R402). No master heartbeat arrives for LOST_HB intervals and the subordinate is isolated. -/
  | isolation (dt : Nat)
  /-- ISOLATION_HOLD_EXPIRY (R402). The isolation hold timer expires and the ISOL trigger fires. -/
  | isolationHoldExpiry (dt : Nat)
  /-- CAL_REQUEST_SEND (R403). A device sends a CAL request on SHU every 1 ms. -/
  | calRequestSend (dt : Nat)
  /-- TIME_BLOCK_SEND (R404). TIME blocks are sent on both ports every 1 µs. -/
  | timeBlockSend (dt : Nat)
  /-- SHL_WAKE (R406). A write of WAKE in the master sends WAKE blocks for 100 µs. -/
  | shlWake (dt : Nat) (a : Access) (w : Word)
  /-- MAC_FRAME_RECEIVE (R408). A MAC receives a frame and queues it, discards it, or passes it to the Corer. -/
  | macFrameReceive (dt : Nat) (m : Fin 2) (bytes : List Byte)
  /-- MAC_FRAME_TRANSMIT (R409). A MAC sends a frame from a transmit queue by strict priority and shaping. -/
  | macFrameTransmit (dt : Nat) (m : Fin 2)
  /-- RING_ENABLE (R410). Enabling a descriptor ring restarts it at index 0. -/
  | ringEnable (dt : Nat) (a : Access) (m : Fin 2) (rx : Bool) (q : Fin 8) (w : Word)
  /-- MAC_LINK_CHANGE (R407). The auto-negotiation code word changes the link status. -/
  | macLinkChange (dt : Nat) (m : Fin 2) (up : Bool)
  /-- PCIE_INBOUND_ACCESS (R413). The host accesses BAR0 or BAR2 as a Bank-world access. -/
  | pcieInboundAccess (dt : Nat) (sp : PcieSpace) (write : Bool) (ofs : Word) (size : Nat) (w : Word)
  /-- PCIE_OUTBOUND_COMPLETION (R414). An outbound read completion or confirming read returns. -/
  | pcieOutboundCompletion (dt : Nat) (tag : BitVec 16) (reply : PathReply)
  /-- PCIE_COMPLETION_TIMEOUT (R414). No completion arrives within CTO ms and the access completes with an error. -/
  | pcieCompletionTimeout (dt : Nat) (tag : BitVec 16)
  /-- PCIE_MSIX_SEND (R415). A write sends an MSI-X vector. -/
  | pcieMsixSend (dt : Nat) (a : Access) (w : Word)
  /-- PCIE_LINK_CHANGE (R412). The PCIe link changes state. -/
  | pcieLinkChange (dt : Nat) (up : Bool) (gen : Fin 8) (width : Fin 4)
  /-- CAN_CTL_ENABLE (R416). An EN write joins the bus, or is refused with CFG_ERR. -/
  | canCtlEnable (dt : Nat) (a : Access) (i : Fin 4) (w : Word)
  /-- CAN_TXREQ (R417). A write requests the transmission of buffers. -/
  | canTxreq (dt : Nat) (a : Access) (i : Fin 4) (w : Word)
  /-- CAN_TXABORT (R417). A write withdraws unsent transmit requests. -/
  | canTxabort (dt : Nat) (a : Access) (i : Fin 4) (w : Word)
  /-- CAN_RXPOP (R417). A write discards the FIFO head. -/
  | canRxpop (dt : Nat) (a : Access) (i : Fin 4) (w : Word)
  /-- CAN_FRAME_RECEIVE (R417). A received frame passes the filters and enters the FIFO, or is discarded. -/
  | canFrameReceive (dt : Nat) (i : Fin 4) (fr : CanFrame) (age : Nat)
  /-- CAN_FRAME_SENT (R417). A transmit buffer is sent. -/
  | canFrameSent (dt : Nat) (i : Fin 4)
  /-- CAN_BUS_OFF (R417). The controller goes bus-off and reports. -/
  | canBusOff (dt : Nat) (i : Fin 4)
  /-- XSPI_READ (R419). A read command to the flash. -/
  | xspiRead (dt : Nat) (a : Access) (w : Word)
  /-- XSPI_WRITE (R419). A write command to the flash. -/
  | xspiWrite (dt : Nat) (a : Access) (w : Word)
  /-- XSPI_PROGRAM (R419). A program command to the flash, refused in the live slot. -/
  | xspiProgram (dt : Nat) (a : Access) (w : Word)
  /-- XSPI_ERASE (R419). An erase command to the flash, refused in the live slot. -/
  | xspiErase (dt : Nat) (a : Access) (w : Word)
  /-- XSPI_COMMAND_DONE (R419). A flash command completes and DONE sets. -/
  | xspiCommandDone (dt : Nat) (bytes : List Byte)
  /-- GSPI_TXD (R421). A write pushes a frame into the gate-driver SPI transmit queue. -/
  | gspiTxd (dt : Nat) (a : Access) (f : Fin 8) (w : Word)
  /-- GSPI_RX (R421). A read pops the oldest response. -/
  | gspiRx (dt : Nat) (a : Access) (f : Fin 8)
  /-- GSPI_FRAME_DONE (R421). A gate-driver SPI frame completes and its response is queued. -/
  | gspiFrameDone (dt : Nat) (f : Fin 8) (resp : Word)
  /-- GSPI_POLL (R422). The poll interval expires and the poll word is sent and checked. -/
  | gspiPoll (dt : Nat) (f : Fin 8) (c : Fin 4) (resp : Word)
  /-- DAP_READ (R424). A DAP read through the local map of processor p. -/
  | dapRead (dt : Nat) (p : Fin 7) (wd : World) (addr : Word)
  /-- DAP_WRITE (R424). A DAP write through the local map of processor p. -/
  | dapWrite (dt : Nat) (p : Fin 7) (wd : World) (addr : Word) (w : Word)
  /-- DAP_STATUS (R424). A DAP status operation returns CORE_STATUS of p. -/
  | dapStatus (dt : Nat) (p : Fin 7)
  /-- DAP_HALT (R424). A DAP control operation halts processor p. -/
  | dapHalt (dt : Nat) (p : Fin 7)
  /-- DAP_RESUME (R424). A DAP control operation resumes processor p. -/
  | dapResume (dt : Nat) (p : Fin 7)
  /-- DAP_SINGLE_STEP (R424). A DAP control operation single-steps processor p. -/
  | dapSingleStep (dt : Nat) (p : Fin 7)
  /-- DAP_WAKE_REQUEST (R424). A DAP control operation requests a wake from PARK. -/
  | dapWakeRequest (dt : Nat)
  /-- DAP_SYSTEM_RESET (R424). A DAP control operation requests a system reset. -/
  | dapSystemReset (dt : Nat)
  /-- IDCODE (R423). The IDCODE instruction selects the 32-bit IDCODE register. -/
  | jtagIdcode (dt : Nat)
  /-- SAMPLE_PRELOAD (R423). The SAMPLE/PRELOAD instruction selects the boundary-scan chain. -/
  | jtagSamplePreload (dt : Nat)
  /-- EXTEST (R423). The EXTEST instruction drives the pins from the chain, only under the scan conditions. -/
  | jtagExtest (dt : Nat)
  /-- HIGHZ (R423). The HIGHZ instruction floats the outputs, only under the scan conditions. -/
  | jtagHighz (dt : Nat)
  /-- CLAMP (R423). The CLAMP instruction holds the outputs, only under the scan conditions. -/
  | jtagClamp (dt : Nat)
  /-- SCAN (R423). The SCAN instruction selects internal scan, only under the scan conditions. -/
  | jtagScan (dt : Nat)
  /-- BYPASS (R423). The BYPASS instruction selects the 1-bit bypass register. -/
  | jtagBypass (dt : Nat)
  /-- REFERENCE_SELECT (R150). 1 ms after power-good the device keeps REFCLK_IN if a clock toggled on it, and otherwise enables the
  crystal oscillator and records REF_SRC. -/
  | referenceSelect (dt : Nat) (toggling : Bool)
  /-- FIRST_REFERENCE_VALID (R147). The selected reference first becomes valid after power-on, device time starts counting and the 2 ms
  calibration begins. -/
  | firstReferenceValid (dt : Nat)
  /-- FVREF_READY (R438). A face's FVREF settles after VDDA_F rises and FACE_VREF_STAT.READY sets, which LOAD step 6 waits for. -/
  | fvrefReady (dt : Nat) (f : Fin 8)
  /-- AEV_REARM (R171). The extrapolated angle of the slot's tracker advances 2^23 beyond the slot angle and the slot is armed again. -/
  | aevRearm (dt : Nat) (i : Fin 64)
  /-- SCRUB_PASS_OVERRUN (R284). A scrub pass has not finished when its PERIOD runs out; LAG sets and the next pass follows at once. -/
  | scrubPassOverrun (dt : Nat) (i : Fin 20)
  /-- UNKNOWN_CONTROL_BLOCK (R391). A shaft-link control block of an unlisted type arrives, is discarded and sets BAD_BLK. -/
  | unknownControlBlock (dt : Nat) (u : Fin 2) (b0 : Byte)
  /-- UNKNOWN_FRAME_TYPE (R393). A shaft-link frame of an unlisted type arrives, is discarded and sets BAD_BLK. -/
  | unknownFrameType (dt : Nat) (u : Fin 2) (fr : Frame)
  /-- CAN_BUS_ERROR (R416). A CAN controller detects a bus error, its error counters change, and PASSIVE and ERR_CHG may change. -/
  | canBusError (dt : Nat) (i : Fin 4) (rec : Fin 256) (tec : Fin 256)
  /-- CAN_BUS_OFF_RECOVERY (R417). With AUTO_REC set, a bus-off controller completes its recovery as the standard allows, BUS_OFF clears
  and ERR_CHG sets. -/
  | canBusOffRecovery (dt : Nat) (i : Fin 4)
  /-- TEST_LOGIC_RESET (R423). The test access port enters test-logic reset through TRST_N or TMS, and IDCODE is selected. -/
  | testLogicReset (dt : Nat)
  deriving DecidableEq, Repr

end Sys2Proof
end

