-- ==== Sys2Proof/Decode.lean ====
section
/-! DEFINITION. The opcode table gives no row any bits: the commands of this block are register accesses and events, and no
word spells one. The decoder therefore reads no command from a word. -/

namespace Sys2Proof

/-- The command a word of `nbits` bits spells by the table's bits: none, since no row has bits. -/
def decodeTableWord (nbits w : Nat) : Option Instr :=
  match nbits, w with
  | _, _ => none

end Sys2Proof
end

