-- ==== Sys2Proof/Config.lean ====
section
/-! DEFINITION. The free values: what the manual leaves undefined or states only within a bound. Each is an opaque
constant with no body, so no proof can rest on a value of it; log entry 5 lists them with the rules that leave them open. -/

namespace Sys2Proof

/-- The undefined word of the `n`-th undefined access (R6, R7, R446). -/
opaque Config.freeWord : Nat → BitVec 32

/-- The undefined choice of the `n`-th undefined access: whether a register that acts, acts (R446). -/
opaque Config.freeBit : Nat → Bool

/-- The error of a transform result against the exact value, in units of 2^-40 of full scale (R99); every use limits it to
the bound the rule gives. -/
opaque Config.approxError : Nat → Int

/-- The departure of device time from reference time over an interval, in tq, while the time base is not calibrated
(R151) or runs in holdover (R154); every use limits it to the bound the rule gives. -/
opaque Config.rateError : Nat → Nat → Int

/-- Whether the effective rate, shown in units of 2^-32 (TB_EFF_RATE), is rounded up from the exact ppm figure. -/
opaque Config.rhoRoundsUp : Int → Bool

/-- Whether a tooth period that is no whole number of tq is taken upwards (R166): its dividend and divisor. -/
opaque Config.periodRoundsUp : Int → Nat → Bool

/-- Which of several staged words that take part in a failing rule STG_FAIL_ADDR names (R198). -/
opaque Config.pick : Nat → Nat

/-- The result word of a coprocessor instruction on given operands (R215), and its result where the manual states none; every
use limits it to the bound the rule gives. -/
opaque Config.coproc : Nat → BitVec 32

/-- Whether the `n`-th codeword of the page code found with more than t errors is miscorrected without report (R281). -/
opaque Config.miscorrect : Nat → Bool

/-- The core, if any, in whose local map LOAD writes a SETTINGS entry at an address that each core has for itself (R31, R358). -/
opaque Config.settingsCore : Nat → Option (Fin 7)

end Sys2Proof
end

