-- ==== Sys2Proof/Machine/Regs.lean ====
section
/-! DEFINITION. The register map: every register of the manual's register tables with its local address (R30), its
fields (bits, type by R4, reset value by R3 and R8), its reset domain (R8) and its lock (R4, R73, R146, R194).
Written row by row from the register tables of spec/00 to spec/13; offsets are given as the tables give them. -/

namespace Sys2Proof

/-- A bit field of a register: its lowest bit and its width. -/
structure Fld where
  lo : Nat
  width : Nat
  deriving DecidableEq, Repr

/-- Register and field types (R4). -/
inductive FTy where
  | rw | ro | wo | w1c | w1s | st
  deriving DecidableEq, Repr

/-- Reset domains (R8). -/
inductive Dom where
  | P | C | S | K | D | A
  deriving DecidableEq, Repr

/-- What locks a register: a bit of FACE_ALOCK or FACE_PLOCK of its face, its own LOCK bit (FEV_CFG) or its
GEV_LOCK bit (GEV_CFG). -/
inductive Lock where
  | unlocked | alock (bit : Nat) | plock (bit : Nat) | fevLock | gevLock
  deriving DecidableEq, Repr

/-- One row of a register table: the field, its type and its reset value. -/
structure FieldSpec where
  fld : Fld
  ty : FTy
  reset : Nat
  deriving DecidableEq, Repr

/-- The registers of the manual, by name. -/
inductive RegName where
  | CH_AFE_CFG | CH_ADC_CFG | CH_ADC_DLY | CH_ADC_INTERVAL | CH_ADC_SWTRIG | CH_ADC_STAT | CH_RESULT
  | CH_RESULT_DEC | CH_SMP_TIME | CH_CMPA_THR | CH_CMPB_THR | CH_CMP_CFG | CH_CMP_STAT | CH_CAL_OFS | CH_CAL_GAIN
  | CH_DUTY_LIVE | CH_COMMIT_AT | CH_COMMIT_STAT | LE_CFG | LE_STAT | CH_BRIDGE | LE_INFO | LE_BIND | CH_PWM_CFG
  | CH_PWM_CMP | CH_PWM_EVC0 | CH_PWM_EVC1 | CH_DT_H | CH_DT_L | CH_PWM_STAT | CH_PROT_CFG | CH_PROT_BLANK
  | CH_PROT_CBC | CH_PROT_STAT | CH_PROT_CLR | BR_SAFE_CFG | BR_SAFE_STAT | BR_SAFE_CLR | FACE_SBY_CTL
  | FACE_SBY_STAT | FACE_SBY_CAL_OFS | FACE_SBY_CAL_GAIN | FACE_VREF_STAT | FACE_ALOCK | FACE_PLOCK | FACE_XU_CFG
  | FACE_SPR_CTL | FACE_SPR_STAT | FACE_CG_PERIOD | FACE_CG_CFG | FACE_CG_OFFSET | FACE_CG_SLEW | FACE_CG_COUNT
  | FACE_CG_RESID | FACE_CG_STAT | FACE_TBL_CFG | FACE_TBL_CTL | FACE_TBL_CRC | FACE_TBL_STAT | FEV_CFG | FEV_STAT
  | FACE_FEV_FIRE | TB_TIME_LO | TB_TIME_HI | TB_VTIME_LO | TB_VTIME_HI | TB_VT_OFS_LO | TB_VT_OFS_HI | TB_RATE
  | TB_SLEW | TB_ADJ | TB_ADJ_REM | TB_STEP_LO | TB_STEP_HI | TB_CTL | TB_STAT | TB_EFF_RATE | TA_LO | TA_HI
  | TA_REPEAT | TA_CTL | ANG_CFG | ANG_OFS | ANG_PUB | ANG_PUB_INT | ANG_POS | ANG_TP_LO | ANG_TP_HI | ANG_LAST
  | ANG_STAT | ANG_CNT | AEV_CFG | AEV_STAT | AEV_TIME | ENC_CFG | ENC_ZPOS | ENC_STAT | GEV_CFG | GEV_STAT
  | GEV_FIRE | GEV_LOCK | INT_DOORBELL | INT_STAT | SRC_CFG | SRC_COAL | INT_PEND | INT_ACT | TGT_CTL
  | TGT_COMPLETE | TGT_STAT | TGT_TOP | DMA_CFG | DMA_SRC_LO | DMA_SRC_HI | DMA_DST_LO | DMA_DST_HI | DMA_RING
  | DMA_PUT | DMA_TAKE | DMA_WM_HIGH | DMA_WM_LOW | DMA_COUNT | DMA_CTL | DMA_STAT | DMA_DONE_BYTES | DMA_DESC_LO
  | DMA_DESC_HI | DMA_GSTAT | TALLY_HEAD | TALLY_TAIL | TALLY_STAT | TALLY_SAFE | TALLY_OVF | CORER_CTL
  | CORER_STAT | CORER_HBASE_LO | CORER_HBASE_HI | CORER_NET_DMAC_LO | CORER_NET_DMAC_HI | CORER_NET_SIP
  | CORER_NET_DIP | CORER_NET_PORTS | CORER_NET_CFG | CORER_RD_LO | CORER_RD_HI | CORER_RD_CTL | LANE_CFG
  | LANE_BUF | LANE_PRE | LANE_POST | LANE_REARM | LANE_COND | LANE_CVAL | LANE_SEG_BASE | LANE_SEG_COUNT
  | LANE_QUOTA | LANE_CTL | LANE_STAT | LANE_USE | LANE_TAIL | LANE_CNT | LANE_SEQ | STG_CTL | STG_STATUS
  | STG_FAIL_ADDR | STG_ENTRIES | STG_TARGET_LO | STG_TARGET_HI | STG_APPLY_LO | STG_APPLY_HI | STG_LAST_LO
  | STG_LAST_HI | STG_PEEK_ADDR | STG_PEEK_DATA | STG_CASC_ARM | UPD_CTL | UPD_SECT_OFS | UPD_PAGE | UPD_STAT
  | UPD_SEQ | IDREV | DEP_STAT | DEP_MIS_ADDR | MODE_STAT | MODE_CTL | MODE_REL | MODE_CFG | MODE_REDIR
  | MODE_PERMIT | RST_CAUSE | RST_CORE_CAUSE | RST_REQ | WDOG_STAT | WDOG_KICK | WAKE_CFG | WAKE_STAT | LOAD_STAT
  | LIVE_SEQ | APWIN | CORE_ID | CORE_STATUS | VBASE_PIT | VBASE_BANK | SP_PU | SP_PS | SP_BU | SP_BS | SLIM_PIT
  | SLIM_BANK | ESP | ESLIM | SYSENT_PIT | SYSENT_BANK | SRET_PIT | SRET_BANK | XRET_PIT | XRET_BANK | ENTRY_PIT
  | ENTRY_BANK | UREG_PIT_BASE | UREG_PIT_CFG | UREG_BANK_BASE | UREG_BANK_CFG | SHF | HW_BANK | HW_RESUME | CWDOG
  | CWDOG_KICK | TS_CFG | TS_MASK_CH | TS_REQ | TS_STAT | TS_RES | TS_FAILED_CH | TS_FAILED_UNIT | TS_SVC
  | TS_WD_CH | TS_WD_UNIT | TS_SEC | MI_ERR_CNT | MI_STAT | MI_UE_LO | MI_UE_HI | MI_INJ_LO | MI_INJ_HI
  | MI_INJ_CTL | MI_SCRUB_CFG | MI_SCRUB_STAT | TUB_CFG | TUB_ALLOC | TUB_FREE | TUB_GIVE | TUB_STAT | TUB_LOW
  | TUB_TAG | CNY_CFG | CNY_STAT | SHL_CFG | SHL_STAT | SHL_PORT | SHL_PDLY | SHL_GAP | SHL_GMARK | SIG_OWNMAP
  | SIG_PUBEN | SIG_REFRESH | SIG_AGE_LIM | SIG_AGEQ_SEL | SIG_AGEQ | SIG_STAT | SIG_PUBQ | MAC_CFG | MAC_ADDR_LO
  | MAC_ADDR_HI | MAC_CTAG | MAC_CBS6 | MAC_CBS7 | MAC_STAT | MAC_QSTAT | MAC_TXR_LO | MAC_TXR_HI | MAC_TXR_CTL
  | MAC_RXR_LO | MAC_RXR_HI | MAC_RXR_CTL | PCIE_OBASE_LO | PCIE_OBASE_HI | PCIE_B2WIN | PCIE_CFG | PCIE_MSIX_SEND
  | PCIE_STAT | CAN_CTL | CAN_NBT | CAN_DBT | CAN_STAT | CAN_TXREQ | CAN_TXABORT | CAN_TXSENT | CAN_RXPOP
  | CAN_RXFILL | CAN_FLT_ID | CAN_FLT_MASK | CAN_TXBUF | CAN_FIFO | XSPI_CFG | XSPI_ADDR | XSPI_CMD | XSPI_LEN
  | XSPI_STAT | XSPI_WIN | GSPI_CFG | GSPI_TXH | GSPI_TXD | GSPI_RX | GSPI_STAT | GSPI_POLL | GSPI_PWORD
  | GSPI_PEXP | GSPI_PMASK
  deriving DecidableEq, Repr

/-- One register (or array of like registers): offset in its block, array dimensions as (count, stride), reset
domain, lock, and fields. Bits no field names are reserved (R7). -/
structure RegSpec where
  name : RegName
  off : Nat
  dims : List (Nat × Nat)
  dom : Dom
  lock : Lock
  fields : List FieldSpec
  deriving DecidableEq, Repr

/-- A block of registers of the local map (R30): base address, dimensions of its repetition, and the range of
offsets of its registers. -/
structure RegBlock where
  base : Nat
  dims : List (Nat × Nat)
  lo : Nat
  hi : Nat
  regs : List RegSpec
  deriving DecidableEq, Repr

/-! ## Fields -/

abbrev CH_AFE_CFG.INSEL : Fld := ⟨4, 2⟩
abbrev CH_AFE_CFG.GAIN : Fld := ⟨0, 3⟩
abbrev CH_ADC_CFG.FEV : Fld := ⟨24, 6⟩
abbrev CH_ADC_CFG.SRC : Fld := ⟨16, 3⟩
abbrev CH_ADC_CFG.DEC : Fld := ⟨12, 3⟩
abbrev CH_ADC_CFG.ACQ : Fld := ⟨0, 10⟩
abbrev CH_ADC_DLY.SMP_DLY : Fld := ⟨0, 16⟩
abbrev CH_ADC_INTERVAL.INTERVAL : Fld := ⟨0, 32⟩
abbrev CH_ADC_SWTRIG.GO : Fld := ⟨0, 1⟩
abbrev CH_ADC_STAT.OVR_CNT : Fld := ⟨16, 8⟩
abbrev CH_ADC_STAT.INSEL_IGN : Fld := ⟨7, 1⟩
abbrev CH_ADC_STAT.BUSY : Fld := ⟨6, 1⟩
abbrev CH_ADC_STAT.DEC_PART : Fld := ⟨5, 1⟩
abbrev CH_ADC_STAT.GSETTLE : Fld := ⟨4, 1⟩
abbrev CH_ADC_STAT.CLIP : Fld := ⟨3, 1⟩
abbrev CH_ADC_STAT.ACQ_SHORT : Fld := ⟨2, 1⟩
abbrev CH_ADC_STAT.OVR : Fld := ⟨0, 1⟩
abbrev CH_RESULT.SEQ : Fld := ⟨20, 8⟩
abbrev CH_RESULT.GSETTLE : Fld := ⟨19, 1⟩
abbrev CH_RESULT.ACQ_SHORT : Fld := ⟨18, 1⟩
abbrev CH_RESULT.SBY : Fld := ⟨17, 1⟩
abbrev CH_RESULT.CLIP : Fld := ⟨16, 1⟩
abbrev CH_RESULT.DATA : Fld := ⟨0, 16⟩
abbrev CH_RESULT_DEC.FLAGS : Fld := ⟨28, 4⟩
abbrev CH_RESULT_DEC.DATA : Fld := ⟨0, 20⟩
abbrev CH_SMP_TIME.TIME : Fld := ⟨0, 32⟩
abbrev CH_CMPA_THR.HI : Fld := ⟨16, 12⟩
abbrev CH_CMPA_THR.LO : Fld := ⟨0, 12⟩
abbrev CH_CMPB_THR.HI : Fld := ⟨16, 12⟩
abbrev CH_CMPB_THR.LO : Fld := ⟨0, 12⟩
abbrev CH_CMP_CFG.B_FILT : Fld := ⟨24, 6⟩
abbrev CH_CMP_CFG.B_HYST : Fld := ⟨20, 2⟩
abbrev CH_CMP_CFG.B_MODE : Fld := ⟨17, 2⟩
abbrev CH_CMP_CFG.B_EN : Fld := ⟨16, 1⟩
abbrev CH_CMP_CFG.A_FILT : Fld := ⟨8, 6⟩
abbrev CH_CMP_CFG.A_HYST : Fld := ⟨4, 2⟩
abbrev CH_CMP_CFG.A_MODE : Fld := ⟨1, 2⟩
abbrev CH_CMP_CFG.A_EN : Fld := ⟨0, 1⟩
abbrev CH_CMP_STAT.B_HIT : Fld := ⟨9, 1⟩
abbrev CH_CMP_STAT.A_HIT : Fld := ⟨8, 1⟩
abbrev CH_CMP_STAT.B_OUT : Fld := ⟨1, 1⟩
abbrev CH_CMP_STAT.A_OUT : Fld := ⟨0, 1⟩
abbrev CH_CAL_OFS.OFS : Fld := ⟨0, 16⟩
abbrev CH_CAL_GAIN.GAIN : Fld := ⟨0, 18⟩
abbrev CH_DUTY_LIVE.E : Fld := ⟨0, 32⟩
abbrev CH_COMMIT_AT.TC : Fld := ⟨0, 32⟩
abbrev CH_COMMIT_STAT.LATE_CNT : Fld := ⟨24, 8⟩
abbrev CH_COMMIT_STAT.CLAMP_CNT : Fld := ⟨16, 8⟩
abbrev CH_COMMIT_STAT.LATE : Fld := ⟨2, 1⟩
abbrev CH_COMMIT_STAT.CLAMP : Fld := ⟨1, 1⟩
abbrev CH_COMMIT_STAT.SAME : Fld := ⟨0, 1⟩
abbrev LE_CFG.CLR_ON_LOAD : Fld := ⟨12, 1⟩
abbrev LE_CFG.FEV : Fld := ⟨4, 6⟩
abbrev LE_CFG.START : Fld := ⟨0, 3⟩
abbrev LE_STAT.OVR_CNT : Fld := ⟨24, 8⟩
abbrev LE_STAT.RUN_CNT : Fld := ⟨16, 8⟩
abbrev LE_STAT.CMT_BLK : Fld := ⟨10, 1⟩
abbrev LE_STAT.MEMERR : Fld := ⟨9, 1⟩
abbrev LE_STAT.BADOP : Fld := ⟨8, 1⟩
abbrev LE_STAT.LEG_MISS : Fld := ⟨7, 1⟩
abbrev LE_STAT.XFM_REJ : Fld := ⟨6, 1⟩
abbrev LE_STAT.PUB_DROP : Fld := ⟨5, 1⟩
abbrev LE_STAT.CMT_REJ : Fld := ⟨4, 1⟩
abbrev LE_STAT.SAT : Fld := ⟨3, 1⟩
abbrev LE_STAT.OVR : Fld := ⟨2, 1⟩
abbrev LE_STAT.RUN : Fld := ⟨0, 1⟩
abbrev CH_BRIDGE.LEGS : Fld := ⟨16, 3⟩
abbrev CH_BRIDGE.LEG : Fld := ⟨8, 3⟩
abbrev CH_BRIDGE.LEADER : Fld := ⟨0, 7⟩
abbrev LE_INFO.WEIGHT : Fld := ⟨0, 6⟩
abbrev LE_BIND.EN : Fld := ⟨31, 1⟩
abbrev LE_BIND.SIG : Fld := ⟨0, 17⟩
abbrev CH_PWM_CFG.INV_L : Fld := ⟨17, 1⟩
abbrev CH_PWM_CFG.INV_H : Fld := ⟨16, 1⟩
abbrev CH_PWM_CFG.SWAP : Fld := ⟨12, 1⟩
abbrev CH_PWM_CFG.LMODE : Fld := ⟨8, 1⟩
abbrev CH_PWM_CFG.CG : Fld := ⟨0, 5⟩
abbrev CH_PWM_CMP.CMP : Fld := ⟨0, 32⟩
abbrev CH_PWM_EVC0.EVC : Fld := ⟨0, 32⟩
abbrev CH_PWM_EVC1.EVC : Fld := ⟨0, 32⟩
abbrev CH_DT_H.FALL : Fld := ⟨16, 16⟩
abbrev CH_DT_H.RISE : Fld := ⟨0, 16⟩
abbrev CH_DT_L.FALL : Fld := ⟨16, 16⟩
abbrev CH_DT_L.RISE : Fld := ⟨0, 16⟩
abbrev CH_PWM_STAT.INTLK : Fld := ⟨2, 1⟩
abbrev CH_PWM_STAT.GL_ON : Fld := ⟨1, 1⟩
abbrev CH_PWM_STAT.GH_ON : Fld := ⟨0, 1⟩
abbrev CH_PROT_CFG.BLK_CMPB : Fld := ⟨13, 1⟩
abbrev CH_PROT_CFG.BLK_CMPA : Fld := ⟨12, 1⟩
abbrev CH_PROT_CFG.CMPB_ESC : Fld := ⟨10, 1⟩
abbrev CH_PROT_CFG.CMPA_ESC : Fld := ⟨9, 1⟩
abbrev CH_PROT_CFG.FLT_ESC : Fld := ⟨8, 1⟩
abbrev CH_PROT_CFG.CMPB_ACT : Fld := ⟨4, 2⟩
abbrev CH_PROT_CFG.CMPA_ACT : Fld := ⟨2, 2⟩
abbrev CH_PROT_CFG.FLT_ACT : Fld := ⟨0, 2⟩
abbrev CH_PROT_BLANK.BLANK : Fld := ⟨0, 16⟩
abbrev CH_PROT_CBC.N : Fld := ⟨8, 8⟩
abbrev CH_PROT_CBC.M : Fld := ⟨0, 8⟩
abbrev CH_PROT_STAT.TRIP_CNT : Fld := ⟨24, 8⟩
abbrev CH_PROT_STAT.WIN_CNT : Fld := ⟨16, 8⟩
abbrev CH_PROT_STAT.FLT_IN : Fld := ⟨14, 1⟩
abbrev CH_PROT_STAT.LAT_CMPB : Fld := ⟨12, 1⟩
abbrev CH_PROT_STAT.LAT_CMPA : Fld := ⟨11, 1⟩
abbrev CH_PROT_STAT.LAT_FLT : Fld := ⟨10, 1⟩
abbrev CH_PROT_STAT.LATCHED : Fld := ⟨9, 1⟩
abbrev CH_PROT_STAT.CYC : Fld := ⟨8, 1⟩
abbrev CH_PROT_STAT.SUPP : Fld := ⟨4, 1⟩
abbrev CH_PROT_STAT.CLR_REJECT : Fld := ⟨3, 1⟩
abbrev CH_PROT_STAT.BLANKED_HIT : Fld := ⟨2, 1⟩
abbrev CH_PROT_STAT.BLANK : Fld := ⟨1, 1⟩
abbrev CH_PROT_STAT.TRIP : Fld := ⟨0, 1⟩
abbrev CH_PROT_CLR.CLR : Fld := ⟨0, 1⟩
abbrev BR_SAFE_CFG.SAFE_DT : Fld := ⟨16, 11⟩
abbrev BR_SAFE_CFG.ESC_LEGS : Fld := ⟨4, 4⟩
abbrev BR_SAFE_CFG.PATTERN : Fld := ⟨0, 2⟩
abbrev BR_SAFE_STAT.LEGMASK : Fld := ⟨8, 8⟩
abbrev BR_SAFE_STAT.CLR_REJECT : Fld := ⟨4, 1⟩
abbrev BR_SAFE_STAT.RST : Fld := ⟨3, 1⟩
abbrev BR_SAFE_STAT.MODE : Fld := ⟨2, 1⟩
abbrev BR_SAFE_STAT.ESC : Fld := ⟨1, 1⟩
abbrev BR_SAFE_STAT.SAFE : Fld := ⟨0, 1⟩
abbrev BR_SAFE_CLR.CLR : Fld := ⟨0, 1⟩
abbrev FACE_SBY_CTL.TOL : Fld := ⟨16, 8⟩
abbrev FACE_SBY_CTL.SHADOW : Fld := ⟨8, 4⟩
abbrev FACE_SBY_CTL.CMD : Fld := ⟨4, 2⟩
abbrev FACE_SBY_CTL.TARGET : Fld := ⟨0, 4⟩
abbrev FACE_SBY_STAT.MAXDIFF : Fld := ⟨16, 16⟩
abbrev FACE_SBY_STAT.CMD_REJECT : Fld := ⟨9, 1⟩
abbrev FACE_SBY_STAT.MISMATCH : Fld := ⟨8, 1⟩
abbrev FACE_SBY_STAT.CUR_TARGET : Fld := ⟨4, 4⟩
abbrev FACE_SBY_STAT.PEND : Fld := ⟨3, 1⟩
abbrev FACE_SBY_STAT.STATE : Fld := ⟨0, 3⟩
abbrev FACE_SBY_CAL_OFS.OFS : Fld := ⟨0, 16⟩
abbrev FACE_SBY_CAL_GAIN.GAIN : Fld := ⟨0, 18⟩
abbrev FACE_VREF_STAT.FAULT : Fld := ⟨1, 1⟩
abbrev FACE_VREF_STAT.READY : Fld := ⟨0, 1⟩
abbrev FACE_ALOCK.LOCK_CMP : Fld := ⟨1, 1⟩
abbrev FACE_ALOCK.LOCK_AFE : Fld := ⟨0, 1⟩
abbrev FACE_PLOCK.LOCK_CG : Fld := ⟨2, 1⟩
abbrev FACE_PLOCK.LOCK_PROT : Fld := ⟨1, 1⟩
abbrev FACE_PLOCK.LOCK_EDGE : Fld := ⟨0, 1⟩
abbrev FACE_XU_CFG.OWNER1 : Fld := ⟨8, 5⟩
abbrev FACE_XU_CFG.OWNER0 : Fld := ⟨0, 5⟩
abbrev FACE_SPR_CTL.SHADOW : Fld := ⟨8, 4⟩
abbrev FACE_SPR_CTL.CMD : Fld := ⟨4, 2⟩
abbrev FACE_SPR_CTL.TARGET : Fld := ⟨0, 4⟩
abbrev FACE_SPR_STAT.MIS_CNT : Fld := ⟨16, 8⟩
abbrev FACE_SPR_STAT.CMD_REJECT : Fld := ⟨9, 1⟩
abbrev FACE_SPR_STAT.MISMATCH : Fld := ⟨8, 1⟩
abbrev FACE_SPR_STAT.CUR_TARGET : Fld := ⟨4, 4⟩
abbrev FACE_SPR_STAT.PEND : Fld := ⟨3, 1⟩
abbrev FACE_SPR_STAT.STATE : Fld := ⟨0, 3⟩
abbrev FACE_CG_PERIOD.PERIOD : Fld := ⟨0, 32⟩
abbrev FACE_CG_CFG.FEV : Fld := ⟨16, 6⟩
abbrev FACE_CG_CFG.SYNC_GRP : Fld := ⟨8, 5⟩
abbrev FACE_CG_CFG.SYNC : Fld := ⟨1, 2⟩
abbrev FACE_CG_CFG.EN : Fld := ⟨0, 1⟩
abbrev FACE_CG_OFFSET.OFFSET : Fld := ⟨0, 32⟩
abbrev FACE_CG_SLEW.SLEW : Fld := ⟨0, 32⟩
abbrev FACE_CG_COUNT.COUNT : Fld := ⟨0, 32⟩
abbrev FACE_CG_RESID.RESID : Fld := ⟨0, 32⟩
abbrev FACE_CG_STAT.SYNC_IGN : Fld := ⟨2, 1⟩
abbrev FACE_CG_STAT.LOCKED : Fld := ⟨1, 1⟩
abbrev FACE_CG_STAT.RUN : Fld := ⟨0, 1⟩
abbrev FACE_TBL_CFG.SYNC_CH : Fld := ⟨8, 4⟩
abbrev FACE_TBL_CFG.L_NEXT : Fld := ⟨0, 4⟩
abbrev FACE_TBL_CTL.ABANDON : Fld := ⟨2, 1⟩
abbrev FACE_TBL_CTL.COMMIT : Fld := ⟨1, 1⟩
abbrev FACE_TBL_CTL.OPEN : Fld := ⟨0, 1⟩
abbrev FACE_TBL_CRC.CRC : Fld := ⟨0, 32⟩
abbrev FACE_TBL_STAT.STALE : Fld := ⟨16, 16⟩
abbrev FACE_TBL_STAT.L : Fld := ⟨8, 4⟩
abbrev FACE_TBL_STAT.ACTIVE : Fld := ⟨7, 1⟩
abbrev FACE_TBL_STAT.OUTSTANDING : Fld := ⟨6, 1⟩
abbrev FACE_TBL_STAT.CHECKING : Fld := ⟨5, 1⟩
abbrev FACE_TBL_STAT.PASSED : Fld := ⟨4, 1⟩
abbrev FACE_TBL_STAT.FAIL : Fld := ⟨3, 1⟩
abbrev FACE_TBL_STAT.WR_REJ : Fld := ⟨2, 1⟩
abbrev FACE_TBL_STAT.CMD_REJ : Fld := ⟨1, 1⟩
abbrev FEV_CFG.LOCK : Fld := ⟨31, 1⟩
abbrev FEV_CFG.SWG : Fld := ⟨25, 1⟩
abbrev FEV_CFG.EN : Fld := ⟨24, 1⟩
abbrev FEV_CFG.GINV : Fld := ⟨23, 1⟩
abbrev FEV_CFG.GATE : Fld := ⟨16, 7⟩
abbrev FEV_CFG.PSEL : Fld := ⟨0, 9⟩
abbrev FEV_STAT.EV_CNT : Fld := ⟨16, 16⟩
abbrev FEV_STAT.MERGE : Fld := ⟨2, 1⟩
abbrev FEV_STAT.GATED : Fld := ⟨1, 1⟩
abbrev FEV_STAT.FIRED : Fld := ⟨0, 1⟩
abbrev FACE_FEV_FIRE.FIRE : Fld := ⟨0, 32⟩
abbrev TB_TIME_LO.TIME : Fld := ⟨0, 32⟩
abbrev TB_TIME_HI.TIME : Fld := ⟨0, 32⟩
abbrev TB_VTIME_LO.VTIME : Fld := ⟨0, 32⟩
abbrev TB_VTIME_HI.VTIME : Fld := ⟨0, 32⟩
abbrev TB_VT_OFS_LO.OFS : Fld := ⟨0, 32⟩
abbrev TB_VT_OFS_HI.OFS : Fld := ⟨0, 32⟩
abbrev TB_RATE.RATE : Fld := ⟨0, 24⟩
abbrev TB_SLEW.SLEW : Fld := ⟨0, 8⟩
abbrev TB_ADJ.ADJ : Fld := ⟨0, 32⟩
abbrev TB_ADJ_REM.REM : Fld := ⟨0, 32⟩
abbrev TB_STEP_LO.STEP : Fld := ⟨0, 32⟩
abbrev TB_STEP_HI.STEP : Fld := ⟨0, 32⟩
abbrev TB_CTL.STEP : Fld := ⟨0, 1⟩
abbrev TB_STAT.REF_SRC : Fld := ⟨8, 1⟩
abbrev TB_STAT.CASC_LOCK : Fld := ⟨7, 1⟩
abbrev TB_STAT.ADJ_BUSY : Fld := ⟨6, 1⟩
abbrev TB_STAT.ADJ_REJ : Fld := ⟨5, 1⟩
abbrev TB_STAT.STEP_REJ : Fld := ⟨4, 1⟩
abbrev TB_STAT.RATE_LIM : Fld := ⟨3, 1⟩
abbrev TB_STAT.REF_LOST : Fld := ⟨2, 1⟩
abbrev TB_STAT.HOLDOVER : Fld := ⟨1, 1⟩
abbrev TB_STAT.CAL_OK : Fld := ⟨0, 1⟩
abbrev TB_EFF_RATE.RHO : Fld := ⟨0, 24⟩
abbrev TA_LO.TARGET : Fld := ⟨0, 32⟩
abbrev TA_HI.TARGET : Fld := ⟨0, 32⟩
abbrev TA_REPEAT.REPEAT : Fld := ⟨0, 32⟩
abbrev TA_CTL.FIRE_CNT : Fld := ⟨24, 8⟩
abbrev TA_CTL.LATE : Fld := ⟨9, 1⟩
abbrev TA_CTL.FIRED : Fld := ⟨8, 1⟩
abbrev TA_CTL.EN : Fld := ⟨0, 1⟩
abbrev ANG_CFG.EN : Fld := ⟨31, 1⟩
abbrev ANG_CFG.WHEEL : Fld := ⟨30, 1⟩
abbrev ANG_CFG.G : Fld := ⟨28, 2⟩
abbrev ANG_CFG.PRED : Fld := ⟨27, 1⟩
abbrev ANG_CFG.EDGE : Fld := ⟨26, 1⟩
abbrev ANG_CFG.N_POS : Fld := ⟨16, 8⟩
abbrev ANG_CFG.FILT : Fld := ⟨8, 6⟩
abbrev ANG_CFG.COAST_LIM : Fld := ⟨0, 8⟩
abbrev ANG_OFS.OFS : Fld := ⟨0, 24⟩
abbrev ANG_PUB.EN : Fld := ⟨31, 1⟩
abbrev ANG_PUB.SIG : Fld := ⟨0, 17⟩
abbrev ANG_PUB_INT.INT : Fld := ⟨0, 16⟩
abbrev ANG_POS.VALID : Fld := ⟨31, 1⟩
abbrev ANG_POS.COAST : Fld := ⟨30, 1⟩
abbrev ANG_POS.ANGLE : Fld := ⟨0, 24⟩
abbrev ANG_TP_LO.TP : Fld := ⟨0, 32⟩
abbrev ANG_TP_HI.TP : Fld := ⟨0, 8⟩
abbrev ANG_LAST.T_LAST : Fld := ⟨0, 32⟩
abbrev ANG_STAT.POS : Fld := ⟨16, 8⟩
abbrev ANG_STAT.COASTED : Fld := ⟨8, 1⟩
abbrev ANG_STAT.STALLED : Fld := ⟨7, 1⟩
abbrev ANG_STAT.REF_MISS : Fld := ⟨6, 1⟩
abbrev ANG_STAT.CNT_ERR : Fld := ⟨5, 1⟩
abbrev ANG_STAT.NOISE : Fld := ⟨4, 1⟩
abbrev ANG_STAT.STATE : Fld := ⟨0, 3⟩
abbrev ANG_CNT.NOISE_CNT : Fld := ⟨16, 16⟩
abbrev ANG_CNT.CNTERR_CNT : Fld := ⟨8, 8⟩
abbrev AEV_CFG.EN : Fld := ⟨31, 1⟩
abbrev AEV_CFG.TRK : Fld := ⟨24, 4⟩
abbrev AEV_CFG.ANGLE : Fld := ⟨0, 24⟩
abbrev AEV_STAT.FIRE_CNT : Fld := ⟨24, 8⟩
abbrev AEV_STAT.ARMED : Fld := ⟨2, 1⟩
abbrev AEV_STAT.LATE : Fld := ⟨1, 1⟩
abbrev AEV_STAT.COAST : Fld := ⟨0, 1⟩
abbrev AEV_TIME.TIME : Fld := ⟨0, 32⟩
abbrev ENC_CFG.EN : Fld := ⟨31, 1⟩
abbrev ENC_CFG.TRK : Fld := ⟨24, 4⟩
abbrev ENC_CFG.DIV : Fld := ⟨0, 8⟩
abbrev ENC_ZPOS.ZPOS : Fld := ⟨0, 24⟩
abbrev ENC_STAT.BURST : Fld := ⟨9, 1⟩
abbrev ENC_STAT.HELD : Fld := ⟨8, 1⟩
abbrev ENC_STAT.OUT_Z : Fld := ⟨2, 1⟩
abbrev ENC_STAT.OUT_B : Fld := ⟨1, 1⟩
abbrev ENC_STAT.OUT_A : Fld := ⟨0, 1⟩
abbrev GEV_CFG.EN : Fld := ⟨24, 1⟩
abbrev GEV_CFG.GSEL : Fld := ⟨0, 10⟩
abbrev GEV_STAT.EV_CNT : Fld := ⟨16, 16⟩
abbrev GEV_STAT.MERGE : Fld := ⟨2, 1⟩
abbrev GEV_STAT.REMOTE : Fld := ⟨1, 1⟩
abbrev GEV_STAT.FIRED : Fld := ⟨0, 1⟩
abbrev GEV_FIRE.FIRE : Fld := ⟨0, 32⟩
abbrev GEV_LOCK.LOCK : Fld := ⟨0, 32⟩
abbrev INT_DOORBELL.SRC : Fld := ⟨0, 12⟩
abbrev INT_STAT.RING_CNT : Fld := ⟨16, 16⟩
abbrev INT_STAT.RING_REJ : Fld := ⟨0, 1⟩
abbrev SRC_CFG.BANKRING : Fld := ⟨16, 1⟩
abbrev SRC_CFG.WORLD : Fld := ⟨12, 1⟩
abbrev SRC_CFG.TARGET : Fld := ⟨8, 3⟩
abbrev SRC_CFG.PRIO : Fld := ⟨4, 4⟩
abbrev SRC_CFG.LEVEL : Fld := ⟨1, 1⟩
abbrev SRC_CFG.EN : Fld := ⟨0, 1⟩
abbrev SRC_COAL.GATHER : Fld := ⟨24, 8⟩
abbrev SRC_COAL.TIME : Fld := ⟨8, 16⟩
abbrev SRC_COAL.COUNT : Fld := ⟨0, 8⟩
abbrev INT_PEND.PEND : Fld := ⟨0, 32⟩
abbrev INT_ACT.ACT : Fld := ⟨0, 32⟩
abbrev TGT_CTL.DISABLE : Fld := ⟨0, 1⟩
abbrev TGT_COMPLETE.SRC : Fld := ⟨0, 12⟩
abbrev TGT_STAT.LAST_SRC : Fld := ⟨16, 12⟩
abbrev TGT_STAT.ANY : Fld := ⟨9, 1⟩
abbrev TGT_STAT.CMPL_REJ : Fld := ⟨8, 1⟩
abbrev TGT_STAT.LAST_CNT : Fld := ⟨0, 8⟩
abbrev TGT_TOP.VALID : Fld := ⟨31, 1⟩
abbrev TGT_TOP.PRIO : Fld := ⟨16, 4⟩
abbrev TGT_TOP.SRC : Fld := ⟨0, 12⟩
abbrev DMA_CFG.WORLD : Fld := ⟨30, 1⟩
abbrev DMA_CFG.IE_OVR : Fld := ⟨23, 1⟩
abbrev DMA_CFG.IE_DESC : Fld := ⟨22, 1⟩
abbrev DMA_CFG.IE_WM : Fld := ⟨21, 1⟩
abbrev DMA_CFG.IE_ERR : Fld := ⟨20, 1⟩
abbrev DMA_CFG.IE_DONE : Fld := ⟨19, 1⟩
abbrev DMA_CFG.GEV : Fld := ⟨10, 8⟩
abbrev DMA_CFG.PRIO : Fld := ⟨8, 2⟩
abbrev DMA_CFG.ESIZE : Fld := ⟨6, 2⟩
abbrev DMA_CFG.DMODE : Fld := ⟨4, 2⟩
abbrev DMA_CFG.SMODE : Fld := ⟨2, 2⟩
abbrev DMA_CFG.PACE : Fld := ⟨0, 2⟩
abbrev DMA_SRC_LO.ADDR : Fld := ⟨0, 32⟩
abbrev DMA_SRC_HI.ADDR : Fld := ⟨0, 16⟩
abbrev DMA_DST_LO.ADDR : Fld := ⟨0, 32⟩
abbrev DMA_DST_HI.ADDR : Fld := ⟨0, 16⟩
abbrev DMA_RING.DK : Fld := ⟨8, 5⟩
abbrev DMA_RING.SK : Fld := ⟨0, 5⟩
abbrev DMA_PUT.PTR : Fld := ⟨0, 32⟩
abbrev DMA_TAKE.PTR : Fld := ⟨0, 32⟩
abbrev DMA_WM_HIGH.LEVEL : Fld := ⟨0, 32⟩
abbrev DMA_WM_LOW.LEVEL : Fld := ⟨0, 32⟩
abbrev DMA_COUNT.COUNT : Fld := ⟨0, 32⟩
abbrev DMA_CTL.FLUSH : Fld := ⟨2, 1⟩
abbrev DMA_CTL.STOP : Fld := ⟨1, 1⟩
abbrev DMA_CTL.START : Fld := ⟨0, 1⟩
abbrev DMA_STAT.ERR_CODE : Fld := ⟨24, 4⟩
abbrev DMA_STAT.IRQ : Fld := ⟨13, 1⟩
abbrev DMA_STAT.WR_REJ : Fld := ⟨12, 1⟩
abbrev DMA_STAT.CFG_ERR : Fld := ⟨11, 1⟩
abbrev DMA_STAT.QOVF : Fld := ⟨10, 1⟩
abbrev DMA_STAT.REQ_OVR : Fld := ⟨9, 1⟩
abbrev DMA_STAT.DESC_IRQ : Fld := ⟨8, 1⟩
abbrev DMA_STAT.LOW_HIT : Fld := ⟨7, 1⟩
abbrev DMA_STAT.HIGH_HIT : Fld := ⟨6, 1⟩
abbrev DMA_STAT.ERR : Fld := ⟨5, 1⟩
abbrev DMA_STAT.DONE : Fld := ⟨4, 1⟩
abbrev DMA_STAT.STATE : Fld := ⟨1, 3⟩
abbrev DMA_STAT.BUSY : Fld := ⟨0, 1⟩
abbrev DMA_DONE_BYTES.BYTES : Fld := ⟨0, 32⟩
abbrev DMA_DESC_LO.ADDR : Fld := ⟨0, 32⟩
abbrev DMA_DESC_HI.ADDR : Fld := ⟨0, 16⟩
abbrev DMA_GSTAT.BUSY_CH : Fld := ⟨17, 7⟩
abbrev DMA_GSTAT.BUF : Fld := ⟨0, 17⟩
abbrev TALLY_HEAD.HEAD : Fld := ⟨0, 9⟩
abbrev TALLY_TAIL.TAIL : Fld := ⟨0, 9⟩
abbrev TALLY_STAT.FILL : Fld := ⟨16, 9⟩
abbrev TALLY_STAT.SAFE_CLR_REJ : Fld := ⟨11, 1⟩
abbrev TALLY_STAT.TAIL_REJ : Fld := ⟨10, 1⟩
abbrev TALLY_STAT.DROP : Fld := ⟨9, 1⟩
abbrev TALLY_STAT.FULL : Fld := ⟨8, 1⟩
abbrev TALLY_STAT.NEW : Fld := ⟨0, 4⟩
abbrev TALLY_SAFE.GROUP : Fld := ⟨0, 8⟩
abbrev TALLY_OVF.CNT_0 : Fld := ⟨0, 8⟩
abbrev TALLY_OVF.CNT_1 : Fld := ⟨8, 8⟩
abbrev TALLY_OVF.CNT_2 : Fld := ⟨16, 8⟩
abbrev TALLY_OVF.CNT_3 : Fld := ⟨24, 8⟩
abbrev CORER_CTL.EN : Fld := ⟨31, 1⟩
abbrev CORER_CTL.PATH : Fld := ⟨8, 2⟩
abbrev CORER_CTL.T : Fld := ⟨0, 4⟩
abbrev CORER_STAT.PATH_ERR : Fld := ⟨3, 1⟩
abbrev CORER_STAT.WR_REJ : Fld := ⟨2, 1⟩
abbrev CORER_STAT.LINK_DOWN : Fld := ⟨1, 1⟩
abbrev CORER_STAT.BUSY : Fld := ⟨0, 1⟩
abbrev CORER_HBASE_LO.ADDR : Fld := ⟨0, 32⟩
abbrev CORER_HBASE_HI.ADDR : Fld := ⟨0, 32⟩
abbrev CORER_NET_DMAC_LO.MAC : Fld := ⟨0, 32⟩
abbrev CORER_NET_DMAC_HI.MAC : Fld := ⟨0, 16⟩
abbrev CORER_NET_SIP.IP : Fld := ⟨0, 32⟩
abbrev CORER_NET_DIP.IP : Fld := ⟨0, 32⟩
abbrev CORER_NET_PORTS.SPORT : Fld := ⟨16, 16⟩
abbrev CORER_NET_PORTS.DPORT : Fld := ⟨0, 16⟩
abbrev CORER_NET_CFG.RETRY : Fld := ⟨28, 4⟩
abbrev CORER_NET_CFG.RTO : Fld := ⟨12, 16⟩
abbrev CORER_NET_CFG.WIN : Fld := ⟨0, 11⟩
abbrev CORER_RD_LO.ADDR : Fld := ⟨0, 32⟩
abbrev CORER_RD_HI.ADDR : Fld := ⟨0, 16⟩
abbrev CORER_RD_CTL.NERR : Fld := ⟨24, 8⟩
abbrev CORER_RD_CTL.RESULT : Fld := ⟨16, 3⟩
abbrev CORER_RD_CTL.BUSY : Fld := ⟨8, 1⟩
abbrev CORER_RD_CTL.GO : Fld := ⟨0, 1⟩
abbrev LANE_CFG.EN : Fld := ⟨31, 1⟩
abbrev LANE_CFG.IE : Fld := ⟨24, 7⟩
abbrev LANE_CFG.RETAIN : Fld := ⟨23, 1⟩
abbrev LANE_CFG.QEN : Fld := ⟨22, 1⟩
abbrev LANE_CFG.MODE : Fld := ⟨21, 1⟩
abbrev LANE_CFG.KIND : Fld := ⟨20, 1⟩
abbrev LANE_CFG.WIDTH : Fld := ⟨18, 2⟩
abbrev LANE_CFG.SRC : Fld := ⟨0, 17⟩
abbrev LANE_BUF.LEN : Fld := ⟨16, 14⟩
abbrev LANE_BUF.BASE : Fld := ⟨0, 13⟩
abbrev LANE_PRE.RECORDS : Fld := ⟨0, 32⟩
abbrev LANE_POST.RECORDS : Fld := ⟨0, 32⟩
abbrev LANE_REARM.US : Fld := ⟨0, 16⟩
abbrev LANE_COND.TYPE : Fld := ⟨30, 2⟩
abbrev LANE_COND.OP : Fld := ⟨28, 2⟩
abbrev LANE_COND.SEL : Fld := ⟨0, 17⟩
abbrev LANE_CVAL.VAL : Fld := ⟨0, 32⟩
abbrev LANE_SEG_BASE.SEGS : Fld := ⟨0, 32⟩
abbrev LANE_SEG_COUNT.SEGS : Fld := ⟨0, 32⟩
abbrev LANE_QUOTA.SEGS : Fld := ⟨0, 32⟩
abbrev LANE_CTL.REL : Fld := ⟨16, 16⟩
abbrev LANE_CTL.SWTRIG : Fld := ⟨0, 1⟩
abbrev LANE_STAT.QUEUED : Fld := ⟨11, 1⟩
abbrev LANE_STAT.STATE : Fld := ⟨8, 3⟩
abbrev LANE_STAT.MERGED : Fld := ⟨7, 1⟩
abbrev LANE_STAT.WR_REJ : Fld := ⟨6, 1⟩
abbrev LANE_STAT.CFG_ERR : Fld := ⟨5, 1⟩
abbrev LANE_STAT.STORE_FULL : Fld := ⟨4, 1⟩
abbrev LANE_STAT.QUOTA_OVER : Fld := ⟨3, 1⟩
abbrev LANE_STAT.TRUNC : Fld := ⟨2, 1⟩
abbrev LANE_STAT.MISSED : Fld := ⟨1, 1⟩
abbrev LANE_STAT.CORE_DONE : Fld := ⟨0, 1⟩
abbrev LANE_USE.SEGS : Fld := ⟨0, 32⟩
abbrev LANE_TAIL.SEGS : Fld := ⟨0, 32⟩
abbrev LANE_CNT.MISSED_TRIG : Fld := ⟨16, 16⟩
abbrev LANE_CNT.DROP : Fld := ⟨0, 16⟩
abbrev LANE_SEQ.CORES : Fld := ⟨0, 32⟩
abbrev STG_CTL.CASC : Fld := ⟨8, 1⟩
abbrev STG_CTL.DISCARD : Fld := ⟨3, 1⟩
abbrev STG_CTL.CANCEL : Fld := ⟨2, 1⟩
abbrev STG_CTL.ARM : Fld := ⟨1, 1⟩
abbrev STG_CTL.CHECK : Fld := ⟨0, 1⟩
abbrev STG_STATUS.FAIL_DEV : Fld := ⟨24, 3⟩
abbrev STG_STATUS.RULE : Fld := ⟨16, 8⟩
abbrev STG_STATUS.CMD_REJ : Fld := ⟨10, 1⟩
abbrev STG_STATUS.OVF : Fld := ⟨9, 1⟩
abbrev STG_STATUS.FROZEN : Fld := ⟨8, 1⟩
abbrev STG_STATUS.WR_REJ : Fld := ⟨7, 1⟩
abbrev STG_STATUS.CANCELLED : Fld := ⟨6, 1⟩
abbrev STG_STATUS.APPLIED : Fld := ⟨5, 1⟩
abbrev STG_STATUS.ARMED : Fld := ⟨4, 1⟩
abbrev STG_STATUS.FAIL : Fld := ⟨3, 1⟩
abbrev STG_STATUS.PASS : Fld := ⟨2, 1⟩
abbrev STG_STATUS.BUSY : Fld := ⟨0, 1⟩
abbrev STG_FAIL_ADDR.ADDR : Fld := ⟨0, 32⟩
abbrev STG_ENTRIES.COUNT : Fld := ⟨0, 17⟩
abbrev STG_TARGET_LO.T : Fld := ⟨0, 32⟩
abbrev STG_TARGET_HI.T : Fld := ⟨0, 32⟩
abbrev STG_APPLY_LO.A : Fld := ⟨0, 32⟩
abbrev STG_APPLY_HI.A : Fld := ⟨0, 32⟩
abbrev STG_LAST_LO.A : Fld := ⟨0, 32⟩
abbrev STG_LAST_HI.A : Fld := ⟨0, 32⟩
abbrev STG_PEEK_ADDR.ADDR : Fld := ⟨2, 30⟩
abbrev STG_PEEK_ADDR.HIT : Fld := ⟨0, 1⟩
abbrev STG_PEEK_DATA.DATA : Fld := ⟨0, 32⟩
abbrev STG_CASC_ARM.DEV : Fld := ⟨0, 8⟩
abbrev UPD_CTL.SECT : Fld := ⟨16, 9⟩
abbrev UPD_CTL.CMD : Fld := ⟨0, 3⟩
abbrev UPD_SECT_OFS.OFS : Fld := ⟨0, 11⟩
abbrev UPD_PAGE.PAGE : Fld := ⟨0, 6⟩
abbrev UPD_STAT.ERR : Fld := ⟨24, 8⟩
abbrev UPD_STAT.SKIP : Fld := ⟨8, 16⟩
abbrev UPD_STAT.PEND : Fld := ⟨3, 1⟩
abbrev UPD_STAT.SECT_OK : Fld := ⟨2, 1⟩
abbrev UPD_STAT.HDR_OK : Fld := ⟨1, 1⟩
abbrev UPD_STAT.BUSY : Fld := ⟨0, 1⟩
abbrev UPD_SEQ.SEQ : Fld := ⟨0, 32⟩
abbrev IDREV.VENDOR : Fld := ⟨20, 12⟩
abbrev IDREV.PART : Fld := ⟨4, 16⟩
abbrev IDREV.MAJOR : Fld := ⟨2, 2⟩
abbrev IDREV.MINOR : Fld := ⟨0, 2⟩
abbrev DEP_STAT.RESYNC_CNT : Fld := ⟨24, 8⟩
abbrev DEP_STAT.MIS_CNT : Fld := ⟨16, 8⟩
abbrev DEP_STAT.FENCED_B : Fld := ⟨9, 1⟩
abbrev DEP_STAT.FENCED_A : Fld := ⟨8, 1⟩
abbrev DEP_STAT.STATE : Fld := ⟨4, 3⟩
abbrev DEP_STAT.CLASS : Fld := ⟨2, 1⟩
abbrev DEP_STAT.MISMATCH : Fld := ⟨1, 1⟩
abbrev DEP_STAT.MODE : Fld := ⟨0, 1⟩
abbrev DEP_MIS_ADDR.ADDR : Fld := ⟨0, 32⟩
abbrev MODE_STAT.LOST_H : Fld := ⟨28, 4⟩
abbrev MODE_STAT.REQ_REJ : Fld := ⟨27, 1⟩
abbrev MODE_STAT.PARK_TO : Fld := ⟨26, 1⟩
abbrev MODE_STAT.HOLD_FROM : Fld := ⟨23, 3⟩
abbrev MODE_STAT.HOLD_SRC : Fld := ⟨16, 7⟩
abbrev MODE_STAT.LIMP_CAUSE : Fld := ⟨8, 5⟩
abbrev MODE_STAT.PREV : Fld := ⟨4, 3⟩
abbrev MODE_STAT.MODE : Fld := ⟨0, 3⟩
abbrev MODE_CTL.KEY : Fld := ⟨8, 8⟩
abbrev MODE_CTL.REQ : Fld := ⟨0, 3⟩
abbrev MODE_REL.REASON : Fld := ⟨16, 8⟩
abbrev MODE_REL.KEY : Fld := ⟨8, 8⟩
abbrev MODE_REL.REJ : Fld := ⟨1, 1⟩
abbrev MODE_REL.OPEN : Fld := ⟨0, 1⟩
abbrev MODE_CFG.START : Fld := ⟨16, 1⟩
abbrev MODE_CFG.HOLD_MASK : Fld := ⟨8, 8⟩
abbrev MODE_CFG.FACE_HOLD : Fld := ⟨0, 8⟩
abbrev MODE_REDIR.TGT_0 : Fld := ⟨0, 3⟩
abbrev MODE_REDIR.TGT_1 : Fld := ⟨4, 3⟩
abbrev MODE_REDIR.TGT_2 : Fld := ⟨8, 3⟩
abbrev MODE_REDIR.TGT_3 : Fld := ⟨12, 3⟩
abbrev MODE_PERMIT.PERM : Fld := ⟨0, 32⟩
abbrev RST_CAUSE.SWSYS : Fld := ⟨8, 1⟩
abbrev RST_CAUSE.DEBUG : Fld := ⟨7, 1⟩
abbrev RST_CAUSE.REFCLK : Fld := ⟨6, 1⟩
abbrev RST_CAUSE.WDOG : Fld := ⟨5, 1⟩
abbrev RST_CAUSE.PIN : Fld := ⟨4, 1⟩
abbrev RST_CAUSE.BOR_IO : Fld := ⟨3, 1⟩
abbrev RST_CAUSE.BOR_A : Fld := ⟨2, 1⟩
abbrev RST_CAUSE.BOR_CORE : Fld := ⟨1, 1⟩
abbrev RST_CAUSE.POR : Fld := ⟨0, 1⟩
abbrev RST_CORE_CAUSE.CAUSE_0 : Fld := ⟨0, 3⟩
abbrev RST_CORE_CAUSE.CAUSE_1 : Fld := ⟨3, 3⟩
abbrev RST_CORE_CAUSE.CAUSE_2 : Fld := ⟨6, 3⟩
abbrev RST_CORE_CAUSE.CAUSE_3 : Fld := ⟨9, 3⟩
abbrev RST_CORE_CAUSE.CAUSE_4 : Fld := ⟨12, 3⟩
abbrev RST_CORE_CAUSE.CAUSE_5 : Fld := ⟨15, 3⟩
abbrev RST_CORE_CAUSE.CAUSE_6 : Fld := ⟨18, 3⟩
abbrev RST_REQ.KEY : Fld := ⟨16, 16⟩
abbrev RST_REQ.SYS : Fld := ⟨15, 1⟩
abbrev RST_REQ.CORE : Fld := ⟨0, 7⟩
abbrev WDOG_STAT.FOREIGN : Fld := ⟨31, 1⟩
abbrev WDOG_STAT.RUN : Fld := ⟨30, 1⟩
abbrev WDOG_STAT.BADKICK : Fld := ⟨29, 1⟩
abbrev WDOG_STAT.REMAIN : Fld := ⟨0, 16⟩
abbrev WDOG_KICK.VAL : Fld := ⟨0, 8⟩
abbrev WAKE_CFG.SAFE : Fld := ⟨9, 1⟩
abbrev WAKE_CFG.SRC : Fld := ⟨0, 8⟩
abbrev WAKE_STAT.SAFE : Fld := ⟨9, 1⟩
abbrev WAKE_STAT.SRC : Fld := ⟨0, 8⟩
abbrev LOAD_STAT.ERR_B : Fld := ⟨20, 4⟩
abbrev LOAD_STAT.ERR_A : Fld := ⟨16, 4⟩
abbrev LOAD_STAT.LIVE_SLOT : Fld := ⟨6, 1⟩
abbrev LOAD_STAT.FALLBACK : Fld := ⟨5, 1⟩
abbrev LOAD_STAT.SEQ_MISMATCH : Fld := ⟨4, 1⟩
abbrev LOAD_STAT.OTP_UE : Fld := ⟨3, 1⟩
abbrev LOAD_STAT.NOIMG : Fld := ⟨2, 1⟩
abbrev LOAD_STAT.DONE : Fld := ⟨1, 1⟩
abbrev LOAD_STAT.SLOT : Fld := ⟨0, 1⟩
abbrev LIVE_SEQ.SEQ : Fld := ⟨0, 32⟩
abbrev APWIN.BASE : Fld := ⟨0, 17⟩
abbrev CORE_ID.SPLIT : Fld := ⟨3, 1⟩
abbrev CORE_ID.P : Fld := ⟨0, 3⟩
abbrev CORE_STATUS.ENEST : Fld := ⟨24, 8⟩
abbrev CORE_STATUS.EMG : Fld := ⟨9, 1⟩
abbrev CORE_STATUS.LEVEL : Fld := ⟨7, 1⟩
abbrev CORE_STATUS.WORLD : Fld := ⟨6, 1⟩
abbrev CORE_STATUS.CPL : Fld := ⟨0, 5⟩
abbrev VBASE_PIT.BASE : Fld := ⟨7, 25⟩
abbrev VBASE_BANK.BASE : Fld := ⟨7, 25⟩
abbrev SP_PU.SP : Fld := ⟨0, 32⟩
abbrev SP_PS.SP : Fld := ⟨0, 32⟩
abbrev SP_BU.SP : Fld := ⟨0, 32⟩
abbrev SP_BS.SP : Fld := ⟨0, 32⟩
abbrev SLIM_PIT.ADDR : Fld := ⟨2, 30⟩
abbrev SLIM_BANK.ADDR : Fld := ⟨2, 30⟩
abbrev ESP.ADDR : Fld := ⟨2, 30⟩
abbrev ESLIM.ADDR : Fld := ⟨2, 30⟩
abbrev SYSENT_PIT.ADDR : Fld := ⟨2, 30⟩
abbrev SYSENT_PIT.UCALL : Fld := ⟨1, 1⟩
abbrev SYSENT_PIT.EN : Fld := ⟨0, 1⟩
abbrev SYSENT_BANK.ADDR : Fld := ⟨2, 30⟩
abbrev SYSENT_BANK.UCALL : Fld := ⟨1, 1⟩
abbrev SYSENT_BANK.EN : Fld := ⟨0, 1⟩
abbrev SRET_PIT.WL : Fld := ⟨20, 1⟩
abbrev SRET_PIT.PC : Fld := ⟨1, 19⟩
abbrev SRET_PIT.VALID : Fld := ⟨0, 1⟩
abbrev SRET_BANK.WL : Fld := ⟨20, 1⟩
abbrev SRET_BANK.PC : Fld := ⟨1, 19⟩
abbrev SRET_BANK.VALID : Fld := ⟨0, 1⟩
abbrev XRET_PIT.WL : Fld := ⟨20, 1⟩
abbrev XRET_PIT.PC : Fld := ⟨1, 19⟩
abbrev XRET_PIT.VALID : Fld := ⟨0, 1⟩
abbrev XRET_BANK.WL : Fld := ⟨20, 1⟩
abbrev XRET_BANK.PC : Fld := ⟨1, 19⟩
abbrev XRET_BANK.VALID : Fld := ⟨0, 1⟩
abbrev ENTRY_PIT.ADDR : Fld := ⟨2, 30⟩
abbrev ENTRY_PIT.UCALL : Fld := ⟨1, 1⟩
abbrev ENTRY_PIT.EN : Fld := ⟨0, 1⟩
abbrev ENTRY_BANK.ADDR : Fld := ⟨2, 30⟩
abbrev ENTRY_BANK.UCALL : Fld := ⟨1, 1⟩
abbrev ENTRY_BANK.EN : Fld := ⟨0, 1⟩
abbrev UREG_PIT_BASE.BASE : Fld := ⟨6, 26⟩
abbrev UREG_PIT_CFG.SIZE : Fld := ⟨8, 5⟩
abbrev UREG_PIT_CFG.X : Fld := ⟨3, 1⟩
abbrev UREG_PIT_CFG.W : Fld := ⟨2, 1⟩
abbrev UREG_PIT_CFG.R : Fld := ⟨1, 1⟩
abbrev UREG_PIT_CFG.EN : Fld := ⟨0, 1⟩
abbrev UREG_BANK_BASE.BASE : Fld := ⟨6, 26⟩
abbrev UREG_BANK_CFG.SIZE : Fld := ⟨8, 5⟩
abbrev UREG_BANK_CFG.X : Fld := ⟨3, 1⟩
abbrev UREG_BANK_CFG.W : Fld := ⟨2, 1⟩
abbrev UREG_BANK_CFG.R : Fld := ⟨1, 1⟩
abbrev UREG_BANK_CFG.EN : Fld := ⟨0, 1⟩
abbrev SHF.WORD : Fld := ⟨0, 32⟩
abbrev HW_BANK.SWAPS : Fld := ⟨24, 8⟩
abbrev HW_BANK.VERIFIED : Fld := ⟨8, 1⟩
abbrev HW_BANK.ARM : Fld := ⟨4, 1⟩
abbrev HW_BANK.ACTIVE : Fld := ⟨0, 1⟩
abbrev HW_RESUME.ADDR : Fld := ⟨1, 31⟩
abbrev CWDOG.EN : Fld := ⟨31, 1⟩
abbrev CWDOG.US : Fld := ⟨0, 24⟩
abbrev CWDOG_KICK.ANY : Fld := ⟨0, 32⟩
abbrev TS_CFG.EN : Fld := ⟨31, 1⟩
abbrev TS_CFG.HEXCL : Fld := ⟨16, 4⟩
abbrev TS_CFG.INTERVAL : Fld := ⟨0, 16⟩
abbrev TS_MASK_CH.EXCL : Fld := ⟨0, 32⟩
abbrev TS_REQ.GO : Fld := ⟨31, 1⟩
abbrev TS_REQ.TYPE : Fld := ⟨16, 3⟩
abbrev TS_REQ.TARGET : Fld := ⟨0, 7⟩
abbrev TS_STAT.BUDGET : Fld := ⟨31, 1⟩
abbrev TS_STAT.BUSY : Fld := ⟨30, 1⟩
abbrev TS_STAT.TYPE : Fld := ⟨27, 3⟩
abbrev TS_STAT.TARGET : Fld := ⟨16, 7⟩
abbrev TS_STAT.SKIP_CNT : Fld := ⟨8, 8⟩
abbrev TS_STAT.SKIP : Fld := ⟨2, 1⟩
abbrev TS_STAT.FAIL : Fld := ⟨1, 1⟩
abbrev TS_STAT.DONE : Fld := ⟨0, 1⟩
abbrev TS_RES.FAIL : Fld := ⟨31, 1⟩
abbrev TS_RES.TARGET : Fld := ⟨24, 7⟩
abbrev TS_RES.COV : Fld := ⟨14, 10⟩
abbrev TS_RES.DUR : Fld := ⟨0, 14⟩
abbrev TS_FAILED_CH.FAILED : Fld := ⟨0, 32⟩
abbrev TS_FAILED_UNIT.FACE : Fld := ⟨8, 8⟩
abbrev TS_FAILED_UNIT.DEP : Fld := ⟨4, 2⟩
abbrev TS_FAILED_UNIT.HEWER : Fld := ⟨0, 4⟩
abbrev TS_SVC.KEY : Fld := ⟨24, 8⟩
abbrev TS_SVC.UNIT : Fld := ⟨16, 3⟩
abbrev TS_SVC.INDEX : Fld := ⟨8, 7⟩
abbrev TS_SVC.CMD : Fld := ⟨0, 2⟩
abbrev TS_WD_CH.WD : Fld := ⟨0, 32⟩
abbrev TS_WD_UNIT.BUSY : Fld := ⟨17, 1⟩
abbrev TS_WD_UNIT.REJ : Fld := ⟨16, 1⟩
abbrev TS_WD_UNIT.FACE : Fld := ⟨8, 8⟩
abbrev TS_WD_UNIT.HEWER : Fld := ⟨0, 4⟩
abbrev TS_SEC.SCAN : Fld := ⟨2, 1⟩
abbrev TS_SEC.DBG : Fld := ⟨1, 1⟩
abbrev TS_SEC.CLEARED : Fld := ⟨0, 1⟩
abbrev MI_ERR_CNT.UE_CNT : Fld := ⟨16, 16⟩
abbrev MI_ERR_CNT.CE_CNT : Fld := ⟨0, 16⟩
abbrev MI_STAT.LAG : Fld := ⟨2, 1⟩
abbrev MI_STAT.UE : Fld := ⟨1, 1⟩
abbrev MI_STAT.CE : Fld := ⟨0, 1⟩
abbrev MI_UE_LO.ADDR : Fld := ⟨0, 32⟩
abbrev MI_UE_HI.ADDR : Fld := ⟨0, 16⟩
abbrev MI_UE_HI.REGION : Fld := ⟨16, 5⟩
abbrev MI_INJ_LO.ADDR : Fld := ⟨0, 32⟩
abbrev MI_INJ_HI.ADDR : Fld := ⟨0, 16⟩
abbrev MI_INJ_CTL.ARM : Fld := ⟨16, 1⟩
abbrev MI_INJ_CTL.EN1 : Fld := ⟨15, 1⟩
abbrev MI_INJ_CTL.POS1 : Fld := ⟨8, 6⟩
abbrev MI_INJ_CTL.EN0 : Fld := ⟨7, 1⟩
abbrev MI_INJ_CTL.POS0 : Fld := ⟨0, 6⟩
abbrev MI_SCRUB_CFG.PERIOD : Fld := ⟨0, 16⟩
abbrev MI_SCRUB_STAT.FIXED : Fld := ⟨16, 16⟩
abbrev MI_SCRUB_STAT.LAG : Fld := ⟨15, 1⟩
abbrev MI_SCRUB_STAT.PASSES : Fld := ⟨0, 15⟩
abbrev TUB_CFG.COUNT : Fld := ⟨16, 12⟩
abbrev TUB_CFG.FIRST : Fld := ⟨0, 11⟩
abbrev TUB_ALLOC.ADDR : Fld := ⟨0, 32⟩
abbrev TUB_FREE.ADDR : Fld := ⟨0, 32⟩
abbrev TUB_GIVE.BUF : Fld := ⟨11, 21⟩
abbrev TUB_GIVE.TAG : Fld := ⟨0, 8⟩
abbrev TUB_STAT.NONOWNER_CNT : Fld := ⟨24, 8⟩
abbrev TUB_STAT.CFG_REJ : Fld := ⟨20, 1⟩
abbrev TUB_STAT.LOW : Fld := ⟨19, 1⟩
abbrev TUB_STAT.BADADDR : Fld := ⟨18, 1⟩
abbrev TUB_STAT.NONOWNER : Fld := ⟨17, 1⟩
abbrev TUB_STAT.EMPTY : Fld := ⟨16, 1⟩
abbrev TUB_STAT.FREE : Fld := ⟨0, 12⟩
abbrev TUB_LOW.LEVEL : Fld := ⟨0, 12⟩
abbrev TUB_TAG.ALLOC : Fld := ⟨8, 1⟩
abbrev TUB_TAG.TAG : Fld := ⟨0, 8⟩
abbrev CNY_CFG.EN : Fld := ⟨31, 1⟩
abbrev CNY_CFG.VIO_5V : Fld := ⟨8, 1⟩
abbrev CNY_STAT.VREF : Fld := ⟨16, 16⟩
abbrev CNY_STAT.VIO_OUT : Fld := ⟨2, 1⟩
abbrev CNY_STAT.VDDA_OUT : Fld := ⟨1, 1⟩
abbrev CNY_STAT.VREF_FAULT : Fld := ⟨0, 1⟩
abbrev SHL_CFG.ISO_HOLD : Fld := ⟨16, 16⟩
abbrev SHL_CFG.LOST_HB : Fld := ⟨8, 4⟩
abbrev SHL_CFG.WAKE : Fld := ⟨0, 1⟩
abbrev SHL_STAT.PRESENT : Fld := ⟨24, 8⟩
abbrev SHL_STAT.LOST : Fld := ⟨16, 8⟩
abbrev SHL_STAT.ISOLATED : Fld := ⟨15, 1⟩
abbrev SHL_STAT.WRAPPED : Fld := ⟨14, 1⟩
abbrev SHL_STAT.CONFLICT : Fld := ⟨13, 1⟩
abbrev SHL_STAT.DUP_ID : Fld := ⟨12, 1⟩
abbrev SHL_STAT.STRAP_ERR : Fld := ⟨11, 1⟩
abbrev SHL_STAT.ID : Fld := ⟨8, 3⟩
abbrev SHL_STAT.ROLE : Fld := ⟨6, 2⟩
abbrev SHL_STAT.HOPS : Fld := ⟨3, 3⟩
abbrev SHL_PORT.PART_CNT : Fld := ⟨16, 16⟩
abbrev SHL_PORT.NBR : Fld := ⟨8, 3⟩
abbrev SHL_PORT.PCAL_OK : Fld := ⟨7, 1⟩
abbrev SHL_PORT.TIME_SRC : Fld := ⟨6, 1⟩
abbrev SHL_PORT.BAD_BLK : Fld := ⟨5, 1⟩
abbrev SHL_PORT.TTL_DROP : Fld := ⟨4, 1⟩
abbrev SHL_PORT.CRC_ERR : Fld := ⟨3, 1⟩
abbrev SHL_PORT.PART : Fld := ⟨2, 1⟩
abbrev SHL_PORT.CHG : Fld := ⟨1, 1⟩
abbrev SHL_PORT.UP : Fld := ⟨0, 1⟩
abbrev SHL_PDLY.DLY : Fld := ⟨0, 32⟩
abbrev SHL_GAP.DUP : Fld := ⟨16, 16⟩
abbrev SHL_GAP.GAP : Fld := ⟨0, 16⟩
abbrev SHL_GMARK.GRP : Fld := ⟨0, 32⟩
abbrev SIG_OWNMAP.OWNER_0 : Fld := ⟨0, 3⟩
abbrev SIG_OWNMAP.OWNER_1 : Fld := ⟨4, 3⟩
abbrev SIG_OWNMAP.OWNER_2 : Fld := ⟨8, 3⟩
abbrev SIG_OWNMAP.OWNER_3 : Fld := ⟨12, 3⟩
abbrev SIG_OWNMAP.OWNER_4 : Fld := ⟨16, 3⟩
abbrev SIG_OWNMAP.OWNER_5 : Fld := ⟨20, 3⟩
abbrev SIG_OWNMAP.OWNER_6 : Fld := ⟨24, 3⟩
abbrev SIG_OWNMAP.OWNER_7 : Fld := ⟨28, 3⟩
abbrev SIG_PUBEN.EN : Fld := ⟨0, 32⟩
abbrev SIG_REFRESH.MS : Fld := ⟨0, 16⟩
abbrev SIG_AGE_LIM.LIM : Fld := ⟨0, 16⟩
abbrev SIG_AGEQ_SEL.SIG : Fld := ⟨0, 17⟩
abbrev SIG_AGEQ.STALE : Fld := ⟨31, 1⟩
abbrev SIG_AGEQ.OWNED : Fld := ⟨30, 1⟩
abbrev SIG_AGEQ.AGE : Fld := ⟨0, 16⟩
abbrev SIG_STAT.FOREIGN_CNT : Fld := ⟨16, 16⟩
abbrev SIG_STAT.PUB_OVF : Fld := ⟨3, 1⟩
abbrev SIG_STAT.NARROW : Fld := ⟨2, 1⟩
abbrev SIG_STAT.FOREIGN_WR : Fld := ⟨1, 1⟩
abbrev SIG_PUBQ.FILL : Fld := ⟨0, 13⟩
abbrev MAC_CFG.EN : Fld := ⟨31, 1⟩
abbrev MAC_CFG.PROMISC : Fld := ⟨30, 1⟩
abbrev MAC_CFG.MCAST : Fld := ⟨29, 1⟩
abbrev MAC_CFG.UQ : Fld := ⟨25, 3⟩
abbrev MAC_CFG.CQ : Fld := ⟨22, 3⟩
abbrev MAC_CFG.MODE : Fld := ⟨20, 2⟩
abbrev MAC_CFG.MAXLEN : Fld := ⟨0, 14⟩
abbrev MAC_ADDR_LO.ADDR : Fld := ⟨0, 32⟩
abbrev MAC_ADDR_HI.ADDR : Fld := ⟨0, 16⟩
abbrev MAC_CTAG.VAL : Fld := ⟨0, 16⟩
abbrev MAC_CBS6.VAL : Fld := ⟨0, 16⟩
abbrev MAC_CBS7.VAL : Fld := ⟨0, 16⟩
abbrev MAC_STAT.FCS_CNT : Fld := ⟨16, 16⟩
abbrev MAC_STAT.RXERR : Fld := ⟨2, 1⟩
abbrev MAC_STAT.LINK_CHG : Fld := ⟨1, 1⟩
abbrev MAC_STAT.LINK : Fld := ⟨0, 1⟩
abbrev MAC_QSTAT.RXDONE : Fld := ⟨8, 8⟩
abbrev MAC_QSTAT.TXDONE : Fld := ⟨0, 8⟩
abbrev MAC_TXR_LO.BASE : Fld := ⟨0, 32⟩
abbrev MAC_TXR_HI.BASE : Fld := ⟨0, 16⟩
abbrev MAC_TXR_CTL.EN : Fld := ⟨31, 1⟩
abbrev MAC_TXR_CTL.RK : Fld := ⟨16, 5⟩
abbrev MAC_TXR_CTL.NEXT : Fld := ⟨0, 12⟩
abbrev MAC_RXR_LO.BASE : Fld := ⟨0, 32⟩
abbrev MAC_RXR_HI.BASE : Fld := ⟨0, 16⟩
abbrev MAC_RXR_CTL.EN : Fld := ⟨31, 1⟩
abbrev MAC_RXR_CTL.RK : Fld := ⟨16, 5⟩
abbrev MAC_RXR_CTL.NEXT : Fld := ⟨0, 12⟩
abbrev PCIE_OBASE_LO.ADDR : Fld := ⟨0, 32⟩
abbrev PCIE_OBASE_HI.ADDR : Fld := ⟨0, 32⟩
abbrev PCIE_B2WIN.BASE : Fld := ⟨0, 17⟩
abbrev PCIE_CFG.CTO : Fld := ⟨0, 4⟩
abbrev PCIE_MSIX_SEND.VAL : Fld := ⟨0, 6⟩
abbrev PCIE_STAT.WIDTH : Fld := ⟨6, 2⟩
abbrev PCIE_STAT.GEN : Fld := ⟨3, 3⟩
abbrev PCIE_STAT.OB_ERR : Fld := ⟨2, 1⟩
abbrev PCIE_STAT.LINK_CHG : Fld := ⟨1, 1⟩
abbrev PCIE_STAT.LINK : Fld := ⟨0, 1⟩
abbrev CAN_CTL.EN : Fld := ⟨31, 1⟩
abbrev CAN_CTL.LISTEN : Fld := ⟨30, 1⟩
abbrev CAN_CTL.LOOP : Fld := ⟨29, 1⟩
abbrev CAN_CTL.AUTO_REC : Fld := ⟨28, 1⟩
abbrev CAN_CTL.FD : Fld := ⟨27, 1⟩
abbrev CAN_CTL.TDCO : Fld := ⟨0, 8⟩
abbrev CAN_NBT.BRP : Fld := ⟨24, 8⟩
abbrev CAN_NBT.TSEG1 : Fld := ⟨16, 8⟩
abbrev CAN_NBT.TSEG2 : Fld := ⟨8, 7⟩
abbrev CAN_NBT.SJW : Fld := ⟨0, 7⟩
abbrev CAN_DBT.BRP : Fld := ⟨24, 8⟩
abbrev CAN_DBT.TSEG1 : Fld := ⟨16, 8⟩
abbrev CAN_DBT.TSEG2 : Fld := ⟨8, 7⟩
abbrev CAN_DBT.SJW : Fld := ⟨0, 7⟩
abbrev CAN_STAT.REC : Fld := ⟨24, 8⟩
abbrev CAN_STAT.TEC : Fld := ⟨16, 8⟩
abbrev CAN_STAT.CFG_ERR : Fld := ⟨6, 1⟩
abbrev CAN_STAT.RX_OVF : Fld := ⟨5, 1⟩
abbrev CAN_STAT.BUS_OFF : Fld := ⟨4, 1⟩
abbrev CAN_STAT.PASSIVE : Fld := ⟨3, 1⟩
abbrev CAN_STAT.ERR_CHG : Fld := ⟨2, 1⟩
abbrev CAN_STAT.TXDONE : Fld := ⟨1, 1⟩
abbrev CAN_STAT.RX_NE : Fld := ⟨0, 1⟩
abbrev CAN_TXREQ.REQ : Fld := ⟨0, 32⟩
abbrev CAN_TXABORT.BUF : Fld := ⟨0, 32⟩
abbrev CAN_TXSENT.SENT : Fld := ⟨0, 32⟩
abbrev CAN_RXPOP.ANY : Fld := ⟨0, 32⟩
abbrev CAN_RXFILL.FILL : Fld := ⟨0, 7⟩
abbrev CAN_FLT_ID.EN : Fld := ⟨31, 1⟩
abbrev CAN_FLT_ID.IDE : Fld := ⟨30, 1⟩
abbrev CAN_FLT_ID.ID : Fld := ⟨0, 29⟩
abbrev CAN_FLT_MASK.MASK : Fld := ⟨0, 29⟩
abbrev CAN_TXBUF.DATA : Fld := ⟨0, 32⟩
abbrev CAN_FIFO.DATA : Fld := ⟨0, 32⟩
abbrev XSPI_CFG.DIV : Fld := ⟨0, 8⟩
abbrev XSPI_ADDR.VAL : Fld := ⟨0, 32⟩
abbrev XSPI_CMD.CODE : Fld := ⟨16, 16⟩
abbrev XSPI_CMD.KIND : Fld := ⟨14, 2⟩
abbrev XSPI_CMD.ADDR_EN : Fld := ⟨13, 1⟩
abbrev XSPI_CMD.DUMMY : Fld := ⟨8, 5⟩
abbrev XSPI_LEN.VAL : Fld := ⟨0, 9⟩
abbrev XSPI_STAT.SLOT_REJ : Fld := ⟨2, 1⟩
abbrev XSPI_STAT.DONE : Fld := ⟨1, 1⟩
abbrev XSPI_STAT.BUSY : Fld := ⟨0, 1⟩
abbrev XSPI_WIN.DATA : Fld := ⟨0, 32⟩
abbrev GSPI_CFG.DIV : Fld := ⟨8, 8⟩
abbrev GSPI_CFG.MODE : Fld := ⟨0, 2⟩
abbrev GSPI_TXH.HOLD : Fld := ⟨9, 1⟩
abbrev GSPI_TXH.CS : Fld := ⟨5, 2⟩
abbrev GSPI_TXH.BITS : Fld := ⟨0, 5⟩
abbrev GSPI_TXD.DATA : Fld := ⟨0, 32⟩
abbrev GSPI_RX.DATA : Fld := ⟨0, 32⟩
abbrev GSPI_STAT.RX_FILL : Fld := ⟨16, 5⟩
abbrev GSPI_STAT.TX_FILL : Fld := ⟨8, 5⟩
abbrev GSPI_STAT.POLL_ERR : Fld := ⟨4, 4⟩
abbrev GSPI_STAT.RX_OVF : Fld := ⟨2, 1⟩
abbrev GSPI_STAT.TX_REJ : Fld := ⟨1, 1⟩
abbrev GSPI_STAT.BUSY : Fld := ⟨0, 1⟩
abbrev GSPI_POLL.EN : Fld := ⟨31, 1⟩
abbrev GSPI_POLL.BITS : Fld := ⟨16, 5⟩
abbrev GSPI_POLL.INT : Fld := ⟨0, 16⟩
abbrev GSPI_PWORD.VAL : Fld := ⟨0, 32⟩
abbrev GSPI_PEXP.VAL : Fld := ⟨0, 32⟩
abbrev GSPI_PMASK.VAL : Fld := ⟨0, 32⟩

/-! ## Addresses -/

/-- The register block of channel `n` (R9). -/
abbrev chBase (n : Nat) : Nat := 0x50000000 + n / 16 * 0x100000 + n % 16 * 0x1000

/-- The base of face `f` (R30). -/
abbrev faceBase (f : Nat) : Nat := 0x50000000 + f * 0x100000

/-- Keys of the core-local copies: processor `p`'s own copy of a register at local address `a` (R35, R245). -/
abbrev coreKey (p a : Nat) : Nat := (p + 1) * 0x100000000 + a

abbrev R.CH_AFE_CFG (n : Nat) : Nat := chBase n + 0x0
abbrev R.CH_ADC_CFG (n : Nat) : Nat := chBase n + 0x4
abbrev R.CH_ADC_DLY (n : Nat) : Nat := chBase n + 0x8
abbrev R.CH_ADC_INTERVAL (n : Nat) : Nat := chBase n + 0xC
abbrev R.CH_ADC_SWTRIG (n : Nat) : Nat := chBase n + 0x10
abbrev R.CH_ADC_STAT (n : Nat) : Nat := chBase n + 0x14
abbrev R.CH_RESULT (n : Nat) : Nat := chBase n + 0x18
abbrev R.CH_RESULT_DEC (n : Nat) : Nat := chBase n + 0x1C
abbrev R.CH_SMP_TIME (n : Nat) : Nat := chBase n + 0x20
abbrev R.CH_CMPA_THR (n : Nat) : Nat := chBase n + 0x24
abbrev R.CH_CMPB_THR (n : Nat) : Nat := chBase n + 0x28
abbrev R.CH_CMP_CFG (n : Nat) : Nat := chBase n + 0x2C
abbrev R.CH_CMP_STAT (n : Nat) : Nat := chBase n + 0x30
abbrev R.CH_CAL_OFS (n i : Nat) : Nat := chBase n + 0x40 + i * 0x4
abbrev R.CH_CAL_GAIN (n i : Nat) : Nat := chBase n + 0x60 + i * 0x4
abbrev R.CH_DUTY_LIVE (n : Nat) : Nat := chBase n + 0x80
abbrev R.CH_COMMIT_AT (n : Nat) : Nat := chBase n + 0x84
abbrev R.CH_COMMIT_STAT (n : Nat) : Nat := chBase n + 0x88
abbrev R.LE_CFG (n : Nat) : Nat := chBase n + 0xC0
abbrev R.LE_STAT (n : Nat) : Nat := chBase n + 0xC4
abbrev R.CH_BRIDGE (n : Nat) : Nat := chBase n + 0xC8
abbrev R.LE_INFO (n : Nat) : Nat := chBase n + 0xCC
abbrev R.LE_BIND (n i : Nat) : Nat := chBase n + 0x100 + i * 0x4
abbrev R.CH_PWM_CFG (n : Nat) : Nat := chBase n + 0x200
abbrev R.CH_PWM_CMP (n : Nat) : Nat := chBase n + 0x204
abbrev R.CH_PWM_EVC0 (n : Nat) : Nat := chBase n + 0x208
abbrev R.CH_PWM_EVC1 (n : Nat) : Nat := chBase n + 0x20C
abbrev R.CH_DT_H (n : Nat) : Nat := chBase n + 0x210
abbrev R.CH_DT_L (n : Nat) : Nat := chBase n + 0x214
abbrev R.CH_PWM_STAT (n : Nat) : Nat := chBase n + 0x21C
abbrev R.CH_PROT_CFG (n : Nat) : Nat := chBase n + 0x240
abbrev R.CH_PROT_BLANK (n : Nat) : Nat := chBase n + 0x244
abbrev R.CH_PROT_CBC (n : Nat) : Nat := chBase n + 0x248
abbrev R.CH_PROT_STAT (n : Nat) : Nat := chBase n + 0x24C
abbrev R.CH_PROT_CLR (n : Nat) : Nat := chBase n + 0x250
abbrev R.BR_SAFE_CFG (n : Nat) : Nat := chBase n + 0x260
abbrev R.BR_SAFE_STAT (n : Nat) : Nat := chBase n + 0x264
abbrev R.BR_SAFE_CLR (n : Nat) : Nat := chBase n + 0x268
abbrev R.FACE_SBY_CTL (f : Nat) : Nat := faceBase f + 0x10000
abbrev R.FACE_SBY_STAT (f : Nat) : Nat := faceBase f + 0x10004
abbrev R.FACE_SBY_CAL_OFS (f i : Nat) : Nat := faceBase f + 0x10010 + i * 0x4
abbrev R.FACE_SBY_CAL_GAIN (f i : Nat) : Nat := faceBase f + 0x10030 + i * 0x4
abbrev R.FACE_VREF_STAT (f : Nat) : Nat := faceBase f + 0x10050
abbrev R.FACE_ALOCK (f : Nat) : Nat := faceBase f + 0x10054
abbrev R.FACE_PLOCK (f : Nat) : Nat := faceBase f + 0x10058
abbrev R.FACE_XU_CFG (f : Nat) : Nat := faceBase f + 0x10100
abbrev R.FACE_SPR_CTL (f : Nat) : Nat := faceBase f + 0x10110
abbrev R.FACE_SPR_STAT (f : Nat) : Nat := faceBase f + 0x10114
abbrev R.FACE_CG_PERIOD (g : Nat) : Nat := faceBase (g / 4) + 0x10200 + g % 4 * 0x20
abbrev R.FACE_CG_CFG (g : Nat) : Nat := faceBase (g / 4) + 0x10204 + g % 4 * 0x20
abbrev R.FACE_CG_OFFSET (g : Nat) : Nat := faceBase (g / 4) + 0x10208 + g % 4 * 0x20
abbrev R.FACE_CG_SLEW (g : Nat) : Nat := faceBase (g / 4) + 0x1020C + g % 4 * 0x20
abbrev R.FACE_CG_COUNT (g : Nat) : Nat := faceBase (g / 4) + 0x10210 + g % 4 * 0x20
abbrev R.FACE_CG_RESID (g : Nat) : Nat := faceBase (g / 4) + 0x10214 + g % 4 * 0x20
abbrev R.FACE_CG_STAT (g : Nat) : Nat := faceBase (g / 4) + 0x10218 + g % 4 * 0x20
abbrev R.FACE_TBL_CFG (f i : Nat) : Nat := faceBase f + 0x11000 + i * 0x10
abbrev R.FACE_TBL_CTL (f i : Nat) : Nat := faceBase f + 0x11004 + i * 0x10
abbrev R.FACE_TBL_CRC (f i : Nat) : Nat := faceBase f + 0x11008 + i * 0x10
abbrev R.FACE_TBL_STAT (f i : Nat) : Nat := faceBase f + 0x1100C + i * 0x10
abbrev R.FEV_CFG (f i : Nat) : Nat := faceBase f + 0x12000 + i * 0x10
abbrev R.FEV_STAT (f i : Nat) : Nat := faceBase f + 0x12004 + i * 0x10
abbrev R.FACE_FEV_FIRE (f i : Nat) : Nat := faceBase f + 0x12400 + i * 0x4
abbrev R.TB_TIME_LO : Nat := 0x60000000
abbrev R.TB_TIME_HI : Nat := 0x60000004
abbrev R.TB_VTIME_LO : Nat := 0x60000008
abbrev R.TB_VTIME_HI : Nat := 0x6000000C
abbrev R.TB_VT_OFS_LO : Nat := 0x60000010
abbrev R.TB_VT_OFS_HI : Nat := 0x60000014
abbrev R.TB_RATE : Nat := 0x60000018
abbrev R.TB_SLEW : Nat := 0x6000001C
abbrev R.TB_ADJ : Nat := 0x60000020
abbrev R.TB_ADJ_REM : Nat := 0x60000024
abbrev R.TB_STEP_LO : Nat := 0x60000028
abbrev R.TB_STEP_HI : Nat := 0x6000002C
abbrev R.TB_CTL : Nat := 0x60000030
abbrev R.TB_STAT : Nat := 0x60000034
abbrev R.TB_EFF_RATE : Nat := 0x60000038
abbrev R.TA_LO (i : Nat) : Nat := 0x60000100 + i * 0x10
abbrev R.TA_HI (i : Nat) : Nat := 0x60000104 + i * 0x10
abbrev R.TA_REPEAT (i : Nat) : Nat := 0x60000108 + i * 0x10
abbrev R.TA_CTL (i : Nat) : Nat := 0x6000010C + i * 0x10
abbrev R.ANG_CFG (i : Nat) : Nat := 0x60010000 + i * 0x100
abbrev R.ANG_OFS (i : Nat) : Nat := 0x60010004 + i * 0x100
abbrev R.ANG_PUB (i : Nat) : Nat := 0x60010008 + i * 0x100
abbrev R.ANG_PUB_INT (i : Nat) : Nat := 0x6001000C + i * 0x100
abbrev R.ANG_POS (i : Nat) : Nat := 0x60010010 + i * 0x100
abbrev R.ANG_TP_LO (i : Nat) : Nat := 0x60010014 + i * 0x100
abbrev R.ANG_TP_HI (i : Nat) : Nat := 0x60010018 + i * 0x100
abbrev R.ANG_LAST (i : Nat) : Nat := 0x6001001C + i * 0x100
abbrev R.ANG_STAT (i : Nat) : Nat := 0x60010020 + i * 0x100
abbrev R.ANG_CNT (i : Nat) : Nat := 0x60010024 + i * 0x100
abbrev R.AEV_CFG (i : Nat) : Nat := 0x60011000 + i * 0x10
abbrev R.AEV_STAT (i : Nat) : Nat := 0x60011004 + i * 0x10
abbrev R.AEV_TIME (i : Nat) : Nat := 0x60011008 + i * 0x10
abbrev R.ENC_CFG (i : Nat) : Nat := 0x60012000 + i * 0x10
abbrev R.ENC_ZPOS (i : Nat) : Nat := 0x60012004 + i * 0x10
abbrev R.ENC_STAT (i : Nat) : Nat := 0x60012008 + i * 0x10
abbrev R.GEV_CFG (i : Nat) : Nat := 0x60020000 + i * 0x10
abbrev R.GEV_STAT (i : Nat) : Nat := 0x60020004 + i * 0x10
abbrev R.GEV_FIRE (i : Nat) : Nat := 0x60021000 + i * 0x4
abbrev R.GEV_LOCK (i : Nat) : Nat := 0x60022000 + i * 0x4
abbrev R.INT_DOORBELL : Nat := 0x60030000
abbrev R.INT_STAT : Nat := 0x60030004
abbrev R.SRC_CFG (i : Nat) : Nat := 0x60031000 + i * 0x4
abbrev R.SRC_COAL (i : Nat) : Nat := 0x60035000 + i * 0x4
abbrev R.INT_PEND (i : Nat) : Nat := 0x60039000 + i * 0x4
abbrev R.INT_ACT (i : Nat) : Nat := 0x60039200 + i * 0x4
abbrev R.TGT_CTL (i : Nat) : Nat := 0x6003A000 + i * 0x20
abbrev R.TGT_COMPLETE (i : Nat) : Nat := 0x6003A004 + i * 0x20
abbrev R.TGT_STAT (i : Nat) : Nat := 0x6003A008 + i * 0x20
abbrev R.TGT_TOP (i : Nat) : Nat := 0x6003A00C + i * 0x20
abbrev R.DMA_CFG (i : Nat) : Nat := 0x60040000 + i * 0x40
abbrev R.DMA_SRC_LO (i : Nat) : Nat := 0x60040004 + i * 0x40
abbrev R.DMA_SRC_HI (i : Nat) : Nat := 0x60040008 + i * 0x40
abbrev R.DMA_DST_LO (i : Nat) : Nat := 0x6004000C + i * 0x40
abbrev R.DMA_DST_HI (i : Nat) : Nat := 0x60040010 + i * 0x40
abbrev R.DMA_RING (i : Nat) : Nat := 0x60040014 + i * 0x40
abbrev R.DMA_PUT (i : Nat) : Nat := 0x60040018 + i * 0x40
abbrev R.DMA_TAKE (i : Nat) : Nat := 0x6004001C + i * 0x40
abbrev R.DMA_WM_HIGH (i : Nat) : Nat := 0x60040020 + i * 0x40
abbrev R.DMA_WM_LOW (i : Nat) : Nat := 0x60040024 + i * 0x40
abbrev R.DMA_COUNT (i : Nat) : Nat := 0x60040028 + i * 0x40
abbrev R.DMA_CTL (i : Nat) : Nat := 0x6004002C + i * 0x40
abbrev R.DMA_STAT (i : Nat) : Nat := 0x60040030 + i * 0x40
abbrev R.DMA_DONE_BYTES (i : Nat) : Nat := 0x60040034 + i * 0x40
abbrev R.DMA_DESC_LO (i : Nat) : Nat := 0x60040038 + i * 0x40
abbrev R.DMA_DESC_HI (i : Nat) : Nat := 0x6004003C + i * 0x40
abbrev R.DMA_GSTAT : Nat := 0x60041000
abbrev R.TALLY_HEAD : Nat := 0x60050000
abbrev R.TALLY_TAIL : Nat := 0x60050004
abbrev R.TALLY_STAT : Nat := 0x60050008
abbrev R.TALLY_SAFE : Nat := 0x6005000C
abbrev R.TALLY_OVF (i : Nat) : Nat := 0x60050800 + i * 0x4
abbrev R.CORER_CTL : Nat := 0x60060000
abbrev R.CORER_STAT : Nat := 0x60060004
abbrev R.CORER_HBASE_LO : Nat := 0x60060008
abbrev R.CORER_HBASE_HI : Nat := 0x6006000C
abbrev R.CORER_NET_DMAC_LO : Nat := 0x60060010
abbrev R.CORER_NET_DMAC_HI : Nat := 0x60060014
abbrev R.CORER_NET_SIP : Nat := 0x60060018
abbrev R.CORER_NET_DIP : Nat := 0x6006001C
abbrev R.CORER_NET_PORTS : Nat := 0x60060020
abbrev R.CORER_NET_CFG : Nat := 0x60060024
abbrev R.CORER_RD_LO : Nat := 0x60060040
abbrev R.CORER_RD_HI : Nat := 0x60060044
abbrev R.CORER_RD_CTL : Nat := 0x60060048
abbrev R.LANE_CFG (i : Nat) : Nat := 0x60061000 + i * 0x80
abbrev R.LANE_BUF (i : Nat) : Nat := 0x60061004 + i * 0x80
abbrev R.LANE_PRE (i : Nat) : Nat := 0x60061008 + i * 0x80
abbrev R.LANE_POST (i : Nat) : Nat := 0x6006100C + i * 0x80
abbrev R.LANE_REARM (i : Nat) : Nat := 0x60061010 + i * 0x80
abbrev R.LANE_COND (i j : Nat) : Nat := 0x60061014 + i * 0x80 + j * 0x4
abbrev R.LANE_CVAL (i j : Nat) : Nat := 0x60061024 + i * 0x80 + j * 0x4
abbrev R.LANE_SEG_BASE (i : Nat) : Nat := 0x60061034 + i * 0x80
abbrev R.LANE_SEG_COUNT (i : Nat) : Nat := 0x60061038 + i * 0x80
abbrev R.LANE_QUOTA (i : Nat) : Nat := 0x6006103C + i * 0x80
abbrev R.LANE_CTL (i : Nat) : Nat := 0x60061040 + i * 0x80
abbrev R.LANE_STAT (i : Nat) : Nat := 0x60061044 + i * 0x80
abbrev R.LANE_USE (i : Nat) : Nat := 0x60061048 + i * 0x80
abbrev R.LANE_TAIL (i : Nat) : Nat := 0x6006104C + i * 0x80
abbrev R.LANE_CNT (i : Nat) : Nat := 0x60061050 + i * 0x80
abbrev R.LANE_SEQ (i : Nat) : Nat := 0x60061054 + i * 0x80
abbrev R.STG_CTL : Nat := 0x60070000
abbrev R.STG_STATUS : Nat := 0x60070004
abbrev R.STG_FAIL_ADDR : Nat := 0x60070008
abbrev R.STG_ENTRIES : Nat := 0x6007000C
abbrev R.STG_TARGET_LO : Nat := 0x60070010
abbrev R.STG_TARGET_HI : Nat := 0x60070014
abbrev R.STG_APPLY_LO : Nat := 0x60070018
abbrev R.STG_APPLY_HI : Nat := 0x6007001C
abbrev R.STG_LAST_LO : Nat := 0x60070020
abbrev R.STG_LAST_HI : Nat := 0x60070024
abbrev R.STG_PEEK_ADDR : Nat := 0x60070028
abbrev R.STG_PEEK_DATA : Nat := 0x6007002C
abbrev R.STG_CASC_ARM : Nat := 0x60070030
abbrev R.UPD_CTL : Nat := 0x60070100
abbrev R.UPD_SECT_OFS : Nat := 0x60070104
abbrev R.UPD_PAGE : Nat := 0x60070108
abbrev R.UPD_STAT : Nat := 0x6007010C
abbrev R.UPD_SEQ : Nat := 0x60070110
abbrev R.IDREV : Nat := 0x60080000
abbrev R.DEP_STAT : Nat := 0x60080020
abbrev R.DEP_MIS_ADDR : Nat := 0x60080024
abbrev R.MODE_STAT : Nat := 0x60080040
abbrev R.MODE_CTL : Nat := 0x60080044
abbrev R.MODE_REL : Nat := 0x60080048
abbrev R.MODE_CFG : Nat := 0x6008004C
abbrev R.MODE_REDIR : Nat := 0x60080050
abbrev R.MODE_PERMIT (i : Nat) : Nat := 0x60080060 + i * 0x4
abbrev R.RST_CAUSE : Nat := 0x60080070
abbrev R.RST_CORE_CAUSE : Nat := 0x60080074
abbrev R.RST_REQ : Nat := 0x60080078
abbrev R.WDOG_STAT : Nat := 0x60080080
abbrev R.WDOG_KICK : Nat := 0x60080084
abbrev R.WAKE_CFG : Nat := 0x60080088
abbrev R.WAKE_STAT : Nat := 0x6008008C
abbrev R.LOAD_STAT : Nat := 0x60080090
abbrev R.LIVE_SEQ : Nat := 0x60080094
abbrev R.APWIN (p : Nat) : Nat := coreKey p (0x60080010)
abbrev R.CORE_ID (p : Nat) : Nat := coreKey p (0x60081000)
abbrev R.CORE_STATUS (p : Nat) : Nat := coreKey p (0x60081004)
abbrev R.VBASE_PIT (p : Nat) : Nat := coreKey p (0x60081008)
abbrev R.VBASE_BANK (p : Nat) : Nat := coreKey p (0x6008100C)
abbrev R.SP_PU (p : Nat) : Nat := coreKey p (0x60081010)
abbrev R.SP_PS (p : Nat) : Nat := coreKey p (0x60081014)
abbrev R.SP_BU (p : Nat) : Nat := coreKey p (0x60081018)
abbrev R.SP_BS (p : Nat) : Nat := coreKey p (0x6008101C)
abbrev R.SLIM_PIT (p : Nat) : Nat := coreKey p (0x60081020)
abbrev R.SLIM_BANK (p : Nat) : Nat := coreKey p (0x60081024)
abbrev R.ESP (p : Nat) : Nat := coreKey p (0x60081028)
abbrev R.ESLIM (p : Nat) : Nat := coreKey p (0x6008102C)
abbrev R.SYSENT_PIT (p : Nat) : Nat := coreKey p (0x60081030)
abbrev R.SYSENT_BANK (p : Nat) : Nat := coreKey p (0x60081034)
abbrev R.SRET_PIT (p : Nat) : Nat := coreKey p (0x60081038)
abbrev R.SRET_BANK (p : Nat) : Nat := coreKey p (0x6008103C)
abbrev R.XRET_PIT (p : Nat) : Nat := coreKey p (0x60081040)
abbrev R.XRET_BANK (p : Nat) : Nat := coreKey p (0x60081044)
abbrev R.ENTRY_PIT (p i : Nat) : Nat := coreKey p (0x60081080 + i * 0x4)
abbrev R.ENTRY_BANK (p i : Nat) : Nat := coreKey p (0x600810A0 + i * 0x4)
abbrev R.UREG_PIT_BASE (p i : Nat) : Nat := coreKey p (0x60081100 + i * 0x8)
abbrev R.UREG_PIT_CFG (p i : Nat) : Nat := coreKey p (0x60081104 + i * 0x8)
abbrev R.UREG_BANK_BASE (p i : Nat) : Nat := coreKey p (0x60081140 + i * 0x8)
abbrev R.UREG_BANK_CFG (p i : Nat) : Nat := coreKey p (0x60081144 + i * 0x8)
abbrev R.SHF (p i : Nat) : Nat := coreKey p (0x60081180 + i * 0x4)
abbrev R.HW_BANK (p : Nat) : Nat := coreKey p (0x600811C0)
abbrev R.HW_RESUME (p : Nat) : Nat := coreKey p (0x600811C4)
abbrev R.CWDOG (p : Nat) : Nat := coreKey p (0x60081200)
abbrev R.CWDOG_KICK (p : Nat) : Nat := coreKey p (0x60081204)
abbrev R.TS_CFG (i : Nat) : Nat := 0x60090000 + i * 0x4
abbrev R.TS_MASK_CH (i : Nat) : Nat := 0x60090020 + i * 0x4
abbrev R.TS_REQ : Nat := 0x60090030
abbrev R.TS_STAT : Nat := 0x60090034
abbrev R.TS_RES (i : Nat) : Nat := 0x60090040 + i * 0x4
abbrev R.TS_FAILED_CH (i : Nat) : Nat := 0x60090060 + i * 0x4
abbrev R.TS_FAILED_UNIT : Nat := 0x60090070
abbrev R.TS_SVC : Nat := 0x60090080
abbrev R.TS_WD_CH (i : Nat) : Nat := 0x60090090 + i * 0x4
abbrev R.TS_WD_UNIT : Nat := 0x600900A0
abbrev R.TS_SEC : Nat := 0x600900C0
abbrev R.MI_ERR_CNT (i : Nat) : Nat := 0x600A0000 + i * 0x4
abbrev R.MI_STAT : Nat := 0x600A0080
abbrev R.MI_UE_LO : Nat := 0x600A0084
abbrev R.MI_UE_HI : Nat := 0x600A0088
abbrev R.MI_INJ_LO : Nat := 0x600A00C0
abbrev R.MI_INJ_HI : Nat := 0x600A00C4
abbrev R.MI_INJ_CTL : Nat := 0x600A00C8
abbrev R.MI_SCRUB_CFG (i : Nat) : Nat := 0x600A0100 + i * 0x8
abbrev R.MI_SCRUB_STAT (i : Nat) : Nat := 0x600A0104 + i * 0x8
abbrev R.TUB_CFG : Nat := 0x600B0000
abbrev R.TUB_ALLOC : Nat := 0x600B0004
abbrev R.TUB_FREE : Nat := 0x600B0008
abbrev R.TUB_GIVE : Nat := 0x600B000C
abbrev R.TUB_STAT : Nat := 0x600B0010
abbrev R.TUB_LOW : Nat := 0x600B0014
abbrev R.TUB_TAG (i : Nat) : Nat := 0x600B1000 + i * 0x4
abbrev R.CNY_CFG (i : Nat) : Nat := 0x600C0000 + i * 0x10
abbrev R.CNY_STAT (i : Nat) : Nat := 0x600C0004 + i * 0x10
abbrev R.SHL_CFG : Nat := 0x60100000
abbrev R.SHL_STAT : Nat := 0x60100004
abbrev R.SHL_PORT (i : Nat) : Nat := 0x60100010 + i * 0x4
abbrev R.SHL_PDLY (i : Nat) : Nat := 0x60100018 + i * 0x4
abbrev R.SHL_GAP (i : Nat) : Nat := 0x60100020 + i * 0x4
abbrev R.SHL_GMARK : Nat := 0x60100040
abbrev R.SIG_OWNMAP (i : Nat) : Nat := 0x60108000 + i * 0x4
abbrev R.SIG_PUBEN (i : Nat) : Nat := 0x60108040 + i * 0x4
abbrev R.SIG_REFRESH : Nat := 0x60108050
abbrev R.SIG_AGE_LIM : Nat := 0x60108054
abbrev R.SIG_AGEQ_SEL : Nat := 0x60108058
abbrev R.SIG_AGEQ : Nat := 0x6010805C
abbrev R.SIG_STAT : Nat := 0x60108060
abbrev R.SIG_PUBQ : Nat := 0x60108064
abbrev R.MAC_CFG (i : Nat) : Nat := 0x60110000 + i * 0x10000
abbrev R.MAC_ADDR_LO (i : Nat) : Nat := 0x60110004 + i * 0x10000
abbrev R.MAC_ADDR_HI (i : Nat) : Nat := 0x60110008 + i * 0x10000
abbrev R.MAC_CTAG (i : Nat) : Nat := 0x6011000C + i * 0x10000
abbrev R.MAC_CBS6 (i : Nat) : Nat := 0x60110010 + i * 0x10000
abbrev R.MAC_CBS7 (i : Nat) : Nat := 0x60110014 + i * 0x10000
abbrev R.MAC_STAT (i : Nat) : Nat := 0x60110018 + i * 0x10000
abbrev R.MAC_QSTAT (i : Nat) : Nat := 0x6011001C + i * 0x10000
abbrev R.MAC_TXR_LO (i j : Nat) : Nat := 0x60110100 + i * 0x10000 + j * 0x10
abbrev R.MAC_TXR_HI (i j : Nat) : Nat := 0x60110104 + i * 0x10000 + j * 0x10
abbrev R.MAC_TXR_CTL (i j : Nat) : Nat := 0x60110108 + i * 0x10000 + j * 0x10
abbrev R.MAC_RXR_LO (i j : Nat) : Nat := 0x60110200 + i * 0x10000 + j * 0x10
abbrev R.MAC_RXR_HI (i j : Nat) : Nat := 0x60110204 + i * 0x10000 + j * 0x10
abbrev R.MAC_RXR_CTL (i j : Nat) : Nat := 0x60110208 + i * 0x10000 + j * 0x10
abbrev R.PCIE_OBASE_LO : Nat := 0x60130000
abbrev R.PCIE_OBASE_HI : Nat := 0x60130004
abbrev R.PCIE_B2WIN : Nat := 0x60130008
abbrev R.PCIE_CFG : Nat := 0x6013000C
abbrev R.PCIE_MSIX_SEND : Nat := 0x60130010
abbrev R.PCIE_STAT : Nat := 0x60130014
abbrev R.CAN_CTL (i : Nat) : Nat := 0x60140000 + i * 0x1000
abbrev R.CAN_NBT (i : Nat) : Nat := 0x60140004 + i * 0x1000
abbrev R.CAN_DBT (i : Nat) : Nat := 0x60140008 + i * 0x1000
abbrev R.CAN_STAT (i : Nat) : Nat := 0x6014000C + i * 0x1000
abbrev R.CAN_TXREQ (i : Nat) : Nat := 0x60140010 + i * 0x1000
abbrev R.CAN_TXABORT (i : Nat) : Nat := 0x60140014 + i * 0x1000
abbrev R.CAN_TXSENT (i : Nat) : Nat := 0x60140018 + i * 0x1000
abbrev R.CAN_RXPOP (i : Nat) : Nat := 0x6014001C + i * 0x1000
abbrev R.CAN_RXFILL (i : Nat) : Nat := 0x60140020 + i * 0x1000
abbrev R.CAN_FLT_ID (i j : Nat) : Nat := 0x60140100 + i * 0x1000 + j * 0x8
abbrev R.CAN_FLT_MASK (i j : Nat) : Nat := 0x60140104 + i * 0x1000 + j * 0x8
abbrev R.CAN_TXBUF (i j k : Nat) : Nat := 0x60140400 + i * 0x1000 + j * 0x50 + k * 0x4
abbrev R.CAN_FIFO (i j : Nat) : Nat := 0x60140E00 + i * 0x1000 + j * 0x4
abbrev R.XSPI_CFG : Nat := 0x60180000
abbrev R.XSPI_ADDR : Nat := 0x60180004
abbrev R.XSPI_CMD : Nat := 0x60180008
abbrev R.XSPI_LEN : Nat := 0x6018000C
abbrev R.XSPI_STAT : Nat := 0x60180010
abbrev R.XSPI_WIN (i : Nat) : Nat := 0x60181000 + i * 0x4
abbrev R.GSPI_CFG (i j : Nat) : Nat := 0x60190000 + i * 0x1000 + j * 0x4
abbrev R.GSPI_TXH (i : Nat) : Nat := 0x60190010 + i * 0x1000
abbrev R.GSPI_TXD (i : Nat) : Nat := 0x60190014 + i * 0x1000
abbrev R.GSPI_RX (i : Nat) : Nat := 0x60190018 + i * 0x1000
abbrev R.GSPI_STAT (i : Nat) : Nat := 0x6019001C + i * 0x1000
abbrev R.GSPI_POLL (i j : Nat) : Nat := 0x60190020 + i * 0x1000 + j * 0x10
abbrev R.GSPI_PWORD (i j : Nat) : Nat := 0x60190024 + i * 0x1000 + j * 0x10
abbrev R.GSPI_PEXP (i j : Nat) : Nat := 0x60190028 + i * 0x1000 + j * 0x10
abbrev R.GSPI_PMASK (i j : Nat) : Nat := 0x6019002C + i * 0x1000 + j * 0x10

/-! ## The tables -/

def regsFaceChannels0 : List RegSpec := [
  ⟨.CH_AFE_CFG, 0x0, [], .C, .alock 0,
    [⟨CH_AFE_CFG.INSEL, .st, 0⟩, ⟨CH_AFE_CFG.GAIN, .st, 0⟩]⟩,
  ⟨.CH_ADC_CFG, 0x4, [], .C, .alock 0,
    [⟨CH_ADC_CFG.FEV, .st, 0⟩, ⟨CH_ADC_CFG.SRC, .st, 0⟩, ⟨CH_ADC_CFG.DEC, .st, 0⟩, ⟨CH_ADC_CFG.ACQ, .st, 8⟩]⟩,
  ⟨.CH_ADC_DLY, 0x8, [], .C, .alock 0,
    [⟨CH_ADC_DLY.SMP_DLY, .st, 0⟩]⟩,
  ⟨.CH_ADC_INTERVAL, 0xC, [], .C, .alock 0,
    [⟨CH_ADC_INTERVAL.INTERVAL, .st, 0x2710⟩]⟩,
  ⟨.CH_ADC_SWTRIG, 0x10, [], .C, .unlocked,
    [⟨CH_ADC_SWTRIG.GO, .wo, 0⟩]⟩,
  ⟨.CH_ADC_STAT, 0x14, [], .C, .unlocked,
    [⟨CH_ADC_STAT.OVR_CNT, .ro, 0⟩, ⟨CH_ADC_STAT.INSEL_IGN, .ro, 0⟩, ⟨CH_ADC_STAT.BUSY, .ro, 0⟩, ⟨CH_ADC_STAT.DEC_PART, .w1c, 0⟩, ⟨CH_ADC_STAT.GSETTLE, .w1c, 0⟩, ⟨CH_ADC_STAT.CLIP, .w1c, 0⟩, ⟨CH_ADC_STAT.ACQ_SHORT, .w1c, 0⟩, ⟨CH_ADC_STAT.OVR, .w1c, 0⟩]⟩,
  ⟨.CH_RESULT, 0x18, [], .C, .unlocked,
    [⟨CH_RESULT.SEQ, .ro, 0⟩, ⟨CH_RESULT.GSETTLE, .ro, 0⟩, ⟨CH_RESULT.ACQ_SHORT, .ro, 0⟩, ⟨CH_RESULT.SBY, .ro, 0⟩, ⟨CH_RESULT.CLIP, .ro, 0⟩, ⟨CH_RESULT.DATA, .ro, 0⟩]⟩,
  ⟨.CH_RESULT_DEC, 0x1C, [], .C, .unlocked,
    [⟨CH_RESULT_DEC.FLAGS, .ro, 0⟩, ⟨CH_RESULT_DEC.DATA, .ro, 0⟩]⟩,
  ⟨.CH_SMP_TIME, 0x20, [], .C, .unlocked,
    [⟨CH_SMP_TIME.TIME, .ro, 0⟩]⟩,
  ⟨.CH_CMPA_THR, 0x24, [], .C, .alock 1,
    [⟨CH_CMPA_THR.HI, .st, 0x7FF⟩, ⟨CH_CMPA_THR.LO, .st, 0x800⟩]⟩,
  ⟨.CH_CMPB_THR, 0x28, [], .C, .alock 1,
    [⟨CH_CMPB_THR.HI, .st, 0x7FF⟩, ⟨CH_CMPB_THR.LO, .st, 0x800⟩]⟩,
  ⟨.CH_CMP_CFG, 0x2C, [], .C, .alock 1,
    [⟨CH_CMP_CFG.B_FILT, .st, 0⟩, ⟨CH_CMP_CFG.B_HYST, .st, 0⟩, ⟨CH_CMP_CFG.B_MODE, .st, 0⟩, ⟨CH_CMP_CFG.B_EN, .st, 0⟩, ⟨CH_CMP_CFG.A_FILT, .st, 0⟩, ⟨CH_CMP_CFG.A_HYST, .st, 0⟩, ⟨CH_CMP_CFG.A_MODE, .st, 0⟩, ⟨CH_CMP_CFG.A_EN, .st, 0⟩]⟩,
  ⟨.CH_CMP_STAT, 0x30, [], .C, .unlocked,
    [⟨CH_CMP_STAT.B_HIT, .w1c, 0⟩, ⟨CH_CMP_STAT.A_HIT, .w1c, 0⟩, ⟨CH_CMP_STAT.B_OUT, .ro, 0⟩, ⟨CH_CMP_STAT.A_OUT, .ro, 0⟩]⟩,
  ⟨.CH_CAL_OFS, 0x40, [(5, 0x4)], .C, .alock 0,
    [⟨CH_CAL_OFS.OFS, .st, 0⟩]⟩,
  ⟨.CH_CAL_GAIN, 0x60, [(5, 0x4)], .C, .alock 0,
    [⟨CH_CAL_GAIN.GAIN, .st, 0x20000⟩]⟩,
  ⟨.CH_DUTY_LIVE, 0x80, [], .C, .unlocked,
    [⟨CH_DUTY_LIVE.E, .ro, 0⟩]⟩,
  ⟨.CH_COMMIT_AT, 0x84, [], .C, .unlocked,
    [⟨CH_COMMIT_AT.TC, .ro, 0⟩]⟩,
  ⟨.CH_COMMIT_STAT, 0x88, [], .C, .unlocked,
    [⟨CH_COMMIT_STAT.LATE_CNT, .ro, 0⟩, ⟨CH_COMMIT_STAT.CLAMP_CNT, .ro, 0⟩, ⟨CH_COMMIT_STAT.LATE, .w1c, 0⟩, ⟨CH_COMMIT_STAT.CLAMP, .w1c, 0⟩, ⟨CH_COMMIT_STAT.SAME, .ro, 0⟩]⟩,
  ⟨.LE_CFG, 0xC0, [], .C, .unlocked,
    [⟨LE_CFG.CLR_ON_LOAD, .st, 0⟩, ⟨LE_CFG.FEV, .st, 0⟩, ⟨LE_CFG.START, .st, 0⟩]⟩,
  ⟨.LE_STAT, 0xC4, [], .C, .unlocked,
    [⟨LE_STAT.OVR_CNT, .ro, 0⟩, ⟨LE_STAT.RUN_CNT, .ro, 0⟩, ⟨LE_STAT.CMT_BLK, .w1c, 0⟩, ⟨LE_STAT.MEMERR, .w1c, 0⟩, ⟨LE_STAT.BADOP, .w1c, 0⟩, ⟨LE_STAT.LEG_MISS, .w1c, 0⟩, ⟨LE_STAT.XFM_REJ, .w1c, 0⟩, ⟨LE_STAT.PUB_DROP, .w1c, 0⟩, ⟨LE_STAT.CMT_REJ, .w1c, 0⟩, ⟨LE_STAT.SAT, .w1c, 0⟩, ⟨LE_STAT.OVR, .w1c, 0⟩, ⟨LE_STAT.RUN, .ro, 0⟩]⟩]

def regsFaceChannels1 : List RegSpec := [
  ⟨.CH_BRIDGE, 0xC8, [], .C, .unlocked,
    [⟨CH_BRIDGE.LEGS, .st, 0⟩, ⟨CH_BRIDGE.LEG, .st, 0⟩, ⟨CH_BRIDGE.LEADER, .st, 0⟩]⟩,
  ⟨.LE_INFO, 0xCC, [], .C, .unlocked,
    [⟨LE_INFO.WEIGHT, .ro, 0x20⟩]⟩,
  ⟨.LE_BIND, 0x100, [(16, 0x4)], .C, .unlocked,
    [⟨LE_BIND.EN, .st, 0⟩, ⟨LE_BIND.SIG, .st, 0⟩]⟩,
  ⟨.CH_PWM_CFG, 0x200, [], .C, .plock 0,
    [⟨CH_PWM_CFG.INV_L, .st, 0⟩, ⟨CH_PWM_CFG.INV_H, .st, 0⟩, ⟨CH_PWM_CFG.SWAP, .st, 0⟩, ⟨CH_PWM_CFG.LMODE, .st, 0⟩, ⟨CH_PWM_CFG.CG, .st, 0⟩]⟩,
  ⟨.CH_PWM_CMP, 0x204, [], .C, .unlocked,
    [⟨CH_PWM_CMP.CMP, .st, 0⟩]⟩,
  ⟨.CH_PWM_EVC0, 0x208, [], .C, .unlocked,
    [⟨CH_PWM_EVC0.EVC, .st, 0xFFFFFFFF⟩]⟩,
  ⟨.CH_PWM_EVC1, 0x20C, [], .C, .unlocked,
    [⟨CH_PWM_EVC1.EVC, .st, 0xFFFFFFFF⟩]⟩,
  ⟨.CH_DT_H, 0x210, [], .C, .plock 0,
    [⟨CH_DT_H.FALL, .st, 0⟩, ⟨CH_DT_H.RISE, .st, 0⟩]⟩,
  ⟨.CH_DT_L, 0x214, [], .C, .plock 0,
    [⟨CH_DT_L.FALL, .st, 0⟩, ⟨CH_DT_L.RISE, .st, 0⟩]⟩,
  ⟨.CH_PWM_STAT, 0x21C, [], .C, .unlocked,
    [⟨CH_PWM_STAT.INTLK, .w1c, 0⟩, ⟨CH_PWM_STAT.GL_ON, .ro, 0⟩, ⟨CH_PWM_STAT.GH_ON, .ro, 0⟩]⟩,
  ⟨.CH_PROT_CFG, 0x240, [], .C, .plock 1,
    [⟨CH_PROT_CFG.BLK_CMPB, .st, 0⟩, ⟨CH_PROT_CFG.BLK_CMPA, .st, 0⟩, ⟨CH_PROT_CFG.CMPB_ESC, .st, 0⟩, ⟨CH_PROT_CFG.CMPA_ESC, .st, 0⟩, ⟨CH_PROT_CFG.FLT_ESC, .st, 1⟩, ⟨CH_PROT_CFG.CMPB_ACT, .st, 0⟩, ⟨CH_PROT_CFG.CMPA_ACT, .st, 0⟩, ⟨CH_PROT_CFG.FLT_ACT, .st, 2⟩]⟩,
  ⟨.CH_PROT_BLANK, 0x244, [], .C, .plock 1,
    [⟨CH_PROT_BLANK.BLANK, .st, 0⟩]⟩,
  ⟨.CH_PROT_CBC, 0x248, [], .C, .plock 1,
    [⟨CH_PROT_CBC.N, .st, 0⟩, ⟨CH_PROT_CBC.M, .st, 1⟩]⟩,
  ⟨.CH_PROT_STAT, 0x24C, [], .C, .unlocked,
    [⟨CH_PROT_STAT.TRIP_CNT, .ro, 0⟩, ⟨CH_PROT_STAT.WIN_CNT, .ro, 0⟩, ⟨CH_PROT_STAT.FLT_IN, .ro, 0⟩, ⟨CH_PROT_STAT.LAT_CMPB, .ro, 0⟩, ⟨CH_PROT_STAT.LAT_CMPA, .ro, 0⟩, ⟨CH_PROT_STAT.LAT_FLT, .ro, 0⟩, ⟨CH_PROT_STAT.LATCHED, .ro, 0⟩, ⟨CH_PROT_STAT.CYC, .ro, 0⟩, ⟨CH_PROT_STAT.SUPP, .w1c, 0⟩, ⟨CH_PROT_STAT.CLR_REJECT, .w1c, 0⟩, ⟨CH_PROT_STAT.BLANKED_HIT, .w1c, 0⟩, ⟨CH_PROT_STAT.BLANK, .ro, 0⟩, ⟨CH_PROT_STAT.TRIP, .w1c, 0⟩]⟩,
  ⟨.CH_PROT_CLR, 0x250, [], .C, .unlocked,
    [⟨CH_PROT_CLR.CLR, .wo, 0⟩]⟩,
  ⟨.BR_SAFE_CFG, 0x260, [], .C, .plock 1,
    [⟨BR_SAFE_CFG.SAFE_DT, .st, 0⟩, ⟨BR_SAFE_CFG.ESC_LEGS, .st, 2⟩, ⟨BR_SAFE_CFG.PATTERN, .st, 0⟩]⟩,
  ⟨.BR_SAFE_STAT, 0x264, [], .C, .unlocked,
    [⟨BR_SAFE_STAT.LEGMASK, .ro, 0⟩, ⟨BR_SAFE_STAT.CLR_REJECT, .w1c, 0⟩, ⟨BR_SAFE_STAT.RST, .ro, 0⟩, ⟨BR_SAFE_STAT.MODE, .ro, 0⟩, ⟨BR_SAFE_STAT.ESC, .ro, 0⟩, ⟨BR_SAFE_STAT.SAFE, .ro, 0⟩]⟩,
  ⟨.BR_SAFE_CLR, 0x268, [], .C, .unlocked,
    [⟨BR_SAFE_CLR.CLR, .wo, 0⟩]⟩]

def regsFaceCommon0 : List RegSpec := [
  ⟨.FACE_SBY_CTL, 0x10000, [], .C, .unlocked,
    [⟨FACE_SBY_CTL.TOL, .rw, 0x10⟩, ⟨FACE_SBY_CTL.SHADOW, .rw, 3⟩, ⟨FACE_SBY_CTL.CMD, .wo, 0⟩, ⟨FACE_SBY_CTL.TARGET, .rw, 0⟩]⟩,
  ⟨.FACE_SBY_STAT, 0x10004, [], .C, .unlocked,
    [⟨FACE_SBY_STAT.MAXDIFF, .ro, 0⟩, ⟨FACE_SBY_STAT.CMD_REJECT, .w1c, 0⟩, ⟨FACE_SBY_STAT.MISMATCH, .w1c, 0⟩, ⟨FACE_SBY_STAT.CUR_TARGET, .ro, 0⟩, ⟨FACE_SBY_STAT.PEND, .ro, 0⟩, ⟨FACE_SBY_STAT.STATE, .ro, 0⟩]⟩,
  ⟨.FACE_SBY_CAL_OFS, 0x10010, [(5, 0x4)], .C, .alock 0,
    [⟨FACE_SBY_CAL_OFS.OFS, .st, 0⟩]⟩,
  ⟨.FACE_SBY_CAL_GAIN, 0x10030, [(5, 0x4)], .C, .alock 0,
    [⟨FACE_SBY_CAL_GAIN.GAIN, .st, 0x20000⟩]⟩,
  ⟨.FACE_VREF_STAT, 0x10050, [], .C, .unlocked,
    [⟨FACE_VREF_STAT.FAULT, .ro, 0⟩, ⟨FACE_VREF_STAT.READY, .ro, 0⟩]⟩,
  ⟨.FACE_ALOCK, 0x10054, [], .C, .unlocked,
    [⟨FACE_ALOCK.LOCK_CMP, .w1s, 0⟩, ⟨FACE_ALOCK.LOCK_AFE, .w1s, 0⟩]⟩,
  ⟨.FACE_PLOCK, 0x10058, [], .C, .unlocked,
    [⟨FACE_PLOCK.LOCK_CG, .w1s, 0⟩, ⟨FACE_PLOCK.LOCK_PROT, .w1s, 0⟩, ⟨FACE_PLOCK.LOCK_EDGE, .w1s, 0⟩]⟩,
  ⟨.FACE_XU_CFG, 0x10100, [], .C, .unlocked,
    [⟨FACE_XU_CFG.OWNER1, .st, 0x1F⟩, ⟨FACE_XU_CFG.OWNER0, .st, 0x1F⟩]⟩,
  ⟨.FACE_SPR_CTL, 0x10110, [], .C, .unlocked,
    [⟨FACE_SPR_CTL.SHADOW, .rw, 3⟩, ⟨FACE_SPR_CTL.CMD, .wo, 0⟩, ⟨FACE_SPR_CTL.TARGET, .rw, 0⟩]⟩,
  ⟨.FACE_SPR_STAT, 0x10114, [], .C, .unlocked,
    [⟨FACE_SPR_STAT.MIS_CNT, .ro, 0⟩, ⟨FACE_SPR_STAT.CMD_REJECT, .w1c, 0⟩, ⟨FACE_SPR_STAT.MISMATCH, .w1c, 0⟩, ⟨FACE_SPR_STAT.CUR_TARGET, .ro, 0⟩, ⟨FACE_SPR_STAT.PEND, .ro, 0⟩, ⟨FACE_SPR_STAT.STATE, .ro, 0⟩]⟩,
  ⟨.FACE_CG_PERIOD, 0x10200, [(4, 0x20)], .C, .plock 2,
    [⟨FACE_CG_PERIOD.PERIOD, .st, 0x1E8480⟩]⟩,
  ⟨.FACE_CG_CFG, 0x10204, [(4, 0x20)], .C, .plock 2,
    [⟨FACE_CG_CFG.FEV, .st, 0⟩, ⟨FACE_CG_CFG.SYNC_GRP, .st, 0⟩, ⟨FACE_CG_CFG.SYNC, .st, 0⟩, ⟨FACE_CG_CFG.EN, .st, 0⟩]⟩,
  ⟨.FACE_CG_OFFSET, 0x10208, [(4, 0x20)], .C, .plock 2,
    [⟨FACE_CG_OFFSET.OFFSET, .st, 0⟩]⟩,
  ⟨.FACE_CG_SLEW, 0x1020C, [(4, 0x20)], .C, .plock 2,
    [⟨FACE_CG_SLEW.SLEW, .st, 0⟩]⟩,
  ⟨.FACE_CG_COUNT, 0x10210, [(4, 0x20)], .C, .unlocked,
    [⟨FACE_CG_COUNT.COUNT, .ro, 0⟩]⟩,
  ⟨.FACE_CG_RESID, 0x10214, [(4, 0x20)], .C, .unlocked,
    [⟨FACE_CG_RESID.RESID, .ro, 0⟩]⟩,
  ⟨.FACE_CG_STAT, 0x10218, [(4, 0x20)], .C, .unlocked,
    [⟨FACE_CG_STAT.SYNC_IGN, .w1c, 0⟩, ⟨FACE_CG_STAT.LOCKED, .ro, 0⟩, ⟨FACE_CG_STAT.RUN, .ro, 0⟩]⟩,
  ⟨.FACE_TBL_CFG, 0x11000, [(32, 0x10)], .C, .unlocked,
    [⟨FACE_TBL_CFG.SYNC_CH, .rw, 0⟩, ⟨FACE_TBL_CFG.L_NEXT, .rw, 1⟩]⟩,
  ⟨.FACE_TBL_CTL, 0x11004, [(32, 0x10)], .C, .unlocked,
    [⟨FACE_TBL_CTL.ABANDON, .wo, 0⟩, ⟨FACE_TBL_CTL.COMMIT, .wo, 0⟩, ⟨FACE_TBL_CTL.OPEN, .wo, 0⟩]⟩,
  ⟨.FACE_TBL_CRC, 0x11008, [(32, 0x10)], .C, .unlocked,
    [⟨FACE_TBL_CRC.CRC, .rw, 0⟩]⟩]

def regsFaceCommon1 : List RegSpec := [
  ⟨.FACE_TBL_STAT, 0x1100C, [(32, 0x10)], .C, .unlocked,
    [⟨FACE_TBL_STAT.STALE, .ro, 0⟩, ⟨FACE_TBL_STAT.L, .ro, 1⟩, ⟨FACE_TBL_STAT.ACTIVE, .ro, 0⟩, ⟨FACE_TBL_STAT.OUTSTANDING, .ro, 0⟩, ⟨FACE_TBL_STAT.CHECKING, .ro, 0⟩, ⟨FACE_TBL_STAT.PASSED, .ro, 0⟩, ⟨FACE_TBL_STAT.FAIL, .w1c, 0⟩, ⟨FACE_TBL_STAT.WR_REJ, .w1c, 0⟩, ⟨FACE_TBL_STAT.CMD_REJ, .w1c, 0⟩]⟩,
  ⟨.FEV_CFG, 0x12000, [(64, 0x10)], .C, .fevLock,
    [⟨FEV_CFG.LOCK, .w1s, 0⟩, ⟨FEV_CFG.SWG, .rw, 0⟩, ⟨FEV_CFG.EN, .st, 0⟩, ⟨FEV_CFG.GINV, .st, 0⟩, ⟨FEV_CFG.GATE, .st, 0⟩, ⟨FEV_CFG.PSEL, .st, 0⟩]⟩,
  ⟨.FEV_STAT, 0x12004, [(64, 0x10)], .C, .unlocked,
    [⟨FEV_STAT.EV_CNT, .ro, 0⟩, ⟨FEV_STAT.MERGE, .w1c, 0⟩, ⟨FEV_STAT.GATED, .w1c, 0⟩, ⟨FEV_STAT.FIRED, .w1c, 0⟩]⟩,
  ⟨.FACE_FEV_FIRE, 0x12400, [(2, 0x4)], .C, .unlocked,
    [⟨FACE_FEV_FIRE.FIRE, .wo, 0⟩]⟩]

def regsTimeBase0 : List RegSpec := [
  ⟨.TB_TIME_LO, 0x0, [], .C, .unlocked,
    [⟨TB_TIME_LO.TIME, .ro, 0⟩]⟩,
  ⟨.TB_TIME_HI, 0x4, [], .C, .unlocked,
    [⟨TB_TIME_HI.TIME, .ro, 0⟩]⟩,
  ⟨.TB_VTIME_LO, 0x8, [], .C, .unlocked,
    [⟨TB_VTIME_LO.VTIME, .ro, 0⟩]⟩,
  ⟨.TB_VTIME_HI, 0xC, [], .C, .unlocked,
    [⟨TB_VTIME_HI.VTIME, .ro, 0⟩]⟩,
  ⟨.TB_VT_OFS_LO, 0x10, [], .C, .unlocked,
    [⟨TB_VT_OFS_LO.OFS, .rw, 0⟩]⟩,
  ⟨.TB_VT_OFS_HI, 0x14, [], .C, .unlocked,
    [⟨TB_VT_OFS_HI.OFS, .rw, 0⟩]⟩,
  ⟨.TB_RATE, 0x18, [], .C, .unlocked,
    [⟨TB_RATE.RATE, .rw, 0⟩]⟩,
  ⟨.TB_SLEW, 0x1C, [], .C, .unlocked,
    [⟨TB_SLEW.SLEW, .rw, 0x64⟩]⟩,
  ⟨.TB_ADJ, 0x20, [], .C, .unlocked,
    [⟨TB_ADJ.ADJ, .wo, 0⟩]⟩,
  ⟨.TB_ADJ_REM, 0x24, [], .C, .unlocked,
    [⟨TB_ADJ_REM.REM, .ro, 0⟩]⟩,
  ⟨.TB_STEP_LO, 0x28, [], .C, .unlocked,
    [⟨TB_STEP_LO.STEP, .rw, 0⟩]⟩,
  ⟨.TB_STEP_HI, 0x2C, [], .C, .unlocked,
    [⟨TB_STEP_HI.STEP, .rw, 0⟩]⟩,
  ⟨.TB_CTL, 0x30, [], .C, .unlocked,
    [⟨TB_CTL.STEP, .wo, 0⟩]⟩,
  ⟨.TB_STAT, 0x34, [], .C, .unlocked,
    [⟨TB_STAT.REF_SRC, .ro, 0⟩, ⟨TB_STAT.CASC_LOCK, .ro, 0⟩, ⟨TB_STAT.ADJ_BUSY, .ro, 0⟩, ⟨TB_STAT.ADJ_REJ, .w1c, 0⟩, ⟨TB_STAT.STEP_REJ, .w1c, 0⟩, ⟨TB_STAT.RATE_LIM, .w1c, 0⟩, ⟨TB_STAT.REF_LOST, .w1c, 0⟩, ⟨TB_STAT.HOLDOVER, .ro, 0⟩, ⟨TB_STAT.CAL_OK, .ro, 0⟩]⟩,
  ⟨.TB_EFF_RATE, 0x38, [], .C, .unlocked,
    [⟨TB_EFF_RATE.RHO, .ro, 0⟩]⟩,
  ⟨.TA_LO, 0x100, [(16, 0x10)], .C, .unlocked,
    [⟨TA_LO.TARGET, .rw, 0⟩]⟩,
  ⟨.TA_HI, 0x104, [(16, 0x10)], .C, .unlocked,
    [⟨TA_HI.TARGET, .rw, 0⟩]⟩,
  ⟨.TA_REPEAT, 0x108, [(16, 0x10)], .C, .unlocked,
    [⟨TA_REPEAT.REPEAT, .rw, 0⟩]⟩,
  ⟨.TA_CTL, 0x10C, [(16, 0x10)], .C, .unlocked,
    [⟨TA_CTL.FIRE_CNT, .ro, 0⟩, ⟨TA_CTL.LATE, .w1c, 0⟩, ⟨TA_CTL.FIRED, .w1c, 0⟩, ⟨TA_CTL.EN, .rw, 0⟩]⟩]

def regsAngle0 : List RegSpec := [
  ⟨.ANG_CFG, 0x0, [(16, 0x100)], .C, .unlocked,
    [⟨ANG_CFG.EN, .st, 0⟩, ⟨ANG_CFG.WHEEL, .st, 0⟩, ⟨ANG_CFG.G, .st, 2⟩, ⟨ANG_CFG.PRED, .st, 0⟩, ⟨ANG_CFG.EDGE, .st, 0⟩, ⟨ANG_CFG.N_POS, .st, 0x3C⟩, ⟨ANG_CFG.FILT, .st, 0⟩, ⟨ANG_CFG.COAST_LIM, .st, 8⟩]⟩,
  ⟨.ANG_OFS, 0x4, [(16, 0x100)], .C, .unlocked,
    [⟨ANG_OFS.OFS, .st, 0⟩]⟩,
  ⟨.ANG_PUB, 0x8, [(16, 0x100)], .C, .unlocked,
    [⟨ANG_PUB.EN, .st, 0⟩, ⟨ANG_PUB.SIG, .st, 0⟩]⟩,
  ⟨.ANG_PUB_INT, 0xC, [(16, 0x100)], .C, .unlocked,
    [⟨ANG_PUB_INT.INT, .st, 0⟩]⟩,
  ⟨.ANG_POS, 0x10, [(16, 0x100)], .C, .unlocked,
    [⟨ANG_POS.VALID, .ro, 0⟩, ⟨ANG_POS.COAST, .ro, 0⟩, ⟨ANG_POS.ANGLE, .ro, 0⟩]⟩,
  ⟨.ANG_TP_LO, 0x14, [(16, 0x100)], .C, .unlocked,
    [⟨ANG_TP_LO.TP, .ro, 0⟩]⟩,
  ⟨.ANG_TP_HI, 0x18, [(16, 0x100)], .C, .unlocked,
    [⟨ANG_TP_HI.TP, .ro, 0⟩]⟩,
  ⟨.ANG_LAST, 0x1C, [(16, 0x100)], .C, .unlocked,
    [⟨ANG_LAST.T_LAST, .ro, 0⟩]⟩,
  ⟨.ANG_STAT, 0x20, [(16, 0x100)], .C, .unlocked,
    [⟨ANG_STAT.POS, .ro, 0⟩, ⟨ANG_STAT.COASTED, .w1c, 0⟩, ⟨ANG_STAT.STALLED, .w1c, 0⟩, ⟨ANG_STAT.REF_MISS, .w1c, 0⟩, ⟨ANG_STAT.CNT_ERR, .w1c, 0⟩, ⟨ANG_STAT.NOISE, .w1c, 0⟩, ⟨ANG_STAT.STATE, .ro, 0⟩]⟩,
  ⟨.ANG_CNT, 0x24, [(16, 0x100)], .C, .unlocked,
    [⟨ANG_CNT.NOISE_CNT, .ro, 0⟩, ⟨ANG_CNT.CNTERR_CNT, .ro, 0⟩]⟩,
  ⟨.AEV_CFG, 0x1000, [(64, 0x10)], .C, .unlocked,
    [⟨AEV_CFG.EN, .st, 0⟩, ⟨AEV_CFG.TRK, .st, 0⟩, ⟨AEV_CFG.ANGLE, .st, 0⟩]⟩,
  ⟨.AEV_STAT, 0x1004, [(64, 0x10)], .C, .unlocked,
    [⟨AEV_STAT.FIRE_CNT, .ro, 0⟩, ⟨AEV_STAT.ARMED, .ro, 0⟩, ⟨AEV_STAT.LATE, .ro, 0⟩, ⟨AEV_STAT.COAST, .ro, 0⟩]⟩,
  ⟨.AEV_TIME, 0x1008, [(64, 0x10)], .C, .unlocked,
    [⟨AEV_TIME.TIME, .ro, 0⟩]⟩,
  ⟨.ENC_CFG, 0x2000, [(8, 0x10)], .C, .unlocked,
    [⟨ENC_CFG.EN, .st, 0⟩, ⟨ENC_CFG.TRK, .st, 0⟩, ⟨ENC_CFG.DIV, .st, 1⟩]⟩,
  ⟨.ENC_ZPOS, 0x2004, [(8, 0x10)], .C, .unlocked,
    [⟨ENC_ZPOS.ZPOS, .st, 0⟩]⟩,
  ⟨.ENC_STAT, 0x2008, [(8, 0x10)], .C, .unlocked,
    [⟨ENC_STAT.BURST, .w1c, 0⟩, ⟨ENC_STAT.HELD, .ro, 0⟩, ⟨ENC_STAT.OUT_Z, .ro, 0⟩, ⟨ENC_STAT.OUT_B, .ro, 0⟩, ⟨ENC_STAT.OUT_A, .ro, 0⟩]⟩]

def regsGlobalEvents0 : List RegSpec := [
  ⟨.GEV_CFG, 0x0, [(256, 0x10)], .S, .gevLock,
    [⟨GEV_CFG.EN, .st, 0⟩, ⟨GEV_CFG.GSEL, .st, 0x3FF⟩]⟩,
  ⟨.GEV_STAT, 0x4, [(256, 0x10)], .S, .unlocked,
    [⟨GEV_STAT.EV_CNT, .ro, 0⟩, ⟨GEV_STAT.MERGE, .w1c, 0⟩, ⟨GEV_STAT.REMOTE, .ro, 0⟩, ⟨GEV_STAT.FIRED, .w1c, 0⟩]⟩,
  ⟨.GEV_FIRE, 0x1000, [(8, 0x4)], .S, .unlocked,
    [⟨GEV_FIRE.FIRE, .wo, 0⟩]⟩,
  ⟨.GEV_LOCK, 0x2000, [(8, 0x4)], .P, .unlocked,
    [⟨GEV_LOCK.LOCK, .w1s, 0⟩]⟩]

def regsInterrupts0 : List RegSpec := [
  ⟨.INT_DOORBELL, 0x0, [], .S, .unlocked,
    [⟨INT_DOORBELL.SRC, .wo, 0⟩]⟩,
  ⟨.INT_STAT, 0x4, [], .S, .unlocked,
    [⟨INT_STAT.RING_CNT, .ro, 0⟩, ⟨INT_STAT.RING_REJ, .w1c, 0⟩]⟩,
  ⟨.SRC_CFG, 0x1000, [(4096, 0x4)], .S, .unlocked,
    [⟨SRC_CFG.BANKRING, .rw, 0⟩, ⟨SRC_CFG.WORLD, .rw, 0⟩, ⟨SRC_CFG.TARGET, .rw, 6⟩, ⟨SRC_CFG.PRIO, .rw, 0⟩, ⟨SRC_CFG.LEVEL, .ro, 0⟩, ⟨SRC_CFG.EN, .rw, 0⟩]⟩,
  ⟨.SRC_COAL, 0x5000, [(4096, 0x4)], .S, .unlocked,
    [⟨SRC_COAL.GATHER, .ro, 0⟩, ⟨SRC_COAL.TIME, .rw, 1⟩, ⟨SRC_COAL.COUNT, .rw, 1⟩]⟩,
  ⟨.INT_PEND, 0x9000, [(128, 0x4)], .S, .unlocked,
    [⟨INT_PEND.PEND, .w1c, 0⟩]⟩,
  ⟨.INT_ACT, 0x9200, [(128, 0x4)], .S, .unlocked,
    [⟨INT_ACT.ACT, .ro, 0⟩]⟩,
  ⟨.TGT_CTL, 0xA000, [(7, 0x20)], .S, .unlocked,
    [⟨TGT_CTL.DISABLE, .rw, 0⟩]⟩,
  ⟨.TGT_COMPLETE, 0xA004, [(7, 0x20)], .S, .unlocked,
    [⟨TGT_COMPLETE.SRC, .wo, 0⟩]⟩,
  ⟨.TGT_STAT, 0xA008, [(7, 0x20)], .S, .unlocked,
    [⟨TGT_STAT.LAST_SRC, .ro, 0⟩, ⟨TGT_STAT.ANY, .ro, 0⟩, ⟨TGT_STAT.CMPL_REJ, .w1c, 0⟩, ⟨TGT_STAT.LAST_CNT, .ro, 0⟩]⟩,
  ⟨.TGT_TOP, 0xA00C, [(7, 0x20)], .S, .unlocked,
    [⟨TGT_TOP.VALID, .ro, 0⟩, ⟨TGT_TOP.PRIO, .ro, 0⟩, ⟨TGT_TOP.SRC, .ro, 0⟩]⟩]

def regsDma0 : List RegSpec := [
  ⟨.DMA_CFG, 0x0, [(64, 0x40)], .S, .unlocked,
    [⟨DMA_CFG.WORLD, .ro, 0⟩, ⟨DMA_CFG.IE_OVR, .rw, 0⟩, ⟨DMA_CFG.IE_DESC, .rw, 0⟩, ⟨DMA_CFG.IE_WM, .rw, 0⟩, ⟨DMA_CFG.IE_ERR, .rw, 0⟩, ⟨DMA_CFG.IE_DONE, .rw, 0⟩, ⟨DMA_CFG.GEV, .rw, 0⟩, ⟨DMA_CFG.PRIO, .rw, 0⟩, ⟨DMA_CFG.ESIZE, .rw, 2⟩, ⟨DMA_CFG.DMODE, .rw, 0⟩, ⟨DMA_CFG.SMODE, .rw, 0⟩, ⟨DMA_CFG.PACE, .rw, 0⟩]⟩,
  ⟨.DMA_SRC_LO, 0x4, [(64, 0x40)], .S, .unlocked,
    [⟨DMA_SRC_LO.ADDR, .rw, 0⟩]⟩,
  ⟨.DMA_SRC_HI, 0x8, [(64, 0x40)], .S, .unlocked,
    [⟨DMA_SRC_HI.ADDR, .rw, 0⟩]⟩,
  ⟨.DMA_DST_LO, 0xC, [(64, 0x40)], .S, .unlocked,
    [⟨DMA_DST_LO.ADDR, .rw, 0⟩]⟩,
  ⟨.DMA_DST_HI, 0x10, [(64, 0x40)], .S, .unlocked,
    [⟨DMA_DST_HI.ADDR, .rw, 0⟩]⟩,
  ⟨.DMA_RING, 0x14, [(64, 0x40)], .S, .unlocked,
    [⟨DMA_RING.DK, .rw, 0⟩, ⟨DMA_RING.SK, .rw, 0⟩]⟩,
  ⟨.DMA_PUT, 0x18, [(64, 0x40)], .S, .unlocked,
    [⟨DMA_PUT.PTR, .rw, 0⟩]⟩,
  ⟨.DMA_TAKE, 0x1C, [(64, 0x40)], .S, .unlocked,
    [⟨DMA_TAKE.PTR, .rw, 0⟩]⟩,
  ⟨.DMA_WM_HIGH, 0x20, [(64, 0x40)], .S, .unlocked,
    [⟨DMA_WM_HIGH.LEVEL, .rw, 0⟩]⟩,
  ⟨.DMA_WM_LOW, 0x24, [(64, 0x40)], .S, .unlocked,
    [⟨DMA_WM_LOW.LEVEL, .rw, 0⟩]⟩,
  ⟨.DMA_COUNT, 0x28, [(64, 0x40)], .S, .unlocked,
    [⟨DMA_COUNT.COUNT, .rw, 0⟩]⟩,
  ⟨.DMA_CTL, 0x2C, [(64, 0x40)], .S, .unlocked,
    [⟨DMA_CTL.FLUSH, .wo, 0⟩, ⟨DMA_CTL.STOP, .wo, 0⟩, ⟨DMA_CTL.START, .wo, 0⟩]⟩,
  ⟨.DMA_STAT, 0x30, [(64, 0x40)], .S, .unlocked,
    [⟨DMA_STAT.ERR_CODE, .ro, 0⟩, ⟨DMA_STAT.IRQ, .ro, 0⟩, ⟨DMA_STAT.WR_REJ, .w1c, 0⟩, ⟨DMA_STAT.CFG_ERR, .w1c, 0⟩, ⟨DMA_STAT.QOVF, .w1c, 0⟩, ⟨DMA_STAT.REQ_OVR, .w1c, 0⟩, ⟨DMA_STAT.DESC_IRQ, .w1c, 0⟩, ⟨DMA_STAT.LOW_HIT, .w1c, 0⟩, ⟨DMA_STAT.HIGH_HIT, .w1c, 0⟩, ⟨DMA_STAT.ERR, .w1c, 0⟩, ⟨DMA_STAT.DONE, .w1c, 0⟩, ⟨DMA_STAT.STATE, .ro, 0⟩, ⟨DMA_STAT.BUSY, .ro, 0⟩]⟩,
  ⟨.DMA_DONE_BYTES, 0x34, [(64, 0x40)], .S, .unlocked,
    [⟨DMA_DONE_BYTES.BYTES, .ro, 0⟩]⟩,
  ⟨.DMA_DESC_LO, 0x38, [(64, 0x40)], .S, .unlocked,
    [⟨DMA_DESC_LO.ADDR, .ro, 0⟩]⟩,
  ⟨.DMA_DESC_HI, 0x3C, [(64, 0x40)], .S, .unlocked,
    [⟨DMA_DESC_HI.ADDR, .ro, 0⟩]⟩,
  ⟨.DMA_GSTAT, 0x1000, [], .S, .unlocked,
    [⟨DMA_GSTAT.BUSY_CH, .ro, 0⟩, ⟨DMA_GSTAT.BUF, .ro, 0⟩]⟩]

def regsTally0 : List RegSpec := [
  ⟨.TALLY_HEAD, 0x0, [], .S, .unlocked,
    [⟨TALLY_HEAD.HEAD, .ro, 0⟩]⟩,
  ⟨.TALLY_TAIL, 0x4, [], .S, .unlocked,
    [⟨TALLY_TAIL.TAIL, .rw, 0⟩]⟩,
  ⟨.TALLY_STAT, 0x8, [], .S, .unlocked,
    [⟨TALLY_STAT.FILL, .ro, 0⟩, ⟨TALLY_STAT.SAFE_CLR_REJ, .w1c, 0⟩, ⟨TALLY_STAT.TAIL_REJ, .w1c, 0⟩, ⟨TALLY_STAT.DROP, .w1c, 0⟩, ⟨TALLY_STAT.FULL, .ro, 0⟩, ⟨TALLY_STAT.NEW, .w1c, 0⟩]⟩,
  ⟨.TALLY_SAFE, 0xC, [], .C, .unlocked,
    [⟨TALLY_SAFE.GROUP, .w1c, 0⟩]⟩,
  ⟨.TALLY_OVF, 0x800, [(128, 0x4)], .S, .unlocked,
    [⟨TALLY_OVF.CNT_0, .rw, 0⟩, ⟨TALLY_OVF.CNT_1, .rw, 0⟩, ⟨TALLY_OVF.CNT_2, .rw, 0⟩, ⟨TALLY_OVF.CNT_3, .rw, 0⟩]⟩]

def regsCorer0 : List RegSpec := [
  ⟨.CORER_CTL, 0x0, [], .S, .unlocked,
    [⟨CORER_CTL.EN, .rw, 0⟩, ⟨CORER_CTL.PATH, .rw, 0⟩, ⟨CORER_CTL.T, .rw, 4⟩]⟩,
  ⟨.CORER_STAT, 0x4, [], .S, .unlocked,
    [⟨CORER_STAT.PATH_ERR, .w1c, 0⟩, ⟨CORER_STAT.WR_REJ, .w1c, 0⟩, ⟨CORER_STAT.LINK_DOWN, .ro, 0⟩, ⟨CORER_STAT.BUSY, .ro, 0⟩]⟩,
  ⟨.CORER_HBASE_LO, 0x8, [], .S, .unlocked,
    [⟨CORER_HBASE_LO.ADDR, .rw, 0⟩]⟩,
  ⟨.CORER_HBASE_HI, 0xC, [], .S, .unlocked,
    [⟨CORER_HBASE_HI.ADDR, .rw, 0⟩]⟩,
  ⟨.CORER_NET_DMAC_LO, 0x10, [], .S, .unlocked,
    [⟨CORER_NET_DMAC_LO.MAC, .rw, 0⟩]⟩,
  ⟨.CORER_NET_DMAC_HI, 0x14, [], .S, .unlocked,
    [⟨CORER_NET_DMAC_HI.MAC, .rw, 0⟩]⟩,
  ⟨.CORER_NET_SIP, 0x18, [], .S, .unlocked,
    [⟨CORER_NET_SIP.IP, .rw, 0⟩]⟩,
  ⟨.CORER_NET_DIP, 0x1C, [], .S, .unlocked,
    [⟨CORER_NET_DIP.IP, .rw, 0⟩]⟩,
  ⟨.CORER_NET_PORTS, 0x20, [], .S, .unlocked,
    [⟨CORER_NET_PORTS.SPORT, .rw, 0xC440⟩, ⟨CORER_NET_PORTS.DPORT, .rw, 0xC440⟩]⟩,
  ⟨.CORER_NET_CFG, 0x24, [], .S, .unlocked,
    [⟨CORER_NET_CFG.RETRY, .rw, 8⟩, ⟨CORER_NET_CFG.RTO, .rw, 0xC8⟩, ⟨CORER_NET_CFG.WIN, .rw, 0x100⟩]⟩,
  ⟨.CORER_RD_LO, 0x40, [], .S, .unlocked,
    [⟨CORER_RD_LO.ADDR, .rw, 0⟩]⟩,
  ⟨.CORER_RD_HI, 0x44, [], .S, .unlocked,
    [⟨CORER_RD_HI.ADDR, .rw, 0⟩]⟩,
  ⟨.CORER_RD_CTL, 0x48, [], .S, .unlocked,
    [⟨CORER_RD_CTL.NERR, .ro, 0⟩, ⟨CORER_RD_CTL.RESULT, .ro, 0⟩, ⟨CORER_RD_CTL.BUSY, .ro, 0⟩, ⟨CORER_RD_CTL.GO, .wo, 0⟩]⟩,
  ⟨.LANE_CFG, 0x1000, [(32, 0x80)], .S, .unlocked,
    [⟨LANE_CFG.EN, .rw, 0⟩, ⟨LANE_CFG.IE, .rw, 0⟩, ⟨LANE_CFG.RETAIN, .rw, 0⟩, ⟨LANE_CFG.QEN, .rw, 0⟩, ⟨LANE_CFG.MODE, .rw, 0⟩, ⟨LANE_CFG.KIND, .rw, 0⟩, ⟨LANE_CFG.WIDTH, .rw, 0⟩, ⟨LANE_CFG.SRC, .rw, 0⟩]⟩,
  ⟨.LANE_BUF, 0x1004, [(32, 0x80)], .S, .unlocked,
    [⟨LANE_BUF.LEN, .rw, 0⟩, ⟨LANE_BUF.BASE, .rw, 0⟩]⟩,
  ⟨.LANE_PRE, 0x1008, [(32, 0x80)], .S, .unlocked,
    [⟨LANE_PRE.RECORDS, .rw, 0⟩]⟩,
  ⟨.LANE_POST, 0x100C, [(32, 0x80)], .S, .unlocked,
    [⟨LANE_POST.RECORDS, .rw, 0⟩]⟩,
  ⟨.LANE_REARM, 0x1010, [(32, 0x80)], .S, .unlocked,
    [⟨LANE_REARM.US, .rw, 1⟩]⟩,
  ⟨.LANE_COND, 0x1014, [(32, 0x80), (4, 0x4)], .S, .unlocked,
    [⟨LANE_COND.TYPE, .rw, 0⟩, ⟨LANE_COND.OP, .rw, 0⟩, ⟨LANE_COND.SEL, .rw, 0⟩]⟩,
  ⟨.LANE_CVAL, 0x1024, [(32, 0x80), (4, 0x4)], .S, .unlocked,
    [⟨LANE_CVAL.VAL, .rw, 0⟩]⟩]

def regsCorer1 : List RegSpec := [
  ⟨.LANE_SEG_BASE, 0x1034, [(32, 0x80)], .S, .unlocked,
    [⟨LANE_SEG_BASE.SEGS, .rw, 0⟩]⟩,
  ⟨.LANE_SEG_COUNT, 0x1038, [(32, 0x80)], .S, .unlocked,
    [⟨LANE_SEG_COUNT.SEGS, .rw, 0⟩]⟩,
  ⟨.LANE_QUOTA, 0x103C, [(32, 0x80)], .S, .unlocked,
    [⟨LANE_QUOTA.SEGS, .rw, 0⟩]⟩,
  ⟨.LANE_CTL, 0x1040, [(32, 0x80)], .S, .unlocked,
    [⟨LANE_CTL.REL, .wo, 0⟩, ⟨LANE_CTL.SWTRIG, .wo, 0⟩]⟩,
  ⟨.LANE_STAT, 0x1044, [(32, 0x80)], .S, .unlocked,
    [⟨LANE_STAT.QUEUED, .ro, 0⟩, ⟨LANE_STAT.STATE, .ro, 0⟩, ⟨LANE_STAT.MERGED, .w1c, 0⟩, ⟨LANE_STAT.WR_REJ, .w1c, 0⟩, ⟨LANE_STAT.CFG_ERR, .w1c, 0⟩, ⟨LANE_STAT.STORE_FULL, .ro, 0⟩, ⟨LANE_STAT.QUOTA_OVER, .ro, 0⟩, ⟨LANE_STAT.TRUNC, .w1c, 0⟩, ⟨LANE_STAT.MISSED, .w1c, 0⟩, ⟨LANE_STAT.CORE_DONE, .w1c, 0⟩]⟩,
  ⟨.LANE_USE, 0x1048, [(32, 0x80)], .S, .unlocked,
    [⟨LANE_USE.SEGS, .ro, 0⟩]⟩,
  ⟨.LANE_TAIL, 0x104C, [(32, 0x80)], .S, .unlocked,
    [⟨LANE_TAIL.SEGS, .ro, 0⟩]⟩,
  ⟨.LANE_CNT, 0x1050, [(32, 0x80)], .S, .unlocked,
    [⟨LANE_CNT.MISSED_TRIG, .ro, 0⟩, ⟨LANE_CNT.DROP, .ro, 0⟩]⟩,
  ⟨.LANE_SEQ, 0x1054, [(32, 0x80)], .S, .unlocked,
    [⟨LANE_SEQ.CORES, .ro, 0⟩]⟩]

def regsStaging0 : List RegSpec := [
  ⟨.STG_CTL, 0x0, [], .S, .unlocked,
    [⟨STG_CTL.CASC, .rw, 0⟩, ⟨STG_CTL.DISCARD, .wo, 0⟩, ⟨STG_CTL.CANCEL, .wo, 0⟩, ⟨STG_CTL.ARM, .wo, 0⟩, ⟨STG_CTL.CHECK, .wo, 0⟩]⟩,
  ⟨.STG_STATUS, 0x4, [], .S, .unlocked,
    [⟨STG_STATUS.FAIL_DEV, .ro, 0⟩, ⟨STG_STATUS.RULE, .ro, 0⟩, ⟨STG_STATUS.CMD_REJ, .w1c, 0⟩, ⟨STG_STATUS.OVF, .ro, 0⟩, ⟨STG_STATUS.FROZEN, .ro, 0⟩, ⟨STG_STATUS.WR_REJ, .w1c, 0⟩, ⟨STG_STATUS.CANCELLED, .w1c, 0⟩, ⟨STG_STATUS.APPLIED, .w1c, 0⟩, ⟨STG_STATUS.ARMED, .ro, 0⟩, ⟨STG_STATUS.FAIL, .ro, 0⟩, ⟨STG_STATUS.PASS, .ro, 0⟩, ⟨STG_STATUS.BUSY, .ro, 0⟩]⟩,
  ⟨.STG_FAIL_ADDR, 0x8, [], .S, .unlocked,
    [⟨STG_FAIL_ADDR.ADDR, .ro, 0⟩]⟩,
  ⟨.STG_ENTRIES, 0xC, [], .S, .unlocked,
    [⟨STG_ENTRIES.COUNT, .ro, 0⟩]⟩,
  ⟨.STG_TARGET_LO, 0x10, [], .S, .unlocked,
    [⟨STG_TARGET_LO.T, .rw, 0⟩]⟩,
  ⟨.STG_TARGET_HI, 0x14, [], .S, .unlocked,
    [⟨STG_TARGET_HI.T, .rw, 0⟩]⟩,
  ⟨.STG_APPLY_LO, 0x18, [], .S, .unlocked,
    [⟨STG_APPLY_LO.A, .ro, 0⟩]⟩,
  ⟨.STG_APPLY_HI, 0x1C, [], .S, .unlocked,
    [⟨STG_APPLY_HI.A, .ro, 0⟩]⟩,
  ⟨.STG_LAST_LO, 0x20, [], .S, .unlocked,
    [⟨STG_LAST_LO.A, .ro, 0⟩]⟩,
  ⟨.STG_LAST_HI, 0x24, [], .S, .unlocked,
    [⟨STG_LAST_HI.A, .ro, 0⟩]⟩,
  ⟨.STG_PEEK_ADDR, 0x28, [], .S, .unlocked,
    [⟨STG_PEEK_ADDR.ADDR, .rw, 0⟩, ⟨STG_PEEK_ADDR.HIT, .ro, 0⟩]⟩,
  ⟨.STG_PEEK_DATA, 0x2C, [], .S, .unlocked,
    [⟨STG_PEEK_DATA.DATA, .ro, 0⟩]⟩,
  ⟨.STG_CASC_ARM, 0x30, [], .S, .unlocked,
    [⟨STG_CASC_ARM.DEV, .ro, 0⟩]⟩,
  ⟨.UPD_CTL, 0x100, [], .S, .unlocked,
    [⟨UPD_CTL.SECT, .rw, 0⟩, ⟨UPD_CTL.CMD, .wo, 0⟩]⟩,
  ⟨.UPD_SECT_OFS, 0x104, [], .S, .unlocked,
    [⟨UPD_SECT_OFS.OFS, .rw, 0⟩]⟩,
  ⟨.UPD_PAGE, 0x108, [], .S, .unlocked,
    [⟨UPD_PAGE.PAGE, .rw, 0⟩]⟩,
  ⟨.UPD_STAT, 0x10C, [], .S, .unlocked,
    [⟨UPD_STAT.ERR, .ro, 0⟩, ⟨UPD_STAT.SKIP, .ro, 0⟩, ⟨UPD_STAT.PEND, .ro, 0⟩, ⟨UPD_STAT.SECT_OK, .ro, 0⟩, ⟨UPD_STAT.HDR_OK, .ro, 0⟩, ⟨UPD_STAT.BUSY, .ro, 0⟩]⟩,
  ⟨.UPD_SEQ, 0x110, [], .S, .unlocked,
    [⟨UPD_SEQ.SEQ, .ro, 0⟩]⟩]

def regsResetAndModes0 : List RegSpec := [
  ⟨.IDREV, 0x0, [], .P, .unlocked,
    [⟨IDREV.VENDOR, .ro, 0xB1⟩, ⟨IDREV.PART, .ro, 0x5128⟩, ⟨IDREV.MAJOR, .ro, 1⟩, ⟨IDREV.MINOR, .ro, 0⟩]⟩,
  ⟨.DEP_STAT, 0x20, [], .P, .unlocked,
    [⟨DEP_STAT.RESYNC_CNT, .ro, 0⟩, ⟨DEP_STAT.MIS_CNT, .ro, 0⟩, ⟨DEP_STAT.FENCED_B, .ro, 0⟩, ⟨DEP_STAT.FENCED_A, .ro, 0⟩, ⟨DEP_STAT.STATE, .ro, 0⟩, ⟨DEP_STAT.CLASS, .ro, 0⟩, ⟨DEP_STAT.MISMATCH, .w1c, 0⟩, ⟨DEP_STAT.MODE, .ro, 0⟩]⟩,
  ⟨.DEP_MIS_ADDR, 0x24, [], .P, .unlocked,
    [⟨DEP_MIS_ADDR.ADDR, .ro, 0⟩]⟩,
  ⟨.MODE_STAT, 0x40, [], .A, .unlocked,
    [⟨MODE_STAT.LOST_H, .ro, 0⟩, ⟨MODE_STAT.REQ_REJ, .w1c, 0⟩, ⟨MODE_STAT.PARK_TO, .w1c, 0⟩, ⟨MODE_STAT.HOLD_FROM, .ro, 0⟩, ⟨MODE_STAT.HOLD_SRC, .ro, 0⟩, ⟨MODE_STAT.LIMP_CAUSE, .ro, 0⟩, ⟨MODE_STAT.PREV, .ro, 0⟩, ⟨MODE_STAT.MODE, .ro, 0⟩]⟩,
  ⟨.MODE_CTL, 0x44, [], .S, .unlocked,
    [⟨MODE_CTL.KEY, .wo, 0⟩, ⟨MODE_CTL.REQ, .wo, 0⟩]⟩,
  ⟨.MODE_REL, 0x48, [], .S, .unlocked,
    [⟨MODE_REL.REASON, .ro, 0⟩, ⟨MODE_REL.KEY, .wo, 0⟩, ⟨MODE_REL.REJ, .w1c, 0⟩, ⟨MODE_REL.OPEN, .ro, 0⟩]⟩,
  ⟨.MODE_CFG, 0x4C, [], .C, .unlocked,
    [⟨MODE_CFG.START, .ro, 0⟩, ⟨MODE_CFG.HOLD_MASK, .ro, 0⟩, ⟨MODE_CFG.FACE_HOLD, .ro, 0⟩]⟩,
  ⟨.MODE_REDIR, 0x50, [], .C, .unlocked,
    [⟨MODE_REDIR.TGT_0, .ro, 7⟩, ⟨MODE_REDIR.TGT_1, .ro, 7⟩, ⟨MODE_REDIR.TGT_2, .ro, 7⟩, ⟨MODE_REDIR.TGT_3, .ro, 7⟩]⟩,
  ⟨.MODE_PERMIT, 0x60, [(4, 0x4)], .C, .unlocked,
    [⟨MODE_PERMIT.PERM, .rw, 0⟩]⟩,
  ⟨.RST_CAUSE, 0x70, [], .A, .unlocked,
    [⟨RST_CAUSE.SWSYS, .w1c, 0⟩, ⟨RST_CAUSE.DEBUG, .w1c, 0⟩, ⟨RST_CAUSE.REFCLK, .w1c, 0⟩, ⟨RST_CAUSE.WDOG, .w1c, 0⟩, ⟨RST_CAUSE.PIN, .w1c, 0⟩, ⟨RST_CAUSE.BOR_IO, .w1c, 0⟩, ⟨RST_CAUSE.BOR_A, .w1c, 0⟩, ⟨RST_CAUSE.BOR_CORE, .w1c, 0⟩, ⟨RST_CAUSE.POR, .w1c, 0⟩]⟩,
  ⟨.RST_CORE_CAUSE, 0x74, [], .A, .unlocked,
    [⟨RST_CORE_CAUSE.CAUSE_0, .rw, 0⟩, ⟨RST_CORE_CAUSE.CAUSE_1, .rw, 0⟩, ⟨RST_CORE_CAUSE.CAUSE_2, .rw, 0⟩, ⟨RST_CORE_CAUSE.CAUSE_3, .rw, 0⟩, ⟨RST_CORE_CAUSE.CAUSE_4, .rw, 0⟩, ⟨RST_CORE_CAUSE.CAUSE_5, .rw, 0⟩, ⟨RST_CORE_CAUSE.CAUSE_6, .rw, 0⟩]⟩,
  ⟨.RST_REQ, 0x78, [], .S, .unlocked,
    [⟨RST_REQ.KEY, .wo, 0⟩, ⟨RST_REQ.SYS, .wo, 0⟩, ⟨RST_REQ.CORE, .wo, 0⟩]⟩,
  ⟨.WDOG_STAT, 0x80, [], .S, .unlocked,
    [⟨WDOG_STAT.FOREIGN, .w1c, 0⟩, ⟨WDOG_STAT.RUN, .ro, 0⟩, ⟨WDOG_STAT.BADKICK, .w1c, 0⟩, ⟨WDOG_STAT.REMAIN, .ro, 0⟩]⟩,
  ⟨.WDOG_KICK, 0x84, [], .S, .unlocked,
    [⟨WDOG_KICK.VAL, .wo, 0⟩]⟩,
  ⟨.WAKE_CFG, 0x88, [], .A, .unlocked,
    [⟨WAKE_CFG.SAFE, .ro, 1⟩, ⟨WAKE_CFG.SRC, .rw, 0⟩]⟩,
  ⟨.WAKE_STAT, 0x8C, [], .A, .unlocked,
    [⟨WAKE_STAT.SAFE, .w1c, 0⟩, ⟨WAKE_STAT.SRC, .w1c, 0⟩]⟩,
  ⟨.LOAD_STAT, 0x90, [], .A, .unlocked,
    [⟨LOAD_STAT.ERR_B, .ro, 0⟩, ⟨LOAD_STAT.ERR_A, .ro, 0⟩, ⟨LOAD_STAT.LIVE_SLOT, .ro, 0⟩, ⟨LOAD_STAT.FALLBACK, .ro, 0⟩, ⟨LOAD_STAT.SEQ_MISMATCH, .ro, 0⟩, ⟨LOAD_STAT.OTP_UE, .ro, 0⟩, ⟨LOAD_STAT.NOIMG, .ro, 0⟩, ⟨LOAD_STAT.DONE, .ro, 0⟩, ⟨LOAD_STAT.SLOT, .ro, 0⟩]⟩,
  ⟨.LIVE_SEQ, 0x94, [], .A, .unlocked,
    [⟨LIVE_SEQ.SEQ, .ro, 0⟩]⟩,
  ⟨.APWIN, 0x10, [], .K, .unlocked,
    [⟨APWIN.BASE, .rw, 0⟩]⟩,
  ⟨.CORE_ID, 0x1000, [], .K, .unlocked,
    [⟨CORE_ID.SPLIT, .ro, 0⟩, ⟨CORE_ID.P, .ro, 0⟩]⟩]

def regsResetAndModes1 : List RegSpec := [
  ⟨.CORE_STATUS, 0x1004, [], .K, .unlocked,
    [⟨CORE_STATUS.ENEST, .ro, 0⟩, ⟨CORE_STATUS.EMG, .ro, 0⟩, ⟨CORE_STATUS.LEVEL, .ro, 1⟩, ⟨CORE_STATUS.WORLD, .ro, 0⟩, ⟨CORE_STATUS.CPL, .ro, 0⟩]⟩,
  ⟨.VBASE_PIT, 0x1008, [], .K, .unlocked,
    [⟨VBASE_PIT.BASE, .rw, 0⟩]⟩,
  ⟨.VBASE_BANK, 0x100C, [], .K, .unlocked,
    [⟨VBASE_BANK.BASE, .rw, 0⟩]⟩,
  ⟨.SP_PU, 0x1010, [], .K, .unlocked,
    [⟨SP_PU.SP, .rw, 0⟩]⟩,
  ⟨.SP_PS, 0x1014, [], .K, .unlocked,
    [⟨SP_PS.SP, .rw, 0⟩]⟩,
  ⟨.SP_BU, 0x1018, [], .K, .unlocked,
    [⟨SP_BU.SP, .rw, 0⟩]⟩,
  ⟨.SP_BS, 0x101C, [], .K, .unlocked,
    [⟨SP_BS.SP, .rw, 0⟩]⟩,
  ⟨.SLIM_PIT, 0x1020, [], .K, .unlocked,
    [⟨SLIM_PIT.ADDR, .rw, 0⟩]⟩,
  ⟨.SLIM_BANK, 0x1024, [], .K, .unlocked,
    [⟨SLIM_BANK.ADDR, .rw, 0⟩]⟩,
  ⟨.ESP, 0x1028, [], .K, .unlocked,
    [⟨ESP.ADDR, .rw, 0⟩]⟩,
  ⟨.ESLIM, 0x102C, [], .K, .unlocked,
    [⟨ESLIM.ADDR, .rw, 0⟩]⟩,
  ⟨.SYSENT_PIT, 0x1030, [], .K, .unlocked,
    [⟨SYSENT_PIT.ADDR, .rw, 0⟩, ⟨SYSENT_PIT.UCALL, .rw, 0⟩, ⟨SYSENT_PIT.EN, .rw, 0⟩]⟩,
  ⟨.SYSENT_BANK, 0x1034, [], .K, .unlocked,
    [⟨SYSENT_BANK.ADDR, .rw, 0⟩, ⟨SYSENT_BANK.UCALL, .rw, 0⟩, ⟨SYSENT_BANK.EN, .rw, 0⟩]⟩,
  ⟨.SRET_PIT, 0x1038, [], .K, .unlocked,
    [⟨SRET_PIT.WL, .rw, 0⟩, ⟨SRET_PIT.PC, .rw, 0⟩, ⟨SRET_PIT.VALID, .rw, 0⟩]⟩,
  ⟨.SRET_BANK, 0x103C, [], .K, .unlocked,
    [⟨SRET_BANK.WL, .rw, 0⟩, ⟨SRET_BANK.PC, .rw, 0⟩, ⟨SRET_BANK.VALID, .rw, 0⟩]⟩,
  ⟨.XRET_PIT, 0x1040, [], .K, .unlocked,
    [⟨XRET_PIT.WL, .rw, 0⟩, ⟨XRET_PIT.PC, .rw, 0⟩, ⟨XRET_PIT.VALID, .rw, 0⟩]⟩,
  ⟨.XRET_BANK, 0x1044, [], .K, .unlocked,
    [⟨XRET_BANK.WL, .rw, 0⟩, ⟨XRET_BANK.PC, .rw, 0⟩, ⟨XRET_BANK.VALID, .rw, 0⟩]⟩,
  ⟨.ENTRY_PIT, 0x1080, [(8, 0x4)], .K, .unlocked,
    [⟨ENTRY_PIT.ADDR, .rw, 0⟩, ⟨ENTRY_PIT.UCALL, .rw, 0⟩, ⟨ENTRY_PIT.EN, .rw, 0⟩]⟩,
  ⟨.ENTRY_BANK, 0x10A0, [(8, 0x4)], .K, .unlocked,
    [⟨ENTRY_BANK.ADDR, .rw, 0⟩, ⟨ENTRY_BANK.UCALL, .rw, 0⟩, ⟨ENTRY_BANK.EN, .rw, 0⟩]⟩,
  ⟨.UREG_PIT_BASE, 0x1100, [(8, 0x8)], .K, .unlocked,
    [⟨UREG_PIT_BASE.BASE, .rw, 0⟩]⟩]

def regsResetAndModes2 : List RegSpec := [
  ⟨.UREG_PIT_CFG, 0x1104, [(8, 0x8)], .K, .unlocked,
    [⟨UREG_PIT_CFG.SIZE, .rw, 6⟩, ⟨UREG_PIT_CFG.X, .rw, 0⟩, ⟨UREG_PIT_CFG.W, .rw, 0⟩, ⟨UREG_PIT_CFG.R, .rw, 0⟩, ⟨UREG_PIT_CFG.EN, .rw, 0⟩]⟩,
  ⟨.UREG_BANK_BASE, 0x1140, [(8, 0x8)], .K, .unlocked,
    [⟨UREG_BANK_BASE.BASE, .rw, 0⟩]⟩,
  ⟨.UREG_BANK_CFG, 0x1144, [(8, 0x8)], .K, .unlocked,
    [⟨UREG_BANK_CFG.SIZE, .rw, 6⟩, ⟨UREG_BANK_CFG.X, .rw, 0⟩, ⟨UREG_BANK_CFG.W, .rw, 0⟩, ⟨UREG_BANK_CFG.R, .rw, 0⟩, ⟨UREG_BANK_CFG.EN, .rw, 0⟩]⟩,
  ⟨.SHF, 0x1180, [(11, 0x4)], .K, .unlocked,
    [⟨SHF.WORD, .ro, 0⟩]⟩,
  ⟨.HW_BANK, 0x11C0, [], .S, .unlocked,
    [⟨HW_BANK.SWAPS, .ro, 0⟩, ⟨HW_BANK.VERIFIED, .ro, 0⟩, ⟨HW_BANK.ARM, .rw, 0⟩, ⟨HW_BANK.ACTIVE, .ro, 0⟩]⟩,
  ⟨.HW_RESUME, 0x11C4, [], .S, .unlocked,
    [⟨HW_RESUME.ADDR, .rw, 0⟩]⟩,
  ⟨.CWDOG, 0x1200, [], .K, .unlocked,
    [⟨CWDOG.EN, .w1s, 0⟩, ⟨CWDOG.US, .rw, 0x3E8⟩]⟩,
  ⟨.CWDOG_KICK, 0x1204, [], .K, .unlocked,
    [⟨CWDOG_KICK.ANY, .wo, 0⟩]⟩]

def regsTest0 : List RegSpec := [
  ⟨.TS_CFG, 0x0, [(5, 0x4)], .S, .unlocked,
    [⟨TS_CFG.EN, .rw, 0⟩, ⟨TS_CFG.HEXCL, .rw, 0⟩, ⟨TS_CFG.INTERVAL, .rw, 0x64⟩]⟩,
  ⟨.TS_MASK_CH, 0x20, [(4, 0x4)], .S, .unlocked,
    [⟨TS_MASK_CH.EXCL, .rw, 0⟩]⟩,
  ⟨.TS_REQ, 0x30, [], .S, .unlocked,
    [⟨TS_REQ.GO, .wo, 0⟩, ⟨TS_REQ.TYPE, .wo, 0⟩, ⟨TS_REQ.TARGET, .wo, 0⟩]⟩,
  ⟨.TS_STAT, 0x34, [], .S, .unlocked,
    [⟨TS_STAT.BUDGET, .ro, 0⟩, ⟨TS_STAT.BUSY, .ro, 0⟩, ⟨TS_STAT.TYPE, .ro, 0⟩, ⟨TS_STAT.TARGET, .ro, 0⟩, ⟨TS_STAT.SKIP_CNT, .ro, 0⟩, ⟨TS_STAT.SKIP, .w1c, 0⟩, ⟨TS_STAT.FAIL, .w1c, 0⟩, ⟨TS_STAT.DONE, .w1c, 0⟩]⟩,
  ⟨.TS_RES, 0x40, [(5, 0x4)], .S, .unlocked,
    [⟨TS_RES.FAIL, .ro, 0⟩, ⟨TS_RES.TARGET, .ro, 0⟩, ⟨TS_RES.COV, .ro, 0⟩, ⟨TS_RES.DUR, .ro, 0⟩]⟩,
  ⟨.TS_FAILED_CH, 0x60, [(4, 0x4)], .S, .unlocked,
    [⟨TS_FAILED_CH.FAILED, .ro, 0⟩]⟩,
  ⟨.TS_FAILED_UNIT, 0x70, [], .S, .unlocked,
    [⟨TS_FAILED_UNIT.FACE, .ro, 0⟩, ⟨TS_FAILED_UNIT.DEP, .ro, 0⟩, ⟨TS_FAILED_UNIT.HEWER, .ro, 0⟩]⟩,
  ⟨.TS_SVC, 0x80, [], .S, .unlocked,
    [⟨TS_SVC.KEY, .wo, 0⟩, ⟨TS_SVC.UNIT, .wo, 0⟩, ⟨TS_SVC.INDEX, .wo, 0⟩, ⟨TS_SVC.CMD, .wo, 0⟩]⟩,
  ⟨.TS_WD_CH, 0x90, [(4, 0x4)], .S, .unlocked,
    [⟨TS_WD_CH.WD, .ro, 0⟩]⟩,
  ⟨.TS_WD_UNIT, 0xA0, [], .S, .unlocked,
    [⟨TS_WD_UNIT.BUSY, .ro, 0⟩, ⟨TS_WD_UNIT.REJ, .w1c, 0⟩, ⟨TS_WD_UNIT.FACE, .ro, 0⟩, ⟨TS_WD_UNIT.HEWER, .ro, 0⟩]⟩,
  ⟨.TS_SEC, 0xC0, [], .P, .unlocked,
    [⟨TS_SEC.SCAN, .ro, 0⟩, ⟨TS_SEC.DBG, .ro, 0⟩, ⟨TS_SEC.CLEARED, .ro, 0⟩]⟩]

def regsIntegrity0 : List RegSpec := [
  ⟨.MI_ERR_CNT, 0x0, [(20, 0x4)], .S, .unlocked,
    [⟨MI_ERR_CNT.UE_CNT, .rw, 0⟩, ⟨MI_ERR_CNT.CE_CNT, .rw, 0⟩]⟩,
  ⟨.MI_STAT, 0x80, [], .S, .unlocked,
    [⟨MI_STAT.LAG, .w1c, 0⟩, ⟨MI_STAT.UE, .w1c, 0⟩, ⟨MI_STAT.CE, .w1c, 0⟩]⟩,
  ⟨.MI_UE_LO, 0x84, [], .S, .unlocked,
    [⟨MI_UE_LO.ADDR, .ro, 0⟩]⟩,
  ⟨.MI_UE_HI, 0x88, [], .S, .unlocked,
    [⟨MI_UE_HI.ADDR, .ro, 0⟩, ⟨MI_UE_HI.REGION, .ro, 0⟩]⟩,
  ⟨.MI_INJ_LO, 0xC0, [], .S, .unlocked,
    [⟨MI_INJ_LO.ADDR, .rw, 0⟩]⟩,
  ⟨.MI_INJ_HI, 0xC4, [], .S, .unlocked,
    [⟨MI_INJ_HI.ADDR, .rw, 0⟩]⟩,
  ⟨.MI_INJ_CTL, 0xC8, [], .S, .unlocked,
    [⟨MI_INJ_CTL.ARM, .rw, 0⟩, ⟨MI_INJ_CTL.EN1, .rw, 0⟩, ⟨MI_INJ_CTL.POS1, .rw, 0⟩, ⟨MI_INJ_CTL.EN0, .rw, 0⟩, ⟨MI_INJ_CTL.POS0, .rw, 0⟩]⟩,
  ⟨.MI_SCRUB_CFG, 0x100, [(20, 0x8)], .S, .unlocked,
    [⟨MI_SCRUB_CFG.PERIOD, .rw, 0x3E8⟩]⟩,
  ⟨.MI_SCRUB_STAT, 0x104, [(20, 0x8)], .S, .unlocked,
    [⟨MI_SCRUB_STAT.FIXED, .ro, 0⟩, ⟨MI_SCRUB_STAT.LAG, .w1c, 0⟩, ⟨MI_SCRUB_STAT.PASSES, .ro, 0⟩]⟩]

def regsTub0 : List RegSpec := [
  ⟨.TUB_CFG, 0x0, [], .S, .unlocked,
    [⟨TUB_CFG.COUNT, .rw, 0⟩, ⟨TUB_CFG.FIRST, .rw, 0⟩]⟩,
  ⟨.TUB_ALLOC, 0x4, [], .S, .unlocked,
    [⟨TUB_ALLOC.ADDR, .ro, 0⟩]⟩,
  ⟨.TUB_FREE, 0x8, [], .S, .unlocked,
    [⟨TUB_FREE.ADDR, .wo, 0⟩]⟩,
  ⟨.TUB_GIVE, 0xC, [], .S, .unlocked,
    [⟨TUB_GIVE.BUF, .wo, 0⟩, ⟨TUB_GIVE.TAG, .wo, 0⟩]⟩,
  ⟨.TUB_STAT, 0x10, [], .S, .unlocked,
    [⟨TUB_STAT.NONOWNER_CNT, .ro, 0⟩, ⟨TUB_STAT.CFG_REJ, .w1c, 0⟩, ⟨TUB_STAT.LOW, .ro, 0⟩, ⟨TUB_STAT.BADADDR, .w1c, 0⟩, ⟨TUB_STAT.NONOWNER, .w1c, 0⟩, ⟨TUB_STAT.EMPTY, .w1c, 0⟩, ⟨TUB_STAT.FREE, .ro, 0⟩]⟩,
  ⟨.TUB_LOW, 0x14, [], .S, .unlocked,
    [⟨TUB_LOW.LEVEL, .rw, 0⟩]⟩,
  ⟨.TUB_TAG, 0x1000, [(2048, 0x4)], .S, .unlocked,
    [⟨TUB_TAG.ALLOC, .ro, 0⟩, ⟨TUB_TAG.TAG, .ro, 0⟩]⟩]

def regsCanary0 : List RegSpec := [
  ⟨.CNY_CFG, 0x0, [(8, 0x10)], .C, .unlocked,
    [⟨CNY_CFG.EN, .rw, 1⟩, ⟨CNY_CFG.VIO_5V, .rw, 0⟩]⟩,
  ⟨.CNY_STAT, 0x4, [(8, 0x10)], .C, .unlocked,
    [⟨CNY_STAT.VREF, .ro, 0⟩, ⟨CNY_STAT.VIO_OUT, .w1c, 0⟩, ⟨CNY_STAT.VDDA_OUT, .w1c, 0⟩, ⟨CNY_STAT.VREF_FAULT, .ro, 0⟩]⟩]

def regsShaft0 : List RegSpec := [
  ⟨.SHL_CFG, 0x0, [], .C, .unlocked,
    [⟨SHL_CFG.ISO_HOLD, .rw, 0x64⟩, ⟨SHL_CFG.LOST_HB, .rw, 5⟩, ⟨SHL_CFG.WAKE, .wo, 0⟩]⟩,
  ⟨.SHL_STAT, 0x4, [], .C, .unlocked,
    [⟨SHL_STAT.PRESENT, .ro, 0⟩, ⟨SHL_STAT.LOST, .ro, 0⟩, ⟨SHL_STAT.ISOLATED, .ro, 0⟩, ⟨SHL_STAT.WRAPPED, .ro, 0⟩, ⟨SHL_STAT.CONFLICT, .w1c, 0⟩, ⟨SHL_STAT.DUP_ID, .w1c, 0⟩, ⟨SHL_STAT.STRAP_ERR, .ro, 0⟩, ⟨SHL_STAT.ID, .ro, 0⟩, ⟨SHL_STAT.ROLE, .ro, 0⟩, ⟨SHL_STAT.HOPS, .ro, 0⟩]⟩,
  ⟨.SHL_PORT, 0x10, [(2, 0x4)], .C, .unlocked,
    [⟨SHL_PORT.PART_CNT, .ro, 0⟩, ⟨SHL_PORT.NBR, .ro, 0⟩, ⟨SHL_PORT.PCAL_OK, .ro, 0⟩, ⟨SHL_PORT.TIME_SRC, .ro, 0⟩, ⟨SHL_PORT.BAD_BLK, .w1c, 0⟩, ⟨SHL_PORT.TTL_DROP, .w1c, 0⟩, ⟨SHL_PORT.CRC_ERR, .w1c, 0⟩, ⟨SHL_PORT.PART, .w1c, 0⟩, ⟨SHL_PORT.CHG, .w1c, 0⟩, ⟨SHL_PORT.UP, .ro, 0⟩]⟩,
  ⟨.SHL_PDLY, 0x18, [(2, 0x4)], .C, .unlocked,
    [⟨SHL_PDLY.DLY, .ro, 0⟩]⟩,
  ⟨.SHL_GAP, 0x20, [(8, 0x4)], .C, .unlocked,
    [⟨SHL_GAP.DUP, .rw, 0⟩, ⟨SHL_GAP.GAP, .rw, 0⟩]⟩,
  ⟨.SHL_GMARK, 0x40, [], .C, .unlocked,
    [⟨SHL_GMARK.GRP, .rw, 0⟩]⟩,
  ⟨.SIG_OWNMAP, 0x8000, [(16, 0x4)], .C, .unlocked,
    [⟨SIG_OWNMAP.OWNER_0, .st, 0⟩, ⟨SIG_OWNMAP.OWNER_1, .st, 0⟩, ⟨SIG_OWNMAP.OWNER_2, .st, 0⟩, ⟨SIG_OWNMAP.OWNER_3, .st, 0⟩, ⟨SIG_OWNMAP.OWNER_4, .st, 0⟩, ⟨SIG_OWNMAP.OWNER_5, .st, 0⟩, ⟨SIG_OWNMAP.OWNER_6, .st, 0⟩, ⟨SIG_OWNMAP.OWNER_7, .st, 0⟩]⟩,
  ⟨.SIG_PUBEN, 0x8040, [(4, 0x4)], .C, .unlocked,
    [⟨SIG_PUBEN.EN, .st, 0xFFFFFFFF⟩]⟩,
  ⟨.SIG_REFRESH, 0x8050, [], .C, .unlocked,
    [⟨SIG_REFRESH.MS, .rw, 0xA⟩]⟩,
  ⟨.SIG_AGE_LIM, 0x8054, [], .C, .unlocked,
    [⟨SIG_AGE_LIM.LIM, .rw, 0xBB8⟩]⟩,
  ⟨.SIG_AGEQ_SEL, 0x8058, [], .C, .unlocked,
    [⟨SIG_AGEQ_SEL.SIG, .rw, 0⟩]⟩,
  ⟨.SIG_AGEQ, 0x805C, [], .C, .unlocked,
    [⟨SIG_AGEQ.STALE, .ro, 0⟩, ⟨SIG_AGEQ.OWNED, .ro, 0⟩, ⟨SIG_AGEQ.AGE, .ro, 0⟩]⟩,
  ⟨.SIG_STAT, 0x8060, [], .C, .unlocked,
    [⟨SIG_STAT.FOREIGN_CNT, .ro, 0⟩, ⟨SIG_STAT.PUB_OVF, .w1c, 0⟩, ⟨SIG_STAT.NARROW, .w1c, 0⟩, ⟨SIG_STAT.FOREIGN_WR, .w1c, 0⟩]⟩,
  ⟨.SIG_PUBQ, 0x8064, [], .C, .unlocked,
    [⟨SIG_PUBQ.FILL, .ro, 0⟩]⟩]

def regsMac0 : List RegSpec := [
  ⟨.MAC_CFG, 0x0, [(2, 0x10000)], .S, .unlocked,
    [⟨MAC_CFG.EN, .rw, 0⟩, ⟨MAC_CFG.PROMISC, .rw, 0⟩, ⟨MAC_CFG.MCAST, .rw, 0⟩, ⟨MAC_CFG.UQ, .rw, 0⟩, ⟨MAC_CFG.CQ, .rw, 0⟩, ⟨MAC_CFG.MODE, .rw, 0⟩, ⟨MAC_CFG.MAXLEN, .rw, 0x5F2⟩]⟩,
  ⟨.MAC_ADDR_LO, 0x4, [(2, 0x10000)], .S, .unlocked,
    [⟨MAC_ADDR_LO.ADDR, .rw, 0⟩]⟩,
  ⟨.MAC_ADDR_HI, 0x8, [(2, 0x10000)], .S, .unlocked,
    [⟨MAC_ADDR_HI.ADDR, .rw, 0⟩]⟩,
  ⟨.MAC_CTAG, 0xC, [(2, 0x10000)], .S, .unlocked,
    [⟨MAC_CTAG.VAL, .rw, 0⟩]⟩,
  ⟨.MAC_CBS6, 0x10, [(2, 0x10000)], .S, .unlocked,
    [⟨MAC_CBS6.VAL, .rw, 0⟩]⟩,
  ⟨.MAC_CBS7, 0x14, [(2, 0x10000)], .S, .unlocked,
    [⟨MAC_CBS7.VAL, .rw, 0⟩]⟩,
  ⟨.MAC_STAT, 0x18, [(2, 0x10000)], .S, .unlocked,
    [⟨MAC_STAT.FCS_CNT, .ro, 0⟩, ⟨MAC_STAT.RXERR, .w1c, 0⟩, ⟨MAC_STAT.LINK_CHG, .w1c, 0⟩, ⟨MAC_STAT.LINK, .ro, 0⟩]⟩,
  ⟨.MAC_QSTAT, 0x1C, [(2, 0x10000)], .S, .unlocked,
    [⟨MAC_QSTAT.RXDONE, .w1c, 0⟩, ⟨MAC_QSTAT.TXDONE, .w1c, 0⟩]⟩,
  ⟨.MAC_TXR_LO, 0x100, [(2, 0x10000), (8, 0x10)], .S, .unlocked,
    [⟨MAC_TXR_LO.BASE, .rw, 0⟩]⟩,
  ⟨.MAC_TXR_HI, 0x104, [(2, 0x10000), (8, 0x10)], .S, .unlocked,
    [⟨MAC_TXR_HI.BASE, .rw, 0⟩]⟩,
  ⟨.MAC_TXR_CTL, 0x108, [(2, 0x10000), (8, 0x10)], .S, .unlocked,
    [⟨MAC_TXR_CTL.EN, .rw, 0⟩, ⟨MAC_TXR_CTL.RK, .rw, 4⟩, ⟨MAC_TXR_CTL.NEXT, .ro, 0⟩]⟩,
  ⟨.MAC_RXR_LO, 0x200, [(2, 0x10000), (8, 0x10)], .S, .unlocked,
    [⟨MAC_RXR_LO.BASE, .rw, 0⟩]⟩,
  ⟨.MAC_RXR_HI, 0x204, [(2, 0x10000), (8, 0x10)], .S, .unlocked,
    [⟨MAC_RXR_HI.BASE, .rw, 0⟩]⟩,
  ⟨.MAC_RXR_CTL, 0x208, [(2, 0x10000), (8, 0x10)], .S, .unlocked,
    [⟨MAC_RXR_CTL.EN, .rw, 0⟩, ⟨MAC_RXR_CTL.RK, .rw, 4⟩, ⟨MAC_RXR_CTL.NEXT, .ro, 0⟩]⟩]

def regsPcie0 : List RegSpec := [
  ⟨.PCIE_OBASE_LO, 0x0, [], .S, .unlocked,
    [⟨PCIE_OBASE_LO.ADDR, .rw, 0⟩]⟩,
  ⟨.PCIE_OBASE_HI, 0x4, [], .S, .unlocked,
    [⟨PCIE_OBASE_HI.ADDR, .rw, 0⟩]⟩,
  ⟨.PCIE_B2WIN, 0x8, [], .S, .unlocked,
    [⟨PCIE_B2WIN.BASE, .rw, 0⟩]⟩,
  ⟨.PCIE_CFG, 0xC, [], .S, .unlocked,
    [⟨PCIE_CFG.CTO, .rw, 0xA⟩]⟩,
  ⟨.PCIE_MSIX_SEND, 0x10, [], .S, .unlocked,
    [⟨PCIE_MSIX_SEND.VAL, .wo, 0⟩]⟩,
  ⟨.PCIE_STAT, 0x14, [], .S, .unlocked,
    [⟨PCIE_STAT.WIDTH, .ro, 0⟩, ⟨PCIE_STAT.GEN, .ro, 0⟩, ⟨PCIE_STAT.OB_ERR, .w1c, 0⟩, ⟨PCIE_STAT.LINK_CHG, .w1c, 0⟩, ⟨PCIE_STAT.LINK, .ro, 0⟩]⟩]

def regsCan0 : List RegSpec := [
  ⟨.CAN_CTL, 0x0, [(4, 0x1000)], .S, .unlocked,
    [⟨CAN_CTL.EN, .rw, 0⟩, ⟨CAN_CTL.LISTEN, .rw, 0⟩, ⟨CAN_CTL.LOOP, .rw, 0⟩, ⟨CAN_CTL.AUTO_REC, .rw, 1⟩, ⟨CAN_CTL.FD, .rw, 1⟩, ⟨CAN_CTL.TDCO, .rw, 0⟩]⟩,
  ⟨.CAN_NBT, 0x4, [(4, 0x1000)], .S, .unlocked,
    [⟨CAN_NBT.BRP, .rw, 1⟩, ⟨CAN_NBT.TSEG1, .rw, 0x3F⟩, ⟨CAN_NBT.TSEG2, .rw, 0x10⟩, ⟨CAN_NBT.SJW, .rw, 0x10⟩]⟩,
  ⟨.CAN_DBT, 0x8, [(4, 0x1000)], .S, .unlocked,
    [⟨CAN_DBT.BRP, .rw, 1⟩, ⟨CAN_DBT.TSEG1, .rw, 0xF⟩, ⟨CAN_DBT.TSEG2, .rw, 4⟩, ⟨CAN_DBT.SJW, .rw, 4⟩]⟩,
  ⟨.CAN_STAT, 0xC, [(4, 0x1000)], .S, .unlocked,
    [⟨CAN_STAT.REC, .ro, 0⟩, ⟨CAN_STAT.TEC, .ro, 0⟩, ⟨CAN_STAT.CFG_ERR, .w1c, 0⟩, ⟨CAN_STAT.RX_OVF, .w1c, 0⟩, ⟨CAN_STAT.BUS_OFF, .ro, 0⟩, ⟨CAN_STAT.PASSIVE, .ro, 0⟩, ⟨CAN_STAT.ERR_CHG, .w1c, 0⟩, ⟨CAN_STAT.TXDONE, .w1c, 0⟩, ⟨CAN_STAT.RX_NE, .ro, 0⟩]⟩,
  ⟨.CAN_TXREQ, 0x10, [(4, 0x1000)], .S, .unlocked,
    [⟨CAN_TXREQ.REQ, .w1s, 0⟩]⟩,
  ⟨.CAN_TXABORT, 0x14, [(4, 0x1000)], .S, .unlocked,
    [⟨CAN_TXABORT.BUF, .wo, 0⟩]⟩,
  ⟨.CAN_TXSENT, 0x18, [(4, 0x1000)], .S, .unlocked,
    [⟨CAN_TXSENT.SENT, .w1c, 0⟩]⟩,
  ⟨.CAN_RXPOP, 0x1C, [(4, 0x1000)], .S, .unlocked,
    [⟨CAN_RXPOP.ANY, .wo, 0⟩]⟩,
  ⟨.CAN_RXFILL, 0x20, [(4, 0x1000)], .S, .unlocked,
    [⟨CAN_RXFILL.FILL, .ro, 0⟩]⟩,
  ⟨.CAN_FLT_ID, 0x100, [(4, 0x1000), (32, 0x8)], .S, .unlocked,
    [⟨CAN_FLT_ID.EN, .rw, 0⟩, ⟨CAN_FLT_ID.IDE, .rw, 0⟩, ⟨CAN_FLT_ID.ID, .rw, 0⟩]⟩,
  ⟨.CAN_FLT_MASK, 0x104, [(4, 0x1000), (32, 0x8)], .S, .unlocked,
    [⟨CAN_FLT_MASK.MASK, .rw, 0⟩]⟩,
  ⟨.CAN_TXBUF, 0x400, [(4, 0x1000), (32, 0x50), (20, 0x4)], .S, .unlocked,
    [⟨CAN_TXBUF.DATA, .rw, 0⟩]⟩,
  ⟨.CAN_FIFO, 0xE00, [(4, 0x1000), (20, 0x4)], .S, .unlocked,
    [⟨CAN_FIFO.DATA, .ro, 0⟩]⟩]

def regsXspi0 : List RegSpec := [
  ⟨.XSPI_CFG, 0x0, [], .S, .unlocked,
    [⟨XSPI_CFG.DIV, .rw, 0⟩]⟩,
  ⟨.XSPI_ADDR, 0x4, [], .S, .unlocked,
    [⟨XSPI_ADDR.VAL, .rw, 0⟩]⟩,
  ⟨.XSPI_CMD, 0x8, [], .S, .unlocked,
    [⟨XSPI_CMD.CODE, .wo, 0⟩, ⟨XSPI_CMD.KIND, .wo, 0⟩, ⟨XSPI_CMD.ADDR_EN, .wo, 0⟩, ⟨XSPI_CMD.DUMMY, .wo, 0⟩]⟩,
  ⟨.XSPI_LEN, 0xC, [], .S, .unlocked,
    [⟨XSPI_LEN.VAL, .rw, 0⟩]⟩,
  ⟨.XSPI_STAT, 0x10, [], .S, .unlocked,
    [⟨XSPI_STAT.SLOT_REJ, .w1c, 0⟩, ⟨XSPI_STAT.DONE, .w1c, 0⟩, ⟨XSPI_STAT.BUSY, .ro, 0⟩]⟩,
  ⟨.XSPI_WIN, 0x1000, [(64, 0x4)], .S, .unlocked,
    [⟨XSPI_WIN.DATA, .rw, 0⟩]⟩]

def regsGspi0 : List RegSpec := [
  ⟨.GSPI_CFG, 0x0, [(8, 0x1000), (4, 0x4)], .C, .unlocked,
    [⟨GSPI_CFG.DIV, .rw, 3⟩, ⟨GSPI_CFG.MODE, .rw, 0⟩]⟩,
  ⟨.GSPI_TXH, 0x10, [(8, 0x1000)], .C, .unlocked,
    [⟨GSPI_TXH.HOLD, .rw, 0⟩, ⟨GSPI_TXH.CS, .rw, 0⟩, ⟨GSPI_TXH.BITS, .rw, 7⟩]⟩,
  ⟨.GSPI_TXD, 0x14, [(8, 0x1000)], .C, .unlocked,
    [⟨GSPI_TXD.DATA, .wo, 0⟩]⟩,
  ⟨.GSPI_RX, 0x18, [(8, 0x1000)], .C, .unlocked,
    [⟨GSPI_RX.DATA, .ro, 0⟩]⟩,
  ⟨.GSPI_STAT, 0x1C, [(8, 0x1000)], .C, .unlocked,
    [⟨GSPI_STAT.RX_FILL, .ro, 0⟩, ⟨GSPI_STAT.TX_FILL, .ro, 0⟩, ⟨GSPI_STAT.POLL_ERR, .w1c, 0⟩, ⟨GSPI_STAT.RX_OVF, .w1c, 0⟩, ⟨GSPI_STAT.TX_REJ, .w1c, 0⟩, ⟨GSPI_STAT.BUSY, .ro, 0⟩]⟩,
  ⟨.GSPI_POLL, 0x20, [(8, 0x1000), (4, 0x10)], .C, .unlocked,
    [⟨GSPI_POLL.EN, .rw, 0⟩, ⟨GSPI_POLL.BITS, .rw, 0⟩, ⟨GSPI_POLL.INT, .rw, 0⟩]⟩,
  ⟨.GSPI_PWORD, 0x24, [(8, 0x1000), (4, 0x10)], .C, .unlocked,
    [⟨GSPI_PWORD.VAL, .rw, 0⟩]⟩,
  ⟨.GSPI_PEXP, 0x28, [(8, 0x1000), (4, 0x10)], .C, .unlocked,
    [⟨GSPI_PEXP.VAL, .rw, 0⟩]⟩,
  ⟨.GSPI_PMASK, 0x2C, [(8, 0x1000), (4, 0x10)], .C, .unlocked,
    [⟨GSPI_PMASK.VAL, .rw, 0⟩]⟩]

/-- The register blocks of the local map (R30). -/
def regBlocks : List RegBlock := [
  ⟨0x50000000, [(8, 0x100000), (16, 0x1000)], 0x0, 0x1000, regsFaceChannels0 ++ regsFaceChannels1⟩,
  ⟨0x50000000, [(8, 0x100000)], 0x10000, 0x80000, regsFaceCommon0 ++ regsFaceCommon1⟩,
  ⟨0x60000000, [], 0x0, 0x10000, regsTimeBase0⟩,
  ⟨0x60010000, [], 0x0, 0x10000, regsAngle0⟩,
  ⟨0x60020000, [], 0x0, 0x10000, regsGlobalEvents0⟩,
  ⟨0x60030000, [], 0x0, 0x10000, regsInterrupts0⟩,
  ⟨0x60040000, [], 0x0, 0x10000, regsDma0⟩,
  ⟨0x60050000, [], 0x0, 0x10000, regsTally0⟩,
  ⟨0x60060000, [], 0x0, 0x10000, regsCorer0 ++ regsCorer1⟩,
  ⟨0x60070000, [], 0x0, 0x10000, regsStaging0⟩,
  ⟨0x60080000, [], 0x0, 0x10000, regsResetAndModes0 ++ regsResetAndModes1 ++ regsResetAndModes2⟩,
  ⟨0x60090000, [], 0x0, 0x10000, regsTest0⟩,
  ⟨0x600A0000, [], 0x0, 0x10000, regsIntegrity0⟩,
  ⟨0x600B0000, [], 0x0, 0x10000, regsTub0⟩,
  ⟨0x600C0000, [], 0x0, 0x10000, regsCanary0⟩,
  ⟨0x60100000, [], 0x0, 0x10000, regsShaft0⟩,
  ⟨0x60110000, [], 0x0, 0x20000, regsMac0⟩,
  ⟨0x60130000, [], 0x0, 0x10000, regsPcie0⟩,
  ⟨0x60140000, [], 0x0, 0x4000, regsCan0⟩,
  ⟨0x60180000, [], 0x0, 0x10000, regsXspi0⟩,
  ⟨0x60190000, [], 0x0, 0x10000, regsGspi0⟩]

/-! ## Looking a register up -/

/-- Split an offset over array dimensions: the indexes and what is left. -/
def splitDims : List (Nat × Nat) → Nat → Option (List Nat × Nat)
  | [], r => some ([], r)
  | (c, st) :: ds, r =>
    if r / st < c then
      match splitDims ds (r % st) with
      | some (is, r') => some (r / st :: is, r')
      | none => none
    else none

/-- The register of a list that lies at offset `r` of its block, with its own indexes. -/
def findReg (regs : List RegSpec) (r : Nat) : Option (RegSpec × List Nat) :=
  match regs with
  | [] => none
  | q :: qs =>
    if q.off ≤ r then
      match splitDims q.dims (r - q.off) with
      | some (is, 0) => some (q, is)
      | _ => findReg qs r
    else findReg qs r

/-- The register at local address `a` in the given blocks, with the indexes of its block and its own. -/
def findIn : List RegBlock → Nat → Option (RegSpec × List Nat)
  | [], _ => none
  | b :: bs, a =>
    if b.base ≤ a then
      match splitDims b.dims (a - b.base) with
      | some (is, r) =>
        if b.lo ≤ r ∧ r < b.hi then
          match findReg b.regs r with
          | some (q, js) => some (q, is ++ js)
          | none => findIn bs a
        else findIn bs a
      | none => findIn bs a
    else findIn bs a

/-- The register at local address `a` (R30); none where no register is implemented (R31). -/
def regAt (a : Nat) : Option (RegSpec × List Nat) := findIn regBlocks a

/-- The value of a field laid at its place. -/
def Fld.place (f : Fld) (v : Nat) : Nat := (v % 2 ^ f.width) <<< f.lo

/-- The bits of a field. -/
def Fld.mask (f : Fld) : Word := BitVec.ofNat 32 (f.place (2 ^ f.width - 1))

/-- The value of a field of a word. -/
def Fld.get (f : Fld) (w : Word) : Nat := (w.toNat >>> f.lo) % 2 ^ f.width

/-- A word with the field set to `v`, the other bits as they were. -/
def Fld.put (f : Fld) (w : Word) (v : Nat) : Word :=
  (w &&& ~~~f.mask) ||| BitVec.ofNat 32 (f.place v)

/-- The bits of the fields of a register that satisfy `p`. -/
def RegSpec.maskOf (r : RegSpec) (p : FTy → Bool) : Word :=
  r.fields.foldl (fun m f => if p f.ty then m ||| f.fld.mask else m) 0

/-- The reserved bits of a register (R7). -/
def RegSpec.reserved (r : RegSpec) : Word := ~~~(r.maskOf (fun _ => true))

/-- The reset word of a register at the given indexes (R3, R8). Three registers reset to a value that depends on the
index: CH_BRIDGE.LEADER to the channel's own number, CH_PWM_CFG.CG to 4 × f, SIG_OWNMAP[i] to i div 2 in each entry. -/
def RegSpec.resetWord (r : RegSpec) (idx : List Nat) : Word :=
  let base : Nat := r.fields.foldl (fun a f => a + f.fld.place f.reset) 0
  match r.name, idx with
  | .CH_BRIDGE, [f, k] => BitVec.ofNat 32 (base + (16 * f + k))
  | .CH_PWM_CFG, [f, _] => BitVec.ofNat 32 (base + 4 * f)
  | .SIG_OWNMAP, [i] => BitVec.ofNat 32 (base + i / 2 * 0x11111111)
  | _, _ => BitVec.ofNat 32 base

/-- What a register key that nothing has written reads as: its reset word; words of loop memory and keys without a
register read zero (R31, R273). -/
def regReset (key : Nat) : Word :=
  match regAt (key % 0x100000000) with
  | some (r, idx) => r.resetWord idx
  | none => 0

/-- The reset domain of a register key (R8); loop memory lies in domain C (R24). -/
def regDom (key : Nat) : Dom :=
  match regAt (key % 0x100000000) with
  | some (r, _) => r.dom
  | none => .C

/-- The register words that differ from their reset values, by key. -/
abbrev RegFile := List (Nat × Word)

/-- The word at a register key; an unlisted register stands at its reset value. -/
def RegFile.get : RegFile → Nat → Word
  | [], k => regReset k
  | (k', v) :: m, k => if k = k' then v else RegFile.get m k

/-- Write a register word; one that takes its reset value is not listed. -/
def RegFile.set (m : RegFile) (k : Nat) (v : Word) : RegFile :=
  if v = regReset k then AMap.without m k else AMap.insert (AMap.without m k) k v

/-- The canonical form of a register file. -/
def RegFile.wfFrom : Nat → RegFile → Bool
  | _, [] => true
  | lo, (k, v) :: m => decide (lo ≤ k) && decide (v ≠ regReset k) && RegFile.wfFrom (k + 1) m

/-- The register file is in canonical form. -/
def RegFile.wf (m : RegFile) : Bool := RegFile.wfFrom 0 m

end Sys2Proof
end

