-- ==== Sys2Proof/Machine/State.lean ====
section
/-! DEFINITION. The state of the Poton Z128 as plain data: every register word (through one register file keyed by address),
every memory byte, and for each unit the state the manual gives it beside its registers. The comment on a field names
the rule that gives it. State.reset is the device right after power-on. -/

namespace Sys2Proof.Machine

open Sys2Proof

/-! ## Time base and protection of the channel half -/

/-- The time base (R147 to R163): reference time, device time and what steering has still to do. -/
structure TimeBase where
  /-- Reference time since power-on, in units of 5 ps; the model's own count of the time the commands carry. -/
  ref : Nat := 0
  /-- Device time counts from the first valid reference on (R147). -/
  counting : Bool := false
  /-- Device time in tq (R147). -/
  dev : Time := 0
  /-- The part of a tq gathered by RATE, in 2^-32 tq (R156). -/
  rateFrac : Int := 0
  /-- The part of a tq gathered by a slew, in 10^-6 tq (R155, R156). -/
  slewFrac : Nat := 0
  /-- ADJ_REM in tq (R156, R157). -/
  adjRem : Int := 0
  /-- The reference has been selected since power-on (R150). -/
  refChosen : Bool := false
  /-- The phase by which device time has departed from the reference in holdover, and has still to be given back, in tq (R154, R155). -/
  phase : Int := 0
  /-- The part of a tq gathered by that removal, in 10^-6 tq. -/
  phaseFrac : Nat := 0
  /-- The offset to the cascade master's time still to be removed by a subordinate, in tq (R160). -/
  cascErr : Int := 0
  /-- That offset has been measured since the link last gave the time (R160, R161). -/
  cascKnown : Bool := false
  /-- The subordinate has had its first lock to the master's time (R160). -/
  cascSeen : Bool := false
  /-- The rate a subordinate tracked last, which it keeps when it loses the link (R161). -/
  cascRate : Int := 0
  /-- A held write of TB_VT_OFS_LO. -/
  vtHeld : Option Word := none
  /-- Held writes of TA_LO, by alarm. -/
  taHeld : AMap (Option Word) := []
  /-- TB_TIME_HI copies by master (R149). -/
  timeHi : AMap Word := []
  /-- TB_VTIME_HI copies by master (R149). -/
  vtimeHi : AMap Word := []
  /-- ANG_TP_HI copies, by 16 × master + tracker (R149). -/
  angHi : AMap Word := []
  /-- The reference time at which the reference was lost, from which the bound of R154 counts. -/
  lostAt : Nat := 0
  deriving DecidableEq, Repr

/-- A start request on its way to a converter (R44): the instant it was made or scheduled, and whether its producer
is scheduled in device time. `mark` is the number under which the two converters of a shadow phase share it. -/
structure StartReq where
  inst : Time
  sched : Bool
  mark : Nat := 0
  /-- When the request was accepted (R46). -/
  at_ : Time := 0
  /-- R45 has postponed the sampling instant of the accepted request. -/
  short : Bool := false
  deriving DecidableEq, Repr

/-- A sample held by a converter while it converts (R45 to R47): its instant, the acceptance of its request, and the number of the
pair it belongs to if it was taken in a shadow phase (R58). -/
structure Sample where
  inst : Time
  at_ : Time := 0
  chan : Nat := 0
  gain : Nat
  feeds : Bool := true
  gsettle : Bool
  short : Bool
  mark : Nat
  /-- The internal source the path was connected to, 0 for the pins (R39). -/
  insel : Nat := 0
  deriving DecidableEq, Repr

/-- A corrected value with its flags (R48, R49, R51), on its way to the loop engine. -/
structure Corrected where
  value : Int
  clip : Bool
  short : Bool
  gsettle : Bool
  sby : Bool
  inst : Time
  deriving DecidableEq, Repr

/-- A converter beside its registers (R42 to R49): requests on their way, the accepted request, the sample being
converted, and since when the input is tracked. -/
structure ConvState where
  reqs : List StartReq := []
  accepted : Option StartReq := none
  sample : Option Sample := none
  trackFrom : Option Time := none
  deriving DecidableEq, Repr

/-- A window comparator (R61 to R63): its unfiltered state and the filter interval that runs. -/
structure Comparator where
  raw : Bool := false
  since : Option Time := none
  /-- The latest input at the pins, in converter LSB of GAIN = 4, whatever the gain in force (R37, R41). -/
  x : Int := 0
  deriving DecidableEq, Repr

/-- A commit on its way to the edge generator (R66, R71, R87): a duty fraction or a tq value. -/
structure Commit where
  frac : Bool
  value : Word
  deriving DecidableEq, Repr

/-- A delayed output edge (R115). `supp` marks an edge of a command the protection holds off (R134, R145). -/
structure Edge where
  side : Side
  on : Bool
  due : Time
  supp : Bool := false
  deriving DecidableEq, Repr

/-- A channel beside its registers. -/
structure Channel where
  /-- Apply instant of the latest change of GAIN (R38). -/
  gainAt : Option Time := none
  /-- The decimation group: sum, count, flags and size exponent, and the boundary it follows (R52, R53). -/
  decSum : Int := 0
  decCnt : Nat := 0
  decFlags : Nat := 0
  decM : Nat := 0
  decOf : Option Time := none
  /-- The latest boundary or DEC change, the one before it, and the exponent in force between them (R53). -/
  decFrom : Option Time := none
  decPrev : Option Time := none
  decPrevM : Nat := 0
  /-- Corrected values on their way to the loop engine (R51). -/
  results : List Corrected := []
  /-- The next free-running instant, without SMP_DLY; with INTERVAL = 0 in a stopped group, the instant the sequence stands at (R44). -/
  freeNext : Option Time := none
  cmpA : Comparator := {}
  cmpB : Comparator := {}
  /-- Commits in flight to this channel's edge generator, oldest first. -/
  commits : List Commit := []
  /-- The trailing-edge position of the running period (R66, E_cur). -/
  eCur : Nat := 0
  /-- The trailing edge of the running period has fired (R68). -/
  fired : Bool := false
  /-- The event compares have matched in the running period (R119). -/
  evc0 : Bool := false
  evc1 : Bool := false
  /-- The carrier waveform's commands in the running period, after LMODE (R113, R118). -/
  wave : Bool := false
  cmdL : Bool := false
  /-- The gate outputs before SWAP and INV (R115, R120). -/
  outH : Bool := false
  outL : Bool := false
  /-- Delayed edges still to come (R115). -/
  edges : List Edge := []
  /-- The row of R145 that decides the commands: 1 to 4, or 5 for the carrier waveform. -/
  row : Nat := 4
  /-- The instants the outputs last reached their off level (R140). -/
  offHAt : Option Time := none
  offLAt : Option Time := none
  /-- The instants the outputs last turned on, and those at which SWAP or INV last changed the level of a pin (R375). -/
  onHAt : Option Time := none
  onLAt : Option Time := none
  pinHAt : Option Time := none
  pinLAt : Option Time := none
  /-- On-edges held by the interlock (R117). -/
  heldH : Bool := false
  heldL : Bool := false
  /-- The end of the open blanking window (R129). -/
  blankEnd : Option Time := none
  /-- Counted trips of the latest periods, the running period first (R132). -/
  window : List Bool := []
  /-- The channel holds a counted trip by a source whose ESC bit is set (R138). -/
  escTrip : Bool := false
  /-- The instant the bridge this channel leads last escalated (R138). -/
  escAt : Option Time := none
  /-- CH_FLT_N[n] has been recognised low (R126). -/
  fltLow : Bool := true
  /-- The outputs the safe pattern still has to turn on, and from when (R140). -/
  safeOnAt : Option Time := none
  /-- A return from service that takes effect at the next boundary (R383). -/
  returning : Bool := false
  /-- A release of MODE and RST that takes effect at the next boundary of the bridge (R339). -/
  releasing : Bool := false
  deriving DecidableEq, Repr

/-- A carrier group beside its registers (R109, R123). -/
structure Group where
  start : Time := 0
  len : Nat := 0
  cCur : Int := 0
  resid : Int := 0
  /-- A sync instant has fallen on the boundary that the group has yet to take; it is measured in the period that starts there. -/
  syncDue : Bool := false
  /-- Boundary instants of this group that the master has marked within the last 10 µs (R405). -/
  lastMark : Option Time := none
  deriving DecidableEq, Repr

/-! ## Loop engines -/

/-- A commit or a PUB of a run, as the spare engine's comparison sees it (R106). -/
inductive RunOut where
  | commit (leg : Nat) (frac : Bool) (v : Word)
  | pub (sig : Nat) (v : Word)
  deriving DecidableEq, Repr

/-- The snapshot a run reads (R77), the program it executes (R81), and where it stands (R78). -/
structure Run where
  pc : Nat := 0
  /-- The 32 steps, IMM and bits [63:32] of each, and the inverted positions of their codewords where there are any, by
  2 × step + word (R104). -/
  program : List (Word × Word) := []
  masks : AMap (BitVec 39) := []
  inputs : AMap Word := []
  legs : AMap Word := []
  flg : Word := 0
  per : Word := 0
  duty : Word := 0
  time : Word := 0
  /-- Active bank and size of each table of the face, as bank + 2 × L; an unlisted one is bank 0 of size 1. -/
  banks : AMap Nat := []
  outs : List RunOut := []
  /-- The other engine of a shadow phase runs the same run (R105, R106). -/
  pair : Bool := false
  deriving DecidableEq, Repr

/-- A software write, or the clear of R81, that waits for the end of a run (R80, R81, R108). -/
inductive EngineWrite where
  | w (i : Nat) (v : Word)
  | acc (hi : Word) (lo : Option Word)
  | clear
  deriving DecidableEq, Repr

/-- An entry of an engine's publish queue (R91, R179). -/
structure Publish where
  sig : Nat
  value : Word
  qual : Nat
  deriving DecidableEq, Repr

/-- An accepted value on its way to a bound input (R90). -/
structure BoundLoad where
  input : Nat
  value : Word
  deriving DecidableEq, Repr

/-- A loop engine beside its registers: an own engine 0 to 127, or the spare engine of face f at 128 + f. What belongs to a
channel rather than to the engine that serves it (results, inputs, start requests) is held with the own engine. -/
structure Engine where
  w : AMap Word := []
  acc : Int := 0
  accLo : Option Word := none
  /-- The inverted positions of the codeword that a held write of ACC_LO makes (R276). -/
  accLoMask : BitVec 39 := 0
  waiting : List EngineWrite := []
  /-- The codewords that the waiting writes make, in order: offset of the word, and inverted positions (R276, R277). -/
  waitMasks : List (Nat × BitVec 39) := []
  run : Option Run := none
  /-- Start requests that have arrived and are not yet taken (R75). -/
  starts : Nat := 0
  /-- The channel's latest result and its flags as FLG bits (R51, R52). -/
  result : Word := 0
  resultFlg : Nat := 0
  /-- Legs of the bridge led here that have delivered since the last run, and when the first did (R76). -/
  delivered : AMap Bool := []
  firstAt : Option Time := none
  /-- The start requests, counted from the one to be taken next, that were made without every leg's result (R76). -/
  misses : List Nat := []
  inputs : AMap Word := []
  loads : List BoundLoad := []
  pubq : List Publish := []
  /-- The partner loads W0 to W7 and ACC from this engine when its run ends (R105). -/
  loadAtEnd : Bool := false
  /-- The outputs of the latest shared run, not yet compared in a shadow phase (R106). -/
  outs : Option (List RunOut) := none
  deriving DecidableEq, Repr

/-- The standby converter or the spare engine of a face, beside its registers (R57, R59, R105, R106). -/
structure HandOver where
  /-- The pending command: 0 none, 1 take over, 2 return, 3 abandon. -/
  pend : Nat := 0
  /-- Whole periods of the shadow phase still to come. -/
  left : Nat := 0
  /-- A mismatch has been found in this phase. -/
  mism : Bool := false
  /-- Results waiting for their pair: mark, corrected value, postponed; of the own and of the standby converter. -/
  ownRes : List (Nat × Int × Bool) := []
  sbyRes : List (Nat × Int × Bool) := []
  /-- The latest number given to a shared start request, and the latest whose sampling instant has been counted as the end
  of a period, with the target's group stopped. -/
  mark : Nat := 0
  counted : Nat := 0
  deriving DecidableEq, Repr

/-- A lookup table's rebuild beside its registers (R101): the size the latest COMMIT captured. -/
structure TableState where
  captured : Nat := 0
  deriving DecidableEq, Repr

/-! ## Angle -/

/-- An angle tracker beside its registers (R165 to R172). Its state, VALID, COAST, pos and the counters are in ANG_STAT,
ANG_POS and ANG_CNT. -/
structure Tracker where
  tLast : Time := 0
  /-- Positions counted since the latest reference, CNT (R166). -/
  cnt : Nat := 0
  /-- The predicted tooth period in tq, Tp. -/
  tp : Nat := 0
  xPrev : Nat := 0
  cand : Bool := false
  tCand : Time := 0
  /-- The angle's count of positions and its offset since VALID set, unwrapped: pos and ANG_OFS are these modulo N_POS and
  modulo 2^24. Corrections move them by the difference R169 gives. -/
  pos : Int := 0
  ofs : Int := 0
  /-- The furthest angle reached since VALID set: up to it a range is re-traversed after a backward correction (R172). -/
  top : Int := 0
  /-- The angle an invalid tracker is frozen at (R168). -/
  frozen : Nat := 0
  /-- Pulses whose action is still to come, and the latest pulse (R165). -/
  pulses : List Time := []
  lastPulse : Option Time := none
  /-- Edges from the instant of a shift change that is due but has not yet been made, with the level each led to: they are judged by the
  settings in force after it (R164). -/
  edges : List (Time × Bool) := []
  nextPub : Option Time := none
  deriving DecidableEq, Repr

/-- An angle slot beside its registers (R171, R172): the revolution, on the tracker's unwrapped angle, in which its angle is
next reached, or was reached when it fired. -/
structure AngleSlot where
  turn : Int := 0
  deriving DecidableEq, Repr

/-- An encoder emulator beside its registers (R173, R174): the quarter line on the unwrapped angle its outputs stand at, the
quarter line up to which a burst emits, and when its next edge is due. -/
structure Encoder where
  at_ : Int := 0
  burstTo : Int := 0
  burstAt : Time := 0
  deriving DecidableEq, Repr

/-! ## Signals and events -/

/-- A signal (R175 to R184): value, QUAL, PUBLISHED, and what decides STALE in a copy. -/
structure Signal where
  value : Word := 0
  qual : Nat := 0
  published : Bool := false
  /-- An update has been received, or the device has owned the signal, since power-on (R183). -/
  known : Bool := false
  /-- The instant from which the age ran that exceeded the limit. -/
  aged : Option Time := none
  /-- The instant from which the copy's age runs (R183). -/
  ageFrom : Time := 0
  deriving DecidableEq, Repr

/-- An event on its way through an event channel (R186 to R189). -/
structure Event where
  face : Nat
  chan : Nat
  inst : Time
  sched : Bool
  soft : Bool
  deriving DecidableEq, Repr

/-- An update in the publish queue (R181). -/
structure PubEntry where
  sig : Nat
  value : Word
  status : Nat
  deriving DecidableEq, Repr

/-- The signal table and the event router beside their registers. -/
structure Router where
  signals : AMap Signal := []
  pubq : List PubEntry := []
  marked : List Nat := []
  /-- The apply instant at which a block last passed away from the device (R183, R184). -/
  away : AMap (Option Time) := []
  fev : List Event := []
  gev : List Event := []
  /-- The latest producer event that passed each FEV (64 × face + channel) and each GEV (R189). -/
  fevLast : AMap (Option Time) := []
  gevLast : AMap (Option Time) := []
  /-- What a gate of an event channel sees, and the configuration of the channel, before their latest changes: the instant of a change and
  the value it ended, newest first (R188). -/
  was : AMap (List (Time × Word)) := []
  nextRefresh : Option Time := none
  deriving DecidableEq, Repr

/-! ## Staging and shift change -/

/-- Staging and shift change beside its registers (R196 to R207). -/
structure Staging where
  words : List (Nat × Word) := []
  /-- The entries of the staging copy, lowest address first: the word each holds (R272). -/
  order : List Nat := []
  /-- Undefined registers whose latest write was whole and proper, so that they are defined again once it is active (R446). -/
  clean : AMap Bool := []
  /-- The outcome of the running check: the failing rule, or 0, and its address (R198). -/
  checking : Option (Nat × Nat) := none
  /-- The outcome of the running arm evaluation: the failing rule, or 0 (R199). -/
  arming : Option Nat := none
  hset : List Nat := []
  /-- The running check or arm is cascade-wide (R205, R206); in the master, outcomes reported by position, confirmations, and
  the running groups reported: 32 times the position and the group, next boundary, nominal period. -/
  cascade : Bool := false
  results : AMap (Option Nat) := []
  confirmed : AMap Bool := []
  groups : List (Nat × Time × Nat) := []
  /-- A subordinate has confirmed an A that is not yet committed (R206). -/
  offered : Option Time := none
  sentAt : Time := 0
  /-- The apply instant of the armed shift change, or of the latest (R201). -/
  applyAt : Time := 0
  deriving DecidableEq, Repr

/-! ## Processors -/

/-- A store in a core's store buffer, already translated (R35, R232): system address, local address, size, data, world, level. -/
structure BufStore where
  addr : Nat
  va : Word
  size : Nat
  data : Word
  world : World
  sup : Bool
  /-- The tag of the remote access that is to answer it, once it has left. -/
  tag : Option Nat := none
  deriving DecidableEq, Repr

/-- A load a core has issued (R209, R232): where to, and what arrived. -/
structure PendLoad where
  addr : Nat
  va : Word
  size : Nat
  signed : Bool
  float : Bool
  rd : Nat
  world : World
  sup : Bool
  /-- Data forwarded from the store buffer or returned by a remote target; `err` for an error response. -/
  data : Option Word := none
  err : Bool := false
  /-- The tag of the outbound or shaft-link read that answers it. -/
  tag : Option Nat := none
  /-- The address of the instruction after the load. -/
  next : Word := 0
  /-- The load is one of the eight of an ERTN whose frame lies in remote memory (R228). -/
  frame : Bool := false
  /-- The load is that of a handler's address from a vector table in remote memory (R224). -/
  vector : Bool := false
  deriving DecidableEq, Repr

/-- A coprocessor instruction that runs (R214, R216): operation, destination, inputs, whether it is squashed, and, while a load or a
branch ahead of it is not yet known to complete, the address of the instruction after it. -/
structure CoprocOp where
  op : Nat
  fd : Nat
  ins : List Word
  squashed : Bool := false
  ahead : Option Word := none
  deriving DecidableEq, Repr

/-- A processor: its architectural registers and what it waits for. -/
structure Core where
  /-- Released from reset and started (R218, R345). -/
  running : Bool := false
  /-- Held in a core reset whose start is still to come (R345). -/
  starting : Bool := false
  pc : Word := 0
  /-- x1 and x3 to x31; x2 is banked (R217). -/
  x : AMap Word := []
  f : AMap Word := []
  fcsr : Nat := 0
  world : World := .pit
  sup : Bool := true
  cpl : Nat := 0
  emg : Bool := false
  enest : Nat := 0
  spPU : Word := 0
  spPS : Word := 0
  spBU : Word := 0
  spBS : Word := 0
  esp : Word := 0
  deriving DecidableEq, Repr

/-- What a processor has in flight, and why it may not execute. -/
structure CoreFlow where
  stores : List BufStore := []
  load : Option PendLoad := none
  cp : Option CoprocOp := none
  /-- Refused stores not yet taken as vector 9: the oldest address (R234). -/
  storeErr : Option Word := none
  /-- Suspended at WAIT (R213). -/
  waiting : Bool := false
  /-- Stopped for PARK at WAIT (R341). -/
  parked : Bool := false
  /-- Halted by debug (R424), or to be halted after one instruction. -/
  halted : Bool := false
  stepping : Bool := false
  /-- Held at QUIESCE by a withdrawal or a logic slice (R376, R382), with the register QUIESCE still has to write, and since when. -/
  held : Option Nat := none
  heldAt : Time := 0
  /-- Latest instants of lock-ups of a Hewer (R335). -/
  lockups : List Time := []
  /-- Start of the core watchdog's running timeout (R349). -/
  wdFrom : Option Time := none
  /-- The words of a frame in remote memory that ERTN has read so far (R228). -/
  frame : List Word := []
  /-- The Deputy's count of instructions retired (R238). -/
  retired : Nat := 0
  deriving DecidableEq, Repr

/-- The Deputy comparison beside DEP_STAT (R237 to R243): since when a mismatch is being handled; the asynchronous inputs the
copies have agreed on and not yet acted on, and the count of retired instructions at whose boundary they act (R238); a halt request
that waits for agreement; the accesses that copy A and copy B present and that have not been issued (R237, R241), whether copy A has
proposed an input that copy B has not acknowledged (R240), and since when. -/
structure Deputy where
  since : Time := 0
  agreedAt : Nat := 0
  accA : Option DepAccess := none
  accB : Option DepAccess := none
  proposal : Bool := false
  presentAt : Time := 0
  agreedIrq : Bool := false
  agreedWake : Bool := false
  agreedService : Bool := false
  haltReq : Bool := false
  deriving DecidableEq, Repr

/-! ## Interrupts and DMA -/

/-- An interrupt source (R248 to R252): PENDING, ACTIVE and its taker, gathering count and its start, ready, and the
level last seen. -/
structure IntSource where
  pending : Bool := false
  active : Bool := false
  taker : Nat := 0
  gather : Nat := 0
  since : Time := 0
  ready : Bool := false
  level : Bool := false
  deriving DecidableEq, Repr

/-- A burst of a DMA channel (R259, R269): its addresses, length and data, whether a side is FIXED, the descriptor it belongs
to. `tag` is that of a remote access that has still to answer it, and `err` an error response of one (R400, R414). -/
structure Burst where
  src : Nat
  dst : Nat
  len : Nat
  sfix : Bool
  dfix : Bool
  desc : Nat
  data : List Byte := []
  tag : Option Nat := none
  err : Bool := false
  /-- Its place in the order in which its channel has issued accesses (R23). -/
  ord : Nat := 0
  deriving DecidableEq, Repr

/-- A scatter-gather descriptor as read (R264): its address, source, destination, length and control word. -/
structure Descriptor where
  addr : Nat
  src : Nat
  dst : Nat
  len : Nat
  ctl : Word
  deriving DecidableEq, Repr

/-- A DMA channel beside its registers (R259 to R268). -/
structure DmaChannel where
  /-- NEXT: the next queue offset to request; in a scatter-gather channel the offset within the descriptor. -/
  next : Nat := 0
  /-- The bytes of the current transfer or descriptor still to request. -/
  left : Nat := 0
  flushing : Bool := false
  /-- Reads issued whose response is out; read data waiting to be written; writes issued. -/
  reads : List Burst := []
  held : List Burst := []
  writes : List Burst := []
  /-- Scatter-gather: the address of the next descriptor to read; the descriptor whose reads are being issued; those that have
  not completed, oldest first, with their IRQ bit; those passed. -/
  descNext : Option Nat := none
  desc : Option Descriptor := none
  /-- A descriptor being read from a remote target. -/
  descRead : Option Burst := none
  open_ : List (Nat × Bool) := []
  visited : List Nat := []
  /-- A transfer is under way: a START, or a request being served (R261). -/
  active : Bool := false
  /-- Requests that have arrived and are not yet taken (R261). -/
  reqs : Nat := 0
  /-- Accesses issued so far (R23). -/
  issued : Nat := 0
  deriving DecidableEq, Repr

/-- Interrupt controller and DMA beside their registers. -/
structure Movers where
  sources : AMap IntSource := []
  /-- What PARK saves (R256): the words of SRC_CFG, SRC_COAL and TGT_CTL that differ from reset, and the sources. -/
  savedRegs : RegFile := []
  savedSrc : AMap IntSource := []
  dma : AMap DmaChannel := []
  /-- Last channel each engine served, by engine and priority level (R269). -/
  lastRead : AMap Nat := []
  lastWrite : AMap Nat := []
  deriving DecidableEq, Repr

/-! ## Memory integrity, Tally, Tub pool -/

/-- A report to Tally (R288): source, code, class, detail, instant, and repeats gathered while it was held. -/
structure Report where
  src : Nat
  code : Nat
  cls : Nat
  detail : Word
  inst : Time
  repeats : Nat := 0
  deriving DecidableEq, Repr

/-- A log entry (R291). -/
structure LogEntry where
  cls : Nat
  src : Nat
  code : Nat
  detail : Word
  first : Time
  latest : Time
  repeats : Nat
  deriving DecidableEq, Repr

/-- Scrubber, Tally and Tub pool beside their registers. -/
structure Logs where
  /-- The scrubber's next word (or codeword) in each region, and when its pass began (R284). -/
  scrubAt : AMap Nat := []
  scrubFrom : AMap Time := []
  /-- The pass of a region has been found late (R284). -/
  scrubLate : AMap Bool := []
  queue : List Report := []
  held : List Report := []
  entries : AMap (Option LogEntry) := []
  /-- The free list of the Tub pool, head first, and the owner tags of allocated buffers (R296 to R300). -/
  tubFree : List Nat := []
  tubTag : AMap (Option Nat) := []
  deriving DecidableEq, Repr

/-! ## Corer -/

/-- A record of a lane: bytes and instant (R302). -/
structure LaneRecord where
  idx : Nat
  inst : Time
  bytes : List Byte
  deriving DecidableEq, Repr

/-- A core of a lane (R308 to R316). `trig` is its trigger record once a record names it; until then `condAt` is the
condition instant that record must not precede. -/
structure CoreRec where
  seq : Nat
  trig : Option Nat := none
  condAt : Time := 0
  first : Nat := 0
  pre : Nat := 0
  /-- Records from the trigger record on, once the core has ended. -/
  post : Nat := 0
  cont : Bool := false
  queued : Bool := false
  trunc : Bool := false
  ended : Bool := false
  mask : Nat := 0
  missed : Nat := 0
  trigAt : Time := 0
  firstAt : Time := 0
  /-- LANE_CFG, LANE_PRE and LANE_POST as the lane was enabled with them (R316). -/
  cfg : Word := 0
  preReq : Nat := 0
  postReq : Nat := 0
  /-- Data codewords drained so far, the store address of the first, and the record bytes it holds. -/
  drained : Nat := 0
  firstCw : Option Nat := none
  /-- The number of the segment that holds it (R317). -/
  firstSeg : Nat := 0
  firstData : List Byte := []
  /-- The first codeword has been rewritten, and the segment header that follows the core has been issued (R315, R317). -/
  rewritten : Bool := false
  hdrDone : Bool := false
  deriving DecidableEq, Repr

/-- A trigger that waits: its record if one names it already, its mask and its condition instant (R308, R311). -/
structure Trigger where
  record : Option Nat
  mask : Nat
  time : Time
  /-- Where the history of its record begins (R306, R310). -/
  hist : Nat := 0
  /-- LANE_CNT.MISSED_TRIG at the trigger (R316). -/
  missed : Nat := 0
  /-- It waits for its record and was met while the queue was full: unless it merges it is missed, though the queue has emptied since
  (R311). -/
  full : Bool := false
  deriving DecidableEq, Repr

/-- A write to the store that is on its way (R315, R321, R325): the lane, the core it belongs to (none for a header that opens or
commits a segment), the store address, its bytes, the port (0, 1 the MACs, 2 PCIe), its sequence number, the tag of the
read-back that follows it on PCIe, and whether it counts as done. -/
structure StoreWrite where
  lane : Nat
  core : Option Nat
  addr : Nat
  bytes : List Byte
  port : Nat
  seq : Nat := 0
  tag : Nat := 0
  confirmed : Bool := false
  deriving DecidableEq, Repr

/-- A segment of the store as the lane fills it (R314, R317). -/
structure Segment where
  idx : Nat
  seq : Nat
  cwUsed : Nat := 0
  first : Option (Nat × Nat) := none
  bad : Nat := 0
  committed : Bool := false
  deriving DecidableEq, Repr

/-- A recorder lane beside its registers (R302 to R323). -/
structure Lane where
  /-- Records held, oldest first, as the ring and the assembling register hold them; the number of the next record. -/
  records : List LaneRecord := []
  nextRec : Nat := 0
  /-- The first record of the history; a gap has been made and the next record written restarts it (R305, R306). -/
  histFrom : Nat := 0
  gap : Bool := false
  /-- The frame being assembled: corrected value and instant by channel (R303). -/
  frame : AMap (Option (Int × Time)) := []
  /-- A pending signal record, and the instant of the latest record (R304). -/
  pendRec : Option (Time × List Byte) := none
  lastRec : Option Time := none
  /-- Conditions that have been met and are not yet at the lane, by slot (R307). -/
  conds : List (Nat × Time) := []
  /-- Conditions at the lane whose trigger record has not been written yet (R308). -/
  triggers : List Trigger := []
  queued : Option Trigger := none
  /-- Trigger records whose trigger was missed, newest first (R308, R311). -/
  missedRecs : List Nat := []
  cores : List CoreRec := []
  coreCnt : Nat := 0
  /-- The instant of the last record of POST (R309). -/
  rearmFrom : Time := 0
  /-- Store: committed segments, oldest first, the segment filled now or last, segment count, next place in the ring. -/
  committed : List Nat := []
  seg : Option Segment := none
  segSeq : Nat := 0
  nextSeg : Nat := 0
  /-- EN has been cleared and the cores drain (R312). -/
  closing : Bool := false
  /-- EN has been set again while the cores drained. -/
  reopen : Bool := false
  /-- The settings the lane was enabled with, by register key, until it is OFF again; the segment region has been rewritten since. -/
  held : List (Nat × Word) := []
  region : Bool := false
  deriving DecidableEq, Repr

/-- A request of a read-back over PCIe (R326, R412). -/
structure ReadPart where
  tag : Nat
  len : Nat
  data : Option (List Byte) := none
  deriving DecidableEq, Repr

/-- The output path of the Corer (R321 to R326). -/
structure CorerPath where
  /-- Writes issued and not yet counted as done, oldest first. -/
  writes : List StoreWrite := []
  /-- Per MAC: next DATA sequence, acknowledged sequence, consecutive timeouts, start of the running timeout. -/
  nextSeq : AMap Nat := []
  acked : AMap Nat := []
  retries : AMap Nat := []
  timer : AMap (Option Time) := []
  /-- The Ethernet path has stopped (R325). -/
  stopped : Bool := false
  /-- A store read-back runs (R326): since when, over which port, its tag. -/
  reading : Option (Time × Nat × Nat) := none
  rdTag : Nat := 0
  /-- It waits for room at the PCIe port (R412). -/
  rdWait : Bool := false
  /-- Its requests over PCIe, in the order of their bytes: tag, length, and the data once they have come (R412). -/
  rdParts : List ReadPart := []
  /-- The window of the latest read-back. -/
  window : List Byte := []
  /-- The lane served last (R322). -/
  lastLane : Nat := 31
  deriving DecidableEq, Repr

/-! ## Modes, LOAD, test and service -/

/-- What LOAD has found in a slot (R355, R356): its error code, and its header and section table. -/
structure SlotInfo where
  err : Nat := 1
  bytes : List Byte := []
  deriving DecidableEq, Repr

/-- Reset, modes and LOAD beside their registers (R330 to R367). -/
structure Modes where
  /-- Step of LOAD (R358): 0 not begun, 1 begun, 2 slot chosen, 3 sections done, 4 ended. -/
  loadStep : Nat := 0
  /-- The LOAD in hand, or the next one, follows a power-on and not a system reset. -/
  powerOn : Bool := true
  /-- The first LOAD after power-on has not yet ended (R340). -/
  firstLoad : Bool := true
  /-- A system reset, or the power-on reset, lasts until LOAD ends. -/
  inReset : Bool := true
  /-- The reference is invalid, which holds the reset (R345). -/
  refBad : Bool := false
  /-- A HOLD trigger has arrived during LOAD (R333). -/
  holdInLoad : Bool := false
  slotA : SlotInfo := {}
  slotB : SlotInfo := {}
  /-- The slot LOAD has chosen: 0 A, 1 B. -/
  chosen : Nat := 0
  /-- The header of the image loaded (R351). -/
  header : List Byte := []
  otp : Otp := {}
  /-- When the release window opened (R338). -/
  relFrom : Option Time := none
  /-- When a request for PARK was accepted (R341), and when PARK was entered. -/
  parkReq : Option Time := none
  parkFrom : Time := 0
  /-- SAFE_N has been recognised low. -/
  safeLow : Bool := false
  /-- The start of the device watchdog's running timeout (R348); the first half of a kick has been written. -/
  wdFrom : Option Time := none
  wdHalf : Bool := false
  /-- Since when the device watchdog does not count (R242, R377). -/
  wdSuspend : Option Time := none
  /-- GEVs pass events (R195). -/
  gevLive : Bool := true
  /-- The isolation hold time has expired and the device is still isolated (R334, R338). -/
  isol : Bool := false
  deriving DecidableEq, Repr

/-- The update unit beside its registers (R363 to R365): the command that runs with the SECT and OFS it was given, and the
section verified last, with its offset. -/
structure Update where
  cmd : Nat := 0
  sect : Nat := 0
  ofs : Nat := 0
  sectOk : Option (Nat × Nat) := none
  /-- The digest of the command that runs has been cleared (R385). -/
  lost : Bool := false
  deriving DecidableEq, Repr

/-- A slice that waits or runs (R369 to R380): type, target, the hand-over's stage, when it fell due, when its test began,
and the duration of the test in µs. -/
structure Slice where
  y : Nat
  target : Nat
  /-- 0 waits for a grant, 1 takes over, 2 tests, 3 returns, 4 waits for QUIESCE. -/
  stage : Nat
  since : Time
  begun : Option Time := none
  /-- The sub-slice of a Hewer logic slice in budget mode (R376). -/
  part : Nat := 0
  dur : Nat := 0
  /-- It tests the channel's own path, of a withdrawn face, and holds no standby unit (R384). -/
  direct : Bool := false
  deriving DecidableEq, Repr

/-- The digital stand-in of a comparator under test (R374). -/
structure StandIn where
  chan : Nat
  isB : Bool
  out : Bool
  /-- A change of the output on its way, and when it is made: 20 ns after the result that called for it was delivered. -/
  next : Option (Bool × Time) := none
  deriving DecidableEq, Repr

/-- Test and service beside its registers. -/
structure Service where
  slices : List Slice := []
  nextDue : AMap (Option Time) := []
  nextTarget : AMap Nat := []
  /-- A service command that waits: CMD, UNIT, INDEX (R383). -/
  waiting : Option (Nat × Nat × Nat) := none
  /-- A Hewer withdrawal waits for its QUIESCE (R382). -/
  heldWait : AMap Bool := []
  /-- Out-of-band and in-band counts of the Canaries, by 4 × face + quantity (R381). -/
  outCnt : AMap Nat := []
  inCnt : AMap Nat := []
  /-- Slices for which the master has been asked and has not answered, oldest first: type, target and when (R380). -/
  asked : List (Nat × Nat × Time) := []
  /-- Slices granted to a device by the master: start and length (R380). -/
  granted : List (Nat × Time × Nat) := []
  /-- The digital stand-ins of comparators under test: channel, whether it is CMPB, output (R374). -/
  standIn : List StandIn := []
  deriving DecidableEq, Repr

/-! ## Ports -/

/-- A shaft-link port beside its registers (R389 to R399). Frames are presented whole, at their EOF block. -/
structure LinkPort where
  /-- Receive lanes that are locked. -/
  lanes : AMap Bool := []
  /-- An IDLE block has announced the neighbour's position. -/
  nbrSeen : Bool := false
  /-- CAL exchanges since the port came UP (R403). -/
  exchanges : Nat := 0
  /-- Hops carried by the latest TIME block of a locked sender (R404). -/
  timeHops : Option Nat := none
  /-- Frames waiting to be sent: forwarded express, own express, bulk (R398). -/
  fwd : List Frame := []
  own : List Frame := []
  bulk : List Frame := []
  /-- The frame and the control block that left last, as the neighbour receives them. -/
  out : Option Frame := none
  ctl : Option (List Byte) := none
  deriving DecidableEq, Repr

/-- A remote access of this device that has not been answered (R400). -/
structure Remote where
  tag : Nat
  write : Bool
  since : Time
  deriving DecidableEq, Repr

/-- The shaft link beside its registers. -/
structure Link where
  role : Nat := 0
  id : Nat := 0
  strapErr : Bool := false
  ports : AMap LinkPort := []
  /-- Sequence counts sent, by class and destination, and last accepted, by source, class and destination (R397). -/
  sent : AMap Nat := []
  last : AMap (Option Nat) := []
  /-- Heartbeats in a row from each device, up to three, and when the latest came (R401). -/
  beats : AMap Nat := []
  lastBeat : AMap (Option Time) := []
  /-- The master a subordinate follows (R388), and the instant of the latest master heartbeat (R402). -/
  master : Option Nat := none
  masterAt : Time := 0
  /-- The start of the isolation hold timer while it runs (R402). -/
  isoFrom : Option Time := none
  remotes : List Remote := []
  nextTag : Nat := 0
  /-- The end of the WAKE blocks under way (R406). -/
  wakeUntil : Option Time := none
  /-- The instants at which the latest heartbeat (0), TIME blocks (1) and CAL request (2) were due. -/
  lastSent : AMap (Option Time) := []
  deriving DecidableEq, Repr

/-- A descriptor of a MAC's ring whose ring or buffer lies outside this device, or that waits behind such a one (R410): the ring, the frame
received or gathered so far, and where the work stands. `stage` 0 reads the descriptor, 1 moves the frame, 2 writes TIME, 3 writes
word 1, 4 waits for the frame to be sent. -/
structure MacJob where
  rx : Bool
  q : Nat
  stage : Nat := 0
  at_ : Nat := 0
  w0 : Word := 0
  w1 : Word := 0
  frame : List Byte := []
  pos : Nat := 0
  time : Time := 0
  err : Bool := false
  /-- The remote request it waits for, and the answer that has come. -/
  tag : Option Nat := none
  got : Option PathReply := none
  deriving DecidableEq, Repr

/-- A MAC beside its registers (R407 to R411): the shaper credits of queues 6 and 7 in units of 5·10^-6 bits and when they were
last brought up to date, Corer datagrams queued, and the frame that left last. -/
structure Mac where
  credit6 : Int := 0
  credit7 : Int := 0
  creditAt : Time := 0
  /-- Frames have waited in queues 6 and 7 since then (R409). -/
  waits6 : Bool := false
  waits7 : Bool := false
  corerq : List (List Byte) := []
  out : List Byte := []
  /-- Descriptors in work outside this device, oldest first (R410). -/
  jobs : List MacJob := []
  deriving DecidableEq, Repr

/-- What an outbound PCIe read is for (R321, R326, R414): a core's load or a DMA read, posted writes that are to be answered, a
Corer write, the Corer's read-back. -/
inductive OutboundFor where
  | read
  | confirm
  | corerWrite (lane : Nat)
  | corerRead
  deriving DecidableEq, Repr

/-- An outbound PCIe non-posted request that has not completed (R414): tag, host address, bytes asked for, since when, who waits. -/
structure Outbound where
  tag : Nat
  host : Nat
  len : Nat
  since : Time
  for_ : OutboundFor
  deriving DecidableEq, Repr

/-- A posted write on PCIe that has not been answered (R414): its host address and bytes, and the tag of the zero-length read
issued after it. -/
structure Posted where
  host : Nat
  bytes : List Byte
  tag : Nat
  deriving DecidableEq, Repr

/-- An access to the outbound range of PCIe by the host through BAR2, or by the debug access port, that waits for room (R412 to R414, R424):
its offset in the range, its size, and the bytes of a write. -/
structure OutWait where
  host : Bool
  ofs : Nat
  size : Nat
  bytes : Option (List Byte)
  deriving DecidableEq, Repr

/-- A command on the flash's bus (R418, R419): KIND, the 16-bit code, the address where one follows, dummy cycles, the number of data bytes,
the bytes that go out with a write or a program, and whether it goes in 1S-1S-1S mode. -/
structure XspiOp where
  kind : Nat := 0
  code : Nat := 0
  addr : Option Nat := none
  dummy : Nat := 0
  len : Nat := 0
  out : List Byte := []
  single : Bool := false
  deriving DecidableEq, Repr

/-- A CAN FD controller beside its registers (R416, R417). -/
structure Can where
  fifo : List (CanFrame × Time) := []
  deriving DecidableEq, Repr

/-- A gate-driver SPI frame queued (R421): chip select, bits, hold, data. -/
structure SpiFrame where
  cs : Nat
  bits : Nat
  hold : Bool
  data : Word
  deriving DecidableEq, Repr

/-- A gate-driver SPI master beside its registers: frames queued, the one being sent first, and responses queued (R421), and
the next poll of each chip select (R422). -/
structure Spi where
  tx : List SpiFrame := []
  rx : List Word := []
  /-- The chip select that HOLD keeps low after the latest frame (R421). -/
  held : Option Nat := none
  nextPoll : AMap (Option Time) := []
  deriving DecidableEq, Repr

/-- Networks, host ports and debug beside their registers. -/
structure Ports where
  link : Link := {}
  macs : AMap Mac := []
  outbound : List Outbound := []
  posted : List Posted := []
  pcieTag : Nat := 0
  busMaster : Bool := false
  /-- MSI-X (R413, R415): control bits, table words, pending vectors, and the message that left last. -/
  msixCtl : Nat := 0
  msixTable : AMap Word := []
  msixPend : AMap Bool := []
  msixOut : Option (Nat × Word) := none
  cans : AMap Can := []
  /-- The flash command that runs (R419), and those LOAD has issued, oldest first (R358, R418). -/
  xspi : Option XspiOp := none
  loadCmds : List XspiOp := []
  spis : AMap Spi := []
  /-- Function configuration beside Bus Master Enable (R412): the power state D3hot, and the base address registers as last written. -/
  d3hot : Bool := false
  bars : AMap Word := []
  /-- Accesses that wait for room at the PCIe port. -/
  outWait : List OutWait := []
  /-- Requests of the host's reads that have not been answered, and whether the latest read ended in an error (R400, R413). -/
  hostTags : List Nat := []
  hostBad : Bool := false
  /-- The test access port: it is in its reset state (R423, R440), its instruction, and the fields of the DAP register (R424). -/
  tapReset : Bool := true
  ir : Nat := 1
  dapOp : Nat := 0
  dapWorld : World := .pit
  dapProc : Nat := 0
  dapAddr : Word := 0
  dapData : Word := 0
  /-- The remote request whose answer the DAP register waits for (R400, R414). -/
  dapTag : Option Nat := none
  deriving DecidableEq, Repr

/-! ## The state -/

/-- The channel half beside its registers. -/
structure ChannelHalf where
  convs : AMap ConvState := []
  chans : AMap Channel := []
  groups : AMap Group := []
  engines : AMap Engine := []
  sby : AMap HandOver := []
  spr : AMap HandOver := []
  tables : AMap TableState := []
  trackers : AMap Tracker := []
  slots : AMap AngleSlot := []
  encs : AMap Encoder := []
  deriving DecidableEq, Repr

/-- The processor half beside its registers. -/
structure ProcessorHalf where
  cores : AMap Core := []
  flows : AMap CoreFlow := []
  deputy : Deputy := {}
  deriving DecidableEq, Repr

/-- The state of the device. -/
structure State where
  /-- Commands that wait, first in, first out. -/
  pending : List Instr := []
  /-- The model's own count of free values used (log entry 5); no statement rests on its value. -/
  free : Nat := 0
  tb : TimeBase := {}
  /-- Every register word and every word of loop memory, by key. -/
  regs : RegFile := []
  /-- W1C bits the hardware set, and W1S bits software set, at the present instant (R5), by register key. -/
  hwSet : AMap Word := []
  swSet : AMap Word := []
  /-- Registers whose fields hold undefined values (R446), by key. -/
  undef : AMap Bool := []
  /-- Byte-addressed memory by system address (R30, R32, R271); a byte nothing has written reads zero (R273). -/
  mem : List Host.Cell := []
  /-- Inverted positions of stored codewords, by word address (R274, R287). -/
  ecc : AMap (BitVec 39) := []
  /-- Bit errors of codewords of the capture buffer, by codeword (R283). -/
  pageErr : AMap Nat := []
  /-- The word the latest read by each master returned. -/
  rdata : AMap Word := []
  ch : ChannelHalf := {}
  rt : Router := {}
  stg : Staging := {}
  pr : ProcessorHalf := {}
  mv : Movers := {}
  lg : Logs := {}
  lanes : AMap Lane := []
  path : CorerPath := {}
  md : Modes := {}
  up : Update := {}
  ts : Service := {}
  io : Ports := {}
  /-- The ordering variant is BL-PZ128-SQ1 (R2). -/
  sq1 : Bool := false
  deriving DecidableEq, Repr

/-- Why a step stops with a fault. Each is a case the manual lists as giving an undefined result (R14) and gives no
effect; stopping there is safe, because no claim about what follows can be proved. -/
inductive Fault where
  /-- A PUB to a signal another device owns (R14, R92); raised by PUB_QUEUE_DRAIN. Safe. -/
  | foreignPublish (sig : Nat)
  /-- A scatter-gather list that leads back to a descriptor it has passed (R14, R264); raised by DMA_DESCRIPTOR_READ. Safe. -/
  | listLoop (chan : Nat)
  /-- A free of a Tub buffer that is already free (R14, R299); raised by TUB_FREE and by any write to it. Safe. -/
  | tubDoubleFree (buf : Nat)
  /-- A write to XSPI_CFG while LOAD reads the flash (R14, R418). Safe. -/
  | xspiDuringLoad
  /-- A write to a channel register of a withdrawn face other than its service registers (R14, R384). Safe. -/
  | withdrawnFace (face : Nat)
  deriving DecidableEq, Repr

/-- Why a command is refused. -/
inductive Refusal where
  /-- The command's meaning is not modelled; raised by exec's own arm only. Safe. -/
  | notModelled (mnemonic : String)
  deriving DecidableEq, Repr

/-- The device right after power-on (R8, R273, R332, R344, R347): every register at its reset value but RST_CAUSE.POR,
which sets after the register is reset; memories filled with zero; mode LOAD; every processor in reset. CASC_ROLE and
CASC_ID unstrapped (R440: standalone at position 0). -/
def State.reset : State :=
  { regs := [(R.RST_CAUSE, 1)] }

end Sys2Proof.Machine
end

