-- ==== Sys2Proof/Machine/Banks.lean ====
section
/-! DEFINITION. The banks of like units (R9): the unit at a number, and the state with that unit changed. Every bank
is an AMap whose unlisted units stand at their reset values. -/

namespace Sys2Proof.Machine

open Sys2Proof

/-- The state of a converter (own n, standby 128 + f) `k`. -/
def State.conv (s : State) (k : Nat) : ConvState := AMap.get ({} : ConvState) s.ch.convs k
/-- Put `v` as the state of a converter (own n, standby 128 + f) `k`. -/
def State.setConv (s : State) (k : Nat) (v : ConvState) : State :=
  { s with ch := { s.ch with convs := AMap.set ({} : ConvState) s.ch.convs k v } }
/-- Change the state of a converter (own n, standby 128 + f) `k` by `f`. -/
def State.updConv (s : State) (k : Nat) (f : ConvState → ConvState) : State := s.setConv k (f (s.conv k))

/-- The state of channel `k`. -/
def State.chan (s : State) (k : Nat) : Channel := AMap.get ({} : Channel) s.ch.chans k
/-- Put `v` as the state of channel `k`. -/
def State.setChan (s : State) (k : Nat) (v : Channel) : State :=
  { s with ch := { s.ch with chans := AMap.set ({} : Channel) s.ch.chans k v } }
/-- Change the state of channel `k` by `f`. -/
def State.updChan (s : State) (k : Nat) (f : Channel → Channel) : State := s.setChan k (f (s.chan k))

/-- The state of carrier group `k`. -/
def State.group (s : State) (k : Nat) : Group := AMap.get ({} : Group) s.ch.groups k
/-- Put `v` as the state of carrier group `k`. -/
def State.setGroup (s : State) (k : Nat) (v : Group) : State :=
  { s with ch := { s.ch with groups := AMap.set ({} : Group) s.ch.groups k v } }
/-- Change the state of carrier group `k` by `f`. -/
def State.updGroup (s : State) (k : Nat) (f : Group → Group) : State := s.setGroup k (f (s.group k))

/-- The state of loop engine (own n, spare 128 + f) `k`. -/
def State.eng (s : State) (k : Nat) : Engine := AMap.get ({} : Engine) s.ch.engines k
/-- Put `v` as the state of loop engine (own n, spare 128 + f) `k`. -/
def State.setEng (s : State) (k : Nat) (v : Engine) : State :=
  { s with ch := { s.ch with engines := AMap.set ({} : Engine) s.ch.engines k v } }
/-- Change the state of loop engine (own n, spare 128 + f) `k` by `f`. -/
def State.updEng (s : State) (k : Nat) (f : Engine → Engine) : State := s.setEng k (f (s.eng k))

/-- The state of the standby converter's hand-over of a face `k`. -/
def State.sbyOf (s : State) (k : Nat) : HandOver := AMap.get ({} : HandOver) s.ch.sby k
/-- Put `v` as the state of the standby converter's hand-over of a face `k`. -/
def State.setSbyOf (s : State) (k : Nat) (v : HandOver) : State :=
  { s with ch := { s.ch with sby := AMap.set ({} : HandOver) s.ch.sby k v } }
/-- Change the state of the standby converter's hand-over of a face `k` by `f`. -/
def State.updSbyOf (s : State) (k : Nat) (f : HandOver → HandOver) : State := s.setSbyOf k (f (s.sbyOf k))

/-- The state of the spare engine's hand-over of a face `k`. -/
def State.sprOf (s : State) (k : Nat) : HandOver := AMap.get ({} : HandOver) s.ch.spr k
/-- Put `v` as the state of the spare engine's hand-over of a face `k`. -/
def State.setSprOf (s : State) (k : Nat) (v : HandOver) : State :=
  { s with ch := { s.ch with spr := AMap.set ({} : HandOver) s.ch.spr k v } }
/-- Change the state of the spare engine's hand-over of a face `k` by `f`. -/
def State.updSprOf (s : State) (k : Nat) (f : HandOver → HandOver) : State := s.setSprOf k (f (s.sprOf k))

/-- The state of lookup table 32 × face + t `k`. -/
def State.tblOf (s : State) (k : Nat) : TableState := AMap.get ({} : TableState) s.ch.tables k
/-- Put `v` as the state of lookup table 32 × face + t `k`. -/
def State.setTblOf (s : State) (k : Nat) (v : TableState) : State :=
  { s with ch := { s.ch with tables := AMap.set ({} : TableState) s.ch.tables k v } }
/-- Change the state of lookup table 32 × face + t `k` by `f`. -/
def State.updTblOf (s : State) (k : Nat) (f : TableState → TableState) : State := s.setTblOf k (f (s.tblOf k))

/-- The state of angle tracker `k`. -/
def State.trk (s : State) (k : Nat) : Tracker := AMap.get ({} : Tracker) s.ch.trackers k
/-- Put `v` as the state of angle tracker `k`. -/
def State.setTrk (s : State) (k : Nat) (v : Tracker) : State :=
  { s with ch := { s.ch with trackers := AMap.set ({} : Tracker) s.ch.trackers k v } }
/-- Change the state of angle tracker `k` by `f`. -/
def State.updTrk (s : State) (k : Nat) (f : Tracker → Tracker) : State := s.setTrk k (f (s.trk k))

/-- The state of angle slot `k`. -/
def State.slot (s : State) (k : Nat) : AngleSlot := AMap.get ({} : AngleSlot) s.ch.slots k
/-- Put `v` as the state of angle slot `k`. -/
def State.setSlot (s : State) (k : Nat) (v : AngleSlot) : State :=
  { s with ch := { s.ch with slots := AMap.set ({} : AngleSlot) s.ch.slots k v } }
/-- Change the state of angle slot `k` by `f`. -/
def State.updSlot (s : State) (k : Nat) (f : AngleSlot → AngleSlot) : State := s.setSlot k (f (s.slot k))

/-- The state of encoder emulator `k`. -/
def State.enc (s : State) (k : Nat) : Encoder := AMap.get ({} : Encoder) s.ch.encs k
/-- Put `v` as the state of encoder emulator `k`. -/
def State.setEnc (s : State) (k : Nat) (v : Encoder) : State :=
  { s with ch := { s.ch with encs := AMap.set ({} : Encoder) s.ch.encs k v } }
/-- Change the state of encoder emulator `k` by `f`. -/
def State.updEnc (s : State) (k : Nat) (f : Encoder → Encoder) : State := s.setEnc k (f (s.enc k))

/-- The state of signal `k`. -/
def State.sig (s : State) (k : Nat) : Signal := AMap.get ({} : Signal) s.rt.signals k
/-- Put `v` as the state of signal `k`. -/
def State.setSig (s : State) (k : Nat) (v : Signal) : State :=
  { s with rt := { s.rt with signals := AMap.set ({} : Signal) s.rt.signals k v } }
/-- Change the state of signal `k` by `f`. -/
def State.updSig (s : State) (k : Nat) (f : Signal → Signal) : State := s.setSig k (f (s.sig k))

/-- The state of processor `k`. -/
def State.core (s : State) (k : Nat) : Core := AMap.get ({} : Core) s.pr.cores k
/-- Put `v` as the state of processor `k`. -/
def State.setCore (s : State) (k : Nat) (v : Core) : State :=
  { s with pr := { s.pr with cores := AMap.set ({} : Core) s.pr.cores k v } }
/-- Change the state of processor `k` by `f`. -/
def State.updCore (s : State) (k : Nat) (f : Core → Core) : State := s.setCore k (f (s.core k))

/-- The state of a processor's flow `k`. -/
def State.flow (s : State) (k : Nat) : CoreFlow := AMap.get ({} : CoreFlow) s.pr.flows k
/-- Put `v` as the state of a processor's flow `k`. -/
def State.setFlow (s : State) (k : Nat) (v : CoreFlow) : State :=
  { s with pr := { s.pr with flows := AMap.set ({} : CoreFlow) s.pr.flows k v } }
/-- Change the state of a processor's flow `k` by `f`. -/
def State.updFlow (s : State) (k : Nat) (f : CoreFlow → CoreFlow) : State := s.setFlow k (f (s.flow k))

/-- The state of interrupt source `k`. -/
def State.src (s : State) (k : Nat) : IntSource := AMap.get ({} : IntSource) s.mv.sources k
/-- Put `v` as the state of interrupt source `k`. -/
def State.setSrc (s : State) (k : Nat) (v : IntSource) : State :=
  { s with mv := { s.mv with sources := AMap.set ({} : IntSource) s.mv.sources k v } }
/-- Change the state of interrupt source `k` by `f`. -/
def State.updSrc (s : State) (k : Nat) (f : IntSource → IntSource) : State := s.setSrc k (f (s.src k))

/-- The state of DMA channel `k`. -/
def State.dma (s : State) (k : Nat) : DmaChannel := AMap.get ({} : DmaChannel) s.mv.dma k
/-- Put `v` as the state of DMA channel `k`. -/
def State.setDma (s : State) (k : Nat) (v : DmaChannel) : State :=
  { s with mv := { s.mv with dma := AMap.set ({} : DmaChannel) s.mv.dma k v } }
/-- Change the state of DMA channel `k` by `f`. -/
def State.updDma (s : State) (k : Nat) (f : DmaChannel → DmaChannel) : State := s.setDma k (f (s.dma k))

/-- The state of recorder lane `k`. -/
def State.lane (s : State) (k : Nat) : Lane := AMap.get ({} : Lane) s.lanes k
/-- Put `v` as the state of recorder lane `k`. -/
def State.setLane (s : State) (k : Nat) (v : Lane) : State :=
  { s with lanes := AMap.set ({} : Lane) s.lanes k v }
/-- Change the state of recorder lane `k` by `f`. -/
def State.updLane (s : State) (k : Nat) (f : Lane → Lane) : State := s.setLane k (f (s.lane k))

/-- The state of shaft-link port `k`. -/
def State.lport (s : State) (k : Nat) : LinkPort := AMap.get ({} : LinkPort) s.io.link.ports k
/-- Put `v` as the state of shaft-link port `k`. -/
def State.setLport (s : State) (k : Nat) (v : LinkPort) : State :=
  { s with io := { s.io with link := { s.io.link with ports := AMap.set ({} : LinkPort) s.io.link.ports k v } } }
/-- Change the state of shaft-link port `k` by `f`. -/
def State.updLport (s : State) (k : Nat) (f : LinkPort → LinkPort) : State := s.setLport k (f (s.lport k))

/-- The state of Ethernet MAC `k`. -/
def State.mac (s : State) (k : Nat) : Mac := AMap.get ({} : Mac) s.io.macs k
/-- Put `v` as the state of Ethernet MAC `k`. -/
def State.setMac (s : State) (k : Nat) (v : Mac) : State :=
  { s with io := { s.io with macs := AMap.set ({} : Mac) s.io.macs k v } }
/-- Change the state of Ethernet MAC `k` by `f`. -/
def State.updMac (s : State) (k : Nat) (f : Mac → Mac) : State := s.setMac k (f (s.mac k))

/-- The state of CAN FD controller `k`. -/
def State.can (s : State) (k : Nat) : Can := AMap.get ({} : Can) s.io.cans k
/-- Put `v` as the state of CAN FD controller `k`. -/
def State.setCan (s : State) (k : Nat) (v : Can) : State :=
  { s with io := { s.io with cans := AMap.set ({} : Can) s.io.cans k v } }
/-- Change the state of CAN FD controller `k` by `f`. -/
def State.updCan (s : State) (k : Nat) (f : Can → Can) : State := s.setCan k (f (s.can k))

/-- The state of gate-driver SPI master `k`. -/
def State.spi (s : State) (k : Nat) : Spi := AMap.get ({} : Spi) s.io.spis k
/-- Put `v` as the state of gate-driver SPI master `k`. -/
def State.setSpi (s : State) (k : Nat) (v : Spi) : State :=
  { s with io := { s.io with spis := AMap.set ({} : Spi) s.io.spis k v } }
/-- Change the state of gate-driver SPI master `k` by `f`. -/
def State.updSpi (s : State) (k : Nat) (f : Spi → Spi) : State := s.setSpi k (f (s.spi k))

end Sys2Proof.Machine
end

