-- ==== Sys2Proof/Machine/Clock.lean ====
section
/-! DEFINITION. Registers as State holds them, and the passage of time (R147, R151, R154 to R157, R160): `State.advance`
lets reference time pass before a command and moves device time by the effective rate; it changes nothing else but the
record of what the hardware set at the present instant (R5). Log entry 1 gives how the commands carry time. -/

namespace Sys2Proof

/-- A field as a two's-complement number. -/
def Fld.getInt (f : Fld) (w : Word) : Int :=
  let v := f.get w
  if f.width ≠ 0 ∧ 2 ^ (f.width - 1) ≤ v then (v : Int) - (2 ^ f.width : Nat) else v

end Sys2Proof

namespace Sys2Proof.Machine

open Sys2Proof

/-! ## Registers -/

/-- The word a register holds. -/
def State.reg (s : State) (k : Nat) : Word := s.regs.get k

/-- The state with register `k` holding `w`. -/
def State.setReg (s : State) (k : Nat) (w : Word) : State := { s with regs := s.regs.set k w }

/-- A field of a register. -/
def State.fld (s : State) (k : Nat) (f : Fld) : Nat := f.get (s.reg k)

/-- A field of a register is not zero. -/
def State.flag (s : State) (k : Nat) (f : Fld) : Bool := s.fld k f != 0

/-- A signed field of a register. -/
def State.fldInt (s : State) (k : Nat) (f : Fld) : Int := f.getInt (s.reg k)

/-- The present device time (R147). -/
def State.now (s : State) : Time := s.tb.dev

/-- The core-local copy of register `a` that processor `p` reads and writes (R30, APWIN, R245). -/
def coreKey (p a : Nat) : Nat := (p + 1) * 0x100000000 + a

/-- The device is a cascade subordinate (R387). -/
def State.subordinate (s : State) : Bool := s.io.link.role == 2

/-- The device is the cascade master (R387). -/
def State.isMaster (s : State) : Bool := s.io.link.role == 1

/-- The device's own cascade position (R387). -/
def State.ownId (s : State) : Nat := s.io.link.id

/-! ## Time -/

/-- RATE as it acts: limited to 500 ppm in units of 2^-32 (R156). -/
def State.rate (s : State) : Int :=
  if s.subordinate then s.tb.cascRate else clampInt (-2147484) 2147484 (s.fldInt R.TB_RATE TB_RATE.RATE)

/-- SLEW as it acts, in ppm (R156); a subordinate's hardware slews at 200 ppm (R160). -/
def State.slew (s : State) : Nat :=
  if s.subordinate then 200
  else
    let v := s.fld R.TB_SLEW TB_SLEW.SLEW
    if v = 0 then 1 else if 200 < v then 200 else v

/-- Whole units and the remainder of `acc` counted in parts of `unit`. -/
def splitUnits (acc : Int) (unit : Int) : Int × Int := (acc / unit, acc % unit)

/-- Drain a remainder by up to `n` tq towards zero: what is left, and the tq taken with its sign. -/
def drain (rem : Int) (n : Nat) : Int × Int :=
  if rem = 0 then (0, 0)
  else if 0 < rem then
    let t : Int := if rem ≤ n then rem else n
    (rem - t, t)
  else
    let t : Int := if -rem ≤ n then -rem else n
    (rem + t, -t)

/-- What a bound of `ppm` allows over `dt` units of reference time, beyond what it allowed from `start` on: whole tq, with no part of
one lost between commands. -/
def State.driftBound (s : State) (start ppm dt : Nat) : Nat :=
  (s.tb.ref + dt - start) * ppm / 1000000 - (s.tb.ref - start) * ppm / 1000000

/-- The departure of the device-time rate that the manual bounds but does not fix, over `dt` units of reference time:
±2 % until CAL_OK (R151), ±300 ppm while the reference is lost (R154), otherwise none (R152). -/
def State.rateDrift (s : State) (dt : Nat) : Int :=
  let within := fun (b : Nat) => clampInt (-(b : Int)) b (Config.rateError s.tb.ref dt)
  if s.flag R.TB_STAT TB_STAT.CAL_OK = false then within (s.driftBound 0 20000 dt)
  else if s.md.refBad then within (s.driftBound s.tb.lostAt 300 dt)
  else 0

/-- The time base after `dt` units of 5 ps of reference time (R147, R154 to R156, R160). In holdover the phase gathers; afterwards it is
given back at 100 ppm. -/
def State.advanceTb (s : State) (dt : Nat) : TimeBase :=
  let tb := s.tb
  let tb := { tb with ref := tb.ref + dt }
  if tb.counting then
    let (rateTq, rateFrac) := splitUnits (tb.rateFrac + s.rate * dt) (2 ^ 32)
    let acc := tb.slewFrac + s.slew * dt
    let rem := if s.subordinate then tb.cascErr else tb.adjRem
    let (rem', slewTq) := drain rem (acc / 1000000)
    let slewFrac := if rem' = 0 then 0 else acc % 1000000
    let drift := s.rateDrift dt
    let pacc := if s.md.refBad then 0 else tb.phaseFrac + 100 * dt
    let (phase', phaseTq) := drain tb.phase (pacc / 1000000)
    let phase' := if s.md.refBad && s.flag R.TB_STAT TB_STAT.CAL_OK then phase' + drift else phase'
    let step : Int := dt + rateTq + slewTq - phaseTq + drift
    { tb with
      dev := tb.dev + BitVec.ofInt 64 step
      rateFrac := rateFrac
      slewFrac := slewFrac
      adjRem := if s.subordinate then tb.adjRem else rem'
      cascErr := if s.subordinate then rem' else tb.cascErr
      phase := phase'
      phaseFrac := if phase' = 0 then 0 else pacc % 1000000 }
  else tb

/-- Let `dt` units of 5 ps of reference time pass. What the hardware and software set at the instant left behind no longer
meets a clear (R5). -/
def State.advance (s : State) (dt : Nat) : State :=
  if dt = 0 then s
  else { s with tb := s.advanceTb dt, hwSet := [], swSet := [] }

end Sys2Proof.Machine
end

