-- ==== Sys2Proof/Machine/Ops.lean ====
section
/-! DEFINITION. The named operations every meaning is built from: free values, register fields with what the hardware
sets (R5), level sources and interrupt events (R246, R248, R249, R329, R425), the firing of producers (R185, R190),
reports on their way to Tally (R288), and the access checks of R18, R19, R31 and R446. -/

namespace Sys2Proof

/-- A core's access. -/
def Access.core? (a : Access) : Option Nat := if a.master < 7 then some a.master else none

/-- The SRC of a report about an access: the master that issued it (R294). -/
def Access.src (a : Access) : Nat :=
  if a.master < 7 then 0xA0 + a.master
  else if 0x10 ≤ a.master ∧ a.master < 0x50 then 0x100 + (a.master - 0x10)
  else if a.master = 0x50 then 0x17B
  else if a.master = 0x51 ∨ a.master = 0x52 then 0x179 + (a.master - 0x51)
  else 0x178

end Sys2Proof

namespace Sys2Proof.Machine

open Sys2Proof

/-- What a command answers. -/
abbrev Out := Host.Outcome State Fault Refusal

/-- No command touches the queue of the commands that wait after it. -/
def State.queueOf (t s : State) : State := { t with pending := s.pending }

/-- The bytes of memory stand as they stood in `s`. -/
def State.memoryOf (t s : State) : State := { t with mem := s.mem }

/-- Let `dt` pass, then apply an effect that may store to memory. -/
def runMem (dt : Nat) (s : State) (f : State → State) : Out := .next ((f (s.advance dt)).queueOf s)

/-- Let `dt` pass, then apply an effect that stores no byte: memory stands as it stood. -/
def run (dt : Nat) (s : State) (f : State → State) : Out := runMem dt s (fun t => (f t).memoryOf s)

/-- Apply `f` for each element of a list, left to right. -/
def forAll {α : Type} (l : List α) (s : State) (f : State → α → State) : State := l.foldl f s

/-! ## Free values (log entry 5) -/

/-- A free word, and the state that has used it. -/
def State.freshWord (s : State) : Word × State := (Config.freeWord s.free, { s with free := s.free + 1 })

/-- A free bit, and the state that has used it. -/
def State.freshBit (s : State) : Bool × State := (Config.freeBit s.free, { s with free := s.free + 1 })

/-! ## Views used by the level conditions -/

/-- Buffers of the Tub pool that are free are fewer than TUB_LOW.LEVEL (R301). -/
def State.tubLow (s : State) : Bool := s.lg.tubFree.length < s.fld R.TUB_LOW TUB_LOW.LEVEL

/-- DMA_STAT.IRQ of channel `c` (R270). -/
def State.dmaIrq (s : State) (c : Nat) : Bool :=
  let st := R.DMA_STAT c
  let cf := R.DMA_CFG c
  (s.flag st DMA_STAT.DONE && s.flag cf DMA_CFG.IE_DONE) ||
  (s.flag st DMA_STAT.ERR && s.flag cf DMA_CFG.IE_ERR) ||
  ((s.flag st DMA_STAT.HIGH_HIT || s.flag st DMA_STAT.LOW_HIT) && s.flag cf DMA_CFG.IE_WM) ||
  (s.flag st DMA_STAT.DESC_IRQ && s.flag cf DMA_CFG.IE_DESC) ||
  ((s.flag st DMA_STAT.REQ_OVR || s.flag st DMA_STAT.QOVF) && s.flag cf DMA_CFG.IE_OVR)

/-- Any of some fields of a register is not zero. -/
def State.anyFlag (s : State) (k : Nat) (fs : List Fld) : Bool := fs.any (fun f => s.flag k f)

/-- The level condition of an interrupt source (R246, R292, R301, R329, R381, R386, R425); false for an edge source. -/
def State.levelCond (s : State) (i : Nat) : Bool :=
  if i < 256 then false
  else if i < 384 then s.flag (R.CH_PROT_STAT (i - 256)) CH_PROT_STAT.TRIP
  else if i < 392 then
    let f := i - 384
    s.anyFlag (R.FACE_SBY_STAT f) [FACE_SBY_STAT.MISMATCH, FACE_SBY_STAT.CMD_REJECT] ||
    s.anyFlag (R.FACE_SPR_STAT f) [FACE_SPR_STAT.MISMATCH, FACE_SPR_STAT.CMD_REJECT] ||
    (List.range 32).any (fun t => s.flag (R.FACE_TBL_STAT f t) FACE_TBL_STAT.FAIL)
  else if i < 408 then s.flag (R.TA_CTL (i - 392)) TA_CTL.FIRED
  else if i < 424 then
    s.anyFlag (R.ANG_STAT (i - 408)) [ANG_STAT.COASTED, ANG_STAT.STALLED, ANG_STAT.REF_MISS, ANG_STAT.CNT_ERR]
  else if i = 424 then
    s.anyFlag R.TB_STAT [TB_STAT.REF_LOST, TB_STAT.STEP_REJ, TB_STAT.ADJ_REJ, TB_STAT.RATE_LIM]
  else if i = 425 then s.anyFlag R.STG_STATUS [STG_STATUS.APPLIED, STG_STATUS.CANCELLED]
  else if i = 426 then s.flag R.DEP_STAT DEP_STAT.MISMATCH
  else if i = 427 then s.anyFlag R.SIG_STAT [SIG_STAT.PUB_OVF, SIG_STAT.NARROW, SIG_STAT.FOREIGN_WR]
  else if i < 512 then false
  else if i < 576 then s.dmaIrq (i - 512)
  else if i < 608 then
    let l := i - 576
    ((s.reg (R.LANE_STAT l)).toNat % 128) &&& s.fld (R.LANE_CFG l) LANE_CFG.IE != 0
  else if i < 612 then s.fld R.TALLY_STAT TALLY_STAT.NEW / 2 ^ (i - 608) % 2 = 1
  else if i = 612 then
    (List.range 8).any (fun f =>
      s.anyFlag (R.CNY_STAT f) [CNY_STAT.VREF_FAULT, CNY_STAT.VDDA_OUT, CNY_STAT.VIO_OUT])
  else if i = 613 then
    s.anyFlag R.TUB_STAT [TUB_STAT.EMPTY, TUB_STAT.NONOWNER, TUB_STAT.BADADDR, TUB_STAT.CFG_REJ] || s.tubLow
  else if i = 614 then s.anyFlag R.MI_STAT [MI_STAT.CE, MI_STAT.UE, MI_STAT.LAG]
  else if i = 615 then s.anyFlag R.TS_STAT [TS_STAT.DONE, TS_STAT.FAIL, TS_STAT.SKIP]
  else if i < 640 then false
  else if i < 642 then
    s.anyFlag (R.SHL_PORT (i - 640))
      [SHL_PORT.CHG, SHL_PORT.PART, SHL_PORT.CRC_ERR, SHL_PORT.TTL_DROP, SHL_PORT.BAD_BLK]
  else if i = 642 then
    s.anyFlag R.SHL_STAT [SHL_STAT.WRAPPED, SHL_STAT.ISOLATED, SHL_STAT.CONFLICT, SHL_STAT.DUP_ID, SHL_STAT.LOST]
  else if i = 643 then (List.range 8).any (fun d => s.anyFlag (R.SHL_GAP d) [SHL_GAP.GAP, SHL_GAP.DUP])
  else if i < 656 then false
  else if i < 688 then
    let m := (i - 656) / 16
    let q := (i - 656) % 16
    if q < 8 then s.fld (R.MAC_QSTAT m) MAC_QSTAT.RXDONE / 2 ^ q % 2 = 1
    else if q = 8 then s.flag (R.MAC_QSTAT m) MAC_QSTAT.TXDONE
    else if q = 9 then s.anyFlag (R.MAC_STAT m) [MAC_STAT.LINK_CHG, MAC_STAT.RXERR]
    else false
  else if i = 688 then s.anyFlag R.PCIE_STAT [PCIE_STAT.LINK_CHG, PCIE_STAT.OB_ERR]
  else if i < 704 then false
  else if i < 720 then
    let c := (i - 704) / 4
    match (i - 704) % 4 with
    | 1 => s.flag (R.CAN_STAT c) CAN_STAT.TXDONE
    | 2 => s.anyFlag (R.CAN_STAT c) [CAN_STAT.ERR_CHG, CAN_STAT.RX_OVF, CAN_STAT.CFG_ERR]
    | 3 => s.flag (R.CAN_STAT c) CAN_STAT.BUS_OFF
    | _ => false
  else if i = 720 then s.anyFlag R.XSPI_STAT [XSPI_STAT.DONE, XSPI_STAT.SLOT_REJ]
  else false

/-- A source follows a condition (R246): 1 in SRC_CFG.LEVEL. -/
def isLevelSource (i : Nat) : Bool :=
  (256 ≤ i && i < 428) || (512 ≤ i && i < 616) || (640 ≤ i && i < 704) || (704 ≤ i && i < 720 && i % 4 != 0) || i == 720

/-- The level sources a register's flags feed. -/
def sourcesOf (key : Nat) : List Nat :=
  match regAt key with
  | none => []
  | some (r, idx) =>
    match r.name, idx with
    | .CH_PROT_STAT, [f, k] => [256 + 16 * f + k]
    | .FACE_SBY_STAT, [f] => [384 + f]
    | .FACE_SPR_STAT, [f] => [384 + f]
    | .FACE_TBL_STAT, f :: _ => [384 + f]
    | .TA_CTL, [i] => [392 + i]
    | .ANG_STAT, [a] => [408 + a]
    | .TB_STAT, _ => [424]
    | .STG_STATUS, _ => [425]
    | .DEP_STAT, _ => [426]
    | .SIG_STAT, _ => [427]
    | .DMA_STAT, [c] => [512 + c]
    | .DMA_CFG, [c] => [512 + c]
    | .LANE_STAT, [l] => [576 + l]
    | .LANE_CFG, [l] => [576 + l]
    | .TALLY_STAT, _ => [608, 609, 610, 611]
    | .CNY_STAT, _ => [612]
    | .TUB_STAT, _ => [613]
    | .TUB_LOW, _ => [613]
    | .MI_STAT, _ => [614]
    | .TS_STAT, _ => [615]
    | .SHL_PORT, [u] => [640 + u]
    | .SHL_STAT, _ => [642]
    | .SHL_GAP, _ => [643]
    | .MAC_QSTAT, [m] => (List.range 9).map (fun q => 656 + 16 * m + q)
    | .MAC_STAT, [m] => [656 + 16 * m + 9]
    | .PCIE_STAT, _ => [688]
    | .CAN_STAT, [c] => [705 + 4 * c, 706 + 4 * c, 707 + 4 * c]
    | .XSPI_STAT, _ => [720]
    | _, _ => []

/-! ## Interrupt sources -/

/-- The count limit of a source (R249). -/
def State.coalCount (s : State) (i : Nat) : Nat := Nat.max 1 (s.fld (R.SRC_COAL i) SRC_COAL.COUNT)

/-- One event of source `i`: PENDING sets and the gathering count counts, while EN is 1 (R248, R249). -/
def State.intEvent (s : State) (i : Nat) : State :=
  if s.flag (R.SRC_CFG i) SRC_CFG.EN then
    let q := s.src i
    let g := satInc 255 q.gather
    let s := { s with hwSet := AMap.upd 0 s.hwSet (R.INT_PEND (i / 32)) (fun x => x ||| BitVec.ofNat 32 (2 ^ (i % 32))) }
    s.setSrc i { q with
      pending := true
      gather := g
      since := if q.gather = 0 then s.now else q.since
      ready := q.ready || decide (s.coalCount i ≤ g) }
  else s

/-- Follow the level condition of source `i`: a change from inactive to active is one event (R248). -/
def State.sample (s : State) (i : Nat) : State :=
  let c := s.levelCond i
  let q := s.src i
  if c = q.level then s
  else
    let s := s.setSrc i { q with level := c }
    if c then s.intEvent i else s

/-- A level source is sampled again: a condition that is active is one event (R248, R252, R256). -/
def State.resample (s : State) (i : Nat) : State :=
  let c := s.levelCond i
  let s := s.updSrc i (fun q => { q with level := c })
  if c then s.intEvent i else s

/-! ## Fields the hardware and software write -/

/-- Write a register word and follow the level conditions it feeds. -/
def State.put (s : State) (k : Nat) (w : Word) : State :=
  forAll (sourcesOf k) (s.setReg k w) State.sample

/-- Write one field of a register. -/
def State.setF (s : State) (k : Nat) (f : Fld) (v : Nat) : State := s.put k (f.put (s.reg k) v)

/-- The hardware sets bits of a register; a software clear at the same instant leaves them set (R5). -/
def State.raiseBits (s : State) (k : Nat) (m : Word) : State :=
  { s with hwSet := AMap.upd 0 s.hwSet k (fun x => x ||| m) }.put k (s.reg k ||| m)

/-- The hardware sets a flag (R5). -/
def State.raise (s : State) (k : Nat) (f : Fld) : State := s.raiseBits k f.mask

/-- The hardware sets a flag when a condition holds. -/
def State.raiseIf (s : State) (c : Bool) (k : Nat) (f : Fld) : State := if c then s.raise k f else s

/-- The hardware clears a field; a bit that software sets at the same instant stays set (R5). -/
def State.lower (s : State) (k : Nat) (f : Fld) : State :=
  s.put k (s.reg k &&& ~~~(f.mask &&& ~~~(AMap.get 0 s.swSet k)))

/-- A counter field counts, saturating at its largest value. -/
def State.count (s : State) (k : Nat) (f : Fld) : State :=
  s.setF k f (satInc (2 ^ f.width - 1) (s.fld k f))

/-- A counter field counts modulo its size. -/
def State.countMod (s : State) (k : Nat) (f : Fld) : State := s.setF k f (s.fld k f + 1)

/-! ## Producers (R185, R190) -/

/-- The FEVs whose configuration word enables them with producer code `psel`, read off the listed registers of the faces
from `lo` to `hi`: an FEV that no write has reached has EN = 0. -/
def fevListeners (regs : RegFile) (lo hi psel : Nat) : List (Nat × Nat) :=
  regs.filterMap (fun (k, w) =>
    let r := k % 0x100000
    let f := (k - 0x50000000) / 0x100000
    if 0x50000000 ≤ k ∧ k < 0x50800000 ∧ lo ≤ f ∧ f < hi ∧ 0x12000 ≤ r ∧ r < 0x12400 ∧ r % 16 = 0
        ∧ FEV_CFG.EN.get w = 1 ∧ FEV_CFG.PSEL.get w = psel then
      some (f, (r - 0x12000) / 16)
    else none)

/-- The GEVs of this device whose configuration enables them with producer code `gsel` (R190, R191). -/
def gevListeners (regs : RegFile) (gsel : Nat) : List Nat :=
  regs.filterMap (fun (k, w) =>
    let r := k - 0x60020000
    if 0x60020000 ≤ k ∧ k < 0x60021000 ∧ r % 16 = 0 ∧ GEV_CFG.EN.get w = 1 ∧ GEV_CFG.GSEL.get w = gsel then
      some (r / 16)
    else none)

/-- A producer of the faces from `lo` to `hi` fires with an instant: every FEV that selects it receives the event (R185). -/
def State.fireFev (s : State) (lo hi psel : Nat) (inst : Time) (sched : Bool) : State :=
  let evs : List Event := (fevListeners s.regs lo hi psel).map (fun (f, j) =>
    { face := f, chan := j, inst := inst, sched := sched, soft := false })
  { s with rt := { s.rt with fev := s.rt.fev ++ evs } }

/-- A producer of one face fires. -/
def State.fireFace (s : State) (f psel : Nat) (inst : Time) (sched : Bool) : State := s.fireFev f (f + 1) psel inst sched

/-- A producer wired to every face fires. -/
def State.fireAll (s : State) (psel : Nat) (inst : Time) (sched : Bool) : State := s.fireFev 0 8 psel inst sched

/-- GEV `j` is driven by this device (R191). -/
def State.drivesGev (s : State) (j : Nat) : Bool :=
  if s.isMaster || s.subordinate then j / 32 == s.ownId else true

/-- A global producer fires: every GEV driven here that selects it receives the event (R190, R195). -/
def State.fireGev (s : State) (gsel : Nat) (inst : Time) : State :=
  if s.md.gevLive then
    let evs : List Event := ((gevListeners s.regs gsel).filter s.drivesGev).map (fun j =>
      { face := 0, chan := j, inst := inst, sched := false, soft := false })
    { s with rt := { s.rt with gev := s.rt.gev ++ evs } }
  else s

/-! ## Reports on their way to Tally (R288, R293, R294) -/

/-- The classes of a report (R288). -/
def clsInfo : Nat := 0
def clsCorr : Nat := 1
def clsUncorr : Nat := 2
def clsSafety : Nat := 3

/-- Count a lost report in the overflow counter of its SRC (R288, R290). -/
def State.tallyLost (s : State) (src : Nat) : State :=
  let k := R.TALLY_OVF (src / 4)
  let f : Fld := ⟨8 * (src % 4), 8⟩
  (s.count k f).raise R.TALLY_STAT TALLY_STAT.DROP

/-- A report reaches Tally's input queue, or is held by its unit, or is counted as lost (R288). -/
def State.enqueue (s : State) (src code cls : Nat) (detail : Word) : State :=
  let rep : Report := { src := src, code := code, cls := cls, detail := detail, inst := s.now }
  if s.lg.held.any (fun h => h.src == src) then
    if s.lg.held.any (fun h => h.src == src && h.code == code) then
      { s with lg := { s.lg with held := s.lg.held.map (fun h =>
          if h.src = src ∧ h.code = code then { h with repeats := h.repeats + 1 } else h) } }
    else s.tallyLost src
  else if s.lg.queue.length < 16 then
    { s with lg := { s.lg with queue := s.lg.queue ++ [rep] } }
  else { s with lg := { s.lg with held := s.lg.held ++ [rep] } }

/-- An INFO report. -/
def State.info (s : State) (src code : Nat) (detail : Word) : State := s.enqueue src code clsInfo detail

/-- The TALLY_SAFE group of a reporting unit (R294). -/
def safeGroup (src : Nat) : Nat :=
  if src < 0x88 then 0
  else if src < 0x99 then 1
  else if src < 0xA0 then 7
  else if src < 0xA8 then 2
  else if src < 0xC8 then 3
  else if src = 0x170 then 5
  else if src = 0x178 then 4
  else if src = 0x188 then 6
  else 7

/-! ## Comparator outputs (R64, R374) -/

/-- The comparator slice on channel `n` and the tq since its test began. -/
def State.cmpSlice (s : State) (n : Nat) : Option (Slice × Nat) :=
  match s.ts.slices.find? (fun x => x.y == 1 && x.target == n && x.stage == 2) with
  | some sl => match sl.begun with
    | some t => some (sl, Time.since t s.now)
    | none => none
  | none => none

/-- The comparator that is under test now: A for the first 20 µs, then B (R369, R374). -/
def State.testedCmp (s : State) (n : Nat) : Option Bool :=
  match s.cmpSlice n with
  | some (_, e) => if e < 4000000 then some false else some true
  | none => none

/-- The digital stand-in that replaces comparator A or B of channel `n` now. -/
def State.standInOf (s : State) (n : Nat) (isB : Bool) : Option StandIn :=
  if s.testedCmp n = some isB then s.ts.standIn.find? (fun x => x.chan == n && x.isB == isB) else none

/-- The comparator is enabled. -/
def State.cmpEn (s : State) (n : Nat) (isB : Bool) : Bool :=
  s.flag (R.CH_CMP_CFG n) (if isB then CH_CMP_CFG.B_EN else CH_CMP_CFG.A_EN)

/-- The output of comparator A or B of channel `n` as protection, the event router and the Corer see it: the digital stand-in
while that comparator is under test, else the filtered output. A disabled comparator is never active (R127). -/
def State.cmpOut (s : State) (n : Nat) (isB : Bool) : Bool :=
  match s.standInOf n isB with
  | some x => x.out && s.cmpEn n isB
  | none => s.flag (R.CH_CMP_STAT n) (if isB then CH_CMP_STAT.B_OUT else CH_CMP_STAT.A_OUT)

/-! ## Accesses -/

/-- A Bank-world write to a Pit-owned target: no effect there, and an INFO report that names the master (R19). -/
def State.refuse19 (s : State) (a : Access) (addr : Nat) : State :=
  s.info a.src 0x0010 (BitVec.ofNat 32 addr)

/-- What a write does to its target: the state, and whether the target accepted it (an error response otherwise). -/
abbrev Wr := State × Bool

/-- A write that stores no byte of memory: memory stands as it stood in `s`. -/
def keepsBytes (s : State) (r : Wr) : Wr := (r.1.memoryOf s, r.2)

/-- A write that only Pit world may make (R18, R19). -/
def pitOnly (a : Access) (addr : Nat) (s : State) (f : State → Wr) : Wr :=
  match a.world with
  | .pit => f s
  | .bank => (s.refuse19 a addr, false)

/-- A write that only Supervisor level may make; the refusal is an error response (R36, R257, R331). -/
def supOnly (a : Access) (s : State) (f : State → Wr) : Wr := if a.sup then f s else (s, false)

/-- A write a core can take as a store error: vector 9 is raised at its next instruction boundary (R19, R234). -/
def State.storeErrorTo (s : State) (p : Nat) (addr : Nat) : State :=
  s.updFlow p (fun c => { c with storeErr := match c.storeErr with | some a => some a | none => some (BitVec.ofNat 32 addr) })

/-- A DMA channel stops on an error (R268): it issues no further access, discards what it holds unwritten, sets ERR and
ERR_CODE and leaves DONE clear; a report names the address. -/
def State.dmaError (s : State) (c code : Nat) (addr : Nat) : State :=
  let s := s.updDma c (fun d => { d with
    left := 0, held := [], reqs := 0, active := false, flushing := false, desc := none, descNext := none, open_ := [] })
  let s := s.setF (R.DMA_STAT c) DMA_STAT.ERR_CODE code
  let s := s.setF (R.DMA_STAT c) DMA_STAT.STATE 4
  let s := s.raise (R.DMA_STAT c) DMA_STAT.ERR
  let rc := match code with | 1 => 0x0050 | 2 => 0x0051 | 4 => 0x0052 | _ => 0x0053
  if code = 3 then s else s.info (0x100 + c) rc (BitVec.ofNat 32 addr)

/-- An error response reaches the master that wrote (R19, R268). -/
def State.writeError (s : State) (a : Access) (addr : Nat) : State :=
  if a.master < 7 then s.storeErrorTo a.master addr
  else if 0x10 ≤ a.master ∧ a.master < 0x50 then s.dmaError (a.master - 0x10) 2 addr
  else s

/-- Finish a write made as a command: an error response goes back to the master. -/
def settle (a : Access) (addr : Nat) (r : Wr) : State := if r.2 then r.1 else r.1.writeError a addr

/-- Face `f` is withdrawn for service (R384). -/
def State.faceOut (s : State) (f : Nat) : Bool := s.fld R.TS_WD_UNIT TS_WD_UNIT.FACE / 2 ^ f % 2 == 1

/-- The registers of a channel that are service registers, or whose writable fields are (R384). -/
def isServiceReg (r : RegName) : Bool :=
  match r with
  | .CH_AFE_CFG | .CH_ADC_CFG | .CH_ADC_SWTRIG | .CH_CAL_OFS | .CH_CAL_GAIN | .CH_ADC_STAT | .CH_CMP_STAT | .CH_PROT_STAT => true
  | _ => false

/-- The undefined case of a write to a channel register of a withdrawn face, other than its service registers (R14, R384). -/
def State.faceFault (s : State) (a : Access) (k : Nat) : Option Fault :=
  let f := (k - 0x50000000) / 0x100000
  if a.world = .pit ∧ 0x50000000 ≤ k ∧ k < 0x50800000 ∧ k % 0x100000 < 0x10000 ∧ s.faceOut f = true then
    match regAt k with
    | some (r, _) => if isServiceReg r.name then none else some (.withdrawnFace f)
    | none => none
  else none

/-- Let `dt` pass, then apply an effect that may store to memory and may meet a case the manual leaves undefined. -/
def runMemE (dt : Nat) (s : State) (f : State → Except Fault State) : Out :=
  match f (s.advance dt) with
  | .ok t => .next (t.queueOf s)
  | .error e => .fault e

/-- Let `dt` pass, then apply an effect that stores no byte and may meet a case the manual leaves undefined. -/
def runE (dt : Nat) (s : State) (f : State → Except Fault State) : Out :=
  runMemE dt s (fun t => match f t with | .ok u => .ok (u.memoryOf s) | .error e => .error e)

/-- A write made as a command to a channel register at key `k`. -/
def runChan (dt : Nat) (s : State) (a : Access) (k : Nat) (f : State → State) : Out :=
  runE dt s (fun s => match s.faceFault a k with | some e => .error e | none => .ok (f s))

/-- The mask of the fields of a register of one type. -/
def tyMask (k : Nat) (t : FTy) : Word :=
  match regAt (k % 0x100000000) with
  | some (r, _) => r.maskOf (fun x => x == t)
  | none => 0

/-- The bits of a register that it holds, and on which its functions act: its RW, ST, W1C and W1S fields. -/
def heldMask (k : Nat) : Word :=
  match regAt (k % 0x100000000) with
  | some (r, _) => r.maskOf (fun t => t != .ro && t != .wo)
  | none => 0

/-- The word at `k` is marked as one whose fields hold undefined values. -/
def State.markUndef (s : State) (k : Nat) : State := { s with undef := AMap.set false s.undef k true }

/-- Whether the staged fields of register `k` end its undefined values when they become active (R446): a whole write with zero in
every reserved field does so, an earlier or a bad one does not. -/
def State.stageClean (s : State) (k : Nat) (b : Bool) : State :=
  { s with stg := { s.stg with clean := AMap.set false s.stg.clean k (b && AMap.get false s.undef k) } }

/-- Every field of a register becomes undefined (R446): what it holds is a free value on which its functions act, and what the
hardware presents in it reads as a free value (log entry 58). -/
def State.scramble (s : State) (k : Nat) : State :=
  let (v, s) := s.freshWord
  ((s.stageClean k false).markUndef k).put k ((s.reg k &&& ~~~heldMask k) ||| (v &&& heldMask k))

/-- As `scramble`, where the free value `v` has already been written to the fields that the functions of the register follow when it
is written, the RW ones: they hold it. -/
def State.scrambleTo (s : State) (k : Nat) (v : Word) : State :=
  let s := s.scramble k
  s.put k ((s.reg k &&& ~~~(tyMask k .rw)) ||| (v &&& tyMask k .rw))

/-- A register holds defined values again. -/
def State.defined (s : State) (k : Nat) : State := { s with undef := AMap.set false s.undef k false }

/-- What a whole read of register `k` returns where its fields show `w`: undefined fields that the register does not store read as
a free value; reserved fields read zero (R7, R446). -/
def State.shown (s : State) (k : Nat) (r : RegSpec) (w : Word) : Word × State :=
  if AMap.get false s.undef k then
    let (v, s) := s.freshWord
    ((w &&& heldMask k) ||| (v &&& ~~~(heldMask k ||| r.reserved)), s)
  else (w, s)

/-- A write to a register, whose act is `act`: a whole aligned word with zero in every reserved field acts; any other
leaves the register undefined, and whether the act takes place, and with which values, is undefined (R6, R7, R446). That it leaves
a read-only or a locked register undefined too, where R4 has writes ignored, is the model's choice (log entry 58). -/
def wordWrite (a : Access) (k : Nat) (w : Word) (s : State) (act : Word → State → Wr) : Wr :=
  match regAt (k % 0x100000000) with
  | none => (s, true)
  | some (r, _) =>
    if a.size = 4 ∧ w &&& r.reserved = 0 then
      -- an ST field is defined again once the write has become active
      act w (if r.maskOf (fun t => t == .st) = 0 then s.defined k else s)
    else
      let (v, s) := s.freshWord
      let (b, s) := s.freshBit
      -- the RW fields take a free value on which their functions act; whether the commands of the register act is undefined
      let (s, ok) :=
        if b then act (v &&& ~~~r.reserved) s
        else if r.maskOf (fun t => t == .rw) = 0 then (s, true)
        else act (v &&& r.maskOf (fun t => t == .rw)) s
      (s.scrambleTo k v, ok)

/-- The act of a write that always succeeds. -/
def okWr (s : State) : Wr := (s, true)

/-- The word the latest read by a master returned. -/
def State.returned (s : State) (m : Nat) (w : Word) : State := { s with rdata := AMap.set 0 s.rdata m w }

end Sys2Proof.Machine
end

