-- ==== Sys2Proof/Machine/Output.lean ====
section
/-! DEFINITION. What reaches the pins (R145, R448), the safe patterns of bridges (R139 to R141), the modes that force
them (R332, R334, R335), and the reports to Tally that may (R293). -/

namespace Sys2Proof.Machine

open Sys2Proof

/-! ## Modes and conditions of a leg -/

/-- The modes by number (R330). -/
def mLoad : Nat := 0
def mCommission : Nat := 1
def mRun : Nat := 2
def mLimp : Nat := 3
def mHold : Nat := 4
def mPark : Nat := 5

/-- The current mode (R330). -/
def State.mode (s : State) : Nat := s.fld R.MODE_STAT MODE_STAT.MODE

/-- Bit `n` of a bank of 32-bit words, one bit for each unit. -/
def State.bankBit (s : State) (base : Nat) (n : Nat) : Bool := (s.reg (base + 4 * (n / 32))).toNat / 2 ^ (n % 32) % 2 = 1

/-- Output permits act: in COMMISSION, and in a LOAD after a system reset with PREV equal to COMMISSION (R337, R346). -/
def State.permitsAct (s : State) : Bool :=
  s.mode == mCommission ||
  (s.mode == mLoad && !s.md.powerOn && s.fld R.MODE_STAT MODE_STAT.PREV == mCommission)

/-- The output permit of channel `n` is granted or does not matter (R337). -/
def State.permitted (s : State) (n : Nat) : Bool := !s.permitsAct || s.bankBit (R.MODE_PERMIT 0) n

/-- Channel `n` is withdrawn for service (R382). -/
def State.withdrawn (s : State) (n : Nat) : Bool := s.bankBit (R.TS_WD_CH 0) n

/-- The carrier group of channel `n` (R110). -/
def State.cgOf (s : State) (n : Nat) : Nat := s.fld (R.CH_PWM_CFG n) CH_PWM_CFG.CG

/-- Group `g` is running (R109, R112). -/
def State.groupRuns (s : State) (g : Nat) : Bool := s.flag (R.FACE_CG_STAT g) FACE_CG_STAT.RUN

/-! ## Levels that gates of event channels see (R188)

An event is passed or blocked by the levels, and the configuration of its channel, at its scheduled instant, which may lie before
the present: the router keeps what they were before their latest changes. -/

/-- The keys of what is kept: the output of comparator A or B of a channel, VALID of a tracker, a running group, and the configuration of
FEV `j` of face `f`. -/
def cmpKey (n : Nat) (isB : Bool) : Nat := if isB then 128 + n else n
def validKey (a : Nat) : Nat := 256 + a
def runKey (g : Nat) : Nat := 272 + g
def fevCfgKey (f j : Nat) : Nat := 304 + 64 * f + j

/-- The value of a key now. -/
def State.gateNow (s : State) (key : Nat) : Word :=
  if key < 256 then BitVec.ofNat 32 (s.cmpOut (key % 128) (decide (128 ≤ key))).toNat
  else if key < 272 then BitVec.ofNat 32 (s.flag (R.ANG_POS (key - 256)) ANG_POS.VALID).toNat
  else if key < 304 then BitVec.ofNat 32 (s.groupRuns (key - 272)).toNat
  else s.reg (R.FEV_CFG ((key - 304) / 64) ((key - 304) % 64))

/-- A value that stood until `t` is kept; of each key the latest eight (log entry 119). -/
def State.keepWas (s : State) (key : Nat) (t : Time) (v : Word) : State :=
  { s with rt := { s.rt with was := AMap.upd [] s.rt.was key (fun l => ((t, v) :: l).take 8) } }

/-- The value of a key changes at `t`: the present one is kept. -/
def State.noteGate (s : State) (key : Nat) (t : Time) : State := s.keepWas key t (s.gateNow key)

/-- The value at `x`, from that of now back through the changes made after `x`. -/
def valueAt (x : Time) : List (Time × Word) → Word → Word
  | [], cur => cur
  | (t, v) :: l, cur => if Time.reached x t then cur else valueAt x l v

/-- The value of a key at instant `x`, with the changes of that very instant already made (R188). -/
def State.gateAt (s : State) (key : Nat) (x : Time) : Word := valueAt x (AMap.get [] s.rt.was key) (s.gateNow key)

/-- Two instants lie within 1 ns of each other. -/
def within1ns (a b : Time) : Bool := (a - b).toNat ≤ 200 || (b - a).toNat ≤ 200

/-- The output of a comparator as a gate sees it at `x`: a change within 1 ns may be seen on either side (R188; log entry 119). -/
def State.cmpGate (s : State) (key : Nat) (x : Time) : Bool :=
  if (AMap.get [] s.rt.was key).any (fun e => within1ns e.1 x) then Config.freeBit s.free else s.gateAt key x != 0

/-- The leader channel of the bridge of channel `n` (R93). -/
def State.leaderOf (s : State) (n : Nat) : Nat := s.fld (R.CH_BRIDGE n) CH_BRIDGE.LEADER

/-- The legs of the bridge led by channel `l` (R93). -/
def State.legsOf (s : State) (l : Nat) : List Nat :=
  (List.range (s.fld (R.CH_BRIDGE l) CH_BRIDGE.LEGS + 1)).map (fun j => l + j)

/-- The channels that lead a bridge. -/
def State.leaders (s : State) : List Nat := (List.range 128).filter (fun n => s.leaderOf n == n)

/-- SAFE of the bridge of channel `n` (R141). -/
def State.isSafe (s : State) (n : Nat) : Bool := s.flag (R.BR_SAFE_STAT (s.leaderOf n)) BR_SAFE_STAT.SAFE

/-- The channel is LATCHED or CYCLE (R133). -/
def State.tripped (s : State) (n : Nat) : Bool := s.anyFlag (R.CH_PROT_STAT n) [CH_PROT_STAT.LATCHED, CH_PROT_STAT.CYC]

/-- The first row of R145 that applies to channel `n`; a withdrawn channel is held off as by row 3 (R382, R383), and so in PARK, where every
output is off, are the legs of a safe bridge (R330). -/
def State.rowOf (s : State) (n : Nat) : Nat :=
  if s.isSafe n && s.mode != mPark then 1
  else if s.tripped n then 2
  else if !s.permitted n || s.withdrawn n || s.isSafe n then 3
  else if !s.groupRuns (s.cgOf n) then 4
  else 5

/-- The pattern's commands for channel `n` (R139). -/
def State.patternOf (s : State) (n : Nat) : Bool × Bool :=
  let p := s.fld (R.BR_SAFE_CFG (s.leaderOf n)) BR_SAFE_CFG.PATTERN
  (p == 2, p == 1 && !s.flag (R.CH_PWM_CFG n) CH_PWM_CFG.LMODE)

/-- SAFE_DT as it acts (R140). -/
def State.safeDt (s : State) (n : Nat) : Nat :=
  Nat.min 2000 (s.fld (R.BR_SAFE_CFG (s.leaderOf n)) BR_SAFE_CFG.SAFE_DT)

/-- The later of two instants. -/
def later (a b : Time) : Time := if Time.reached b a then b else a

/-! ## Outputs -/

/-- The rising and falling delays of a side (R115). -/
def State.riseOf (s : State) (n : Nat) : Side → Nat
  | .hi => s.fld (R.CH_DT_H n) CH_DT_H.RISE
  | .lo => s.fld (R.CH_DT_L n) CH_DT_L.RISE

def State.fallOf (s : State) (n : Nat) : Side → Nat
  | .hi => s.fld (R.CH_DT_H n) CH_DT_H.FALL
  | .lo => s.fld (R.CH_DT_L n) CH_DT_L.FALL

/-- The output of a side, before SWAP and INV. -/
def Channel.out (c : Channel) : Side → Bool
  | .hi => c.outH
  | .lo => c.outL

/-- An on-edge of a side is held by the interlock (R117). -/
def Channel.heldOf (c : Channel) : Side → Bool
  | .hi => c.heldH
  | .lo => c.heldL

def Channel.setHeld (c : Channel) (d : Side) (v : Bool) : Channel :=
  match d with
  | .hi => { c with heldH := v }
  | .lo => { c with heldL := v }

/-- An output reaches its off level at `t`. -/
def Channel.turnOff (c : Channel) (d : Side) (t : Time) : Channel :=
  match d with
  | .hi => if c.outH then { c with outH := false, offHAt := some t } else c
  | .lo => if c.outL then { c with outL := false, offLAt := some t } else c

/-- A delayed edge is scheduled. An on-edge that the interlock holds may still be released until the delayed turn-off (R117). A turn-off
at or before the pulse's own turn-on cancels the pulse, and a turn-on at or before the turn-off of the pulse before it joins the two
(R115). -/
def Channel.addEdge (c : Channel) (d : Side) (on : Bool) (due : Time) (supp : Bool) : Channel :=
  if supp then { c with edges := c.edges ++ [{ side := d, on := on, due := due, supp := true }] }
  else
    let clash := fun e : Edge => e.side == d && e.on != on && !e.supp && Time.reached e.due due
    if c.edges.any clash then { c with edges := c.edges.filter (fun e => !clash e) }
    else { c with edges := c.edges ++ [{ side := d, on := on, due := due }] }

/-- The carrier waveform's commands of channel `n` become `h` and `l` at instant `t` (R113, R118): in rows 4 and 5 each
change is an edge after its delay; while the channel is CYCLE or LATCHED its on-edges are suppressed ones (R134). -/
def State.setCmds (s : State) (n : Nat) (h l : Bool) (t : Time) : State :=
  let c := s.chan n
  let edge := fun (c : Channel) (d : Side) (was now : Bool) =>
    if was = now then c
    else if 4 ≤ c.row then
      c.addEdge d now (t + BitVec.ofNat 64 (if now then s.riseOf n d else s.fallOf n d)) false
    else if c.row = 2 ∧ now then c.addEdge d true (t + BitVec.ofNat 64 (s.riseOf n d)) true
    else c
  let c1 := edge c .hi c.wave h
  let c2 := edge c1 .lo c.cmdL l
  s.setChan n { c2 with wave := h, cmdL := l }

/-- The high-side command of the waveform becomes `h`; the low-side command is its complement unless LMODE is 1. -/
def State.setWave (s : State) (n : Nat) (h : Bool) (t : Time) : State :=
  s.setCmds n h (!h && !s.flag (R.CH_PWM_CFG n) CH_PWM_CFG.LMODE) t

/-- The safe pattern is in force on channel `n` from `at_`: what it holds off goes off, what it turns on turns on SAFE_DT after the
other output of the leg reached its off level (R140, R144). -/
def State.applyPattern (s : State) (n : Nat) (at_ : Time) : State :=
  let (hiOn, loOn) := s.patternOf n
  let c := s.chan n
  let same := c.row == 1 && c.safeOnAt.isSome && !(hiOn && c.outL) && !(loOn && c.outH) && (hiOn || loOn)
  if same then s
  else
    let c1 := if hiOn then c else c.turnOff .hi at_
    let c2 := if loOn then c1 else c1.turnOff .lo at_
    let onFrom := fun (o : Option Time) =>
      match o with
      | some t => some (later at_ (t + BitVec.ofNat 64 (s.safeDt n)))
      | none => some at_
    let due := if hiOn && !c2.outH then onFrom c2.offLAt else if loOn && !c2.outL then onFrom c2.offHAt else none
    s.setChan n { c2 with row := 1, edges := [], heldH := false, heldL := false, safeOnAt := due }

/-- Row 4 or 5 applies again from `at_`: the outputs take the waveform of the period in progress, which of a stopped group is off
(R112, R448). An output the safe pattern held on stays on if its command is on. -/
def State.resume (s : State) (n r : Nat) (at_ : Time) : State :=
  let c := { s.chan n with row := r, edges := [], heldH := false, heldL := false, safeOnAt := none }
  let side := fun (c : Channel) (d : Side) (cmd : Bool) =>
    if cmd && !c.out d then c.addEdge d true (at_ + BitVec.ofNat 64 (s.riseOf n d)) false
    else if !cmd && c.out d then c.addEdge d false (at_ + BitVec.ofNat 64 (s.fallOf n d)) false
    else c
  s.setChan n (side (side c .hi c.wave) .lo c.cmdL)

/-- Rows 2 and 3 hold both outputs off, without delay; a trip suppresses the pending on-edges (R128, R134). -/
def State.holdOff (s : State) (n r : Nat) (at_ : Time) : State :=
  let c := s.chan n
  if c.row = r then s
  else
    let pend := 4 ≤ c.row && (c.heldH || c.heldL || c.edges.any (fun e => e.on))
    let c1 := (c.turnOff .hi at_).turnOff .lo at_
    let s := s.setChan n { c1 with row := r, edges := [], heldH := false, heldL := false, safeOnAt := none }
    s.raiseIf (r == 2 && pend) (R.CH_PROT_STAT n) CH_PROT_STAT.SUPP

/-- Bring the outputs of channel `n` in line with the first row of R145 that applies at `at_`; between rows 4 and 5 the delayed
edges go on. -/
def State.refreshAt (s : State) (n : Nat) (at_ : Time) : State :=
  let r := s.rowOf n
  if r = 1 then s.applyPattern n at_
  else if r < 4 then s.holdOff n r at_
  else if 4 ≤ (s.chan n).row then s.updChan n (fun c => { c with row := r })
  else s.resume n r at_

/-- Bring the outputs of channel `n` in line now. -/
def State.refresh (s : State) (n : Nat) : State := s.refreshAt n s.now

/-- Bring every channel in line, at `at_` or now. -/
def State.refreshAllAt (s : State) (at_ : Time) : State := forAll (List.range 128) s (fun s n => s.refreshAt n at_)
def State.refreshAll (s : State) : State := s.refreshAllAt s.now

/-- A blanking window opens at an on-edge at `t` (R129). -/
def State.openBlank (s : State) (n : Nat) (t : Time) : State :=
  let b := s.fld (R.CH_PROT_BLANK n) CH_PROT_BLANK.BLANK
  if b = 0 then s
  else s.updChan n (fun c =>
    let e := t + BitVec.ofNat 64 b
    { c with blankEnd := some (match c.blankEnd with | some x => later x e | none => e) })

/-- An output turns on at `t`. -/
def State.turnOn (s : State) (n : Nat) (d : Side) (t : Time) : State :=
  (s.updChan n (fun c => match d with
    | .hi => { c with outH := true, onHAt := some t }
    | .lo => { c with outL := true, onLAt := some t })).openBlank n t

/-- The level of a gate pin: SWAP routes the commands, INV inverts the level (R120). -/
def State.pin (s : State) (n : Nat) (d : Side) : Bool :=
  let k := R.CH_PWM_CFG n
  let src := if s.flag k CH_PWM_CFG.SWAP then d.other else d
  let inv := match d with | .hi => s.flag k CH_PWM_CFG.INV_H | .lo => s.flag k CH_PWM_CFG.INV_L
  (s.chan n).out src != inv

/-- When the commanded level of a gate pin last changed, as far as it has: its output turned on or off, or SWAP or INV changed it. -/
def State.pinChanges (s : State) (n : Nat) (d : Side) : List Time :=
  let src := if s.flag (R.CH_PWM_CFG n) CH_PWM_CFG.SWAP then d.other else d
  let c := s.chan n
  (match src with | .hi => [c.onHAt, c.offHAt] | .lo => [c.onLAt, c.offLAt]).filterMap id ++
    (match d with | .hi => c.pinHAt | .lo => c.pinLAt).toList

/-! ## Causes of a bridge's safe pattern (R141) -/

/-- Set a cause of the bridge led by `l`, and SAFE. -/
def State.setCause (s : State) (l : Nat) (f : Fld) : State :=
  let k := R.BR_SAFE_STAT l
  s.setReg k (BR_SAFE_STAT.SAFE.put (f.put (s.reg k) 1) 1)

/-- Clear a cause of the bridge led by `l`; SAFE stays while another cause remains. -/
def State.clearCause (s : State) (l : Nat) (f : Fld) : State :=
  let k := R.BR_SAFE_STAT l
  let w := f.put (s.reg k) 0
  let any := [BR_SAFE_STAT.ESC, BR_SAFE_STAT.MODE, BR_SAFE_STAT.RST].any (fun g => g.get w != 0)
  s.setReg k (BR_SAFE_STAT.SAFE.put w (if any then 1 else 0))

/-- Every bridge takes the MODE cause; a release under way ends (R141, R332). -/
def State.allModeCause (s : State) : State :=
  let s := forAll s.leaders s (fun s l =>
    (s.setCause l BR_SAFE_STAT.MODE).updChan l (fun c => { c with releasing := false }))
  s.refreshAll

/-! ## Modes (R332, R334, R335) -/

/-- The device changes mode: a report with code 0x0080 (R332). -/
def State.setMode (s : State) (m : Nat) : State :=
  let old := s.mode
  if m = old then s
  else
    let s := s.setF R.MODE_STAT MODE_STAT.MODE m
    s.info 0x188 0x0080 (BitVec.ofNat 32 (old * 16 + m))

/-- A HOLD trigger: its bit sets, and from LOAD, COMMISSION, RUN and LIMP every bridge takes the MODE cause; in LOAD the
mode changes when LOAD ends (R332, R334). -/
def State.holdTrigger (s : State) (bit : Nat) : State :=
  let m := s.mode
  let s := s.setF R.MODE_STAT MODE_STAT.HOLD_SRC (s.fld R.MODE_STAT MODE_STAT.HOLD_SRC ||| 2 ^ bit)
  if m = mLoad then { s with md := { s.md with holdInLoad := true } }.allModeCause
  else if m = mCommission ∨ m = mRun ∨ m = mLimp then
    ((s.setF R.MODE_STAT MODE_STAT.HOLD_FROM m).setMode mHold).allModeCause
  else s

/-- A LIMP cause sets: RUN becomes LIMP, any other mode records it (R335). -/
def State.limpCause (s : State) (bit : Nat) : State :=
  let s := s.setF R.MODE_STAT MODE_STAT.LIMP_CAUSE (s.fld R.MODE_STAT MODE_STAT.LIMP_CAUSE ||| 2 ^ bit)
  if s.mode = mRun then s.setMode mLimp else s

/-- A LIMP cause clears (R335). -/
def State.limpClear (s : State) (bit : Nat) : State :=
  s.setF R.MODE_STAT MODE_STAT.LIMP_CAUSE
    ((s.fld R.MODE_STAT MODE_STAT.LIMP_CAUSE) &&& (31 ^^^ 2 ^ bit))

/-- A report to Tally (R288); a SAFETY report first sets its TALLY_SAFE bit, fires its producer, and is a HOLD trigger
when the bit sets under HOLD_MASK (R293, R334). -/
def State.report (s : State) (src code cls : Nat) (detail : Word) : State :=
  if cls = clsSafety then
    let g := safeGroup src
    let was := s.fld R.TALLY_SAFE TALLY_SAFE.GROUP / 2 ^ g % 2
    let s := s.raiseBits R.TALLY_SAFE (BitVec.ofNat 32 (2 ^ g))
    let s := s.fireGev 0x281 s.now
    let s := s.enqueue src code cls detail
    if was = 0 ∧ s.fld R.MODE_CFG MODE_CFG.HOLD_MASK / 2 ^ g % 2 = 1 then s.holdTrigger 4 else s
  else s.enqueue src code cls detail

/-- FAULT_N is driven low (R340). -/
def State.faultNLow (s : State) : Bool :=
  s.reg R.TALLY_SAFE != 0 || s.mode == mHold || s.md.firstLoad || s.flag R.LOAD_STAT LOAD_STAT.NOIMG

end Sys2Proof.Machine
end

