-- ==== Sys2Proof/Machine/Memory.lean ====
section
/-! DEFINITION. The memories (R271 to R278, R283, R285, R287): bytes by system address, the SEC-DED code (39,32), the
counts and reports of errors, error injection, and reads and writes of any width. A word's code errors are held as the
inverted positions of its stored codeword. -/

namespace Sys2Proof.Machine

open Sys2Proof

/-! ## Bytes -/

/-- The byte at a system address; one that nothing has written reads zero (R273). -/
def State.byte (s : State) (a : Nat) : Byte := AMap.get 0 s.mem a

/-- The canonical form of a memory: addresses strictly rising, and no byte listed that reads as an unlisted one does. -/
def Memory.wf (m : List Host.Cell) : Bool := AMap.wf 0 m

/-- Write one byte. -/
def State.setByte (s : State) (a : Nat) (b : Byte) : State := { s with mem := AMap.set 0 s.mem a b }

/-- A word of four bytes, the lowest address first (little-endian). -/
def leWord (b0 b1 b2 b3 : Byte) : Word := b3 ++ b2 ++ b1 ++ b0

/-- Byte `i` of a word. -/
def byteOf (w : Word) (i : Nat) : Byte := (w >>> (8 * i)).truncate 8

/-- The stored data bits of the word at `a`. -/
def State.word (s : State) (a : Nat) : Word := leWord (s.byte a) (s.byte (a + 1)) (s.byte (a + 2)) (s.byte (a + 3))

/-- Write the data bits of the word at `a`. -/
def State.setWord (s : State) (a : Nat) (w : Word) : State :=
  (((s.setByte a (byteOf w 0)).setByte (a + 1) (byteOf w 1)).setByte (a + 2) (byteOf w 2)).setByte (a + 3) (byteOf w 3)

/-- The word at byte `i` of a list of bytes, zero beyond its end. -/
def wordAt (l : List Byte) (i : Nat) : Word :=
  leWord (l.getD i 0) (l.getD (i + 1) 0) (l.getD (i + 2) 0) (l.getD (i + 3) 0)

/-- The bytes of a word, lowest address first. -/
def bytesOf (w : Word) : List Byte := [byteOf w 0, byteOf w 1, byteOf w 2, byteOf w 3]

/-! ## SEC-DED (R274, R275) -/

/-- The codeword positions of the data bits d0 to d31: all from 3 to 38 that are no power of two (R274). -/
def dataPositions : List Nat := (List.range 39).filter (fun p => decide (p ∉ [0, 1, 2, 4, 8, 16, 32]))

/-- The parity of the positions of a codeword that satisfy `p`. -/
def parityOf (cw : BitVec 39) (p : Nat → Bool) : Bool :=
  (List.range 39).foldl (fun x i => if p i then x != cw.getLsbD i else x) false

/-- The data bits laid at their positions. -/
def placeData (w : Word) : BitVec 39 :=
  (dataPositions.zip (List.range 32)).foldl
    (fun cw (p, i) => if w.getLsbD i then cw ||| (1#39 <<< p) else cw) 0

/-- The codeword of a word (R274): check bit 2^i makes the parity of the positions with bit i even, and position 0 makes
the parity of all even. -/
def secEncode (w : Word) : BitVec 39 :=
  let cw := placeData w
  let cw := (List.range 6).foldl (fun cw i =>
    if parityOf cw (fun p => decide (p / 2 ^ i % 2 = 1)) then cw ||| (1#39 <<< 2 ^ i) else cw) cw
  if parityOf cw (fun _ => true) then cw ||| 1 else cw

/-- The data bits of a codeword. -/
def secData (cw : BitVec 39) : Word :=
  (dataPositions.zip (List.range 32)).foldl
    (fun w (p, i) => if cw.getLsbD p then w ||| (1#32 <<< i) else w) 0

/-- How a codeword read ends (R275). -/
inductive EccOut where
  | clean (w : Word) | corrected (w : Word) | bad (w : Word)
  deriving DecidableEq, Repr

/-- The word delivered. -/
def EccOut.word : EccOut → Word
  | .clean w => w
  | .corrected w => w
  | .bad w => w

/-- The syndrome of a codeword: bit i from check i. -/
def secSyndrome (cw : BitVec 39) : Nat :=
  (List.range 6).foldl (fun x i => if parityOf cw (fun p => decide (p / 2 ^ i % 2 = 1)) then x + 2 ^ i else x) 0

/-- Decoding of a codeword (R275). -/
def secDecode (cw : BitVec 39) : EccOut :=
  let syn := secSyndrome cw
  let odd := parityOf cw (fun _ => true)
  if syn = 0 then (if odd then .corrected (secData cw) else .clean (secData cw))
  else if odd ∧ syn ≤ 38 then .corrected (secData (cw ^^^ (1#39 <<< syn)))
  else .bad (secData cw)

/-- A word whose stored codeword has the positions of `m` inverted, as it is delivered. -/
def eccRead (w : Word) (m : BitVec 39) : EccOut := if m = 0 then .clean w else secDecode (secEncode w ^^^ m)

/-- The inverted positions of the stored codeword at word address `a`. -/
def State.eccMask (s : State) (a : Nat) : BitVec 39 := AMap.get 0 s.ecc a

/-- Set the inverted positions of the stored codeword at `a`. -/
def State.setEcc (s : State) (a : Nat) (m : BitVec 39) : State := { s with ecc := AMap.set 0 s.ecc a m }

/-! ## Regions (R271) -/

/-- The base of processor `p`'s private range (R32). -/
def privBase (p : Nat) : Nat := 0x000100000000 + p * 0x01000000

/-- Offset `o` lies in a private memory of processor `p` (R30): instruction memory, or data memory. -/
def privOk (p o : Nat) : Bool :=
  if p < 6 then o < 0x40000 || (0x100000 ≤ o && o < 0x120000)
  else p == 6 && o < 0x80000

/-- Offset `o` lies in the instruction memory of processor `p`. -/
def privCode (p o : Nat) : Bool := if p < 6 then o < 0x40000 else p == 6 && o < 0x80000

/-- The region of a system address (R271), of this device. -/
def regionOf (a : Nat) : Option Nat :=
  if 0x100000000 ≤ a ∧ a < 0x107000000 then
    let p := (a - 0x100000000) / 0x01000000
    if privOk p (a % 0x01000000) then some p else none
  else if 0x20000000 ≤ a ∧ a < 0x20400000 then some 7
  else if 0x24000000 ≤ a ∧ a < 0x24800000 then some 8
  else if 0x40000000 ≤ a ∧ a < 0x40080000 then some 9
  else if 0x40080000 ≤ a ∧ a < 0x400A0000 then some 10
  else if 0x50000000 ≤ a ∧ a < 0x50800000 ∧ 0x80000 ≤ a % 0x100000 then some (11 + (a - 0x50000000) / 0x100000)
  else if 0x80000000 ≤ a ∧ a < 0x80200000 then some 19
  else none

/-- The class of an uncorrectable error in region `r` (R295). -/
def ueClass (r : Nat) : Nat := if 9 ≤ r ∧ r ≤ 18 then clsSafety else clsUncorr

/-! ## Errors found (R276, R278) -/

/-- A correctable delivery in region `r` at `a`: counted, flagged and reported (R276). -/
def State.noteCe (s : State) (r a : Nat) : State :=
  let s := s.count (R.MI_ERR_CNT r) MI_ERR_CNT.CE_CNT
  let s := s.raise R.MI_STAT MI_STAT.CE
  s.report (0xB0 + r) 0x0001 clsCorr (BitVec.ofNat 32 a)

/-- An uncorrectable delivery, or a scrub find with code 3: counted, flagged, its address loaded, reported (R278, R285). -/
def State.noteUe (s : State) (r a code : Nat) : State :=
  let s := s.count (R.MI_ERR_CNT r) MI_ERR_CNT.UE_CNT
  let s := s.raise R.MI_STAT MI_STAT.UE
  let s := s.setReg R.MI_UE_LO (BitVec.ofNat 32 a)
  let s := s.setReg R.MI_UE_HI (BitVec.ofNat 32 (a / 0x100000000 % 0x10000 + r * 0x10000))
  s.report (0xB0 + r) code (ueClass r) (BitVec.ofNat 32 a)

/-- Deliver the data word `w` of word address `a`, whose stored codeword has the positions of `m` inverted: corrected and counted by
its code (R275, R276, R278). The Bool is false for an uncorrectable word. -/
def State.deliverCode (s : State) (a : Nat) (w : Word) (m : BitVec 39) : Word × Bool × State :=
  match eccRead w m, regionOf a with
  | .clean v, _ => (v, true, s)
  | .corrected v, some r => (v, true, s.noteCe r a)
  | .bad v, some r => (v, false, s.noteUe r a 0x0002)
  | o, none => (o.word, true, s)

/-- Deliver the data word `w` stored at word address `a`. -/
def State.deliver (s : State) (a : Nat) (w : Word) : Word × Bool × State := s.deliverCode a w (s.eccMask a)

/-- Deliver the memory word at word address `a`. -/
def State.deliverMem (s : State) (a : Nat) : Word × Bool × State := s.deliver a (s.word a)

/-- More errors than the code of the capture buffer corrects (R271, R281). -/
def pageBeyond (n : Nat) : Bool := 16 < n

/-- A read of any byte of codeword `c` of the capture buffer (R283): its errors are counted; false when uncorrectable. More
than 16 errors may be miscorrected without report (R281). -/
def State.deliverPage (s : State) (c : Nat) : Bool × State :=
  let n := AMap.get 0 s.pageErr c
  let a := 0x24000000 + 1024 * c
  if n = 0 then (true, s)
  else if pageBeyond n = false then (true, s.noteCe 8 a)
  else if Config.miscorrect s.free then (true, { s with free := s.free + 1 })
  else (false, { s with free := s.free + 1 }.noteUe 8 a 0x0002)

/-! ## Writes (R277, R287) -/

/-- A word-wide write stores data and check bits at `a`; an armed injection for that address inverts positions and ends
(R277, R287). The data itself is stored by the caller. -/
def State.eccWrite (s : State) (a : Nat) : State :=
  let k := R.MI_INJ_CTL
  let at_ := (s.reg R.MI_INJ_LO).toNat + 0x100000000 * ((s.reg R.MI_INJ_HI).toNat % 0x10000)
  if s.flag k MI_INJ_CTL.ARM && at_ == a && regionOf a != some 8 then
    let flip := fun (en pos : Fld) => if s.flag k en ∧ s.fld k pos ≤ 38 then 1#39 <<< s.fld k pos else 0
    let m := flip MI_INJ_CTL.EN0 MI_INJ_CTL.POS0 ^^^ flip MI_INJ_CTL.EN1 MI_INJ_CTL.POS1
    (s.setEcc a m).setF k MI_INJ_CTL.ARM 0
  else s.setEcc a 0

/-- A word-wide write to a memory word. -/
def State.writeMemWord (s : State) (a : Nat) (w : Word) : State := (s.setWord a w).eccWrite a

/-- A narrower write to a memory word: it reads, corrects, merges and writes back, and is refused on an uncorrectable word
(R277). `o` is the byte offset in the word, `n` the bytes. -/
def State.writeMemNarrow (s : State) (a o n : Nat) (w : Word) : Wr :=
  match eccRead (s.word a) (s.eccMask a) with
  | .bad _ => (s, false)
  | r =>
    let s := s.setWord a r.word
    let s := forAll (List.range n) s (fun s i => s.setByte (a + o + i) (byteOf w i))
    (s.setEcc a 0, true)

/-- A write of 1, 2 or 4 bytes to a code-protected memory. -/
def State.writeMem (s : State) (a n : Nat) (w : Word) : Wr :=
  if n = 4 ∧ a % 4 = 0 then (s.writeMemWord a w, true)
  else
    let o := a % 4
    if o + n ≤ 4 then s.writeMemNarrow (a - o) o n w
    else
      -- an access that is not aligned to its size reaches two words
      let m := 4 - o
      match s.writeMemNarrow (a - o) o m w with
      | (s, true) => s.writeMemNarrow (a - o + 4) 0 (n - m) (w >>> (8 * m))
      | r => r

/-- The value of `n` bytes at byte offset `o` of a word, zero-extended. -/
def pick (w : Word) (o n : Nat) : Word :=
  (w >>> (8 * o)) &&& BitVec.ofNat 32 (2 ^ (8 * n) - 1)

end Sys2Proof.Machine
end

