-- ==== Sys2Proof/Machine/LaneOps.lean ====
section
/-! DEFINITION. Recording by the lanes of the Corer: records into the ring, history, triggers and cores (R302 to R313). -/

namespace Sys2Proof.Machine

open Sys2Proof

/-- The states of a lane (R309). -/
def lOff : Nat := 0
def lFill : Nat := 1
def lArmed : Nat := 2
def lPost : Nat := 3
def lRearm : Nat := 4
def lCont : Nat := 5

/-- The state of lane `l`. -/
def State.laneState (s : State) (l : Nat) : Nat := s.fld (R.LANE_STAT l) LANE_STAT.STATE

/-- Put lane `l` into a state. -/
def State.setLaneState (s : State) (l v : Nat) : State := s.setF (R.LANE_STAT l) LANE_STAT.STATE v

/-- Lane `l` records (EN is 1). -/
def State.laneEn (s : State) (l : Nat) : Bool := s.flag (R.LANE_CFG l) LANE_CFG.EN

/-- A setting of lane `l` as it acts: while the cores of a lane whose EN has been cleared drain, its registers may be written for the
next run, and the drain goes on with those it was enabled with (R312, R328). -/
def State.laneReg (s : State) (l k : Nat) : Word :=
  match (s.lane l).held.find? (fun x => x.1 == k) with
  | some x => x.2
  | none => s.reg k

/-- The channels of a channel lane (R302). -/
def State.laneWidth (s : State) (l : Nat) : Nat := 2 ^ Nat.min 2 (LANE_CFG.WIDTH.get (s.laneReg l (R.LANE_CFG l)))

/-- Record bytes of lane `l` (R302). -/
def State.recBytes (s : State) (l : Nat) : Nat :=
  if LANE_CFG.KIND.get (s.laneReg l (R.LANE_CFG l)) = 1 then 16 else 2 * s.laneWidth l

/-- Base and length of the ring of lane `l` in codewords (R305). -/
def State.laneBase (s : State) (l : Nat) : Nat := LANE_BUF.BASE.get (s.laneReg l (R.LANE_BUF l))
def State.laneLen (s : State) (l : Nat) : Nat := LANE_BUF.LEN.get (s.laneReg l (R.LANE_BUF l))

/-- Records the ring of lane `l` holds (R305). -/
def State.ringRecs (s : State) (l : Nat) : Nat := s.laneLen l * 1024 / s.recBytes l

/-- LANE_PRE and LANE_POST as they act. -/
def State.lanePre (s : State) (l : Nat) : Nat := (s.laneReg l (R.LANE_PRE l)).toNat
def State.lanePost (s : State) (l : Nat) : Nat := Nat.max 1 (s.laneReg l (R.LANE_POST l)).toNat

/-- The records of the history: none between a gap and the first record after it (R305, R306). -/
def Lane.history (q : Lane) : Nat := if q.gap then 0 else q.nextRec - q.histFrom

/-- Records of a core already drained: the codewords hold its 64-byte header and its records (R315). -/
def CoreRec.drainedRecs (c : CoreRec) (rb : Nat) : Nat := (1024 * c.drained - 64) / rb

/-- The first record a core still needs: everything of an ended or running core that has not been drained (R306). -/
def CoreRec.needs (c : CoreRec) (rb : Nat) (pre nextRec histFrom : Nat) : Option Nat :=
  if c.hdrDone then none
  else match c.trig with
    | some _ => some (c.first + c.drainedRecs rb)
    | none => some (Nat.max histFrom (nextRec - pre))

/-- The number of records of a core so far. -/
def CoreRec.size (c : CoreRec) (nextRec : Nat) : Nat := if c.ended then c.pre + c.post else nextRec - c.first

/-- Record `r` of lane `l` is needed by a core not drained or by a queued trigger (R306). -/
def State.recNeeded (s : State) (l r : Nat) : Bool :=
  let q := s.lane l
  let rb := s.recBytes l
  let pre := s.lanePre l
  q.cores.any (fun c =>
    match c.needs rb pre q.nextRec q.histFrom with
    | some f => f ≤ r && (!c.ended || r < c.first + c.pre + c.post)
    | none => false) ||
  (match q.queued with
   | some t =>
     (match t.record with
      | some x => Nat.max t.hist (x - pre)
      | none => Nat.max q.histFrom (q.nextRec - pre)) ≤ r
   | none => false)

/-- The instant of a record the lane holds. -/
def Lane.instOf (q : Lane) (r : Nat) : Time :=
  match q.records.find? (fun x => x.idx == r) with
  | some x => x.inst
  | none => 0

/-- A core learns its trigger record `r`, whose history begins at record `hist` (R310). -/
def State.resolveCore (s : State) (l : Nat) (c : CoreRec) (r hist : Nat) : CoreRec :=
  let q := s.lane l
  let pre := if c.cont then 0 else Nat.min (s.lanePre l) (r - hist)
  { c with trig := some r, pre := pre, first := r - pre, trigAt := q.instOf r, firstAt := q.instOf (r - pre) }

/-- A core of lane `l` whose records are complete ends, and the lane re-arms (R309). -/
def State.endIfFull (s : State) (l : Nat) : State :=
  let q := s.lane l
  if s.laneState l = lPost then
    match q.cores.getLast? with
    | some c =>
      match c.trig with
      | some r =>
        let post := s.lanePost l
        if !c.ended && decide (r + post ≤ q.nextRec) then
          let s := s.setLane l { q with
            cores := q.cores.dropLast ++ [{ c with ended := true, post := post }]
            rearmFrom := q.instOf (r + post - 1) }
          s.setLaneState l lRearm
        else s
      | none => s
    | none => s
  else s

/-- LANE_CNT.MISSED_TRIG of lane `l`. -/
def State.missedTrig (s : State) (l : Nat) : Nat := s.fld (R.LANE_CNT l) LANE_CNT.MISSED_TRIG

/-- A core of lane `l` with what its header takes from the lane's settings (R316). -/
def State.newCore (s : State) (l : Nat) : CoreRec :=
  { seq := (s.lane l).coreCnt, cfg := s.laneReg l (R.LANE_CFG l), preReq := s.lanePre l, postReq := s.lanePost l }

/-- An accepted trigger starts a core and fires the lane-trigger producer (R309, R310, R311). -/
def State.startCore (s : State) (l : Nat) (t : Trigger) (queued : Bool) : State :=
  let q := s.lane l
  let c : CoreRec := { s.newCore l with condAt := t.time, mask := t.mask, queued := queued, missed := t.missed }
  let c := match t.record with | some r => s.resolveCore l c r t.hist | none => c
  let s := s.setLane l { q with cores := q.cores ++ [c], coreCnt := q.coreCnt + 1 }
  let s := s.setLaneState l lPost
  let s := s.fireGev (0x200 + l) s.now
  s.endIfFull l

/-- A trigger that names record `r` is missed: it counts once, whichever conditions name its record (R308, R311). -/
def State.missTrigger (s : State) (l r : Nat) : State :=
  let q := s.lane l
  if q.missedRecs.contains r then s
  else
    let s := s.setLane l { q with missedRecs := r :: q.missedRecs.filter (fun x => q.nextRec ≤ x + s.ringRecs l) }
    (s.raise (R.LANE_STAT l) LANE_STAT.MISSED).count (R.LANE_CNT l) LANE_CNT.MISSED_TRIG

/-- A trigger waits in the queue (R311). -/
def State.queueTrigger (s : State) (l : Nat) (t : Trigger) : State :=
  (s.updLane l (fun q => { q with queued := some { t with missed := s.missedTrig l } })).setF (R.LANE_STAT l) LANE_STAT.QUEUED 1

/-- A core of which record `r` is the trigger record. One that a drop ended before any trigger record was written has none. -/
def CoreRec.hasTrig (c : CoreRec) (r : Nat) : Bool := c.trig == some r && !c.cont && !(c.ended && c.post == 0)

/-- A trigger with a known record reaches the lane: it merges into the core or the queued trigger with the same record, is
accepted, queued or missed (R308, R309, R311). `busy`: it was met in POST or REARM; `full`: while the queue was not empty. -/
def State.takeTrigger (s : State) (l r mask : Nat) (t : Time) (busy full : Bool) : State :=
  let q := s.lane l
  let st := s.laneState l
  let new : Trigger := { record := some r, mask := mask, time := t, hist := q.histFrom, missed := s.missedTrig l }
  if q.cores.any (fun c => c.hasTrig r) then
    s.setLane l { q with cores := q.cores.map (fun c => if c.hasTrig r then { c with mask := c.mask ||| mask } else c) }
  else
    match q.queued with
    | some x =>
      if x.record = some r then s.setLane l { q with queued := some { x with mask := x.mask ||| mask } }
      else s.missTrigger l r
    | none =>
      if q.missedRecs.contains r then s
      else if busy = false ∧ (st = lFill ∨ st = lArmed) then s.startCore l new false
      else if s.flag (R.LANE_CFG l) LANE_CFG.QEN = true ∧ full = false ∧ (st = lPost ∨ st = lRearm) then s.queueTrigger l new
      else s.missTrigger l r

/-- The oldest trigger met in POST or REARM whose record is still to come is queued as soon as it is known to merge with no core: the
running core has its trigger record (R308, R311). The others wait for their record, by which they merge or are missed. -/
def State.queueWaiting (s : State) (l : Nat) : State :=
  let q := s.lane l
  let st := s.laneState l
  if s.flag (R.LANE_CFG l) LANE_CFG.QEN = true ∧ (st = lPost ∨ st = lRearm) ∧ q.queued.isNone = true ∧
      q.cores.all (fun c => c.trig.isSome) = true then
    match q.triggers.find? (fun t => !t.full) with
    | some t => (s.setLane l { q with triggers := q.triggers.erase t }).queueTrigger l t
    | none => s
  else s

/-- A condition of slot `j` with instant `t` is at the lane (R308): it names the first record whose instant is at or after
`t`. A trigger is accepted at once in FILL and ARMED even while that record is still to come; one met in POST or REARM is queued or
missed, whatever the state is when its record comes (R311). -/
def State.condition (s : State) (l j : Nat) (t : Time) : State :=
  let q := s.lane l
  let st := s.laneState l
  let new : Trigger := { record := none, mask := 2 ^ j, time := t, missed := s.missedTrig l }
  if s.laneEn l = false ∨ st = lOff ∨ st = lCont then s
  else
    match q.records.find? (fun x => Time.reached x.inst t) with
    | some x => s.takeTrigger l x.idx (2 ^ j) t (st == lPost || st == lRearm) false
    | none =>
      if st = lFill ∨ st = lArmed then s.startCore l new false
      else (s.setLane l { q with triggers := q.triggers ++ [new] }).queueWaiting l

/-- Every core whose recording is not finished ends at the last record written, with TRUNC when `tr`, and for a continuous
core when `trCont` (R306, R312, R313). -/
def Lane.endCores (q : Lane) (pre : Nat) (tr trCont : Bool) : Lane :=
  { q with cores := q.cores.map (fun c =>
      if c.ended then c
      else
        match c.trig with
        | some r => { c with ended := true, trunc := c.trunc || (if c.cont then trCont else tr), post := q.nextRec - r }
        | none =>
          let p := Nat.min pre q.history
          { c with trig := some q.nextRec, ended := true, trunc := tr, pre := p, first := q.nextRec - p, post := 0,
                   trigAt := c.condAt, firstAt := q.instOf (q.nextRec - p) }) }

/-- A record that would overwrite a needed one is dropped (R306). A core in POST ends, and REARM counts from its last record (R309). -/
def State.dropRecord (s : State) (l : Nat) : State :=
  let q := s.lane l
  let open_ := q.cores.find? (fun c => !c.ended)
  let seq := match open_ with
    | some c => c.seq
    | none => match q.cores.find? (fun c => !c.hdrDone) with | some c => c.seq | none => q.coreCnt
  let post := s.laneState l == lPost
  let s := s.setLane l { q.endCores (s.lanePre l) true true with
    gap := true, rearmFrom := if post then q.instOf (q.nextRec - 1) else q.rearmFrom }
  let s := s.count (R.LANE_CNT l) LANE_CNT.DROP
  let s := s.raise (R.LANE_STAT l) LANE_STAT.TRUNC
  let s := if post then (s.setLaneState l lRearm).queueWaiting l else s
  s.info (0x140 + l) 0x0070 (BitVec.ofNat 32 seq)

/-- The codeword that record `r` completes is written to the capture buffer (R283, R305). -/
def State.writeCodeword (s : State) (l r rb : Nat) : State :=
  let per := 1024 / rb
  if (r + 1) % per = 0 then
    let q := s.lane l
    let len := s.fld (R.LANE_BUF l) LANE_BUF.LEN
    let cw := s.fld (R.LANE_BUF l) LANE_BUF.BASE + (r / per) % Nat.max 1 len
    let data := ((q.records.filter (fun x => r + 1 - per ≤ x.idx && x.idx ≤ r)).flatMap (fun x => x.bytes)).take 1024
    let base := 0x24000000 + 1024 * cw
    let s := forAll ((List.range data.length).zip data) s (fun s (i, b) => s.setByte (base + i) b)
    { s with pageErr := AMap.set 0 s.pageErr cw 0 }
  else s

/-- Lane `l` writes a record (R305, R306, R309, R313). -/
def State.writeRecord (s : State) (l : Nat) (inst : Time) (bytes : List Byte) : State :=
  let q := s.lane l
  let st := s.laneState l
  let rb := s.recBytes l
  let n := s.ringRecs l
  if s.laneEn l = false ∨ st = lOff then s
  else if n ≤ q.nextRec ∧ s.recNeeded l (q.nextRec - n) then s.dropRecord l
  else
    let r := q.nextRec
    let hist := if q.gap then r else q.histFrom
    let new : LaneRecord := { idx := r, inst := inst, bytes := bytes }
    let q : Lane := { q with
      records := (q.records ++ [new]).drop (q.records.length + 1 - n)
      nextRec := r + 1, histFrom := hist, gap := false, lastRec := some s.now }
    let s := s.setLane l q
    let s := s.writeCodeword l r rb
    -- a continuous core starts with the first record, and again after a truncation (R313)
    let s :=
      if st = lCont ∧ q.cores.all (fun c => c.ended) then
        let c : CoreRec := { s.newCore l with
          cont := true, trig := some r, first := r, trigAt := inst, firstAt := inst, missed := s.missedTrig l }
        s.updLane l (fun q => { q with cores := q.cores ++ [c], coreCnt := q.coreCnt + 1 })
      else s
    -- the running core and the queued trigger whose record this is
    let s := s.updLane l (fun q => { q with cores := q.cores.map (fun c =>
      if c.trig = none ∧ Time.reached inst c.condAt then s.resolveCore l c r hist else c) })
    let s := s.updLane l (fun q => { q with queued := q.queued.map (fun t =>
      if t.record = none ∧ Time.reached inst t.time then { t with record := some r, hist := hist } else t) })
    -- conditions whose trigger record this is
    let due := (s.lane l).triggers.filter (fun t => Time.reached inst t.time)
    let s := s.updLane l (fun q => { q with triggers := q.triggers.filter (fun t => !Time.reached inst t.time) })
    let s := forAll due s (fun s t => s.takeTrigger l r t.mask t.time true t.full)
    let s := s.queueWaiting l
    -- history
    let q := s.lane l
    let full := decide (s.lanePre l ≤ q.history)
    let st := s.laneState l
    let s :=
      if st = lFill ∧ full then s.setLaneState l lArmed
      else if st = lArmed ∧ full = false then s.setLaneState l lFill
      else s
    s.endIfFull l

/-- A pending signal record is due: 400 ns after the latest record (R304). -/
def State.signalRecordDue (s : State) (l : Nat) : Bool :=
  match (s.lane l).lastRec with
  | some t => Time.reached s.now (t + 80000)
  | none => true

/-- A signal lane takes an accepted write to its signal: it is recorded at once when no record is pending and 400 ns have
passed, else it becomes or replaces the pending record (R304). -/
def State.laneSignal (s : State) (l : Nat) (value : Word) (status : Nat) : State :=
  let rec_ := bytesOf value ++ bytesOf (BitVec.ofNat 32 status) ++ bytesOf (s.now.truncate 32) ++
    bytesOf ((s.now >>> 32).truncate 32)
  match (s.lane l).pendRec with
  | some _ => (s.updLane l (fun q => { q with pendRec := some (s.now, rec_) })).raise (R.LANE_STAT l) LANE_STAT.MERGED
  | none =>
    if s.signalRecordDue l then s.writeRecord l s.now rec_
    else s.updLane l (fun q => { q with pendRec := some (s.now, rec_) })

/-- The lanes that record. -/
def State.activeLanes (s : State) : List Nat := (List.range 32).filter s.laneEn

/-- A condition is met with instant `t` at every slot that satisfies `p`; it reaches the lane by TRIGGER_CONDITION (R307). -/
def State.meetCond (s : State) (p : Nat → Nat → Bool) (t : Time) : State :=
  forAll s.activeLanes s (fun s l =>
    forAll ((List.range 4).filter (p l)) s (fun s j =>
      s.updLane l (fun q => { q with conds := q.conds ++ [(j, t)] })))

/-- Slot `j` of lane `l` has the given type and selection. -/
def State.slotIs (s : State) (l j ty sel : Nat) : Bool :=
  s.fld (R.LANE_COND l j) LANE_COND.TYPE == ty &&
  (if ty = 3 then s.fld (R.LANE_COND l j) LANE_COND.SEL == sel else s.fld (R.LANE_COND l j) LANE_COND.SEL % 256 == sel)

/-- The predicate of slot `j` of lane `l` on a signal value (R307). -/
def State.predicate (s : State) (l j : Nat) (v : Word) : Bool :=
  let c := s.reg (R.LANE_CVAL l j)
  match s.fld (R.LANE_COND l j) LANE_COND.OP with
  | 0 => decide (c.toInt < v.toInt)
  | 1 => decide (v.toInt < c.toInt)
  | 2 => v == c
  | _ => v != c

/-- An accepted write to signal `i` reaches the lanes: their conditions, then the signal lanes (R304, R307). `old` is the
value before the write; a status write leaves it. -/
def State.signalToLanes (s : State) (i : Nat) (old value : Word) (status : Nat) : State :=
  let s := s.meetCond (fun l j => s.slotIs l j 3 i && s.predicate l j value && !s.predicate l j old) s.now
  forAll (s.activeLanes.filter (fun l =>
    s.flag (R.LANE_CFG l) LANE_CFG.KIND && s.fld (R.LANE_CFG l) LANE_CFG.SRC == i)) s
    (fun s l => s.laneSignal l value status)

/-- A corrected result that feeds the loop engine of channel `n` reaches the channel lanes: a complete frame is a record
(R303). -/
def State.resultToLanes (s : State) (n : Nat) (value : Int) (inst : Time) : State :=
  forAll (s.activeLanes.filter (fun l =>
    let k := R.LANE_CFG l
    !s.flag k LANE_CFG.KIND && s.fld k LANE_CFG.SRC ≤ n && n < s.fld k LANE_CFG.SRC + s.laneWidth l)) s
    (fun s l =>
      let q := s.lane l
      let was := (AMap.get none q.frame n).isSome
      let fr := AMap.set none q.frame n (some (value, inst))
      let s := s.raiseIf was (R.LANE_STAT l) LANE_STAT.MERGED
      if fr.length = s.laneWidth l then
        let t := fr.foldl (fun t (_, x) => match x with
          | some (_, i) => if Time.reached t i then i else t
          | none => t) inst
        let bytes := fr.flatMap (fun (_, x) => match x with
          | some (v, _) => (bytesOf (BitVec.ofInt 32 v)).take 2
          | none => [])
        (s.updLane l (fun q => { q with frame := [] })).writeRecord l t bytes
      else s.updLane l (fun q => { q with frame := fr }))

end Sys2Proof.Machine
end

