-- ==== Sys2Proof/Machine/Groups.lean ====
section
/-! DEFINITION. Carrier groups: the count (R109), the phase error a sync instant measures (R122 to R125), and frames this
device originates on the shaft link (R392, R395, R397), by which the master carries its boundaries (R405). -/

namespace Sys2Proof.Machine

open Sys2Proof

/-! ## Frames originated here -/

/-- A port is UP (R390): 0 SHU, 1 SHD. -/
def State.portUp (s : State) (u : Nat) : Bool := s.flag (R.SHL_PORT u) SHL_PORT.UP

/-- The device takes part in a cascade (R387). -/
def State.inCascade (s : State) : Bool := s.isMaster || s.subordinate

/-- Originate a frame (R395, R397): numbered for its class and destination, sent out of SHD with ODIR = 0, or out of SHU
with ODIR = 1 while SHD is DOWN. A standalone device sends none, and with both ports DOWN nothing leaves. The CRC is formed
when the frame is transmitted. -/
def State.sendFrame (s : State) (express : Bool) (type : Nat) (world : World) (bcast : Bool) (dst : Nat) (addr : Word)
    (tag status : Nat) (payload : List Word) : State :=
  if s.inCascade then
    let key := (if express then 16 else 0) + (if bcast then 8 else dst)
    let seq := AMap.get 0 s.io.link.sent key
    let down := s.portUp 1
    let fr : Frame :=
      { express := express, type := type, src := s.ownId, world := world, odir := !down, dst := if bcast then 0 else dst,
        bcast := bcast, turned := false, ttl := 15, seq := seq, addr := addr, tag := tag, status := status,
        payload := payload, crc := 0 }
    let s := { s with io := { s.io with link := { s.io.link with
      sent := AMap.set 0 s.io.link.sent key ((seq + 1) % 65536) } } }
    let put := fun (p : LinkPort) => if express then { p with own := p.own ++ [fr] } else { p with bulk := p.bulk ++ [fr] }
    if down then s.updLport 1 put else if s.portUp 0 then s.updLport 0 put else s
  else s

/-- Originate a CTRL frame to all devices or to one (R393). -/
def State.sendCtrl (s : State) (sub : Nat) (bcast : Bool) (dst : Nat) (words : List Word) : State :=
  s.sendFrame true 0x03 .pit bcast dst 0 0 0 (BitVec.ofNat 32 sub :: words)

/-- The two words of a 64-bit instant, low word first. -/
def timeWords (t : Time) : List Word := [t.truncate 32, (t >>> 32).truncate 32]

/-- The 64-bit instant of two words. -/
def wordsTime (lo hi : Word) : Time := hi ++ lo

/-! ## The count and its phase -/

/-- The nominal period of group `g` (R111). -/
def State.period (s : State) (g : Nat) : Nat := (s.reg (R.FACE_CG_PERIOD g)).toNat

/-- The count of group `g` at instant `x` of its running period; a stopped group stands at 0 (R109, R112). -/
def State.countAt (s : State) (g : Nat) (x : Time) : Nat :=
  if s.groupRuns g then Time.since (s.group g).start x else 0

/-- SYNC as it acts: 2 acts as 1 in a master or standalone device (R122). -/
def State.syncOf (s : State) (g : Nat) : Nat :=
  let v := s.fld (R.FACE_CG_CFG g) FACE_CG_CFG.SYNC
  if v = 2 ∧ s.subordinate = false then 1 else v

/-- The phase error of R123: (OFFSET − a − c_cur) mod P, taken in −(P div 2) … P − (P div 2) − 1. -/
def phaseError (offset a cCur p : Int) : Int :=
  let e := (offset - a - cCur) % p
  if p - p / 2 ≤ e then e - p else e

/-- A sync instant `x` of group `g` (R123, R124, R125): a stopped group ignores it; a running one measures its phase error
into RESID and sets or clears LOCKED. At a sync instant on a boundary of its own the count is the 0 of the new period (R109). -/
def State.syncInstant (s : State) (g : Nat) (x : Time) : State :=
  let k := R.FACE_CG_STAT g
  if s.groupRuns g then
    let q := s.group g
    if q.start + BitVec.ofNat 64 q.len = x then s.setGroup g { q with syncDue := true }
    else
      -- an instant before the latest boundary counts back from it
      let a : Int := (x - q.start).toInt
      let e := phaseError ((s.reg (R.FACE_CG_OFFSET g)).toNat) a q.cCur (s.period g)
      let s := s.setGroup g { q with resid := e }
      if e ≠ 0 then s.setF k FACE_CG_STAT.LOCKED 0
      else if q.cCur = 0 then s.setF k FACE_CG_STAT.LOCKED 1
      else s
  else s.raise k FACE_CG_STAT.SYNC_IGN

/-- A period boundary of group `g` at `x` is a sync instant of every group of the device tied to it (R122). -/
def State.syncTied (s : State) (g : Nat) (x : Time) : State :=
  forAll ((List.range 32).filter (fun h =>
    s.syncOf h == 1 && s.fld (R.FACE_CG_CFG h) FACE_CG_CFG.SYNC_GRP == g)) s (fun s h => s.syncInstant h x)

/-! ## An armed shift change -/

/-- An armed shift change is due: device time has reached its apply instant, and it has not been made yet. -/
def State.applyDue (s : State) : Bool := s.flag R.STG_STATUS STG_STATUS.ARMED && Time.reached s.now s.stg.applyAt

/-- A rejected pulse of tracker `a` (R165, R166). -/
def State.noisePulse (s : State) (a : Nat) : State :=
  (s.raise (R.ANG_STAT a) ANG_STAT.NOISE).count (R.ANG_CNT a) ANG_CNT.NOISE_CNT

/-- An edge of ANG_IN[`a`] to `level`, with timestamp `t`: selected by EDGE it is a pulse, unless it comes less than 100 ns after the
pulse before it (R165). -/
def State.takeEdge (s : State) (a : Nat) (t : Time) (level : Bool) : State :=
  let cfg := R.ANG_CFG a
  if s.flag cfg ANG_CFG.EN && level != s.flag cfg ANG_CFG.EDGE then
    let near := match (s.trk a).lastPulse with
      | some x => decide (Time.since x t < 20000)
      | none => false
    if near then s.noisePulse a
    else s.updTrk a (fun q => { q with lastPulse := some t, pulses := q.pulses ++ [t] })
  else s

/-- The edges that waited for a shift change are judged by the settings now in force (R164). -/
def State.takeEdges (s : State) : State :=
  forAll (List.range 16) s (fun s a =>
    let es := (s.trk a).edges
    if es.isEmpty then s
    else forAll es (s.updTrk a (fun q => { q with edges := [] })) (fun s e => s.takeEdge a e.1 e.2))

/-- An armed shift change is cancelled: ARMED and PASS clear, CANCELLED sets, and the staging copy stays (R203). -/
def State.cancelArm (s : State) : State :=
  let k := R.STG_STATUS
  if s.flag k STG_STATUS.ARMED then
    let s := ((s.setF k STG_STATUS.ARMED 0).setF k STG_STATUS.PASS 0).setF k STG_STATUS.FROZEN 0
    ({ s with stg := { s.stg with hset := [] } }.raise k STG_STATUS.CANCELLED).takeEdges
  else s

end Sys2Proof.Machine
end

