-- ==== Sys2Proof/Machine/Events.lean ====
section
/-! DEFINITION. The event router (R185 to R195): what an event channel passes, merges or blocks, and how an event that
passes reaches its consumers. -/

namespace Sys2Proof.Machine

open Sys2Proof

/-! ## Requests to consumers -/

/-- A start request reaches the converters that follow channel `n` (R43, R55): its own, and the face's standby converter
while that serves the channel. A shadow phase gives both requests one mark. -/
def State.requestStart (s : State) (n : Nat) (inst : Time) (sched : Bool) : State :=
  let f := n / 16
  let k := R.FACE_SBY_STAT f
  let both := s.fld k FACE_SBY_STAT.STATE != 0 && s.fld k FACE_SBY_STAT.CUR_TARGET == n % 16
  let mark := (s.sbyOf f).mark + 1
  let r : StartReq := { inst := inst, sched := sched, mark := if both then mark else 0 }
  let add := fun (c : ConvState) => { c with reqs := c.reqs ++ [r] }
  let s := s.updConv n add
  if both then (s.updSbyOf f (fun h => { h with mark := mark })).updConv (128 + f) add else s

/-- A start request reaches the loop engine, or the engines, that run the program of channel `n` (R75, R105). -/
def State.requestRun (s : State) (n : Nat) : State := s.updEng n (fun e => { e with starts := e.starts + 1 })

/-! ## Face-local event channels -/

/-- The level a gate selects, as it stood at `x` (R188); GINV is applied by the caller. -/
def State.gateLevel (s : State) (f code : Nat) (swg : Bool) (x : Time) : Bool :=
  if code = 0x01 then swg
  else if 0x10 ≤ code ∧ code < 0x20 then s.cmpGate (cmpKey (16 * f + (code - 0x10)) false) x
  else if 0x20 ≤ code ∧ code < 0x30 then s.cmpGate (cmpKey (16 * f + (code - 0x20)) true) x
  else if 0x30 ≤ code ∧ code < 0x40 then s.gateAt (validKey (code - 0x30)) x != 0
  else if 0x40 ≤ code ∧ code < 0x60 then s.gateAt (runKey (code - 0x40)) x != 0
  else true

/-- The instant of an event to its channel and its consumers: the scheduled one of a producer scheduled in device time, else its
arrival, now (R122, R186, R188). -/
def State.instantOf (s : State) (e : Event) : Time := if e.sched then e.inst else s.now

/-- An event that FEV `j` of face `f` passes reaches its consumers (R43, R75, R122, R190, R192). -/
def State.deliverFev (s : State) (f j : Nat) (e : Event) : State :=
  let chans := (List.range 16).map (fun k => 16 * f + k)
  let s := forAll (chans.filter (fun n =>
      s.fld (R.CH_ADC_CFG n) CH_ADC_CFG.SRC == 1 && s.fld (R.CH_ADC_CFG n) CH_ADC_CFG.FEV == j)) s
    (fun s n => s.requestStart n e.inst e.sched)
  let s := forAll (chans.filter (fun n =>
      s.fld (R.LE_CFG n) LE_CFG.START == 3 && s.fld (R.LE_CFG n) LE_CFG.FEV == j)) s State.requestRun
  let s := forAll (((List.range 4).map (fun i => 4 * f + i)).filter (fun g =>
      s.syncOf g == 3 && s.fld (R.FACE_CG_CFG g) FACE_CG_CFG.FEV == j)) s
    (fun s g => s.syncInstant g (s.instantOf e))
  s.fireGev (64 * f + j) s.now

/-- What FEV `j` of face `f` does with an event: none while EN is 0, else whether its gate is open, both at the event's instant (R188). -/
def State.fevGate (s : State) (f j : Nat) (e : Event) : Option Bool :=
  let x := s.instantOf e
  let w := s.gateAt (fevCfgKey f j) x
  if FEV_CFG.EN.get w = 1 then
    some (s.gateLevel f (FEV_CFG.GATE.get w) (FEV_CFG.SWG.get w == 1) x != (FEV_CFG.GINV.get w == 1))
  else none

/-- FEV `j` of face `f` receives an event: it passes it only while EN is 1 and its gate is open (R188). The free bit that a gate on a
comparator may need is used up. -/
def State.passFev (s : State) (f j : Nat) (e : Event) : State :=
  let s' := s.freshBit.2
  match s.fevGate f j e with
  | some open_ =>
    if open_ then
      let st := R.FEV_STAT f j
      ((s'.raise st FEV_STAT.FIRED).countMod st FEV_STAT.EV_CNT).deliverFev f j e
    else s'.raise (R.FEV_STAT f j) FEV_STAT.GATED
  | none => s'

/-- Two instants lie within 2 ns of each other (R189). -/
def within2ns (a b : Time) : Bool := (a - b).toNat ≤ 400 || (b - a).toNat ≤ 400

/-- An event on its way is due: a software fire waits the 2 ns in which a producer event may absorb it (R189). -/
def Event.due (e : Event) (now : Time) : Bool :=
  if e.soft then Time.reached now (e.inst + 401) else Time.reached now e.inst

/-- The event that a channel takes next of those that are its own: the oldest that is due; for a software fire, the producer event that has
reached the channel within 2 ns of it (R189). -/
def pickEvent (now : Time) (l : List Event) : Option Event :=
  match l.find? (fun e => e.due now) with
  | some e =>
    if e.soft then some ((l.find? (fun p => !p.soft && within2ns p.inst e.inst)).getD e) else some e
  | none => none

/-- The key of an FEV in the table of latest producer events. -/
def fevKey (f j : Nat) : Nat := 64 * f + j

/-- FEV_EVENT: the oldest event due at FEV `j` of face `f` is passed, blocked, or, as a software fire within 2 ns of a
producer event, absorbed (R188, R189). -/
def execFevEvent (dt : Nat) (f : Fin 8) (j : Fin 64) (s : State) : Out :=
  run dt s (fun s =>
    let mine := fun (e : Event) => e.face == f.val && e.chan == j.val
    match pickEvent s.now (s.rt.fev.filter mine) with
    | none => s
    | some e =>
      let rest := s.rt.fev.erase e
      let st := R.FEV_STAT f j
      if e.soft then
        let s := { s with rt := { s.rt with fev := rest } }
        match AMap.get none s.rt.fevLast (fevKey f j) with
        | some t => if within2ns t e.inst then s.raise st FEV_STAT.MERGE else s.passFev f j e
        | none => s.passFev f j e
      else
        let absorbed := rest.filter (fun x => mine x && x.soft && within2ns x.inst e.inst)
        let s := { s with rt := { s.rt with
          fev := rest.filter (fun x => !(mine x && x.soft && within2ns x.inst e.inst))
          fevLast := AMap.set none s.rt.fevLast (fevKey f j) (some e.inst) } }
        (s.raiseIf (absorbed != []) st FEV_STAT.MERGE).passFev f j e)

/-- FEV (32 × i + b) is locked (R194). -/
def State.fevLocked (s : State) (f j : Nat) : Bool := s.flag (R.FEV_CFG f j) FEV_CFG.LOCK

/-- A software fire of FEVs: bit `b` fires FEV (32 × i + b), a locked one ignores it (R189, R194). -/
def State.fireFevs (s : State) (f i : Nat) (w : Word) : State :=
  let evs : List Event := (((List.range 32).filter (fun b => w.getLsbD b)).filter
      (fun b => !s.fevLocked f (32 * i + b))).map
    (fun b => { face := f, chan := 32 * i + b, inst := s.now, sched := false, soft := true })
  { s with rt := { s.rt with fev := s.rt.fev ++ evs } }

/-- A write to FACE_FEV_FIRE (R18, R189). -/
def writeFevFire (a : Access) (f i : Nat) (w : Word) (s : State) : Wr :=
  let k := R.FACE_FEV_FIRE f i
  pitOnly a k s (fun s => wordWrite a k w s (fun w s => okWr (s.fireFevs f i w)))

/-- FACE_FEV_FIRE (R189). -/
def execFaceFevFire (dt : Nat) (a : Access) (f : Fin 8) (i : Fin 2) (w : Word) (s : State) : Out :=
  run dt s (fun s => settle a (R.FACE_FEV_FIRE f i) (writeFevFire a f i w s))

/-- A write to FEV_CFG, whose field SWG acts at once and is a level of the channel's own gate (R188). -/
def State.noteFevCfg (s : State) (f j : Nat) : State := s.noteGate (fevCfgKey f j) s.now

/-! ## Global event channels -/

/-- GEV `j` is locked (R194). -/
def State.gevLocked (s : State) (j : Nat) : Bool := s.bankBit (R.GEV_LOCK 0) j

/-- A DMA channel that takes GEV `j` as its requests (R261). -/
def State.dmaOnGev (s : State) (c j : Nat) : Bool :=
  s.fld (R.DMA_CFG c) DMA_CFG.PACE == 1 && s.fld (R.DMA_CFG c) DMA_CFG.GEV == j &&
  (s.fld (R.DMA_STAT c) DMA_STAT.STATE == 1 || s.fld (R.DMA_STAT c) DMA_STAT.STATE == 2)

/-- An event that GEV `j` passes: its interrupt source (R246), its consumers (R192), the FEVs that select it (R185), and, from
its driving device, the peers (R191). -/
def State.passGev (s : State) (j : Nat) (remote : Bool) : State :=
  let st := R.GEV_STAT j
  let s := (s.raise st GEV_STAT.FIRED).countMod st GEV_STAT.EV_CNT
  let s := s.intEvent j
  let s := s.meetCond (fun l i => s.slotIs l i 2 j) s.now
  let s := forAll ((List.range 64).filter (fun c => s.dmaOnGev c j)) s
    (fun s c => s.updDma c (fun d => { d with reqs := d.reqs + 1 }))
  let s := s.fireAll (0x100 + j) s.now false
  if remote then s else s.sendFrame true 0x02 .pit true 0 0 0 0 [BitVec.ofNat 32 j]

/-- GEV_EVENT: the oldest event due at GEV `j` is passed; a software fire within 2 ns of a producer event is absorbed
(R189, R190, R195). -/
def execGevEvent (dt : Nat) (j : Fin 256) (s : State) : Out :=
  run dt s (fun s =>
    let mine := fun (e : Event) => e.chan == j.val
    match pickEvent s.now (s.rt.gev.filter mine) with
    | none => s
    | some e =>
      let rest := s.rt.gev.erase e
      let st := R.GEV_STAT j
      let pass := fun (s : State) => if s.flag (R.GEV_CFG j) GEV_CFG.EN && s.md.gevLive then s.passGev j false else s
      if e.soft then
        let s := { s with rt := { s.rt with gev := rest } }
        match AMap.get none s.rt.gevLast j with
        | some t => if within2ns t e.inst then s.raise st GEV_STAT.MERGE else pass s
        | none => pass s
      else
        let absorbed := rest.filter (fun x => mine x && x.soft && within2ns x.inst e.inst)
        let s := { s with rt := { s.rt with
          gev := rest.filter (fun x => !(mine x && x.soft && within2ns x.inst e.inst))
          gevLast := AMap.set none s.rt.gevLast j (some e.inst) } }
        pass (s.raiseIf (absorbed != []) st GEV_STAT.MERGE))

/-- A software fire of GEVs (R189, R191, R194): bit `b` fires GEV (32 × i + b); a locked GEV and one another device drives
ignore it. -/
def State.fireGevs (s : State) (i : Nat) (w : Word) : State :=
  let evs : List Event := (((List.range 32).filter (fun b => w.getLsbD b)).filter
      (fun b => !s.gevLocked (32 * i + b) && s.drivesGev (32 * i + b))).map
    (fun b => { face := 0, chan := 32 * i + b, inst := s.now, sched := false, soft := true })
  if s.md.gevLive then { s with rt := { s.rt with gev := s.rt.gev ++ evs } } else s

/-- A write to GEV_FIRE; the global router lies outside the channel domain, so both worlds write it (R18). -/
def writeGevFire (a : Access) (i : Nat) (w : Word) (s : State) : Wr :=
  wordWrite a (R.GEV_FIRE i) w s (fun w s => okWr (s.fireGevs i w))

/-- GEV_FIRE (R189). -/
def execGevFire (dt : Nat) (a : Access) (i : Fin 8) (w : Word) (s : State) : Out :=
  run dt s (fun s => settle a (R.GEV_FIRE i) (writeGevFire a i w s))

end Sys2Proof.Machine
end

