-- ==== Sys2Proof/Machine/Signals.lean ====
section
/-! DEFINITION. The signal table (R175 to R184): accepted writes, what they load, record and publish, the copies' age, and the
status a read shows. -/

namespace Sys2Proof.Machine

open Sys2Proof

/-! ## Ownership and status -/

/-- The owner of signal `i` (R176). -/
def State.sigOwner (s : State) (i : Nat) : Nat :=
  let b := i / 1024
  (s.reg (R.SIG_OWNMAP (b / 8))).toNat / 16 ^ (b % 8) % 8

/-- The device owns signal `i` (R176). -/
def State.ownsSig (s : State) (i : Nat) : Bool := s.sigOwner i == s.ownId

/-- The instant the block of signal `i` last passed away from the device (R184). -/
def State.sigAway (s : State) (i : Nat) : Option Time := AMap.get none s.rt.away (i / 1024)

/-- The instant from which the age of a copy runs (R183): the latest of power-on, update and passing away. -/
def State.ageBase (s : State) (i : Nat) : Time :=
  let u := (s.sig i).ageFrom
  match s.sigAway i with
  | some t => later u t
  | none => u

/-- The shaft link has marked the owner of signal `i` lost (R183, R401). -/
def State.ownerLost (s : State) (i : Nat) : Bool := s.fld R.SHL_STAT SHL_STAT.LOST / 2 ^ s.sigOwner i % 2 == 1

/-- STALE of signal `i` (R183). -/
def State.sigStale (s : State) (i : Nat) : Bool :=
  let g := s.sig i
  !s.ownsSig i &&
    ((!g.known && (s.sigAway i).isNone) || g.aged == some (s.ageBase i) || s.ownerLost i)

/-- The status byte of signal `i` (R175). -/
def State.sigStatus (s : State) (i : Nat) : Nat :=
  let g := s.sig i
  g.qual % 8 * 32 + g.published.toNat * 16 + (s.sigStale i).toNat * 8 + s.sigOwner i

/-- SIG_AGE_LIM as it acts, in tq. -/
def State.ageLimit (s : State) : Nat := Nat.max 1 (s.fld R.SIG_AGE_LIM SIG_AGE_LIM.LIM) * 2000000

/-- The age of a copy in tq. -/
def State.sigAge (s : State) (i : Nat) : Nat := Time.since (s.ageBase i) s.now

/-- SIG_AGEQ.AGE of signal `i`: units of 10 µs, saturating; 0 for an owned signal. -/
def State.ageQuery (s : State) (i : Nat) : Nat := if s.ownsSig i then 0 else Nat.min 65535 (s.sigAge i / 2000000)

/-- System addresses of a signal's value and of the word its status lies in. -/
def sigValueAddr (i : Nat) : Nat := 0x40000000 + 4 * i
def sigStatusAddr (i : Nat) : Nat := 0x40080000 + i - i % 4

/-- The status word `j`: the status bytes of signals 4 × j to 4 × j + 3 (R10). -/
def State.statusWord (s : State) (j : Nat) : Word :=
  BitVec.ofNat 32 (s.sigStatus (4 * j) + 256 * s.sigStatus (4 * j + 1) + 65536 * s.sigStatus (4 * j + 2)
    + 16777216 * s.sigStatus (4 * j + 3))

/-! ## Accepted writes -/

/-- The bound inputs of own engines that follow signal `i` (R90), read off the listed registers: a binding that nothing has
written is not enabled. -/
def boundTo (regs : RegFile) (i : Nat) : List (Nat × Nat) :=
  regs.filterMap (fun (k, w) =>
    let r := k % 0x1000
    let f := (k - 0x50000000) / 0x100000
    let c := k % 0x100000 / 0x1000
    if 0x50000000 ≤ k ∧ k < 0x50800000 ∧ c < 16 ∧ 0x100 ≤ r ∧ r < 0x140 ∧ r % 4 = 0
        ∧ LE_BIND.EN.get w = 1 ∧ LE_BIND.SIG.get w = i then
      some (16 * f + c, (r - 0x100) / 4)
    else none)

/-- An accepted write to signal `i` is on its way to every input bound to it (R90). -/
def State.loadBound (s : State) (i : Nat) (v : Word) : State :=
  forAll (boundTo s.regs i) s (fun s (n, k) =>
    s.updEng n (fun e => { e with loads := e.loads ++ [{ input := k, value := v }] }))

/-- Signal `i` lies in a published block (R181). -/
def State.sigPublished (s : State) (i : Nat) : Bool := s.bankBit (R.SIG_PUBEN 0) (i / 1024)

/-- An update of signal `i` enters the publish queue, or overflows it (R181). -/
def State.publish (s : State) (i : Nat) : State :=
  if s.sigPublished i then
    if s.rt.pubq.length < 4096 then
      let e : PubEntry := { sig := i, value := (s.sig i).value, status := s.sigStatus i }
      { s with rt := { s.rt with pubq := s.rt.pubq ++ [e] } }
    else
      let m := s.rt.marked
      let m := if m.contains i then m else m.filter (fun x => x < i) ++ [i] ++ m.filter (fun x => i < x)
      { s with rt := { s.rt with marked := m } }.raise R.SIG_STAT SIG_STAT.PUB_OVF
  else s

/-- The table accepts a value for an owned signal (R177, R179), which also writes its status word with new check bits (R276): the value
and PUBLISHED, the quality when the writer gives one, the bound inputs, the recorder lanes (R304, R307), and the publish queue (R181). -/
def State.acceptSignal (s : State) (i : Nat) (v : Word) (qual : Option Nat) : State :=
  let old := s.sig i
  let s := (s.setSig i { old with value := v, qual := qual.getD old.qual, published := true, known := true }).setEcc (sigStatusAddr i) 0
  let s := s.loadBound i v
  let s := s.signalToLanes i old.value v (s.sigStatus i)
  s.publish i

/-- A write from the device itself to its own signal: PUB steps and tracker publications (R91, R170). -/
def State.deviceSignal (s : State) (i : Nat) (v : Word) (qual : Nat) : State :=
  (s.setEcc (sigValueAddr i) 0).acceptSignal i v (some qual)

/-- The master is a core or a DMA channel of the device (R177). -/
def localMaster (a : Access) : Bool := decide (a.master < 0x50)

/-- A write to the value region (R18, R177, R178, R287); the report of a write to a foreign signal names the master (R294). -/
def writeSigValue (a : Access) (i : Nat) (w : Word) (s : State) : Wr :=
  pitOnly a (sigValueAddr i) s (fun s =>
    if a.size ≠ 4 then okWr (s.raise R.SIG_STAT SIG_STAT.NARROW)
    else if s.ownsSig i then
      if localMaster a then okWr ((s.acceptSignal i w none).eccWrite (sigValueAddr i)) else okWr s
    else if localMaster a then
      let s := s.count R.SIG_STAT SIG_STAT.FOREIGN_CNT
      let s := s.raise R.SIG_STAT SIG_STAT.FOREIGN_WR
      okWr (s.info a.src 0x0012 (BitVec.ofNat 32 i))
    else okWr s)

/-- The owned signals that status word `j` covers. -/
def State.statusMine (s : State) (j : Nat) : List Nat := ((List.range 4).map (fun b => 4 * j + b)).filter s.ownsSig

/-- QUAL of each owned signal that status word `j` covers, from the word `w` (R178). -/
def State.setQuals (s : State) (j : Nat) (w : Word) : State :=
  forAll (s.statusMine j) s (fun s i => s.updSig i (fun g => { g with qual := w.toNat / 2 ^ (8 * (i % 4) + 5) % 8 }))

/-- A word write to status word `j` (R178): QUAL, and an update of each owned signal it covers (R181). -/
def State.statusWrite (s : State) (j : Nat) (w : Word) : State :=
  let mine := s.statusMine j
  let s := s.setQuals j w
  let s := forAll mine s (fun s i => s.signalToLanes i (s.sig i).value (s.sig i).value (s.sigStatus i))
  forAll mine s State.publish

/-- A write to the status region (R10, R178). A narrower one leaves the fields of the word undefined, and whether it acts is
undefined (R6, R446; log entry 35). -/
def writeSigStatus (a : Access) (j : Nat) (w : Word) (s : State) : Wr :=
  let k := 0x40080000 + 4 * j
  pitOnly a k s (fun s =>
    if a.size = 4 then okWr (((s.defined k).statusWrite j w).eccWrite k)
    else
      let (v, s) := s.freshWord
      let (b, s) := s.freshBit
      okWr ((if b then s.statusWrite j v else s.setQuals j v).markUndef k))

/-- SIGNAL_VALUE_WRITE (R177). -/
def execSignalValueWrite (dt : Nat) (a : Access) (i : Fin 131072) (w : Word) (s : State) : Out :=
  runMem dt s (fun s => settle a (sigValueAddr i) (writeSigValue a i w s))

/-- SIGNAL_STATUS_WRITE (R178). -/
def execSignalStatusWrite (dt : Nat) (a : Access) (i : Fin 32768) (w : Word) (s : State) : Out :=
  runMem dt s (fun s => settle a (0x40080000 + 4 * i.val) (writeSigStatus a i w s))

/-- BOUND_INPUT_LOAD: the oldest accepted value on its way to input `i` of engine `e` reaches it while the binding is enabled (R90). -/
def execBoundInputLoad (dt : Nat) (e : Fin 128) (i : Fin 16) (s : State) : Out :=
  run dt s (fun s =>
    let q := s.eng e
    match q.loads.find? (fun l => l.input == i.val) with
    | none => s
    | some l =>
      let on := s.flag (R.LE_BIND e i) LE_BIND.EN
      s.setEng e { q with loads := q.loads.erase l, inputs := if on then AMap.set 0 q.inputs i l.value else q.inputs })

/-! ## Publishing (R181, R182) -/

/-- The words of a SIG frame's entries (R393). -/
def sigEntryWords (l : List PubEntry) : List Word :=
  l.flatMap (fun e => [BitVec.ofNat 32 (e.sig + 16777216 * e.status), e.value])

/-- The memory words of signal `i` can be read: an update of a signal with an uncorrectable word is not sent (R278). -/
def State.sigReadable (s : State) (i : Nat) : Bool × State :=
  let (_, ok1, s) := s.deliver (sigValueAddr i) (s.sig i).value
  let (_, ok2, s) := s.deliver (sigStatusAddr i) (s.statusWord (i / 4))
  (ok1 && ok2, s)

/-- The value of signal `i` as it is read; that of an uncorrectable word is free (log entry 118). -/
def State.readSig (s : State) (i : Nat) : Word × State :=
  match s.deliver (sigValueAddr i) (s.sig i).value with
  | (v, true, s) => (v, s)
  | (_, false, s) => s.freshWord

/-- The entries whose signal can be read. -/
def State.readableEntries (s : State) (l : List PubEntry) : List PubEntry × State :=
  l.foldl (fun (acc, s) e =>
    let (ok, s) := s.sigReadable e.sig
    (if ok then acc ++ [e] else acc, s)) ([], s)

/-- Send entries to every peer, eight to a frame at most (R181, R393). `fuel` bounds the frames. -/
def State.sendSigs (fuel : Nat) (s : State) (l : List PubEntry) : State :=
  match fuel with
  | 0 => s
  | fuel + 1 =>
    if l = [] then s
    else State.sendSigs fuel (s.sendFrame true 0x01 .pit true 0 0 0 0 (sigEntryWords (l.take 8))) (l.drop 8)

/-- Send the first `n` entries of the publish queue. -/
def State.sendQueue (s : State) (n : Nat) : State :=
  let (l, s) := s.readableEntries (s.rt.pubq.take n)
  ({ s with rt := { s.rt with pubq := s.rt.pubq.drop n } }).sendSigs (n / 8 + 1) l

/-- PUBLISH_QUEUE_SEND: the oldest queued updates, one frame of them, leave for the peers (R181). -/
def execPublishQueueSend (dt : Nat) (s : State) : Out := run dt s (fun s => s.sendQueue 8)

/-- MARKED_RESEND: the lowest marked signal enters the publish queue while that holds fewer than 2,048 entries (R182). -/
def execMarkedResend (dt : Nat) (s : State) : Out :=
  run dt s (fun s =>
    match s.rt.marked with
    | [] => s
    | i :: rest =>
      if s.rt.pubq.length < 2048 then
        let e : PubEntry := { sig := i, value := (s.sig i).value, status := s.sigStatus i }
        { s with rt := { s.rt with pubq := s.rt.pubq ++ [e], marked := rest } }
      else s)

/-- SIG_REFRESH in tq. -/
def State.refreshTq (s : State) : Nat := s.fld R.SIG_REFRESH SIG_REFRESH.MS * 200000000

/-- The instant the next sweep is due (log entry 31): an interval after the latest sweep or SIG_REFRESH write. -/
def State.refreshDue (s : State) : Time :=
  match s.rt.nextRefresh with
  | some t => t
  | none => BitVec.ofNat 64 s.refreshTq

/-- SIGNAL_REFRESH: every owned, published signal of a published block is sent, those marked first (R182); what the publish
queue holds leaves before, so that peers see each owner's updates in order (R181). -/
def execSignalRefresh (dt : Nat) (s : State) : Out :=
  run dt s (fun s =>
    if s.refreshTq = 0 ∨ Time.reached s.now s.refreshDue = false then s
    else
      let due := s.refreshDue
      let s := s.sendQueue s.rt.pubq.length
      let all := (s.rt.signals.map (fun e => e.1)).filter (fun i =>
        s.ownsSig i && (s.sig i).published && s.sigPublished i)
      let l := s.rt.marked ++ all.filter (fun i => !s.rt.marked.contains i)
      let es : List PubEntry := l.map (fun i => { sig := i, value := (s.sig i).value, status := s.sigStatus i })
      let (es, s) := s.readableEntries es
      let s := { s with rt := { s.rt with marked := [], nextRefresh := some (due + BitVec.ofNat 64 s.refreshTq) } }
      s.sendSigs (es.length / 8 + 1) es)

/-- A SIG_REFRESH write restarts the interval (log entry 31). -/
def State.restartRefresh (s : State) : State :=
  { s with rt := { s.rt with nextRefresh := some (s.now + BitVec.ofNat 64 s.refreshTq) } }

/-! ## Copies (R181, R183) -/

/-- An update of signal `i` arrives from a peer: a write to the copy (R181). A device keeps the signals it owns. -/
def State.receiveSignal (s : State) (i : Nat) (v : Word) (status : Nat) : State :=
  if s.ownsSig i then s
  else
    let old := s.sig i
    let s := s.setSig i { old with
      value := v, qual := status / 32 % 8, published := status / 16 % 2 == 1, known := true, aged := none, ageFrom := s.now }
    let s := (s.setEcc (sigValueAddr i) 0).setEcc (sigStatusAddr i) 0
    let s := s.loadBound i v
    s.signalToLanes i old.value v (s.sigStatus i)

/-- SIGNAL_AGE_EXPIRY: a copy whose age exceeds the limit turns stale (R183). -/
def execSignalAgeExpiry (dt : Nat) (i : Fin 131072) (s : State) : Out :=
  run dt s (fun s =>
    if s.ownsSig i then s
    else if s.ageLimit < s.sigAge i then
      let b := s.ageBase i
      s.updSig i (fun g => { g with aged := some b })
    else s)

end Sys2Proof.Machine
end

