-- ==== Sys2Proof/Machine/FieldWrite.lean ====
section
/-! DEFINITION. What a whole-word write does to a register's fields by their types (R4, R5), the locks (R4, R73, R146, R194),
and the counters that are cleared with a flag. -/

namespace Sys2Proof.Machine

open Sys2Proof

/-- The counters that are cleared when a flag is cleared, by the register's name, as (flag, register, counter). -/
def clearedWith (k : Nat) : List (Fld × Nat × Fld) :=
  match regAt (k % 0x100000000) with
  | none => []
  | some (r, idx) =>
    match r.name, idx with
    | .CH_ADC_STAT, _ => [(CH_ADC_STAT.OVR, k, CH_ADC_STAT.OVR_CNT)]
    | .CH_COMMIT_STAT, _ =>
      [(CH_COMMIT_STAT.LATE, k, CH_COMMIT_STAT.LATE_CNT), (CH_COMMIT_STAT.CLAMP, k, CH_COMMIT_STAT.CLAMP_CNT)]
    | .LE_STAT, _ => [(LE_STAT.OVR, k, LE_STAT.OVR_CNT)]
    | .FACE_SPR_STAT, _ => [(FACE_SPR_STAT.MISMATCH, k, FACE_SPR_STAT.MIS_CNT)]
    | .CH_PROT_STAT, _ => [(CH_PROT_STAT.TRIP, k, CH_PROT_STAT.TRIP_CNT)]
    | .ANG_STAT, [a] =>
      [(ANG_STAT.NOISE, R.ANG_CNT a, ANG_CNT.NOISE_CNT), (ANG_STAT.CNT_ERR, R.ANG_CNT a, ANG_CNT.CNTERR_CNT)]
    | .SIG_STAT, _ => [(SIG_STAT.FOREIGN_WR, k, SIG_STAT.FOREIGN_CNT)]
    | .INT_STAT, _ => [(INT_STAT.RING_REJ, k, INT_STAT.RING_CNT)]
    | .TUB_STAT, _ => [(TUB_STAT.NONOWNER, k, TUB_STAT.NONOWNER_CNT)]
    | .LANE_STAT, [l] =>
      [(LANE_STAT.MISSED, R.LANE_CNT l, LANE_CNT.MISSED_TRIG), (LANE_STAT.TRUNC, R.LANE_CNT l, LANE_CNT.DROP)]
    | .TS_STAT, _ => [(TS_STAT.SKIP, k, TS_STAT.SKIP_CNT)]
    | .SHL_PORT, _ => [(SHL_PORT.PART, k, SHL_PORT.PART_CNT)]
    | .MAC_STAT, _ => [(MAC_STAT.RXERR, k, MAC_STAT.FCS_CNT)]
    | _, _ => []

/-- Write 1 to clear: the bits of `m` go to zero but for those the hardware sets at this instant (R5), and a counter goes with
its flag. -/
def State.clearFlags (s : State) (k : Nat) (m : Word) : State :=
  let m := m &&& ~~~(AMap.get 0 s.hwSet k)
  let s := s.put k (s.reg k &&& ~~~m)
  forAll (clearedWith k) s (fun s x => if x.1.get m = 0 then s else s.setF x.2.1 x.2.2 0)

/-- Write 1 to set. -/
def State.setFlags (s : State) (k : Nat) (m : Word) : State :=
  { s with swSet := AMap.upd 0 s.swSet k (fun x => x ||| m) }.put k (s.reg k ||| m)

/-- The lock of a register is set: its writable fields that the lock covers ignore writes (R4, R73, R146, R194). -/
def State.locked (s : State) (k : Nat) : Bool :=
  match regAt (k % 0x100000000) with
  | none => false
  | some (r, _) =>
    let f := (k - 0x50000000) / 0x100000
    match r.lock with
    | .unlocked => false
    | .alock b => (s.reg (R.FACE_ALOCK f)).toNat / 2 ^ b % 2 == 1
    | .plock b => (s.reg (R.FACE_PLOCK f)).toNat / 2 ^ b % 2 == 1
    | .fevLock => FEV_CFG.LOCK.get (s.reg k) == 1
    | .gevLock => s.bankBit (R.GEV_LOCK 0) ((k - R.GEV_CFG 0) / 16)

/-- A whole-word write acts by the field types: RW fields take the value while no lock covers them, W1C fields clear, W1S
fields set; RO and WO fields store nothing, and ST fields go to the staging copy (R4). -/
def State.fieldWrite (s : State) (k : Nat) (w : Word) : State :=
  let rw := if s.locked k then 0 else tyMask k .rw
  let s := s.put k ((s.reg k &&& ~~~rw) ||| (w &&& rw))
  let s := s.setFlags k (w &&& tyMask k .w1s)
  s.clearFlags k (w &&& tyMask k .w1c)

end Sys2Proof.Machine
end

