-- ==== Sys2Proof/Machine/TimeBase.lean ====
section
/-! DEFINITION. The time base (R147 to R163): its start, its steering, time steps, vehicle time, and the timer alarms. The
passage of device time itself is State.advance. -/

namespace Sys2Proof.Machine

open Sys2Proof

/-! ## Start and calibration -/

/-- REFERENCE_SELECT: 1 ms after power-good the device keeps REFCLK_IN if a clock toggled on it, else it enables the crystal
oscillator (R150). The choice holds until the next power-on. -/
def execReferenceSelect (dt : Nat) (toggling : Bool) (s : State) : Out :=
  run dt s (fun s =>
    if s.tb.counting || s.tb.refChosen then s
    else { s with tb := { s.tb with refChosen := true } }.setF R.TB_STAT TB_STAT.REF_SRC (if toggling then 0 else 1))

/-- FIRST_REFERENCE_VALID: device time starts counting (R147). -/
def execFirstReferenceValid (dt : Nat) (s : State) : Out :=
  run dt s (fun s =>
    { s with tb := { s.tb with counting := true }, md := { s.md with refBad := false } })

/-- CALIBRATION_DONE: the calibration converges, once the reference has been valid (R151). -/
def execCalibrationDone (dt : Nat) (s : State) : Out :=
  run dt s (fun s => if s.tb.counting then s.setF R.TB_STAT TB_STAT.CAL_OK 1 else s)

/-- HOLDOVER_END: the phase of the holdover has been removed (R155). -/
def execHoldoverEnd (dt : Nat) (s : State) : Out :=
  run dt s (fun s =>
    if s.md.refBad = false ∧ s.tb.phase = 0 then s.setF R.TB_STAT TB_STAT.HOLDOVER 0 else s)

/-! ## Steering (R156, R157, R160) -/

/-- ADJ_REM, or in a subordinate what its hardware still removes (R156, R160). -/
def State.adjLeft (s : State) : Int := if s.subordinate then s.tb.cascErr else s.tb.adjRem

/-- The effective rate in units of 2^-32 (R156); the slew term is no whole number of them, and which way it is rounded is not
stated. -/
def State.effRate (s : State) : Int :=
  let ppm : Int := if s.adjLeft = 0 then 0 else if 0 < s.adjLeft then s.slew else -(s.slew : Int)
  let q := ppm * 2 ^ 32
  s.rate + q / 1000000 + (if q % 1000000 ≠ 0 ∧ Config.rhoRoundsUp ppm = true then 1 else 0)

/-- Show the effective rate and whether a correction remains. -/
def State.showRate (s : State) : State :=
  let s := s.setF R.TB_EFF_RATE TB_EFF_RATE.RHO (s.effRate % 2 ^ 24).toNat
  s.setF R.TB_STAT TB_STAT.ADJ_BUSY (decide (s.tb.adjRem ≠ 0)).toNat

/-- The act of a write to TB_RATE: refused in a subordinate, limited beyond 500 ppm (R156, R160). -/
def State.setRate (s : State) (w : Word) : State :=
  if s.subordinate then s.raise R.TB_STAT TB_STAT.ADJ_REJ
  else
    let v := TB_RATE.RATE.getInt w
    let s := s.put R.TB_RATE w
    let s := s.raiseIf (decide (v < -2147484) || decide (2147484 < v)) R.TB_STAT TB_STAT.RATE_LIM
    s.showRate

/-- A write to TB_RATE (R18, R156). -/
def writeTbRate (a : Access) (w : Word) (s : State) : Wr :=
  pitOnly a R.TB_RATE s (fun s => wordWrite a R.TB_RATE w s (fun w s => okWr (s.setRate w)))

/-- TB_RATE_WRITE (R156). -/
def execTbRateWrite (dt : Nat) (a : Access) (w : Word) (s : State) : Out :=
  run dt s (fun s => settle a R.TB_RATE (writeTbRate a w s))

/-- A write to TB_SLEW (R18, R156). -/
def writeTbSlew (a : Access) (w : Word) (s : State) : Wr :=
  pitOnly a R.TB_SLEW s (fun s => wordWrite a R.TB_SLEW w s (fun w s => okWr (s.fieldWrite R.TB_SLEW w).showRate))

/-- The act of a write to TB_ADJ: refused in a subordinate, else added and saturated (R157, R160). -/
def State.addAdj (s : State) (w : Word) : State :=
  if s.subordinate then s.raise R.TB_STAT TB_STAT.ADJ_REJ
  else
    let r := clampInt (-(2 ^ 31 - 1)) (2 ^ 31 - 1) (s.tb.adjRem + w.toInt)
    { s with tb := { s.tb with adjRem := r } }.showRate

/-- A write to TB_ADJ (R18, R157). -/
def writeTbAdj (a : Access) (w : Word) (s : State) : Wr :=
  pitOnly a R.TB_ADJ s (fun s => wordWrite a R.TB_ADJ w s (fun w s => okWr (s.addAdj w)))

/-- TB_ADJ_WRITE (R157). -/
def execTbAdjWrite (dt : Nat) (a : Access) (w : Word) (s : State) : Out :=
  run dt s (fun s => settle a R.TB_ADJ (writeTbAdj a w s))

/-- ADJ_DRAINED: ADJ_REM has reached zero and the slew term ends (R156). -/
def execAdjDrained (dt : Nat) (s : State) : Out := run dt s (fun s => if s.adjLeft = 0 then s.showRate else s)

/-! ## Time steps and vehicle time (R158, R159) -/

/-- An angle tracker enters STALL at `x` with its angle frozen at `th`; an invalid one stays at the angle it is frozen at.
COAST stays: only the next accepted pulse clears it (R167); so does a candidate: only the next pulse classified settles it (R166). -/
def State.stallTracker (s : State) (a th : Nat) (x : Time) : State :=
  let s := s.noteGate (validKey a) x
  let valid := s.flag (R.ANG_POS a) ANG_POS.VALID
  let s := s.updTrk a (fun q => { q with
    frozen := if valid then th else q.frozen, nextPub := none })
  let s := s.raiseIf (s.flag (R.ANG_STAT a) ANG_STAT.STATE) (R.ANG_STAT a) ANG_STAT.STALLED
  let s := s.setF (R.ANG_POS a) ANG_POS.VALID 0
  let s := forAll (List.range 8) s (fun s e =>
    if s.fld (R.ENC_CFG e) ENC_CFG.TRK = a then s.setF (R.ENC_STAT e) ENC_STAT.OUT_Z 0 else s)
  s.setF (R.ANG_STAT a) ANG_STAT.STATE 0

/-- The same, and pulses whose action is still to come are dropped (R158, R164). -/
def State.restartTracker (s : State) (a th : Nat) (x : Time) : State :=
  (s.stallTracker a th x).updTrk a (fun q => { q with pulses := [] })

/-- N_POS, and the angle of tracker `a` at instant `t` on its unwrapped scale (R169). -/
def State.nPos (s : State) (a : Nat) : Nat := Nat.max 1 (s.fld (R.ANG_CFG a) ANG_CFG.N_POS)

def State.angleAt (s : State) (a : Nat) (t : Time) : Int :=
  let q := s.trk a
  let tp := Nat.max 1 q.tp
  q.ofs + (q.pos * tp + (Time.since q.tLast t : Int)) * 2 ^ 24 / ((s.nPos a : Int) * tp)

/-- θ of tracker `a` at instant `t`: extrapolated while valid, else the angle it froze at (R168, R169). -/
def State.thetaAt (s : State) (a : Nat) (t : Time) : Nat :=
  if s.flag (R.ANG_POS a) ANG_POS.VALID then (s.angleAt a t % 2 ^ 24).toNat else (s.trk a).frozen

/-- θ of tracker `a` now. -/
def State.theta (s : State) (a : Nat) : Nat := s.thetaAt a s.now

/-- The conditions of a time step (R158). -/
def State.stepAllowed (s : State) : Bool :=
  (List.range 32).all (fun g => !s.groupRuns g) &&
  (List.range 16).all (fun i => !s.flag (R.TA_CTL i) TA_CTL.EN) && !s.subordinate

/-- Device time takes the value `t`: ADJ_REM clears, an armed shift change is cancelled, and every tracker returns to STALL
(R158, R160, R203). The latest pulse keeps its distance from the present (R165). -/
def State.stepTo (s : State) (t : Time) : State :=
  let s := s.cancelArm
  let s := forAll (List.range 16) s (fun s a => (s.restartTracker a (s.theta a) s.now).updTrk a (fun q => { q with
    lastPulse := q.lastPulse.map (fun x => x + (t - s.now)) }))
  let s := { s with rt := { s.rt with was := [] } }
  let s := { s with tb := { s.tb with dev := t, adjRem := 0, cascErr := 0, rateFrac := 0, slewFrac := 0 } }
  s.showRate

/-- The act of a write to TB_CTL (R158). -/
def State.tbCtl (s : State) (w : Word) : State :=
  if TB_CTL.STEP.get w = 0 then s
  else if s.stepAllowed then s.stepTo (wordsTime (s.reg R.TB_STEP_LO) (s.reg R.TB_STEP_HI))
  else s.raise R.TB_STAT TB_STAT.STEP_REJ

/-- A write to TB_CTL (R18, R158). -/
def writeTbCtl (a : Access) (w : Word) (s : State) : Wr :=
  pitOnly a R.TB_CTL s (fun s => wordWrite a R.TB_CTL w s (fun w s => okWr (s.tbCtl w)))

/-- TB_STEP (R158): STEP = 1. -/
def execTbStep (dt : Nat) (a : Access) (w : Word) (s : State) : Out :=
  run dt s (fun s => settle a R.TB_CTL (writeTbCtl a (TB_CTL.STEP.put w 1) s))

/-- VT_OFS (R159). -/
def State.vtOfs (s : State) : Time := wordsTime (s.reg R.TB_VT_OFS_LO) (s.reg R.TB_VT_OFS_HI)

/-- Vehicle time (R159). -/
def State.vtime (s : State) : Time := s.now + s.vtOfs

/-- A write to TB_VT_OFS_LO is held until HI is written (R159). -/
def writeVtLo (a : Access) (w : Word) (s : State) : Wr :=
  pitOnly a R.TB_VT_OFS_LO s (fun s => wordWrite a R.TB_VT_OFS_LO w s (fun w s =>
    okWr { s with tb := { s.tb with vtHeld := some w } }))

/-- A write to TB_VT_OFS_HI takes effect with the held LO write (R159). -/
def writeVtHi (a : Access) (w : Word) (s : State) : Wr :=
  pitOnly a R.TB_VT_OFS_HI s (fun s => wordWrite a R.TB_VT_OFS_HI w s (fun w s =>
    let s := match s.tb.vtHeld with | some v => s.put R.TB_VT_OFS_LO v | none => s
    okWr ({ s with tb := { s.tb with vtHeld := none } }.put R.TB_VT_OFS_HI w)))

/-- TB_VT_OFS_HI_WRITE (R159). -/
def execTbVtOfsHiWrite (dt : Nat) (a : Access) (w : Word) (s : State) : Out :=
  run dt s (fun s => settle a R.TB_VT_OFS_HI (writeVtHi a w s))

/-! ## Captured reads (R149) -/

/-- A read of LO of a 64-bit value captures HI for the reading master. -/
def State.captureTime (s : State) (m : Nat) (t : Time) : Word × State :=
  (t.truncate 32, { s with tb := { s.tb with timeHi := AMap.set 0 s.tb.timeHi m ((t >>> 32).truncate 32) } })

/-- The same for vehicle time. -/
def State.captureVtime (s : State) (m : Nat) (t : Time) : Word × State :=
  (t.truncate 32, { s with tb := { s.tb with vtimeHi := AMap.set 0 s.tb.vtimeHi m ((t >>> 32).truncate 32) } })

/-- The same for Tp of tracker `k`. -/
def State.captureTp (s : State) (m k : Nat) : Word × State :=
  let tp := (s.trk k).tp
  (BitVec.ofNat 32 tp,
   { s with tb := { s.tb with angHi := AMap.set 0 s.tb.angHi (16 * m + k) (BitVec.ofNat 32 (tp / 2 ^ 32)) } })

/-- A read made as a command: a whole-word read returns the value and acts; a narrower one returns an undefined value, and
whether it acts is undefined (R6, R446). -/
def readAct (a : Access) (k : Nat) (s : State) (act : State → Word × State) : State :=
  if a.size = 4 then
    let (w, s) := act s
    let (w, s) := match regAt k with
      | some (r, _) => s.shown k r w
      | none => (w, s)
    s.returned a.master w
  else
    let (v, s) := s.freshWord
    let (b, s) := s.freshBit
    let s := if b then (act s).2 else s
    s.returned a.master v

/-- TB_TIME_LO_READ (R149). -/
def execTbTimeLoRead (dt : Nat) (a : Access) (s : State) : Out :=
  run dt s (fun s => readAct a R.TB_TIME_LO s (fun s => s.captureTime a.master s.now))

/-- TB_VTIME_LO_READ (R149). -/
def execTbVtimeLoRead (dt : Nat) (a : Access) (s : State) : Out :=
  run dt s (fun s => readAct a R.TB_VTIME_LO s (fun s => s.captureVtime a.master s.vtime))

/-- ANG_TP_LO_READ (R149). -/
def execAngTpLoRead (dt : Nat) (a : Access) (k : Fin 16) (s : State) : Out :=
  run dt s (fun s => readAct a (R.ANG_TP_LO k) s (fun s => s.captureTp a.master k))

/-! ## Timer alarms (R162, R163) -/

/-- The target of alarm `i`. -/
def State.taTarget (s : State) (i : Nat) : Time := wordsTime (s.reg (R.TA_LO i)) (s.reg (R.TA_HI i))

/-- Load the target of alarm `i`. -/
def State.setTaTarget (s : State) (i : Nat) (t : Time) : State :=
  (s.put (R.TA_LO i) (t.truncate 32)).put (R.TA_HI i) ((t >>> 32).truncate 32)

/-- Alarm `i` fires with scheduled instant `x`; then EN clears, or the target moves on past the present (R162, R163). -/
def State.fireAlarm (s : State) (i : Nat) (x : Time) (late : Bool) : State :=
  let k := R.TA_CTL i
  let s := ((s.raise k TA_CTL.FIRED).countMod k TA_CTL.FIRE_CNT).raiseIf late k TA_CTL.LATE
  let s := s.fireAll (0xA0 + i) x true
  let rep := (s.reg (R.TA_REPEAT i)).toNat
  if rep = 0 then s.setF k TA_CTL.EN 0
  else
    let r := Nat.max 10000 rep
    let t := s.taTarget i
    s.setTaTarget i (t + BitVec.ofNat 64 ((Time.since t s.now / r + 1) * r))

/-- Alarm `i` is armed: one whose target has been reached fires at once, late (R162). -/
def State.armAlarm (s : State) (i : Nat) : State :=
  if Time.reached s.now (s.taTarget i) then s.fireAlarm i s.now true else s

/-- A write to TA_LO is held until HI is written. -/
def writeTaLo (a : Access) (i : Nat) (w : Word) (s : State) : Wr :=
  pitOnly a (R.TA_LO i) s (fun s => wordWrite a (R.TA_LO i) w s (fun w s =>
    okWr { s with tb := { s.tb with taHeld := AMap.set none s.tb.taHeld i (some w) } }))

/-- A write to TA_HI loads the target with the held LO write, and arms the alarm if it is enabled (R162). -/
def writeTaHi (a : Access) (i : Nat) (w : Word) (s : State) : Wr :=
  pitOnly a (R.TA_HI i) s (fun s => wordWrite a (R.TA_HI i) w s (fun w s =>
    let lo := match AMap.get none s.tb.taHeld i with | some v => v | none => s.reg (R.TA_LO i)
    let s := { s with tb := { s.tb with taHeld := AMap.set none s.tb.taHeld i none } }
    let s := s.setTaTarget i (wordsTime lo w)
    okWr (if s.flag (R.TA_CTL i) TA_CTL.EN then s.armAlarm i else s)))

/-- TA_HI_WRITE (R162). -/
def execTaHiWrite (dt : Nat) (a : Access) (i : Fin 16) (w : Word) (s : State) : Out :=
  run dt s (fun s => settle a (R.TA_HI i) (writeTaHi a i w s))

/-- A write to TA_CTL; EN going to 1 arms the alarm (R162). -/
def writeTaCtl (a : Access) (i : Nat) (w : Word) (s : State) : Wr :=
  pitOnly a (R.TA_CTL i) s (fun s => wordWrite a (R.TA_CTL i) w s (fun w s =>
    let was := s.flag (R.TA_CTL i) TA_CTL.EN
    let s := s.fieldWrite (R.TA_CTL i) w
    okWr (if !was && s.flag (R.TA_CTL i) TA_CTL.EN then s.armAlarm i else s)))

/-- TA_CTL_WRITE (R162). -/
def execTaCtlWrite (dt : Nat) (a : Access) (i : Fin 16) (w : Word) (s : State) : Out :=
  run dt s (fun s => settle a (R.TA_CTL i) (writeTaCtl a i w s))

/-! ## Cascade alignment (R160) -/

/-- CASC_LOCK_ACQUIRED: the subordinate's device time, as it measures it, lies within ±40 ps (8 tq) of the master's. -/
def execCascLockAcquired (dt : Nat) (s : State) : Out :=
  run dt s (fun s =>
    if s.subordinate ∧ s.tb.cascSeen = true ∧ s.tb.cascKnown = true ∧ -8 ≤ s.tb.cascErr ∧ s.tb.cascErr ≤ 8 then
      s.setF R.TB_STAT TB_STAT.CASC_LOCK 1
    else s)

end Sys2Proof.Machine
end

