-- ==== Sys2Proof/Machine/Angle.lean ====
section
/-! DEFINITION. Angle trackers, angle slots and encoder emulators (R164 to R174). The angle of a valid tracker runs on an
unwrapped scale of 2^24 to a revolution (State.angleAt), so that a correction is a move on that scale. -/

namespace Sys2Proof.Machine

open Sys2Proof

/-! ## Trackers: what they show -/

/-- The state of tracker `a`: 0 STALL, 1 ACQ1, 2 ACQ2, 3 SYNC. -/
def State.trkState (s : State) (a : Nat) : Nat := s.fld (R.ANG_STAT a) ANG_STAT.STATE

/-- VALID of tracker `a`. -/
def State.trkValid (s : State) (a : Nat) : Bool := s.flag (R.ANG_POS a) ANG_POS.VALID

/-- COAST of tracker `a`. -/
def State.trkCoast (s : State) (a : Nat) : Bool := s.flag (R.ANG_POS a) ANG_POS.COAST

/-- The tracker's current position pos. -/
def State.trkPos (s : State) (a : Nat) : Nat := s.fld (R.ANG_STAT a) ANG_STAT.POS

/-- G as it acts. -/
def State.gapOf (s : State) (a : Nat) : Nat := Nat.max 1 (s.fld (R.ANG_CFG a) ANG_CFG.G)

/-- The wheel has an extra tooth. -/
def State.extraTooth (s : State) (a : Nat) : Bool := s.flag (R.ANG_CFG a) ANG_CFG.WHEEL

/-- The tracker acts on a pulse 20 ns and the filter time after its timestamp (R165). -/
def State.pulseDelay (s : State) (a : Nat) : Nat := 4000 + 2000 * s.fld (R.ANG_CFG a) ANG_CFG.FILT

/-- The action of the oldest pulse is due. -/
def State.actionDue (s : State) (a : Nat) : Bool :=
  match (s.trk a).pulses with
  | [] => false
  | t :: _ => Time.reached s.now (t + BitVec.ofNat 64 (s.pulseDelay a))

/-- An INFO entry of tracker `a` (R168). -/
def State.trkInfo (s : State) (a code : Nat) : State := s.info (0x88 + a) code (BitVec.ofNat 32 (s.trkPos a))

/-! ## Angle slots (R171, R172) -/

/-- The enabled slots of tracker `a`. -/
def State.slotsOf (s : State) (a : Nat) : List Nat :=
  (List.range 64).filter (fun i => s.flag (R.AEV_CFG i) AEV_CFG.EN && s.fld (R.AEV_CFG i) AEV_CFG.TRK == a)

/-- The tracker of slot `i`. -/
def State.slotTrk (s : State) (i : Nat) : Nat := s.fld (R.AEV_CFG i) AEV_CFG.TRK

/-- Slot `i` is armed. -/
def State.slotArmed (s : State) (i : Nat) : Bool := s.flag (R.AEV_STAT i) AEV_STAT.ARMED

/-- The angle slot `i` waits for, on its tracker's unwrapped scale. -/
def State.slotTarget (s : State) (i : Nat) : Int := s.fld (R.AEV_CFG i) AEV_CFG.ANGLE + 2 ^ 24 * (s.slot i).turn

/-- A quotient rounded upwards. -/
def ceilDiv (a b : Int) : Int := -((-a) / b)

/-- The instant at which the angle of tracker `a` reaches `v` on the unwrapped scale (R171). -/
def State.angleInstant (s : State) (a : Nat) (v : Int) : Time :=
  let q := s.trk a
  q.tLast + BitVec.ofInt 64 (ceilDiv (((v - q.ofs) * s.nPos a - q.pos * 2 ^ 24) * q.tp) (2 ^ 24))

/-- Slot `i` fires (R171, R172). -/
def State.fireSlot (s : State) (i : Nat) (x : Time) (late coast : Bool) : State :=
  let k := R.AEV_STAT i
  let s := s.countMod k AEV_STAT.FIRE_CNT
  let s := ((s.setF k AEV_STAT.ARMED 0).setF k AEV_STAT.LATE late.toNat).setF k AEV_STAT.COAST coast.toNat
  (s.setReg (R.AEV_TIME i) (x.truncate 32)).fireAll (0xC0 + i) x true

/-- The armed slots of tracker `a` whose angle lies at or before `v`. -/
def State.slotsReached (s : State) (a : Nat) (v : Int) : List Nat :=
  (s.slotsOf a).filter (fun i => s.slotArmed i && decide (s.slotTarget i ≤ v))

/-- Arm slot `i` for the first revolution in which its angle is not behind `v`. -/
def State.armSlot (s : State) (i : Nat) (v : Int) : State :=
  let s := s.setSlot i { turn := ceilDiv (v - s.fld (R.AEV_CFG i) AEV_CFG.ANGLE) (2 ^ 24) }
  s.setF (R.AEV_STAT i) AEV_STAT.ARMED 1

/-- A slot's angle or tracker changes at a shift change that applies at `x`: it is compared from that instant, and ARMED is kept
(R172). One that is not armed does not fire in a range that is re-traversed, so its place counts from the furthest angle reached. -/
def State.retargetSlot (s : State) (i : Nat) (x : Time) : State :=
  let a := s.slotTrk i
  if s.trkValid a then
    let v := s.angleAt a x
    let from_ : Int := if s.slotArmed i then v else max v (s.trk a).top
    let d := from_ - s.fld (R.AEV_CFG i) AEV_CFG.ANGLE
    s.setSlot i { turn := if s.slotArmed i then ceilDiv d (2 ^ 24) else d / 2 ^ 24 }
  else s

/-- AEV_FIRE: the angle of an armed slot's valid tracker has reached its angle (R171). -/
def execAevFire (dt : Nat) (i : Fin 64) (s : State) : Out :=
  run dt s (fun s =>
    let a := s.slotTrk i
    if s.flag (R.AEV_CFG i) AEV_CFG.EN && s.slotArmed i && s.trkValid a && !s.actionDue a &&
        decide (s.slotTarget i ≤ s.angleAt a s.now) then
      s.fireSlot i (s.angleInstant a (s.slotTarget i)) false (s.trkCoast a)
    else s)

/-- AEV_REARM: the angle has advanced 2^23 beyond the angle of a slot that is not armed (R171). -/
def execAevRearm (dt : Nat) (i : Fin 64) (s : State) : Out :=
  run dt s (fun s =>
    let a := s.slotTrk i
    if s.flag (R.AEV_CFG i) AEV_CFG.EN && !s.slotArmed i && s.trkValid a && !s.actionDue a &&
        decide (s.slotTarget i + 2 ^ 23 ≤ s.angleAt a s.now) then
      (s.setSlot i { turn := (s.slot i).turn + 1 }).setF (R.AEV_STAT i) AEV_STAT.ARMED 1
    else s)

/-! ## Encoder emulators (R173, R174) -/

/-- The enabled emulators of tracker `a`. -/
def State.encsOf (s : State) (a : Nat) : List Nat :=
  (List.range 8).filter (fun e => s.flag (R.ENC_CFG e) ENC_CFG.EN && s.fld (R.ENC_CFG e) ENC_CFG.TRK == a)

/-- Lines per revolution of emulator `e`. -/
def State.encLines (s : State) (e : Nat) : Nat :=
  Nat.max 1 (s.nPos (s.fld (R.ENC_CFG e) ENC_CFG.TRK) / Nat.max 1 (s.fld (R.ENC_CFG e) ENC_CFG.DIV))

/-- The quarter line an angle on the unwrapped scale lies in. -/
def State.encQuarter (s : State) (e : Nat) (v : Int) : Int :=
  (v - s.fld (R.ENC_ZPOS e) ENC_ZPOS.ZPOS) * (4 * s.encLines e : Nat) / 2 ^ 24

/-- Put the outputs of emulator `e` at quarter line `q` (R173). -/
def State.encAt (s : State) (e : Nat) (q : Int) : State :=
  let k := R.ENC_STAT e
  let r := (q % 4).toNat
  let s := s.updEnc e (fun c => { c with at_ := q })
  let s := s.setF k ENC_STAT.OUT_A (decide (r < 2)).toNat
  let s := s.setF k ENC_STAT.OUT_B (decide (r = 1 ∨ r = 2)).toNat
  s.setF k ENC_STAT.OUT_Z (decide (q % (4 * s.encLines e : Nat) = 0)).toNat

/-- Emulator `e` takes the levels of its tracker's angle at once, at `x`: when VALID sets, or when a shift change changes its
configuration; disabled, it drives all three low (log entry 63). -/
def State.encRestart (s : State) (e : Nat) (x : Time) : State :=
  let k := R.ENC_STAT e
  let a := s.fld (R.ENC_CFG e) ENC_CFG.TRK
  if s.flag (R.ENC_CFG e) ENC_CFG.EN = false then
    ((s.setF k ENC_STAT.OUT_A 0).setF k ENC_STAT.OUT_B 0).setF k ENC_STAT.OUT_Z 0
  else if s.trkValid a then
    let q := s.encQuarter e (s.angleAt a x)
    (s.setEnc e { at_ := q, burstTo := q, burstAt := x }).encAt e q
  else s.setF k ENC_STAT.OUT_Z 0

/-- HELD of emulator `e` (R174): its tracker is not valid, or its angle lies behind the point where the outputs stopped. -/
def State.encHeld (s : State) (e : Nat) : Bool :=
  let a := s.fld (R.ENC_CFG e) ENC_CFG.TRK
  s.flag (R.ENC_CFG e) ENC_CFG.EN &&
    (!s.trkValid a || decide (s.encQuarter e (s.angleAt a s.now) < (s.enc e).at_))

/-- ENC_OUTPUT_EDGE: the outputs of emulator `e` move on by one quarter line: in a burst 20 ns after the edge before it, else
when the angle reaches it (R173, R174). -/
def execEncOutputEdge (dt : Nat) (e : Fin 8) (s : State) : Out :=
  run dt s (fun s =>
    let a := s.fld (R.ENC_CFG e) ENC_CFG.TRK
    let c := s.enc e
    if s.flag (R.ENC_CFG e) ENC_CFG.EN && s.trkValid a && !s.actionDue a && Time.reached s.now c.burstAt then
      if c.at_ < c.burstTo then
        (s.encAt e (c.at_ + 1)).updEnc e (fun c => { c with burstAt := c.burstAt + 4000 })
      else if c.at_ < s.encQuarter e (s.angleAt a s.now) then s.encAt e (c.at_ + 1)
      else s
    else s)

/-! ## Corrections (R169, R172, R174) -/

/-- Before a correction that takes effect at `x`, what the previous prediction has brought by then is done: slots that are due
fire, and the emulators stand where the angle stands. -/
def State.settleAngle (s : State) (a : Nat) (x : Time) : State :=
  let v := s.angleAt a x
  let s := s.updTrk a (fun q => { q with top := max q.top v })
  let s := forAll (s.slotsReached a v) s (fun s i => s.fireSlot i (s.angleInstant a (s.slotTarget i)) false (s.trkCoast a))
  forAll (s.encsOf a) s (fun s e =>
    let c := s.enc e
    let q := s.encQuarter e v
    if c.at_ < q ∧ c.burstTo ≤ c.at_ then s.encAt e q else s)

/-- A forward correction at `x` has brought tracker `a` to a new angle: the armed slots passed fire late, all at `x`, and the
emulators emit the passed edges in a burst, 20 ns apart (R172, R174). Which instant the first edge of a burst leaves at is not stated;
here it is the correction instant, or 20 ns after the last edge of a burst that is still under way (log entry 63). -/
def State.forwardTo (s : State) (a : Nat) (x : Time) : State :=
  let v := s.angleAt a x
  let s := forAll (s.slotsReached a v) s (fun s i => s.fireSlot i x true (s.trkCoast a))
  forAll (s.encsOf a) s (fun s e =>
    let c := s.enc e
    let q := s.encQuarter e v
    if c.at_ < q then
      (s.setEnc e { c with burstTo := q, burstAt := if c.burstTo ≤ c.at_ then x else c.burstAt }).raise
        (R.ENC_STAT e) ENC_STAT.BURST
    else s)

/-- A difference of offsets, taken in the half-open half revolution on either side (R169). -/
def ofsDelta (old new : Nat) : Int :=
  let d := ((new : Int) - old) % 2 ^ 24
  if 2 ^ 23 < d then d - 2 ^ 24 else d

/-- A change of ANG_OFS from `old` to `new` is a correction at its apply instant `x` (R169). -/
def State.offsetChanged (s : State) (a old new : Nat) (x : Time) : State :=
  if s.trkValid a then
    let d := ofsDelta old new
    let s := s.settleAngle a x
    let s := s.updTrk a (fun q => { q with ofs := q.ofs + d })
    if 0 < d then s.forwardTo a x else s
  else s

/-! ## Publishing (R170) -/

/-- The tracker writes its angle to its signal. -/
def State.publishAngle (s : State) (a : Nat) : State :=
  let k := R.ANG_PUB a
  let i := s.fld k ANG_PUB.SIG
  if s.flag k ANG_PUB.EN && s.trkValid a && s.ownsSig i then
    s.deviceSignal i (BitVec.ofNat 32 (s.theta a * 256)) (if s.trkCoast a then 2 else 0)
  else s

/-- The publishing interval in tq; 0 publishes at pulses only. -/
def State.pubInterval (s : State) (a : Nat) : Nat := 2000 * s.fld (R.ANG_PUB_INT a) ANG_PUB_INT.INT

/-- The interval starts anew at `x`: when VALID sets, and at a shift change of ANG_PUB or ANG_PUB_INT. A publication at a pulse does
not restart it. The rule does not say from where the interval counts; this is the model's choice (log entry 65). -/
def State.restartPub (s : State) (a : Nat) (x : Time) : State :=
  let iv := s.pubInterval a
  s.updTrk a (fun q => { q with nextPub := if iv = 0 then none else some (x + BitVec.ofNat 64 iv) })

/-- ANG_PUBLISH: the publishing interval expires. -/
def execAngPublish (dt : Nat) (k : Fin 16) (s : State) : Out :=
  runMem dt s (fun s =>
    match (s.trk k).nextPub with
    | some t =>
      if Time.reached s.now t ∧ s.trkValid k = true then
        let iv := s.pubInterval k
        (s.updTrk k (fun q => { q with
          nextPub := if iv = 0 then none else some (t + BitVec.ofNat 64 iv) })).publishAngle k
      else s
    | none => s)

/-! ## Acquisition and tracking (R165 to R168) -/

/-- The largest interval and tooth period (R168). -/
def maxTp : Nat := 2 ^ 40 - 1

/-- The interval from `a` to `b`, saturating. -/
def interval (a b : Time) : Nat := Nat.min maxTp (Time.since a b)

/-- A quotient of tooth periods; which way it is rounded is not stated. -/
def periodDiv (x : Int) (n : Nat) : Int :=
  x / n + (if x % n ≠ 0 ∧ Config.periodRoundsUp x n = true then 1 else 0)

/-- predict(x) (R166). -/
def State.predict (s : State) (a : Nat) (x : Int) : Int :=
  if s.flag (R.ANG_CFG a) ANG_CFG.PRED then clampInt (periodDiv x 2) (2 * x) (2 * x - (s.trk a).xPrev) else x

/-- round(r) for r = i / tp, halves upwards. -/
def roundRatio (i tp : Nat) : Nat := (2 * i + tp) / (2 * Nat.max 1 tp)

/-- The latest accepted pulse is at `t`. -/
def State.setTLast (s : State) (a : Nat) (t : Time) : State :=
  (s.updTrk a (fun q => { q with tLast := t })).setReg (R.ANG_LAST a) (t.truncate 32)

/-- A pulse gives the tooth period `i`: the first interval of acquisition, or one that replaces it. -/
def State.takePeriod (s : State) (a i : Nat) (t : Time) : State := (s.updTrk a (fun q => { q with tp := i })).setTLast a t

/-- VALID sets at `x`: the enabled slots are armed, and the emulators take up the angle (R171). -/
def State.becomeValid (s : State) (a : Nat) (x : Time) : State :=
  let ofs := s.fld (R.ANG_OFS a) ANG_OFS.OFS
  let s := s.updTrk a (fun q => { q with pos := 0, ofs := ofs, top := ofs, cnt := 0 })
  let s := (s.setF (R.ANG_STAT a) ANG_STAT.POS 0).setF (R.ANG_STAT a) ANG_STAT.STATE 3
  let s := (s.noteGate (validKey a) x).setF (R.ANG_POS a) ANG_POS.VALID 1
  let s := forAll (s.slotsOf a) s (fun s i => s.armSlot i ofs)
  let s := forAll (s.encsOf a) s (fun s e => s.encRestart e x)
  s.restartPub a x

/-- VALID clears at `x`: the angle freezes at `th`; emulators hold, with their index output low (R168, R174). -/
def State.loseValid (s : State) (a th : Nat) (x : Time) : State :=
  let s := s.noteGate (validKey a) x
  let s := s.updTrk a (fun q => { q with frozen := th, nextPub := none })
  let s := s.setF (R.ANG_POS a) ANG_POS.VALID 0
  forAll (s.encsOf a) s (fun s e => s.setF (R.ENC_STAT e) ENC_STAT.OUT_Z 0)

/-- A pulse at `t` is accepted as `n` positions, as a reference if `ref` (R166). -/
def State.acceptPulse (s : State) (a : Nat) (t : Time) (i n : Nat) (ref : Bool) : State :=
  let q := s.trk a
  let per := periodDiv i n
  let tp := Nat.min maxTp (s.predict a per).toNat
  let pred := s.flag (R.ANG_CFG a) ANG_CFG.PRED
  -- the instant at which the tracker acts on the pulse (R165)
  let x := t + BitVec.ofNat 64 (s.pulseDelay a)
  let take := fun (s : State) =>
    let s := (s.updTrk a (fun q => { q with tp := tp, xPrev := if pred then per.toNat else q.xPrev })).setTLast a t
    s.setF (R.ANG_POS a) ANG_POS.COAST 0
  if s.trkState a = 2 then
    let s := take s
    if ref then (s.becomeValid a x).publishAngle a else s
  else
    let nn := s.nPos a
    let cnt := q.cnt + n
    let bad := ref && cnt != nn
    let miss := !ref && decide (2 * nn ≤ cnt)
    let np : Nat := if ref then 0 else (s.trkPos a + n) % nn
    -- the position before, in units of 1 / tp, and the new position nearest to it
    let old : Int := q.pos * q.tp + Time.since q.tLast t
    let new : Int := np + nn * ((2 * old + nn * q.tp - 2 * np * q.tp) / (2 * nn * Nat.max 1 q.tp : Nat))
    let s := s.settleAngle a x
    let s := take s
    let s := s.updTrk a (fun q => { q with pos := new, cnt := if ref then 0 else cnt })
    let s := s.setF (R.ANG_STAT a) ANG_STAT.POS np
    let s := if old < new * q.tp then s.forwardTo a x else s
    let s :=
      if bad then
        let s := (s.raise (R.ANG_STAT a) ANG_STAT.CNT_ERR).count (R.ANG_CNT a) ANG_CNT.CNTERR_CNT
        s.trkInfo a 0x0031
      else s
    let s :=
      if miss then
        let s := s.raise (R.ANG_STAT a) ANG_STAT.REF_MISS
        let s := (s.setF (R.ANG_STAT a) ANG_STAT.STATE 2).loseValid a (s.theta a) x
        s.trkInfo a 0x0032
      else s
    s.publishAngle a

/-- A pulse at `t` in ACQ2 or SYNC that no candidate has settled is classified (R166). -/
def State.classify (s : State) (a : Nat) (t : Time) (i : Nat) : State :=
  let tp := (s.trk a).tp
  let extra := s.extraTooth a
  let g := s.gapOf a
  if 10 * i < (if extra then 3 else 6) * tp then
    if s.trkState a = 2 then s.takePeriod a i t else s.noisePulse a
  else if extra && decide (4 * i < 3 * tp) then s.updTrk a (fun q => { q with cand := true, tCand := t })
  else if !extra && decide ((2 * g + 1) * tp ≤ 2 * i) then s.acceptPulse a t i (Nat.max (g + 1) (roundRatio i tp)) true
  else if 10 * i < 16 * tp then s.acceptPulse a t i 1 false
  else s.acceptPulse a t i (roundRatio i tp) false

/-- The action on a pulse with timestamp `t` (R166). -/
def State.pulseAction (s : State) (a : Nat) (t : Time) : State :=
  let q := s.trk a
  let i := interval q.tLast t
  match s.trkState a with
  | 0 => (s.setTLast a t).setF (R.ANG_STAT a) ANG_STAT.STATE 1
  | 1 => (s.takePeriod a i t).setF (R.ANG_STAT a) ANG_STAT.STATE 2
  | _ =>
    if s.extraTooth a && q.cand then
      let s := s.updTrk a (fun q => { q with cand := false })
      let c := interval q.tCand t
      if 3 * q.tp ≤ 10 * c ∧ 4 * c < 3 * q.tp then s.acceptPulse a t i 1 true
      else (s.noisePulse a).classify a t i
    else s.classify a t i

/-- ANG_PULSE_ACTION: the tracker acts on the oldest pulse that is due (R166). -/
def execAngPulseAction (dt : Nat) (k : Fin 16) (s : State) : Out :=
  runMem dt s (fun s =>
    match (s.trk k).pulses with
    | [] => s
    | t :: rest =>
      if s.actionDue k then
        let s := s.updTrk k (fun q => { q with pulses := rest })
        if s.flag (R.ANG_CFG k) ANG_CFG.EN then s.pulseAction k t else s
      else s)

/-- Positions from pos to the next position that carries a tooth (R167). -/
def State.toNextTooth (s : State) (a : Nat) : Nat :=
  if s.extraTooth a then 1
  else if s.trkPos a + 1 + s.gapOf a < s.nPos a then 1
  else s.nPos a - s.trkPos a

/-- COAST: no tooth has come within 1.6 of the positions to the next one (R167). -/
def execCoast (dt : Nat) (k : Fin 16) (s : State) : Out :=
  run dt s (fun s =>
    let q := s.trk k
    if s.trkState k = 3 ∧ s.trkCoast k = false ∧ s.actionDue k = false ∧
        16 * s.toNextTooth k * q.tp ≤ 10 * interval q.tLast s.now then
      (s.setF (R.ANG_POS k) ANG_POS.COAST 1).raise (R.ANG_STAT k) ANG_STAT.COASTED
    else s)

/-- ANG_STALL: the interval exceeds COAST_LIM tooth periods (R168). -/
def execAngStall (dt : Nat) (k : Fin 16) (s : State) : Out :=
  run dt s (fun s =>
    let q := s.trk k
    if 2 ≤ s.trkState k ∧ s.actionDue k = false ∧
        s.fld (R.ANG_CFG k) ANG_CFG.COAST_LIM * q.tp ≤ interval q.tLast s.now then
      let th := s.theta k
      let s := if s.trkValid k then s.settleAngle k s.now else s
      ((s.loseValid k th s.now).stallTracker k th s.now).trkInfo k 0x0030
    else s)

end Sys2Proof.Machine
end

