-- ==== Sys2Proof/Machine/Protection.lean ====
section
/-! DEFINITION. Delayed edges, the interlock, trips, blanking, latches, bridge escalation and their clears (R113 to R121,
R126 to R145). -/

namespace Sys2Proof.Machine

open Sys2Proof

/-! ## Trip sources: 0 FLT, 1 CMPA, 2 CMPB -/

/-- A trip source is active (R126, R127). -/
def State.srcActive (s : State) (n i : Nat) : Bool :=
  match i with
  | 0 => (s.chan n).fltLow
  | 1 => s.cmpOut n false
  | _ => s.cmpOut n true

/-- The action of a trip source (R131); 3 acts as 2. -/
def State.srcAction (s : State) (n i : Nat) : Nat :=
  let k := R.CH_PROT_CFG n
  let a := match i with
    | 0 => s.fld k CH_PROT_CFG.FLT_ACT
    | 1 => s.fld k CH_PROT_CFG.CMPA_ACT
    | _ => s.fld k CH_PROT_CFG.CMPB_ACT
  if a = 3 then 2 else a

/-- Trips by a source count toward escalation (R138). -/
def State.srcEsc (s : State) (n i : Nat) : Bool :=
  let k := R.CH_PROT_CFG n
  match i with
  | 0 => s.flag k CH_PROT_CFG.FLT_ESC
  | 1 => s.flag k CH_PROT_CFG.CMPA_ESC
  | _ => s.flag k CH_PROT_CFG.CMPB_ESC

/-- A source is subject to blanking (R129). -/
def State.srcBlanked (s : State) (n i : Nat) : Bool :=
  let k := R.CH_PROT_CFG n
  match i with
  | 0 => true
  | 1 => s.flag k CH_PROT_CFG.BLK_CMPA
  | _ => s.flag k CH_PROT_CFG.BLK_CMPB

/-- The bit of CH_PROT_STAT that says a source caused the latch (R133). -/
def latField (i : Nat) : Fld :=
  match i with
  | 0 => CH_PROT_STAT.LAT_FLT
  | 1 => CH_PROT_STAT.LAT_CMPA
  | _ => CH_PROT_STAT.LAT_CMPB

/-- The enabled sources of a channel that are active: those a period boundary and a clear look at (R133, R135). -/
def State.enabledActive (s : State) (n : Nat) : List Nat :=
  [0, 1, 2].filter (fun i => s.srcAction n i != 0 && s.srcActive n i)

/-- A blanking window of channel `n` is open (R129). -/
def State.blankOpen (s : State) (n : Nat) : Bool :=
  match (s.chan n).blankEnd with
  | some e => !Time.reached s.now e
  | none => false

/-- The window length M as it acts (R132). -/
def State.cbcM (s : State) (n : Nat) : Nat := Nat.max 1 (s.fld (R.CH_PROT_CBC n) CH_PROT_CBC.M)

/-- The counted trips within the latest M periods (R132). -/
def State.winCount (s : State) (n : Nat) : Nat := (((s.chan n).window.take (s.cbcM n)).filter id).length

/-! ## Escalation (R138) -/

/-- ESC_LEGS as it acts: 9 to 15 act as 8 (R138). -/
def State.escLegs (s : State) (l : Nat) : Nat := Nat.min 8 (s.fld (R.BR_SAFE_CFG l) BR_SAFE_CFG.ESC_LEGS)

/-- Leg numbers of the bridge led by `l` that hold a counted trip, as a mask (R138). -/
def State.escMask (s : State) (l : Nat) : Nat :=
  (s.legsOf l).foldl (fun m n => if s.tripped n && (s.chan n).escTrip then m + 2 ^ (n - l) else m) 0

/-- The number of legs that hold a counted trip. -/
def State.escCount (s : State) (l : Nat) : Nat :=
  ((s.legsOf l).filter (fun n => s.tripped n && (s.chan n).escTrip)).length

/-- The detail of a report of this instant that Tally has not taken yet is completed. -/
def State.amendReport (s : State) (src code : Nat) (detail : Word) : State :=
  let fix := fun (x : Report) => if x.src = src ∧ x.code = code ∧ x.inst = s.now then { x with detail := detail } else x
  { s with lg := { s.lg with queue := s.lg.queue.map fix, held := s.lg.held.map fix } }

/-- A bridge escalates when enough legs hold counted trips; a leg that trips at the same instant counts with them (R138). -/
def State.escalate (s : State) (l : Nat) : State :=
  let need := s.escLegs l
  let m := s.escMask l
  if need = 0 ∨ s.escCount l < need then s
  else if s.flag (R.BR_SAFE_STAT l) BR_SAFE_STAT.ESC then
    if (s.chan l).escAt = some s.now then
      (s.setF (R.BR_SAFE_STAT l) BR_SAFE_STAT.LEGMASK m).amendReport l 0x0021 (BitVec.ofNat 32 m)
    else s
  else
    let s := (s.setF (R.BR_SAFE_STAT l) BR_SAFE_STAT.LEGMASK m).updChan l (fun c => { c with escAt := some s.now })
    let s := s.setCause l BR_SAFE_STAT.ESC
    let s := forAll (s.legsOf l) s State.refresh
    s.report l 0x0021 clsSafety (BitVec.ofNat 32 m)

/-! ## Trips (R131 to R134, R137) -/

/-- The channel enters LATCHED by the sources `srcs`: their LAT bits set, Tally receives an INFO entry, and the latch is an
event (R133, R137). -/
def State.enterLatched (s : State) (n : Nat) (srcs : List Nat) : State :=
  let k := R.CH_PROT_STAT n
  let s := s.setF k CH_PROT_STAT.LATCHED 1
  let s := s.setF k CH_PROT_STAT.CYC 0
  let s := forAll srcs s (fun s i => s.setF k (latField i) 1)
  let s := s.info n 0x0020 (BitVec.ofNat 32 ((s.reg k).toNat / 2 ^ 10 % 8))
  s.fireFace (n / 16) (0x70 + n % 16) s.now false

/-- A trip by the sources `srcs` is taken at channel `n` (R133): it counts once in the running period (R132), both outputs go off, and the
channel becomes CYCLE or LATCHED. In CYCLE only an action-2 source moves it, except at a period boundary. Whether a leg holds a counted
trip for escalation is decided when the trip is taken: a leg in CYCLE by an ESC source that a source without ESC then latches goes on
holding one (R138; log entry 105). -/
def State.trip (s : State) (n : Nat) (srcs : List Nat) (boundary : Bool) : State :=
  let k := R.CH_PROT_STAT n
  if s.flag k CH_PROT_STAT.LATCHED ∨ srcs = [] then s
  else
    let latching := srcs.filter (fun i => s.srcAction n i = 2)
    let cyc := s.flag k CH_PROT_STAT.CYC
    if cyc ∧ latching = [] ∧ ¬ boundary then s
    else
      let c := s.chan n
      let fresh := c.window.head? != some true
      let esc := srcs.any (s.srcEsc n)
      let s := s.setChan n { c with
        window := (true :: c.window.drop 1)
        escTrip := if cyc && !boundary then c.escTrip || esc else esc }
      let cnt := s.winCount n
      let nMax := s.fld (R.CH_PROT_CBC n) CH_PROT_CBC.N
      let reach := nMax != 0 && fresh && decide (nMax ≤ cnt)
      let s := s.setF k CH_PROT_STAT.WIN_CNT cnt
      let s := (s.raise k CH_PROT_STAT.TRIP).count k CH_PROT_STAT.TRIP_CNT
      let s := s.fireFace (n / 16) (0x60 + n % 16) s.now false
      let s :=
        if latching ≠ [] then s.enterLatched n latching
        else if reach then s.enterLatched n srcs
        else s.setF k CH_PROT_STAT.CYC 1
      let s := s.refresh n
      if boundary then s else s.escalate (s.leaderOf n)

/-- A source asserts at channel `n`: inside a blanking window it is ignored and sets BLANKED_HIT, otherwise an enabled one
trips (R128, R130). -/
def State.assert (s : State) (n i : Nat) : State :=
  if s.srcBlanked n i && s.blankOpen n then s.raise (R.CH_PROT_STAT n) CH_PROT_STAT.BLANKED_HIT
  else if s.srcAction n i = 0 then s
  else s.trip n [i] false

/-- The protection state at a period boundary of the channel's group: the window moves on, an enabled source that is active
trips, blanked or not, and CYCLE returns to ARMED when none is (R132, R133). -/
def State.protBoundary (s : State) (n : Nat) : State :=
  let k := R.CH_PROT_STAT n
  let s := s.updChan n (fun c => { c with window := (false :: c.window).take 255 })
  let s := s.setF k CH_PROT_STAT.WIN_CNT (s.winCount n)
  let act := s.enabledActive n
  if act ≠ [] then s.trip n act true
  else if s.flag k CH_PROT_STAT.CYC then
    (s.setF k CH_PROT_STAT.CYC 0).updChan n (fun c => { c with escTrip := false })
  else s

/-- An accepted clear of a LATCHED or CYCLE leg: CYCLE, not counted as a trip (R133, R142). -/
def State.clearLatch (s : State) (n : Nat) : State :=
  let k := R.CH_PROT_STAT n
  let s := s.updChan n (fun c => { c with window := [], escTrip := false })
  let s := s.setF k CH_PROT_STAT.LATCHED 0
  let s := s.setF k CH_PROT_STAT.CYC 1
  let s := s.setF k CH_PROT_STAT.WIN_CNT 0
  let s := forAll [0, 1, 2] s (fun s i => s.setF k (latField i) 0)
  s.refresh n

/-! ## Meanings -/

/-- FLT_ASSERT: CH_FLT_N goes low (R126, R128). -/
def execFltAssert (dt : Nat) (n : Fin 128) (s : State) : Out :=
  run dt s (fun s =>
    if (s.chan n).fltLow then s
    else (s.updChan n (fun c => { c with fltLow := true })).assert n 0)

/-- FLT_DEASSERT: CH_FLT_N goes high (R126). -/
def execFltDeassert (dt : Nat) (n : Fin 128) (s : State) : Out :=
  run dt s (fun s => s.updChan n (fun c => { c with fltLow := false }))

/-- BLANKING_WINDOW_END: the window closes, and an enabled blanked source that is still active trips (R130). -/
def execBlankingWindowEnd (dt : Nat) (n : Fin 128) (s : State) : Out :=
  run dt s (fun s =>
    match (s.chan n).blankEnd with
    | some e =>
      if Time.reached s.now e then
        let s := s.updChan n (fun c => { c with blankEnd := none })
        s.trip n ((s.enabledActive n).filter (s.srcBlanked n)) false
      else s
    | none => s)

/-- A clear request of a channel latch (R135). -/
def State.protClear (s : State) (n : Nat) (w : Word) : State :=
  if CH_PROT_CLR.CLR.get w = 0 then s
  else
    let k := R.CH_PROT_STAT n
    if s.flag k CH_PROT_STAT.LATCHED && s.enabledActive n == [] then s.clearLatch n
    else s.raise k CH_PROT_STAT.CLR_REJECT

/-- A write to CH_PROT_CLR (R18, R135). -/
def writeProtClr (a : Access) (n : Nat) (w : Word) (s : State) : Wr :=
  pitOnly a (R.CH_PROT_CLR n) s (fun s => wordWrite a (R.CH_PROT_CLR n) w s (fun w s => okWr (s.protClear n w)))

/-- PROT_CLEAR (R135). -/
def execProtClear (dt : Nat) (a : Access) (n : Fin 128) (w : Word) (s : State) : Out :=
  runChan dt s a (R.CH_PROT_CLR n) (fun s => settle a (R.CH_PROT_CLR n) (writeProtClr a n w s))

/-- A bridge clear in the leader (R142); in another channel it is refused, with CLR_REJECT of that channel (log entry 105). -/
def State.bridgeClear (s : State) (l : Nat) (w : Word) : State :=
  if BR_SAFE_CLR.CLR.get w = 0 then s
  else
    let k := R.BR_SAFE_STAT l
    let legs := s.legsOf l
    if s.flag k BR_SAFE_STAT.ESC && legs.all (fun n => s.enabledActive n == []) then
      let s := s.setF k BR_SAFE_STAT.LEGMASK 0
      let s := s.clearCause l BR_SAFE_STAT.ESC
      let s := forAll legs s (fun s n => if s.tripped n then s.clearLatch n else s)
      forAll legs s State.refresh
    else s.raise k BR_SAFE_STAT.CLR_REJECT

/-- A write to BR_SAFE_CLR (R18, R142). -/
def writeBrSafeClr (a : Access) (n : Nat) (w : Word) (s : State) : Wr :=
  pitOnly a (R.BR_SAFE_CLR n) s (fun s => wordWrite a (R.BR_SAFE_CLR n) w s (fun w s => okWr (s.bridgeClear n w)))

/-- BRIDGE_CLEAR (R142). -/
def execBridgeClear (dt : Nat) (a : Access) (n : Fin 128) (w : Word) (s : State) : Out :=
  runChan dt s a (R.BR_SAFE_CLR n) (fun s => settle a (R.BR_SAFE_CLR n) (writeBrSafeClr a n w s))

/-- SAFE_DT_EXPIRY: a safe-pattern output turns on (R140, R143). -/
def execSafeDtExpiry (dt : Nat) (n : Fin 128) (s : State) : Out :=
  run dt s (fun s =>
    let c := s.chan n
    match c.safeOnAt with
    | some t =>
      if Time.reached s.now t && c.row == 1 then
        let (hiOn, loOn) := s.patternOf n
        let s := s.setChan n { c with safeOnAt := none }
        if hiOn && !c.outL then s.turnOn n .hi t
        else if loOn && !c.outH then s.turnOn n .lo t
        else s
      else s
    | none => s)

/-- The next delayed edge of a side that is due. -/
def Channel.dueEdge (c : Channel) (d : Side) (now : Time) : Option Edge :=
  c.edges.find? (fun e => e.side == d && Time.reached now e.due)

/-- OUTPUT_EDGE: a gate output turns on or off after its delay; a suppressed on-edge sets SUPP instead, and an on-edge while
the other output is on is held by the interlock (R115, R117, R121, R134). -/
def execOutputEdge (dt : Nat) (n : Fin 128) (d : Side) (s : State) : Out :=
  run dt s (fun s =>
    let c := s.chan n
    match c.dueEdge d s.now with
    | none => s
    | some e =>
      -- an off-edge of the other output that is due by then comes first
      let first := e.on && !e.supp && c.edges.any (fun x => x.side == d.other && !x.on && !x.supp && Time.reached e.due x.due)
      let c := { c with edges := c.edges.erase e }
      if first then s
      else if e.supp then (s.setChan n c).raise (R.CH_PROT_STAT n) CH_PROT_STAT.SUPP
      else if e.on then
        let tie := d == .lo && c.edges.any (fun x => x.side == .hi && x.on && !x.supp && x.due == e.due)
        if c.out d.other || tie then
          (s.setChan n (c.setHeld d true)).raise (R.CH_PWM_STAT n) CH_PWM_STAT.INTLK
        else (s.setChan n c).turnOn n d e.due
      else
        let c := c.turnOff d e.due
        let s := s.setChan n (c.setHeld d false)
        if c.heldOf d.other then
          (s.setChan n ((c.setHeld d false).setHeld d.other false)).turnOn n d.other e.due
        else s)

end Sys2Proof.Machine
end

