-- ==== Sys2Proof/Machine/Crc32.lean ====
section
/-! DEFINITION. The CRC-32 of R101: polynomial 0x04C1_1DB7 reflected, initial value 0xFFFF_FFFF, final inversion. Tables, images
and shaft-link frames use it (R101, R351, R392). -/

namespace Sys2Proof

/-- One bit of the reflected CRC. -/
def crcBit (c : BitVec 32) : BitVec 32 := if c.getLsbD 0 then (c >>> 1) ^^^ 0xEDB88320#32 else c >>> 1

/-- One byte of the reflected CRC. -/
def crcByte (c : BitVec 32) (b : Byte) : BitVec 32 :=
  let c := c ^^^ b.zeroExtend 32
  crcBit (crcBit (crcBit (crcBit (crcBit (crcBit (crcBit (crcBit c)))))))

/-- The CRC-32 of a list of bytes, in order. -/
def crc32 (l : List Byte) : BitVec 32 := ~~~(l.foldl crcByte 0xFFFFFFFF#32)

end Sys2Proof
end

