-- ==== Sys2Proof/Machine/CoreRegs.lean ====
section
/-! DEFINITION. Processor registers with the banked stack pointer (R217), the completion of an interrupt source (R252), and core
reset (R25, R28, R231, R255, R301, R347). -/

namespace Sys2Proof.Machine

open Sys2Proof

/-! ## Registers -/

/-- x2 of a core: ESP while EMG is 1, else the banked stack pointer of its world and level (R217). -/
def Core.sp (c : Core) : Word :=
  if c.emg then c.esp
  else match c.world, c.sup with
    | .pit, false => c.spPU
    | .pit, true => c.spPS
    | .bank, false => c.spBU
    | .bank, true => c.spBS

/-- Write x2 of a core (R217). -/
def Core.setSp (c : Core) (v : Word) : Core :=
  if c.emg then { c with esp := v }
  else match c.world, c.sup with
    | .pit, false => { c with spPU := v }
    | .pit, true => { c with spPS := v }
    | .bank, false => { c with spBU := v }
    | .bank, true => { c with spBS := v }

/-- Read integer register `r`; x0 reads zero. -/
def Core.get (c : Core) (r : Nat) : Word :=
  if r = 0 then 0 else if r = 2 then c.sp else AMap.get 0 c.x r

/-- Write integer register `r`; a write to x0 is discarded. -/
def Core.set (c : Core) (r : Nat) (v : Word) : Core :=
  if r = 0 then c else if r = 2 then c.setSp v else { c with x := AMap.set 0 c.x r v }

/-- Read floating-point register `r`. -/
def Core.getF (c : Core) (r : Nat) : Word := AMap.get 0 c.f r

/-- Write floating-point register `r`. -/
def Core.setFr (c : Core) (r : Nat) (v : Word) : Core := { c with f := AMap.set 0 c.f r v }

/-! ## Interrupt completion (R252) -/

/-- A source completes: ACTIVE clears, and a level source whose condition is active raises an event again (R248, R252). -/
def State.completeSource (s : State) (i : Nat) : State :=
  let s := s.updSrc i (fun q => { q with active := false })
  if isLevelSource i then s.resample i else s

/-! ## Core reset -/

/-- Registers of processor `p`'s block that a core reset keeps: HW_BANK and HW_RESUME (R347). -/
def coreKept (p k : Nat) : Bool := k == R.HW_BANK p || k == R.HW_RESUME p

/-- Key `k` is one of processor `p`'s core-local registers. -/
def isCoreKey (p k : Nat) : Bool := k / 0x100000000 == p + 1

/-- The CAUSE field of processor `p` in RST_CORE_CAUSE. -/
def coreCauseField (p : Nat) : Fld := ⟨3 * p, 3⟩

/-- Every buffer whose tag names master `p` is freed, in ascending order of buffers (R301; log entry 20). -/
def State.freeTubOf (s : State) (p : Nat) : State :=
  let mine := (s.lg.tubTag.filter (fun e => match e.2 with | some t => t % 128 == p | none => false)).map (fun e => e.1)
  let s := { s with lg := { s.lg with
    tubTag := s.lg.tubTag.filter (fun e => !mine.contains e.1)
    tubFree := mine ++ s.lg.tubFree } }
  s.sample 613

/-- Processor `p` is reset: its registers and core-local block, its buffered stores (R28), the sources it has taken (R255) and
its Tub buffers (R301). It starts again by CORE_START. The private memories are kept (R25). -/
def State.coreReset (s : State) (p cause : Nat) : State :=
  let old := s.flow p
  let kept := fun (k : Nat) => !isCoreKey p k || coreKept p k
  let s := { s with regs := s.regs.filter (fun e => kept e.1), undef := s.undef.filter (fun e => kept e.1) }
  -- a Hewer that test and service has failed stays in reset (R378)
  let failed := decide (p < 4) && s.fld R.TS_FAILED_UNIT TS_FAILED_UNIT.HEWER / 2 ^ p % 2 == 1
  let s := s.setCore p { starting := !failed }
  let s := s.setFlow p { halted := old.halted, stepping := old.stepping, lockups := old.lockups }
  -- what the pair had agreed on ends with the boundary it was agreed at (R238)
  let s := if p = 4 then
      { s with pr := { s.pr with deputy := { s.pr.deputy with
        agreedAt := 0, agreedIrq := false, agreedWake := false, agreedService := false
        accA := none, accB := none, proposal := false } } }
    else s
  let taken := (s.mv.sources.filter (fun e => e.2.active && e.2.taker == p)).map (fun e => e.1)
  let s := forAll taken s State.completeSource
  let s := s.freeTubOf p
  if cause = 0 then s else s.setF R.RST_CORE_CAUSE (coreCauseField p) cause

/-! ## LOST_H (R335) -/

/-- Hewer `p` is lost: its LOST_H bit and the LIMP cause set. -/
def State.loseHewer (s : State) (p : Nat) : State :=
  let s := s.setF R.MODE_STAT MODE_STAT.LOST_H (s.fld R.MODE_STAT MODE_STAT.LOST_H ||| 2 ^ p)
  s.limpCause 1

/-- Hewer `p` is no longer lost; the cause clears with the last bit. -/
def State.findHewer (s : State) (p : Nat) : State :=
  let v := s.fld R.MODE_STAT MODE_STAT.LOST_H &&& (15 ^^^ 2 ^ p)
  let s := s.setF R.MODE_STAT MODE_STAT.LOST_H v
  if v = 0 then s.limpClear 1 else s

/-- A lock-up of processor `p` with the EPC of the failed push (R231); a Hewer that locks up three times within 1 s is lost
(R335). -/
def State.lockUp (s : State) (p : Nat) (epc : Word) : State :=
  let s := s.report (0xA0 + p) 0x0040 clsUncorr epc
  let s := s.updFlow p (fun q => { q with lockups := (s.now :: q.lockups).take 3 })
  let three : Bool := match (s.flow p).lockups with
    | [_, _, t] => decide (Time.since t s.now ≤ 200000000000)
    | _ => false
  let s := s.coreReset p 1
  if p < 4 ∧ three = true then s.loseHewer p else s

end Sys2Proof.Machine
end

