-- ==== Sys2Proof/Machine/SliceOps.lean ====
section
/-! DEFINITION. How slices end (R370, R372, R373, R378, R386) and the service commands that may wait for them (R382, R383). -/

namespace Sys2Proof.Machine

open Sys2Proof

/-! ## Service (R382, R383) -/

/-- Set or clear bit `n` of a bank of 32-bit words. -/
def State.setBankBit (s : State) (base n : Nat) (v : Bool) : State :=
  s.setF (base + 4 * (n / 32)) ⟨n % 32, 1⟩ v.toNat

/-- The leaders of the bridges with a leg in face `f`. -/
def State.leadersInFace (s : State) (f : Nat) : List Nat :=
  s.leaders.filter (fun l => (s.legsOf l).any (fun n => n / 16 == f))

/-- The channels a service command names: a bridge, or every bridge with a leg in a face (R382). -/
def State.unitLegs (s : State) (unit idx : Nat) : List Nat :=
  if unit = 0 then s.legsOf idx else if unit = 1 then (s.leadersInFace idx).flatMap s.legsOf else []

/-- Bit `i` of a field. -/
def State.fieldBit (s : State) (k : Nat) (f : Fld) (i : Nat) : Bool := s.fld k f / 2 ^ i % 2 == 1

/-- Set or clear bit `i` of a field. -/
def State.setFieldBit (s : State) (k : Nat) (f : Fld) (i : Nat) (v : Bool) : State :=
  s.setF k ⟨f.lo + i, 1⟩ v.toNat

/-- The unit is withdrawn (R383); a Hewer that a slice has failed stands as a withdrawn one does (log entry 116). -/
def State.unitWithdrawn (s : State) (unit idx : Nat) : Bool :=
  match unit with
  | 0 => s.withdrawn idx
  | 1 => s.fieldBit R.TS_WD_UNIT TS_WD_UNIT.FACE idx
  | _ => s.fieldBit R.TS_WD_UNIT TS_WD_UNIT.HEWER idx || s.fieldBit R.TS_FAILED_UNIT TS_FAILED_UNIT.HEWER idx

/-- The names a service command may use (R383). -/
def State.unitNamed (s : State) (unit idx : Nat) : Bool :=
  match unit with
  | 0 => s.leaderOf idx == idx
  | 1 => decide (idx ≤ 7)
  | 2 => decide (idx ≤ 3)
  | _ => false

/-- A slice has begun: it takes over, tests or returns, and no longer waits for room, a grant (R380) or a QUIESCE (R376). -/
def Slice.runs (x : Slice) : Bool := x.stage != 0 && x.stage != 4

/-- A slice runs on the unit (R383). -/
def State.unitSliced (s : State) (unit idx : Nat) : Bool :=
  s.ts.slices.any (fun x => x.runs &&
    if unit = 2 then x.y == 3 && x.target == idx else decide (x.y ≤ 2) && (s.unitLegs unit idx).contains x.target)

/-- A core held at QUIESCE goes on with rd = 0; its core watchdog did not count (R376, R382). -/
def State.letGo (s : State) (p : Nat) : State :=
  let q := s.flow p
  match q.held with
  | some rd =>
    (s.updCore p (fun c => c.set rd 0)).setFlow p { q with
      held := none, wdFrom := q.wdFrom.map (fun t => t + (s.now - q.heldAt)) }
  | none => s

/-- A Hewer leaves its QUIESCE with rd = 0, or goes through a core reset if it failed; its LOST_H bit clears (R383). -/
def State.returnHewer (s : State) (p : Nat) : State :=
  let failed := s.fieldBit R.TS_FAILED_UNIT TS_FAILED_UNIT.HEWER p
  let s := s.setFieldBit R.TS_WD_UNIT TS_WD_UNIT.HEWER p false
  let s := s.setFieldBit R.TS_FAILED_UNIT TS_FAILED_UNIT.HEWER p false
  let s :=
    if failed then s.coreReset p 0
    else s.letGo p
  s.findHewer p

/-- Carry out a service command (R382, R383). -/
def State.doService (s : State) (cmd unit idx : Nat) : State :=
  let legs := s.unitLegs unit idx
  if cmd = 1 then
    if unit = 2 then { s with ts := { s.ts with heldWait := AMap.set false s.ts.heldWait idx true } }
    else
      let s := if unit = 1 then s.setFieldBit R.TS_WD_UNIT TS_WD_UNIT.FACE idx true else s
      let s := forAll legs s (fun s n =>
        (s.setBankBit (R.TS_WD_CH 0) n true).updChan n (fun c => { c with returning := false }))
      forAll legs s State.refresh
  else if unit = 2 then s.returnHewer idx
  else
    let s := forAll legs s (fun s n =>
      (s.setBankBit (R.TS_FAILED_CH 0) n false).updChan n (fun c => { c with returning := true }))
    if unit = 1 then s.setFieldBit R.TS_FAILED_UNIT TS_FAILED_UNIT.FACE idx false else s

/-- A withdrawn leg that returns takes up its role at a boundary of its group (R383); a face whose bridges have all
returned is withdrawn no longer. -/
def State.returnAtBoundary (s : State) (n : Nat) : State :=
  if (s.chan n).returning then
    let s := (s.setBankBit (R.TS_WD_CH 0) n false).updChan n (fun c => { c with returning := false })
    forAll (List.range 8) s (fun s f =>
      if s.fieldBit R.TS_WD_UNIT TS_WD_UNIT.FACE f && (s.unitLegs 1 f).contains n &&
          (s.unitLegs 1 f).all (fun m => !s.withdrawn m) then
        s.setFieldBit R.TS_WD_UNIT TS_WD_UNIT.FACE f false
      else s)
  else s

/-- A slice has ended: a service command that waited for its unit is carried out (R383). -/
def State.serviceAfterSlice (s : State) : State :=
  match s.ts.waiting with
  | some (cmd, unit, idx) =>
    if s.unitSliced unit idx then s
    else
      let s := { s with ts := { s.ts with waiting := none } }
      (s.setF R.TS_WD_UNIT TS_WD_UNIT.BUSY 0).doService cmd unit idx
  | none => s

/-! ## How slices end -/

/-- DETAIL of a slice report (R386). -/
def sliceDetail (sl : Slice) : Word := BitVec.ofNat 32 (sl.y * 65536 + sl.target)

/-- The coverage of a slice in units of 0.1 % (R369). -/
def sliceCov (y : Nat) : Nat :=
  match y with
  | 0 => 960 | 1 => 980 | 2 => 990 | 3 => 950 | _ => 970

/-- Take a slice off the list, with the stand-ins of its comparators. -/
def State.dropSlice (s : State) (sl : Slice) : State :=
  { s with ts := { s.ts with
    slices := s.ts.slices.erase sl
    standIn := if sl.y = 1 then s.ts.standIn.filter (fun x => x.chan != sl.target) else s.ts.standIn } }

/-- A slice is skipped (R372). -/
def State.skipped (s : State) (y target : Nat) : State :=
  let s := s.count R.TS_STAT TS_STAT.SKIP_CNT
  let s := s.raise R.TS_STAT TS_STAT.SKIP
  s.info 0x170 0x0091 (BitVec.ofNat 32 (y * 65536 + target))

/-- A slice on the list is skipped. -/
def State.skipSlice (s : State) (sl : Slice) : State := ((s.dropSlice sl).skipped sl.y sl.target).serviceAfterSlice

/-- The latest result of a slice's type (TS_RES). -/
def State.sliceResult (s : State) (sl : Slice) (fail : Bool) : State :=
  let k := R.TS_RES sl.y
  let s := s.setF k TS_RES.FAIL fail.toNat
  let s := s.setF k TS_RES.TARGET sl.target
  let s := s.setF k TS_RES.COV (sliceCov sl.y)
  s.setF k TS_RES.DUR (Nat.min 16383 sl.dur)

/-- A slice ends with a pass (R369, R370). -/
def State.passSlice (s : State) (sl : Slice) : State :=
  (((s.dropSlice sl).sliceResult sl false).raise R.TS_STAT TS_STAT.DONE).serviceAfterSlice

/-- The report's class of a failed slice (R378): a comparator slice reports SAFETY when the action of a comparator that failed is not 0;
`bits` names them, A and B. -/
def State.sliceClass (s : State) (sl : Slice) (bits : Nat) : Nat :=
  if sl.y = 1 ∧ ((bits % 2 = 1 ∧ s.srcAction sl.target 1 ≠ 0) ∨ (2 ≤ bits ∧ s.srcAction sl.target 2 ≠ 0)) then clsSafety else clsUncorr

/-- A slice ends with a failure (R378): the result, FAIL and the unit's failed bit, and a report; a Hewer is held in core reset
and lost. `bits` names the failing comparators or Deputy copies. -/
def State.failSlice (s : State) (sl : Slice) (bits : Nat) : State :=
  let cls := s.sliceClass sl bits
  let s := (s.dropSlice sl).sliceResult sl true
  let s := (s.raise R.TS_STAT TS_STAT.DONE).raise R.TS_STAT TS_STAT.FAIL
  let s :=
    if sl.y ≤ 2 then s.setBankBit (R.TS_FAILED_CH 0) sl.target true
    else if sl.y = 3 then s.setFieldBit R.TS_FAILED_UNIT TS_FAILED_UNIT.HEWER sl.target true
    else s.setF R.TS_FAILED_UNIT TS_FAILED_UNIT.DEP (s.fld R.TS_FAILED_UNIT TS_FAILED_UNIT.DEP ||| bits)
  let s := s.report 0x170 0x0090 cls (sliceDetail sl)
  let s :=
    if sl.y = 3 then (s.coreReset sl.target 0).loseHewer sl.target else s
  s.serviceAfterSlice

/-- A slice of type `y` holds the standby converter (0) or the spare engine (2) of face `f` (R373). -/
def State.sliceOn (s : State) (y f : Nat) : Option Slice :=
  s.ts.slices.find? (fun x => x.y == y && !x.direct && x.target / 16 == f && (x.stage == 1 || x.stage == 2 || x.stage == 3))

/-- Replace a slice. -/
def State.putSlice (s : State) (sl new : Slice) : State :=
  { s with ts := { s.ts with slices := s.ts.slices.map (fun x => if x = sl then new else x) } }

/-- The standby converter or spare engine of face `f` has entered state `st` (0 IDLE, 2 ACTIVE): the slice that holds it goes on,
is skipped, passes or fails (R373). `mism` says that a mismatch has caused the move. -/
def State.sliceMoved (s : State) (y f st : Nat) (mism : Bool) : State :=
  match s.sliceOn y f with
  | none => s
  | some sl =>
    if sl.stage = 1 then
      if st = 2 then s.putSlice sl { sl with stage := 2, begun := some s.now }
      else if st = 0 then s.skipSlice sl
      else s
    else if sl.stage = 3 then
      if st = 0 then s.passSlice sl
      else if st = 2 ∧ mism then s.failSlice sl 0
      else s
    else s

end Sys2Proof.Machine
end

