-- ==== Sys2Proof/Machine/Comparators.lean ====
section
/-! DEFINITION. The window comparators (R41, R61 to R64) and their digital stand-ins in a comparator slice (R374). The input is
given in converter LSB of the gain in force: sixteen to a threshold LSB (R61); the front end tracks GAIN (R41). -/

namespace Sys2Proof.Machine

open Sys2Proof

/-- The state of comparator A or B of a channel. -/
def Channel.cmp (c : Channel) (isB : Bool) : Comparator := if isB then c.cmpB else c.cmpA

/-- Put the state of comparator A or B. -/
def Channel.setCmp (c : Channel) (isB : Bool) (v : Comparator) : Channel :=
  if isB then { c with cmpB := v } else { c with cmpA := v }

/-- A field of CH_CMP_CFG for comparator A or B. -/
def State.cmpCfg (s : State) (n : Nat) (isB : Bool) (fa fb : Fld) : Nat := s.fld (R.CH_CMP_CFG n) (if isB then fb else fa)

/-- GAIN as it acts: 5 to 7 act as 4 (R37). -/
def State.gainOf (s : State) (n : Nat) : Nat := Nat.min 4 (s.fld (R.CH_AFE_CFG n) CH_AFE_CFG.GAIN)

/-- A converter LSB of the gain in force, in converter LSB of GAIN = 4 (R37). -/
def State.lsbOf (s : State) (n : Nat) : Int := 2 ^ (4 - s.gainOf n)

/-- FILT in tq. -/
def State.cmpFilt (s : State) (n : Nat) (isB : Bool) : Nat := s.cmpCfg n isB CH_CMP_CFG.A_FILT CH_CMP_CFG.B_FILT * 200

/-- The hysteresis in threshold LSBs (R61). -/
def hystOf (v : Nat) : Int :=
  match v with
  | 0 => 0
  | 1 => 1
  | 2 => 2
  | _ => 4

/-- The state R61 calls for at input `x`, from state `was`, with thresholds and hysteresis in the unit of `x`. -/
def windowState (mode : Nat) (hi lo h x : Int) (was : Bool) : Bool :=
  match mode with
  | 0 => if was then !decide (x < hi - h) else decide (hi < x)
  | 1 => if was then !decide (lo + h < x) else decide (x < lo)
  | 2 => if was then !(decide (lo + h < x) && decide (x < hi - h)) else decide (hi < x) || decide (x < lo)
  | _ => decide (lo ≤ hi) &&
    (if was then !(decide (hi + h < x) || decide (x < lo - h)) else decide (lo < x) && decide (x < hi))

/-- R61 with the settings of comparator A or B of channel `n`, for an input of which `u` units make a converter LSB. -/
def State.cmpDecideIn (s : State) (n : Nat) (isB : Bool) (u x : Int) (was : Bool) : Bool :=
  let k := if isB then R.CH_CMPB_THR n else R.CH_CMPA_THR n
  let h := hystOf (s.cmpCfg n isB CH_CMP_CFG.A_HYST CH_CMP_CFG.B_HYST)
  windowState (s.cmpCfg n isB CH_CMP_CFG.A_MODE CH_CMP_CFG.B_MODE)
    (16 * s.fldInt k CH_CMPA_THR.HI * u) (16 * s.fldInt k CH_CMPA_THR.LO * u) (16 * h * u) x was

/-- R61 for an input in converter LSB. -/
def State.cmpDecide (s : State) (n : Nat) (isB : Bool) (x : Int) (was : Bool) : Bool := s.cmpDecideIn n isB 1 x was

/-- The filtered output of comparator A or B. -/
def outField (isB : Bool) : Fld := if isB then CH_CMP_STAT.B_OUT else CH_CMP_STAT.A_OUT

/-- The present settings decide on the present input: the unfiltered state follows, and a filter interval starts, goes on or
ends (R61 to R63). -/
def State.cmpEval (s : State) (n : Nat) (isB : Bool) : State :=
  let c := (s.chan n).cmp isB
  if s.cmpEn n isB then
    let raw := s.cmpDecideIn n isB (s.lsbOf n) c.x c.raw
    let out := s.flag (R.CH_CMP_STAT n) (outField isB)
    let since := if raw = out then none else match c.since with | some t => some t | none => some s.now
    s.updChan n (fun ch => ch.setCmp isB { c with raw := raw, since := since })
  else s

/-- The output of a comparator has become active toward protection, the event router and the Corer (R64, R127, R185, R307). -/
def State.cmpActive (s : State) (n : Nat) (isB : Bool) : State :=
  let s := s.fireFace (n / 16) ((if isB then 0x50 else 0x40) + n % 16) s.now false
  let s := s.meetCond (fun l j => s.slotIs l j 1 (n + if isB then 128 else 0)) s.now
  s.assert n (if isB then 2 else 1)

/-! ## Stand-ins (R374) -/

/-- Change the record of a stand-in. -/
def State.setStandIn (s : State) (n : Nat) (isB : Bool) (f : StandIn → StandIn) : State :=
  { s with ts := { s.ts with standIn := s.ts.standIn.map (fun x => if x.chan = n ∧ x.isB = isB then f x else x) } }

/-- A comparator leaves its stand-in for its filtered output, which acts if it is active and the stand-in was not. -/
def State.endStandIn (s : State) (n : Nat) (isB : Bool) : State :=
  match s.ts.standIn.find? (fun x => x.chan == n && x.isB == isB) with
  | none => s
  | some x =>
    let s := s.noteGate (cmpKey n isB) s.now
    let s := { s with ts := { s.ts with standIn := s.ts.standIn.filter (fun y => !(y.chan == n && y.isB == isB)) } }
    if !x.out && s.flag (R.CH_CMP_STAT n) (outField isB) then s.cmpActive n isB else s

/-- A comparator's stand-in takes over from its filtered output, or goes on. -/
def State.beginStandIn (s : State) (n : Nat) (isB : Bool) : State :=
  if s.ts.standIn.any (fun x => x.chan == n && x.isB == isB) then s
  else
    let v : StandIn := { chan := n, isB := isB, out := s.flag (R.CH_CMP_STAT n) (outField isB) }
    { s with ts := { s.ts with standIn := s.ts.standIn ++ [v] } }

/-- The stand-ins of channel `n` brought up to the present instant: B's begins, and A's ends, 20 µs into the test, and an output that
is due changes. -/
def State.standInNow (s : State) (n : Nat) : State :=
  match s.testedCmp n with
  | none => s
  | some isB =>
    let s := if isB then (s.beginStandIn n true).endStandIn n false else s
    match s.standInOf n isB with
    | some { next := some (v, t), .. } =>
      if Time.reached s.now t then
        let was := s.cmpOut n isB
        let s := s.noteGate (cmpKey n isB) t
        let s := s.setStandIn n isB (fun x => { x with out := v, next := none })
        if v && !was then s.cmpActive n isB else s
      else s
    | _ => s

/-- A corrected result of channel `n`, delivered now, drives the stand-in of the comparator under test: its output follows 20 ns
later (R374). -/
def State.standInResult (s : State) (n : Nat) (v : Int) : State :=
  let s := s.standInNow n
  match s.testedCmp n with
  | none => s
  | some isB =>
    s.setStandIn n isB (fun x =>
      let was := match x.next with | some (o, _) => o | none => x.out
      { x with next := some (s.cmpEn n isB && s.cmpDecide n isB v was, s.now + 4000) })

/-! ## The comparators -/

/-- COMPARATOR_INPUT_CROSSING: the input reaches `x` converter LSB of the gain in force, and the unfiltered state follows (R61); in PARK
the comparators are powered down (R342). -/
def execComparatorInputCrossing (dt : Nat) (n : Fin 128) (k : CmpId) (x : Int) (s : State) : Out :=
  run dt s (fun s =>
    let isB := k == .b
    let c := (s.chan n).cmp isB
    let s := s.updChan n (fun ch => ch.setCmp isB { c with x := x * s.lsbOf n })
    if s.mode = mPark then s else s.cmpEval n isB)

/-- COMPARATOR_OUTPUT_CHANGE: the filtered output follows a change that has lasted FILT ns (R62, R64), and a stand-in's output
one that is due (R374). -/
def execComparatorOutputChange (dt : Nat) (n : Fin 128) (k : CmpId) (s : State) : Out :=
  run dt s (fun s =>
    let isB := k == .b
    let s := s.standInNow n
    let c := (s.chan n).cmp isB
    match c.since with
    | some t =>
      if s.mode ≠ mPark ∧ Time.reached s.now (t + BitVec.ofNat 64 (s.cmpFilt n isB)) = true then
        let st := R.CH_CMP_STAT n
        let s := s.updChan n (fun ch => ch.setCmp isB { ch.cmp isB with since := none })
        let s := (s.noteGate (cmpKey n isB) (t + BitVec.ofNat 64 (s.cmpFilt n isB))).setF st (outField isB) c.raw.toNat
        if c.raw then
          let s := s.raise st (if isB then CH_CMP_STAT.B_HIT else CH_CMP_STAT.A_HIT)
          if (s.standInOf n isB).isSome then s else s.cmpActive n isB
        else s
      else s
    | none => s)

/-- New comparator settings have become active at channel `n` at `x`; `wasEn` says whether the comparator was enabled (R63). -/
def State.cmpApplied (s : State) (n : Nat) (isB wasEn : Bool) (x : Time) : State :=
  if s.cmpEn n isB then
    let s := if wasEn then s else s.updChan n (fun ch => ch.setCmp isB { (ch.cmp isB) with raw := false, since := none })
    s.cmpEval n isB
  else
    let s := s.noteGate (cmpKey n isB) x
    let s := s.updChan n (fun ch => ch.setCmp isB { (ch.cmp isB) with raw := false, since := none })
    -- a stand-in of a disabled comparator ends its output too (R127)
    (s.setStandIn n isB (fun x => { x with out := false, next := none })).setF (R.CH_CMP_STAT n) (outField isB) 0

end Sys2Proof.Machine
end

