-- ==== Sys2Proof/Machine/Converter.lean ====
section
/-! DEFINITION. Converters (R37 to R60): start requests, sampling, correction, and the standby converter's hand-over. -/

namespace Sys2Proof.Machine

open Sys2Proof

/-! ## Settings -/

/-- SRC as it acts: 4 to 7 act as 0 (R43). -/
def State.adcSrc (s : State) (n : Nat) : Nat :=
  let v := s.fld (R.CH_ADC_CFG n) CH_ADC_CFG.SRC
  if v ≤ 3 then v else 0

/-- ACQ in ns as it acts (R42). -/
def State.acqNs (s : State) (n : Nat) : Nat := Nat.max 8 (Nat.min 1000 (s.fld (R.CH_ADC_CFG n) CH_ADC_CFG.ACQ))

/-- SMP_DLY in tq. -/
def State.smpDly (s : State) (n : Nat) : Time := BitVec.ofNat 64 (s.fld (R.CH_ADC_DLY n) CH_ADC_DLY.SMP_DLY)

/-- INTERVAL in tq. -/
def State.adcInterval (s : State) (n : Nat) : Nat := (s.reg (R.CH_ADC_INTERVAL n)).toNat

/-- DEC as it acts: 5 to 7 act as 4 (R52). -/
def State.decOf (s : State) (n : Nat) : Nat := Nat.min 4 (s.fld (R.CH_ADC_CFG n) CH_ADC_CFG.DEC)

/-- The standby converter of the channel's face serves channel `n` in state `st`. -/
def State.sbyIn (s : State) (n st : Nat) : Bool :=
  let k := R.FACE_SBY_STAT (n / 16)
  s.fld k FACE_SBY_STAT.STATE == st && s.fld k FACE_SBY_STAT.CUR_TARGET == n % 16

/-- INSEL has effect on channel `n` (R40); in SHADOW_OUT the own converter's path stays on the pins (R57). -/
def State.inselActs (s : State) (n : Nat) : Bool :=
  !s.sbyIn n 3 && (s.permitsAct || s.sbyIn n 2 || s.withdrawn n)

/-- CH_ADC_STAT.INSEL_IGN (R40). -/
def State.inselIgn (s : State) (n : Nat) : Bool := s.flag (R.CH_AFE_CFG n) CH_AFE_CFG.INSEL && !s.inselActs n

/-- CH_ADC_STAT.BUSY (R46). -/
def State.adcBusy (s : State) (n : Nat) : Bool := (s.conv n).accepted.isSome || (s.conv n).sample.isSome

/-- The channel a converter converts for: its own, or the target of the standby converter. -/
def State.convChan (s : State) (k : Nat) : Nat :=
  if k < 128 then k else 16 * (k - 128) + s.fld (R.FACE_SBY_STAT (k - 128)) FACE_SBY_STAT.CUR_TARGET

/-! ## Start requests (R43, R44, R46) -/

/-- A software trigger of channel `n` (R43). -/
def State.swTrigger (s : State) (n : Nat) (w : Word) : State :=
  if CH_ADC_SWTRIG.GO.get w = 1 ∧ s.adcSrc n ≠ 0 then s.requestStart n s.now false else s

/-- A write to CH_ADC_SWTRIG (R18, R43). -/
def writeAdcSwtrig (a : Access) (n : Nat) (w : Word) (s : State) : Wr :=
  pitOnly a (R.CH_ADC_SWTRIG n) s (fun s => wordWrite a (R.CH_ADC_SWTRIG n) w s (fun w s => okWr (s.swTrigger n w)))

/-- CH_ADC_SWTRIG (R43). -/
def execChAdcSwtrig (dt : Nat) (a : Access) (n : Fin 128) (w : Word) (s : State) : Out :=
  run dt s (fun s => settle a (R.CH_ADC_SWTRIG n) (writeAdcSwtrig a n w s))

/-- The requested instant of a free-running request lies within the running period; a stopped group has none (R44). -/
def State.inPeriod (s : State) (n : Nat) (x : Time) : Bool :=
  let g := s.cgOf n
  if s.groupRuns g then decide (Time.since (s.group g).start x < (s.group g).len) else true

/-- FREE_RUN_REQUEST: the next free-running start request of channel `n`; with INTERVAL = 0 a stopped group has none (R44). -/
def execFreeRunRequest (dt : Nat) (n : Fin 128) (s : State) : Out :=
  run dt s (fun s =>
    match (s.chan n).freeNext with
    | none => s
    | some t =>
      if Time.reached s.now t = false then s
      else if s.adcSrc n = 3 ∧ s.inPeriod n (t + s.smpDly n) = true then
        let iv := s.adcInterval n
        if iv = 0 ∧ s.groupRuns (s.cgOf n) = false then s
        else
        let next := if iv = 0 then none else some (t + BitVec.ofNat 64 iv)
        (s.updChan n (fun c => { c with freeNext := next })).requestStart n t true
      else s.updChan n (fun c => { c with freeNext := none }))

/-- Free-running conversions of channel `n` begin anew at `t`: at a boundary, or with the group stopped (R44). -/
def State.freeRestart (s : State) (n : Nat) (t : Time) : State :=
  s.updChan n (fun c => { c with freeNext := if s.adcSrc n = 3 then some t else none })

/-- INTERVAL of a stopped group's channel leaves 0 at `x`: the sequence goes on with its first instant from `x` on (R44). -/
def State.freeResume (s : State) (n : Nat) (x : Time) : State :=
  let iv := s.adcInterval n
  match (s.chan n).freeNext with
  | some t =>
    if Time.reached x t then
      let d := (x - t).toNat
      s.updChan n (fun c => { c with freeNext := some (t + BitVec.ofNat 64 ((d + iv - 1) / iv * iv)) })
    else s
  | none => s

/-- The converter was busy at instant `t` (R46): from the acceptance of a request to the end of its conversion. -/
def ConvState.busyAt (c : ConvState) (t : Time) : Bool :=
  (match c.accepted with | some r => Time.reached t r.at_ | none => false) ||
  (match c.sample with | some m => Time.reached t m.at_ | none => false) ||
    (match c.trackFrom with
     | some f => !Time.reached t (f - 400)
     | none => false)

/-- A request that the converter has accepted, or sampled, after the instant at which it accepts another (R46): it finds the
converter busy after all. -/
def ConvState.displaced (c : ConvState) : Bool := c.accepted.isSome || c.sample.isSome

/-- The acquisition window of converter `k` in tq (R42, R55). -/
def State.acqOf (s : State) (k : Nat) : Nat :=
  let a := s.acqNs (s.convChan k)
  200 * (if k < 128 then a else Nat.max 16 a)

/-- The sampling instant of a request accepted at `t0`, and whether R45 postpones it. -/
def State.samplingInstant (s : State) (k : Nat) (t0 : Time) : Time × Bool :=
  let x := t0 + s.smpDly (s.convChan k)
  match (s.conv k).trackFrom with
  | none => (x, false)
  | some f =>
    let e := f + BitVec.ofNat 64 (s.acqOf k)
    if Time.reached x e then (x, false) else (e, true)

/-- A request of channel `n` is discarded and counted (R46, R60). -/
def State.overrun (s : State) (n : Nat) : State :=
  let st := R.CH_ADC_STAT n
  (s.count st CH_ADC_STAT.OVR_CNT).raise st CH_ADC_STAT.OVR

/-- A request is at converter `k`: accepted, or discarded with OVR (R46, R60). A scheduled one that was there first takes the place of
one accepted after its scheduled instant. Each of two converters judges a shared request, and OVR_CNT counts it at each (log entry 106). -/
def State.judgeRequest (s : State) (k : Nat) (r : StartReq) : State :=
  let n := s.convChan k
  let t0 := if r.sched then r.inst else s.now
  if (s.conv k).busyAt t0 then s.overrun n
  else
    let (x, short) := s.samplingInstant k t0
    let s := s.raiseIf short (R.CH_ADC_STAT n) CH_ADC_STAT.ACQ_SHORT
    let s := if (s.conv k).displaced then s.overrun n else s
    s.updConv k (fun c => { c with accepted := some { r with inst := x, at_ := t0, short := short }, sample := none })

/-- The request to judge next: the earliest scheduled one that is due, else the oldest other. -/
def ConvState.nextReq (c : ConvState) (now : Time) : Option StartReq :=
  let sch := c.reqs.filter (fun r => r.sched && Time.reached now r.inst)
  match sch with
  | [] => c.reqs.find? (fun r => !r.sched)
  | r :: rest => some (rest.foldl (fun m x => if Time.reached x.inst m.inst then m else x) r)

/-- CONVERSION_START_REQUEST (R46). In PARK the converters are powered down, and a request is lost (R342; log entry 95). -/
def execConversionStartRequest (dt : Nat) (c : Conv) (s : State) : Out :=
  run dt s (fun s =>
    match (s.conv c.key).nextReq s.now with
    | none => s
    | some r =>
      let s := s.updConv c.key (fun q => { q with reqs := q.reqs.erase r })
      if s.mode = mPark then s else s.judgeRequest c.key r)

/-! ## The standby converter (R57 to R59) -/

/-- The standby converter of face `f` enters a state. -/
def State.sbyEnter (s : State) (f st : Nat) (mism : Bool) : State :=
  let k := R.FACE_SBY_STAT f
  let s := (s.setF k FACE_SBY_STAT.STATE st).setF k FACE_SBY_STAT.PEND 0
  let shadow := st = 1 ∨ st = 3
  let s := s.updSbyOf f (fun h => { h with
    pend := 0, mism := false
    ownRes := if shadow then [] else h.ownRes
    sbyRes := if shadow then [] else h.sbyRes
    left := if shadow then s.fld (R.FACE_SBY_CTL f) FACE_SBY_CTL.SHADOW + 1 else 0 })
  let s := if shadow then s.setF k FACE_SBY_STAT.MAXDIFF 0 else s
  let s := if st = 0 then s.updConv (128 + f) (fun c => { c with reqs := [], accepted := none }) else s
  s.sliceMoved 0 f st mism

/-- A period of the target ends for the standby converter of face `f` (R57): a pending command or a mismatch moves it, a shadow
phase counts down, and its end moves it on. -/
def State.sbyTick (s : State) (f : Nat) : State :=
  let h := s.sbyOf f
  let st := s.fld (R.FACE_SBY_STAT f) FACE_SBY_STAT.STATE
  let back := if st = 1 then 0 else 2
  if h.pend = 1 then s.sbyEnter f 1 false
  else if h.pend = 2 then s.sbyEnter f 3 false
  else if h.pend = 3 then s.sbyEnter f back false
  else if h.mism then s.sbyEnter f back true
  else if st = 1 ∨ st = 3 then
    if h.left ≤ 1 then s.sbyEnter f (if st = 1 then 2 else 0) false
    else s.setSbyOf f { h with left := h.left - 1 }
  else s

/-- A sampling instant of the target stands in for a boundary while its group is stopped; a shared request counts once (R57). -/
def State.sbySampleTick (s : State) (n : Nat) (r : StartReq) : State :=
  let f := n / 16
  let k := R.FACE_SBY_STAT f
  let h := s.sbyOf f
  if s.groupRuns (s.cgOf n) ∨ s.fld k FACE_SBY_STAT.CUR_TARGET ≠ n % 16 ∨ (r.mark ≠ 0 ∧ r.mark = h.counted) then s
  else (s.setSbyOf f { h with counted := r.mark }).sbyTick f

/-- A command to the standby converter of face `f` (R57, R59, R373). `slice` says that a slice gives it. -/
def State.sbyCommand (s : State) (f cmd target : Nat) (slice : Bool) : State :=
  let k := R.FACE_SBY_STAT f
  let st := s.fld k FACE_SBY_STAT.STATE
  let n := 16 * f + target
  let fits := decide (16 ≤ s.acqNs n) && !(s.adcSrc n == 3 && decide (s.adcInterval n < 11600))
  let free := !s.flag k FACE_SBY_STAT.PEND && (slice || (s.sliceOn 0 f).isNone)
  let ok := free && (match cmd with
    | 1 => st == 0 && fits
    | 2 => st == 2
    | _ => st == 1 || st == 3)
  if ok then
    let s := if cmd = 1 then s.setF k FACE_SBY_STAT.CUR_TARGET target else s
    (s.setF k FACE_SBY_STAT.PEND 1).updSbyOf f (fun h => { h with pend := cmd })
  else if slice then s
  else s.raise k FACE_SBY_STAT.CMD_REJECT

/-- The act of a write to FACE_SBY_CTL: the stored fields, then the command. -/
def State.sbyCtl (s : State) (f : Nat) (w : Word) : State :=
  let s := s.setReg (R.FACE_SBY_CTL f) (FACE_SBY_CTL.CMD.put w 0)
  let cmd := FACE_SBY_CTL.CMD.get w
  if cmd = 0 then s else s.sbyCommand f cmd (FACE_SBY_CTL.TARGET.get w) false

/-- A write to FACE_SBY_CTL (R18, R59). -/
def writeSbyCtl (a : Access) (f : Nat) (w : Word) (s : State) : Wr :=
  pitOnly a (R.FACE_SBY_CTL f) s (fun s => wordWrite a (R.FACE_SBY_CTL f) w s (fun w s => okWr (s.sbyCtl f w)))

/-- A write to FACE_SBY_CTL that carries command `cmd`: the rows of R59 are this write. -/
def State.sbyRow (s : State) (a : Access) (f cmd : Nat) (w : Word) : State :=
  settle a (R.FACE_SBY_CTL f) (writeSbyCtl a f (FACE_SBY_CTL.CMD.put w cmd) s)

/-- SBY_TAKE_OVER (R59): CMD = 0b01, whatever CMD the word carries. -/
def execSbyTakeOver (dt : Nat) (a : Access) (f : Fin 8) (w : Word) (s : State) : Out :=
  run dt s (fun s => s.sbyRow a f 1 w)

/-- SBY_RETURN (R59): CMD = 0b10. -/
def execSbyReturn (dt : Nat) (a : Access) (f : Fin 8) (w : Word) (s : State) : Out :=
  run dt s (fun s => s.sbyRow a f 2 w)

/-- SBY_ABANDON (R59): CMD = 0b11. -/
def execSbyAbandon (dt : Nat) (a : Access) (f : Fin 8) (w : Word) (s : State) : Out :=
  run dt s (fun s => s.sbyRow a f 3 w)

/-! ## Sampling and conversion (R38, R45, R47 to R49) -/

/-- A converter stops tracking at `r.inst` and holds its sample. -/
def State.takeSample (s : State) (k : Nat) (r : StartReq) : State :=
  let n := s.convChan k
  let settle := match (s.chan n).gainAt with
    | some t => decide (Time.since t r.inst < 30000)
    | none => false
  let sbyFeeds := s.sbyIn n 2 || s.sbyIn n 3
  let shadow := s.sbyIn n 1 || s.sbyIn n 3
  let sm : Sample := { inst := r.inst, at_ := r.at_, chan := n, gain := s.gainOf n, feeds := if k < 128 then !sbyFeeds else sbyFeeds,
                       gsettle := settle, short := r.short, mark := if shadow then r.mark else 0,
                       insel := if k < 128 ∧ s.inselActs n = true then s.fld (R.CH_AFE_CFG n) CH_AFE_CFG.INSEL else 0 }
  s.updConv k (fun c => { c with accepted := none, sample := some sm })

/-- The standby converter enters SHADOW_IN with the request `r` of channel `n` at converter `k` about to be sampled, and shares it
(R55, R57, R60): it postpones its own sample by R45, or is still busy. -/
def State.shareSample (s : State) (k n : Nat) (r : StartReq) : State :=
  let h := s.sbyOf (n / 16)
  let m := h.mark + 1
  let x := 128 + n / 16
  let s := s.setSbyOf (n / 16) { h with mark := m, counted := m }
  let s :=
    if (s.conv x).busyAt r.inst then s.overrun n
    else
      let (t, short) := match (s.conv x).trackFrom with
        | none => (r.inst, false)
        | some f =>
          let e := f + BitVec.ofNat 64 (s.acqOf x)
          if Time.reached r.inst e then (r.inst, false) else (e, true)
      (s.raiseIf short (R.CH_ADC_STAT n) CH_ADC_STAT.ACQ_SHORT).updConv x (fun q =>
        { q with accepted := some { r with inst := t, at_ := r.inst, short := short, mark := m } })
  s.updConv k (fun q => { q with accepted := some { r with mark := m } })

/-- SAMPLING_INSTANT: the accepted request's instant has come (R45). With the target's group stopped a pending transition of
the standby converter takes place first, and a sample converted under SHADOW_IN is shared with it (R57). -/
def execSamplingInstant (dt : Nat) (c : Conv) (s : State) : Out :=
  run dt s (fun s =>
    match (s.conv c.key).accepted with
    | none => s
    | some r =>
      if Time.reached s.now r.inst = false then s
      else
        let n := s.convChan c.key
        let before := s.fld (R.FACE_SBY_STAT (n / 16)) FACE_SBY_STAT.STATE
        let s := s.sbySampleTick n r
        let s :=
          if before = 0 ∧ s.sbyIn n 1 = true then
            s.shareSample c.key n r
          else s
        -- a transition to IDLE has dropped the standby converter's own request
        match (s.conv c.key).accepted with
        | some r => s.takeSample c.key r
        | none => s)

/-- Correction by R48 with offset and gain coefficient: the value before limiting. -/
def correctRaw (r ofs gain : Int) : Int := ((16 * r - ofs) * gain + 2 ^ 20) / 2 ^ 21

/-- The corrected 16-bit value (R48) and CLIP (R49). -/
def corrected (raw : Code) (ofs gain : Int) : Int × Bool :=
  let v := correctRaw raw.toInt ofs gain
  let c := clampInt (-32768) 32767 v
  (c, raw = 0x8000#16 || raw = 0x7FFF#16 || c != v)

/-- The ideal code of the internal source INSEL selects; the pins have none (R39). -/
def idealCode (insel : Nat) : Option Int :=
  match insel with
  | 1 => some 0
  | 2 => some 24576
  | 3 => some (-24576)
  | _ => none

/-- The raw code of a held sample: of the pins the code `raw` of their voltage (R37); of an internal source, from which the pins are
disconnected, its ideal code and the path's own error, which calibration is to find and which is free (R39; log entry 110). -/
def State.rawCode (s : State) (sm : Sample) (raw : Code) : Code × State :=
  match idealCode sm.insel with
  | none => (raw, s)
  | some c =>
    let (w, s) := s.freshWord
    (BitVec.ofInt 16 (clampInt (-32768) 32767 (c + (w.truncate 16 : BitVec 16).toInt)), s)

/-- A pair of corrected values of one shared request is compared (R58). -/
def State.comparePair (s : State) (f : Nat) (a b : Int) : State :=
  let k := R.FACE_SBY_STAT f
  let d := (a - b).natAbs
  let m := Nat.min 65535 (Nat.max d (s.fld k FACE_SBY_STAT.MAXDIFF))
  let s := s.setF k FACE_SBY_STAT.MAXDIFF m
  if s.fld (R.FACE_SBY_CTL f) FACE_SBY_CTL.TOL < d then
    let s := s.raise k FACE_SBY_STAT.MISMATCH
    let s := s.info (0x80 + f) 0x0022 (BitVec.ofNat 32 (m * 65536 + s.fld k FACE_SBY_STAT.CUR_TARGET))
    -- a pair of a phase that has ended since moves nothing
    s.updSbyOf f (fun h => { h with mism := h.mism || s.fld k FACE_SBY_STAT.STATE % 2 == 1 })
  else s

/-- A result of the own (`sby` false) or standby converter, sampled in a shadow phase, looks for its pair (R58): both postponed or
neither. Results whose pair can no longer come are dropped. -/
def State.shadowResult (s : State) (f mark : Nat) (v : Int) (short sby : Bool) : State :=
  if mark = 0 then s
  else
    let h := s.sbyOf f
    let mine : Nat × Int × Bool := (mark, v, short)
    let other := if sby then h.ownRes else h.sbyRes
    match other.find? (fun x => x.1 == mark) with
    | some (_, v', short') =>
      let keep := fun (l : List (Nat × Int × Bool)) => l.filter (fun x => decide (mark < x.1))
      let s := s.setSbyOf f { h with ownRes := keep h.ownRes, sbyRes := keep h.sbyRes }
      if short = short' then s.comparePair f v v' else s
    | none =>
      if sby then s.setSbyOf f { h with sbyRes := h.sbyRes ++ [mine] }
      else s.setSbyOf f { h with ownRes := h.ownRes ++ [mine] }

/-- CONVERSION_END: the conversion of the held sample ends, of the pins with raw code `raw` (R37, R39, R47 to R49, R54, R58). -/
def execConversionEnd (dt : Nat) (c : Conv) (raw : Code) (s : State) : Out :=
  run dt s (fun s =>
    match (s.conv c.key).sample with
    | none => s
    | some sm =>
      let e := sm.inst + 8000
      if Time.reached s.now e = false then s
      else
        let k := c.key
        let n := sm.chan
        let f := n / 16
        let sby := decide (128 ≤ k)
        let s := s.updConv k (fun q => { q with sample := none, trackFrom := some (e + 400) })
        let ofsK := if sby then R.FACE_SBY_CAL_OFS f sm.gain else R.CH_CAL_OFS n sm.gain
        let gainK := if sby then R.FACE_SBY_CAL_GAIN f sm.gain else R.CH_CAL_GAIN n sm.gain
        let (code, s) := s.rawCode sm raw
        let (v, clip) := corrected code (s.fldInt ofsK CH_CAL_OFS.OFS) (s.fld gainK CH_CAL_GAIN.GAIN)
        let st := R.CH_ADC_STAT n
        let s := s.raiseIf clip st CH_ADC_STAT.CLIP
        let s := s.raiseIf sm.gsettle st CH_ADC_STAT.GSETTLE
        let s :=
          if sby then s
          else
            let seq := (s.fld (R.CH_RESULT n) CH_RESULT.SEQ + 1) % 256
            let w := CH_RESULT.SEQ.place seq + CH_RESULT.GSETTLE.place sm.gsettle.toNat +
              CH_RESULT.ACQ_SHORT.place sm.short.toNat + CH_RESULT.CLIP.place clip.toNat + (BitVec.ofInt 16 v).toNat
            (s.setReg (R.CH_RESULT n) (BitVec.ofNat 32 w)).setReg (R.CH_SMP_TIME n) (sm.inst.truncate 32)
        let s := s.shadowResult f sm.mark v sm.short sby
        if sm.feeds then
          let x : Corrected := { value := v, clip := clip, short := sm.short, gsettle := sm.gsettle, sby := sby, inst := sm.inst }
          (s.updChan n (fun ch => { ch with results := ch.results ++ [x] })).fireFace f (0x30 + n % 16) s.now false
        else s)

/-! ## Decimation (R52, R53) -/

/-- A conversion sampled before `b` is still to be delivered. -/
def State.inFlight (s : State) (n : Nat) (b : Time) : Bool :=
  let old := fun (t : Time) => !Time.reached t b
  (s.chan n).results.any (fun x => old x.inst) ||
  (match (s.conv n).sample with | some sm => old sm.inst | none => false) ||
  (match (s.conv (128 + n / 16)).sample with | some sm => sm.chan == n && old sm.inst | none => false)

/-- An incomplete group is discarded (R53). -/
def State.decDiscard (s : State) (n : Nat) : State :=
  (s.updChan n (fun c => { c with decCnt := 0, decSum := 0, decFlags := 0 })).raise (R.CH_ADC_STAT n) CH_ADC_STAT.DEC_PART

/-- A group that lies before the latest boundary and that no conversion in flight can complete is discarded (R53). -/
def State.decStale (s : State) (n : Nat) : State :=
  let c := s.chan n
  match c.decFrom with
  | some b => if c.decCnt ≠ 0 ∧ c.decOf ≠ some b ∧ s.inFlight n b = false then s.decDiscard n else s
  | none => s

/-- The group count of channel `n` restarts at `b`; `m` was the exponent in force before (R53). -/
def State.decRestart (s : State) (n : Nat) (b : Time) (m : Nat) : State :=
  let c := s.chan n
  let s := if c.decFrom = some b then s
    else s.setChan n { c with decFrom := some b, decPrev := c.decFrom, decPrevM := m }
  s.decStale n

/-- A corrected value with its flags (bit 0 CLIP, 1 ACQ_SHORT, 2 GSETTLE, 3 SBY) joins its group; a complete group gives its
result: value and flags (R52). -/
def State.decAdd (s : State) (n : Nat) (v : Int) (flags : Nat) (inst : Time) : State × Option (Int × Nat) :=
  let c := s.chan n
  let inNew := match c.decFrom with | some b => Time.reached inst b | none => true
  let of_ := if inNew then c.decFrom else c.decPrev
  let s := if c.decCnt ≠ 0 ∧ c.decOf ≠ of_ then s.decDiscard n else s
  let c := s.chan n
  let c := if c.decCnt = 0 then { c with decOf := of_, decM := if inNew then s.decOf n else c.decPrevM } else c
  let sum := c.decSum + v
  let fl := c.decFlags ||| flags
  let m := c.decM
  if c.decCnt + 1 < 4 ^ m then
    ((s.setChan n { c with decSum := sum, decCnt := c.decCnt + 1, decFlags := fl }).decStale n, none)
  else
    let r := if m = 0 then sum else (sum + 2 ^ (m - 1)) / 2 ^ m
    (s.setChan n { c with decSum := 0, decCnt := 0, decFlags := 0 }, some (r * 2 ^ (16 - m), fl))

end Sys2Proof.Machine
end

