-- ==== Sys2Proof/Machine/Flags.lean ====
section
/-! DEFINITION. Saturation and rounding of the loop engines (R83, R84), each with the flag it sets, the conditions of SKC (R86),
and the status flags of an engine (LE_STAT), which describe the engine whose commits take effect (R105; log entry 50). -/

namespace Sys2Proof.Machine

open Sys2Proof

/-- The smallest and the largest 32-bit result (R84). -/
def min32 : Int := -(2 ^ 31)
def max32 : Int := 2 ^ 31 - 1

/-- The smallest and the largest value of ACC (R84). -/
def min48 : Int := -(2 ^ 47)
def max48 : Int := 2 ^ 47 - 1

/-- A result limited to 32 bits, and whether it saturated (R84). -/
def sat32 (v : Int) : Int × Bool := (clampInt min32 max32 v, decide (v < min32) || decide (max32 < v))

/-- A value limited to the range of ACC, and whether it saturated (R84). -/
def sat48 (v : Int) : Int × Bool := (clampInt min48 max48 v, decide (v < min48) || decide (max48 < v))

/-- A right shift by `k` that rounds half upwards (R84). -/
def roundShift (v : Int) (k : Nat) : Int := if k = 0 then v else (v + 2 ^ (k - 1)) / 2 ^ k

/-- A word as a signed number. -/
def sval (w : Word) : Int := w.toInt

/-- A number as a word. -/
def wordOf (v : Int) : Word := BitVec.ofInt 32 v

/-- The conditions of SKC (R86). -/
def skcHolds (c : Nat) (a b : Word) : Bool :=
  match c with
  | 0 => a == b
  | 1 => a != b
  | 2 => decide (sval a < sval b)
  | 3 => decide (sval b ≤ sval a)
  | 4 => a &&& b != 0
  | 5 => a &&& b == 0
  | 6 => true
  | _ => false

/-! ## Which engine serves a channel (R105) -/

/-- The spare engine of the channel's face serves channel `n` in state `st`. -/
def State.sprIn (s : State) (n st : Nat) : Bool :=
  let k := R.FACE_SPR_STAT (n / 16)
  s.fld k FACE_SPR_STAT.STATE == st && s.fld k FACE_SPR_STAT.CUR_TARGET == n % 16

/-- The channel whose program engine `e` runs. -/
def State.engChan (s : State) (e : Nat) : Nat :=
  if e < 128 then e else 16 * (e - 128) + s.fld (R.FACE_SPR_STAT (e - 128)) FACE_SPR_STAT.CUR_TARGET

/-- The engine whose commits and PUBs take effect for channel `n` (R105). -/
def State.effEngine (s : State) (n : Nat) : Nat := if s.sprIn n 2 || s.sprIn n 3 then 128 + n / 16 else n

/-- Engine `e` is the one that takes effect for its channel. -/
def State.takesEffect (s : State) (e : Nat) : Bool := s.effEngine (s.engChan e) == e

/-- The engines that run the program of channel `n`, the one that takes effect first (R97, R105). -/
def State.enginesOf (s : State) (n : Nat) : List Nat :=
  let x := 128 + n / 16
  if s.sprIn n 1 then [n, x] else if s.sprIn n 2 then [x] else if s.sprIn n 3 then [x, n] else [n]

/-- The engine that an access to the engine-state words of channel `n` reaches (R107). -/
def State.stateEngine (s : State) (n : Nat) : Nat := if s.sprIn n 2 then 128 + n / 16 else n

/-- Engine `e` sets a flag of its channel's LE_STAT. -/
def State.leRaise (s : State) (e : Nat) (f : Fld) : State :=
  if s.takesEffect e then s.raise (R.LE_STAT (s.engChan e)) f else s

/-- A flag that is set when `c` holds. -/
def State.leRaiseIf (s : State) (c : Bool) (e : Nat) (f : Fld) : State := if c then s.leRaise e f else s

end Sys2Proof.Machine
end

