-- ==== Sys2Proof/Machine/Operands.lean ====
section
/-! DEFINITION. The step encoding (R85), the weight of a step (R86, R88), and the operand forms: sources and destinations (R82). -/

namespace Sys2Proof

/-- A decoded step (R85). -/
structure LoopStep where
  op : Nat
  dst : Nat
  sa : Nat
  sb : Nat
  sh : Nat
  aux : Nat
  imm : Word
  deriving DecidableEq, Repr

/-- The fields of a step, from its IMM word and its word [63:32] (R85). -/
def decodeStep (imm hi : Word) : LoopStep :=
  let v := hi.toNat
  { op := v / 2 ^ 26 % 64, dst := v / 2 ^ 22 % 16, sa := v / 2 ^ 16 % 64, sb := v / 2 ^ 10 % 64,
    sh := v / 2 ^ 5 % 32, aux := v % 32, imm := imm }

/-- Word [63:32] of a step (R85). -/
def encodeStepHi (st : LoopStep) : Word :=
  BitVec.ofNat 32 (st.op * 2 ^ 26 + st.dst * 2 ^ 22 + st.sa * 2 ^ 16 + st.sb * 2 ^ 10 + st.sh * 2 ^ 5 + st.aux)

/-- The fields of a step fit their bits. -/
def LoopStep.wf (st : LoopStep) : Bool :=
  decide (st.op < 64) && decide (st.dst < 16) && decide (st.sa < 64) && decide (st.sb < 64) && decide (st.sh < 32) &&
    decide (st.aux < 32)

/-- The weight of an operation (R86). -/
def opWeight (op : Nat) : Nat := if op = 0x14 then 2 else if op = 0x15 then 4 else 1

/-- The weight of a program: its steps up to and including the first END (R88). -/
def programWeight : List (Word × Word) → Nat
  | [] => 0
  | (imm, hi) :: rest =>
    let st := decodeStep imm hi
    if st.op = 0x01 then 1 else opWeight st.op + programWeight rest

end Sys2Proof

namespace Sys2Proof.Machine

open Sys2Proof

/-- The step a run stands at; a program has 32 of them. -/
def Run.step (r : Run) : LoopStep :=
  match r.program[r.pc]? with
  | some (imm, hi) => decodeStep imm hi
  | none => decodeStep 0 0

/-- A source operand of engine `e` in run `r` (R82): its word, and whether reading it saturates (ACCS). -/
def State.source (s : State) (e : Nat) (r : Run) (st : LoopStep) (code : Nat) : Word × Bool :=
  if code < 16 then (AMap.get 0 r.inputs code, false)
  else if code < 24 then (AMap.get 0 (s.eng e).w (code - 16), false)
  else if code < 32 then (AMap.get 0 r.legs (code - 24), false)
  else match code with
    | 32 => (st.imm, false)
    | 33 => let (v, c) := sat32 (s.eng e).acc; (wordOf v, c)
    | 34 => (r.flg, false)
    | 35 => (r.per, false)
    | 36 => (r.duty, false)
    | 37 => (r.time, false)
    | _ => (0, false)

/-- Source A of the step: its value, and the state with the SAT that reading it may set. -/
def State.srcA (s : State) (e : Nat) (r : Run) (st : LoopStep) : Word × State :=
  let (v, c) := s.source e r st st.sa
  (v, s.leRaiseIf c e LE_STAT.SAT)

/-- Source B of the step. -/
def State.srcB (s : State) (e : Nat) (r : Run) (st : LoopStep) : Word × State :=
  let (v, c) := s.source e r st st.sb
  (v, s.leRaiseIf c e LE_STAT.SAT)

/-- Register Wi of engine `e`. -/
def State.wreg (s : State) (e i : Nat) : Word := AMap.get 0 (s.eng e).w i

/-- The system address of engine-state word `o` of engine `e` itself (R108). -/
def engineKey (e o : Nat) : Nat :=
  if e < 128 then faceBase (e / 16) + 0x82000 + e % 16 * 0x40 + o else faceBase (e - 128) + 0x82400 + o

/-- Write Wi of engine `e`, with new check bits (R277). -/
def State.setW (s : State) (e i : Nat) (v : Word) : State :=
  (s.setEcc (engineKey e (4 * i)) 0).updEng e (fun q => { q with w := AMap.set 0 q.w i v })

/-- Write ACC of engine `e`, with new check bits (R277). -/
def State.setAcc (s : State) (e : Nat) (v : Int) : State :=
  ((s.setEcc (engineKey e 0x20) 0).setEcc (engineKey e 0x24) 0).updEng e (fun q => { q with acc := v })

/-- Write a 32-bit result to the destination of the step (R82). -/
def State.dest (s : State) (e : Nat) (st : LoopStep) (v : Word) : State :=
  if st.dst < 8 then s.setW e st.dst v else if st.dst = 9 then s.setAcc e (sval v) else s

/-- Saturate a result, set SAT if it saturates, and write it to the destination. -/
def State.destSat (s : State) (e : Nat) (st : LoopStep) (v : Int) : State :=
  let (x, c) := sat32 v
  (s.leRaiseIf c e LE_STAT.SAT).dest e st (wordOf x)

/-- Saturate a value into ACC. -/
def State.accSat (s : State) (e : Nat) (v : Int) : State :=
  let (x, c) := sat48 v
  (s.leRaiseIf c e LE_STAT.SAT).setAcc e x

/-- The value held in the destination before the step (R86); a destination that is none holds 0 (log entry 51). -/
def State.destOld (s : State) (e : Nat) (st : LoopStep) : Int :=
  if st.dst < 8 then sval (s.wreg e st.dst) else if st.dst = 9 then (s.eng e).acc else 0

end Sys2Proof.Machine
end

