-- ==== Sys2Proof/Machine/LoopRun.lean ====
section
/-! DEFINITION. Runs of the loop engines (R75 to R81): start requests, the snapshot, the end of a run; the spare engine (R105 to
R107); results as they reach the engines (R51, R52); and the engine-state words (R80, R108). -/

namespace Sys2Proof.Machine

open Sys2Proof

/-! ## Loop memory -/

/-- The word `h` (0 IMM, 1 bits [63:32]) of step `i` of the engine of channel `n` (R108). -/
def stepAddr (n i h : Nat) : Nat := faceBase (n / 16) + 0x80000 + n % 16 * 0x100 + 8 * i + 4 * h

/-- Entry `j` of bank `b` of table `t` of face `f` (R100). -/
def tableAddr (f t b j : Nat) : Nat := faceBase f + 0xC0000 + t * 0x2000 + b * 0x1000 + 4 * j

/-- The active program of channel `n`. -/
def State.programOf (s : State) (n : Nat) : List (Word × Word) :=
  (List.range 32).map (fun i => (s.reg (stepAddr n i 0), s.reg (stepAddr n i 1)))

/-- The code errors of the active program of channel `n`, by 2 × step + word. -/
def State.stepMasks (s : State) (n : Nat) : AMap (BitVec 39) :=
  (List.range 64).foldl (fun m i => AMap.set 0 m i (s.eccMask (stepAddr n (i / 2) (i % 2)))) []

/-! ## The spare engine (R105, R106) -/

/-! ## Engine-state words with errors (R276, R278) -/

/-- The engine-state word `o` of the engine at key `e` (R108). -/
def Engine.stateWord (q : Engine) (o : Nat) : Word :=
  if o < 0x20 then AMap.get 0 q.w (o / 4)
  else if o = 0x20 then BitVec.ofInt 32 q.acc
  else if o = 0x24 then BitVec.ofInt 32 (q.acc / 2 ^ 32)
  else 0

/-- The engine with `v` in engine-state word `o`. -/
def Engine.withWord (q : Engine) (o : Nat) (v : Word) : Engine :=
  if o < 0x20 then { q with w := AMap.set 0 q.w (o / 4) v }
  else if o = 0x20 then { q with acc := (((BitVec.ofInt 16 (q.acc / 2 ^ 32)) ++ v : BitVec 48)).toInt }
  else { q with acc := (((v.truncate 16 : BitVec 16) ++ (BitVec.ofInt 32 q.acc) : BitVec 48)).toInt }

/-- Engine `e` reads word `o` of its state: an error is corrected or counted, an uncorrectable word reads as a free one, and the codeword
stays as it is stored (log entry 118). -/
def State.readWork (s : State) (e o : Nat) : State :=
  let k := engineKey e o
  let m := s.eccMask k
  if m = 0 then s
  else
    let w := (s.eng e).stateWord o
    let (v, ok, s) := s.deliverCode k w m
    let (v, s) := if ok then (v, s) else s.freshWord
    let s := s.updEng e (fun q => q.withWord o v)
    s.setEcc k (secEncode ((s.eng e).stateWord o) ^^^ secEncode w ^^^ m)

/-- Engine-state words of engine `e` are written with new check bits: offset of the word, and inverted positions (R276, R277). -/
def State.putMasks (s : State) (e : Nat) (l : List (Nat × BitVec 39)) : State :=
  forAll l s (fun s x => s.setEcc (engineKey e x.1) x.2)

/-- New check bits for every engine-state word. -/
def cleanMasks : List (Nat × BitVec 39) := (List.range 10).map (fun i => (4 * i, 0))

/-- The engine-state words of engine `e` are written with new check bits. -/
def State.cleanEngine (s : State) (e : Nat) : State := s.putMasks e cleanMasks

/-- Engine `dst` takes W0 to W7 and ACC as they are read from engine `src`. -/
def State.copyEngine (s : State) (dst src : Nat) : State :=
  let s := forAll (List.range 10) s (fun s i => s.readWork src (4 * i))
  let q := s.eng src
  (s.cleanEngine dst).updEng dst (fun d => { d with w := q.w, acc := q.acc })

/-- Engine `dst` loads W0 to W7 and ACC from engine `src`; at once, or when the run of `src` ends. -/
def State.loadEngine (s : State) (dst src : Nat) : State :=
  let q := s.eng src
  if q.run.isSome then s.setEng src { q with loadAtEnd := true } else s.copyEngine dst src

/-- The spare engine of face `f` enters a state. -/
def State.sprEnter (s : State) (f st : Nat) (mism : Bool) : State :=
  let k := R.FACE_SPR_STAT f
  let s := (s.setF k FACE_SPR_STAT.STATE st).setF k FACE_SPR_STAT.PEND 0
  let shadow := st = 1 ∨ st = 3
  let s := s.updSprOf f (fun h => { h with
    pend := 0, mism := false
    left := if shadow then s.fld (R.FACE_SPR_CTL f) FACE_SPR_CTL.SHADOW + 1 else 0 })
  let n := 16 * f + s.fld k FACE_SPR_STAT.CUR_TARGET
  let x := 128 + f
  let s := if shadow then (s.updEng n (fun q => { q with outs := none })).updEng x (fun q => { q with outs := none }) else s
  let s :=
    if st = 1 then (s.updEng x (fun q => { q with run := none, waiting := [], accLo := none })).loadEngine x n
    else if st = 3 then s.loadEngine n x
    else s
  s.sliceMoved 2 f st mism

/-- A period of the target ends for the spare engine of face `f` (R105). -/
def State.sprTick (s : State) (f : Nat) : State :=
  let h := s.sprOf f
  let st := s.fld (R.FACE_SPR_STAT f) FACE_SPR_STAT.STATE
  let back := if st = 1 then 0 else 2
  if h.pend = 1 then s.sprEnter f 1 false
  else if h.pend = 2 then s.sprEnter f 3 false
  else if h.pend = 3 then s.sprEnter f back false
  else if h.mism then s.sprEnter f back true
  else if st = 1 ∨ st = 3 then
    if h.left ≤ 1 then s.sprEnter f (if st = 1 then 2 else 0) false
    else s.setSprOf f { h with left := h.left - 1 }
  else s

/-- START as it acts (R75). -/
def State.leStart (s : State) (n : Nat) : Nat :=
  let v := s.fld (R.LE_CFG n) LE_CFG.START
  if v ≤ 3 then v else 0

/-- A command to the spare engine of face `f` (R105, R106, R373). -/
def State.sprCommand (s : State) (f cmd target : Nat) (slice : Bool) : State :=
  let k := R.FACE_SPR_STAT f
  let st := s.fld k FACE_SPR_STAT.STATE
  let free := !s.flag k FACE_SPR_STAT.PEND && (slice || (s.sliceOn 2 f).isNone)
  let ok := free && (match cmd with
    | 1 => st == 0 && s.leStart (16 * f + target) != 0
    | 2 => st == 2
    | _ => st == 1 || st == 3)
  if ok then
    let s := if cmd = 1 then s.setF k FACE_SPR_STAT.CUR_TARGET target else s
    (s.setF k FACE_SPR_STAT.PEND 1).updSprOf f (fun h => { h with pend := cmd })
  else if slice then s
  else s.raise k FACE_SPR_STAT.CMD_REJECT

/-- The act of a write to FACE_SPR_CTL. -/
def State.sprCtl (s : State) (f : Nat) (w : Word) : State :=
  let s := s.setReg (R.FACE_SPR_CTL f) (FACE_SPR_CTL.CMD.put w 0)
  let cmd := FACE_SPR_CTL.CMD.get w
  if cmd = 0 then s else s.sprCommand f cmd (FACE_SPR_CTL.TARGET.get w) false

/-- A write to FACE_SPR_CTL (R18, R106). -/
def writeSprCtl (a : Access) (f : Nat) (w : Word) (s : State) : Wr :=
  pitOnly a (R.FACE_SPR_CTL f) s (fun s => wordWrite a (R.FACE_SPR_CTL f) w s (fun w s => okWr (s.sprCtl f w)))

/-- A write to FACE_SPR_CTL that carries command `cmd`. -/
def State.sprRow (s : State) (a : Access) (f cmd : Nat) (w : Word) : State :=
  settle a (R.FACE_SPR_CTL f) (writeSprCtl a f (FACE_SPR_CTL.CMD.put w cmd) s)

/-- SPR_TAKE_OVER (R106): CMD = 0b01. -/
def execSprTakeOver (dt : Nat) (a : Access) (f : Fin 8) (w : Word) (s : State) : Out :=
  run dt s (fun s => s.sprRow a f 1 w)

/-- SPR_RETURN (R106): CMD = 0b10. -/
def execSprReturn (dt : Nat) (a : Access) (f : Fin 8) (w : Word) (s : State) : Out :=
  run dt s (fun s => s.sprRow a f 2 w)

/-- SPR_ABANDON (R106): CMD = 0b11. -/
def execSprAbandon (dt : Nat) (a : Access) (f : Fin 8) (w : Word) (s : State) : Out :=
  run dt s (fun s => s.sprRow a f 3 w)

/-- The commits and PUBs of a shared run are compared once both engines have ended it (R106). A difference found after the shadow phase is
a mismatch all the same, and has no transition left to bring about. -/
def State.compareOuts (s : State) (n : Nat) : State :=
  let f := n / 16
  let x := 128 + f
  match (s.eng n).outs, (s.eng x).outs with
  | some a, some b =>
    let s := (s.updEng n (fun q => { q with outs := none })).updEng x (fun q => { q with outs := none })
    if a = b then s
    else
      let k := R.FACE_SPR_STAT f
      let s := s.count k FACE_SPR_STAT.MIS_CNT
      let s := s.raise k FACE_SPR_STAT.MISMATCH
      let s := s.info (0x80 + f) 0x0023 (BitVec.ofNat 32 (n % 16))
      s.updSprOf f (fun h => { h with mism := h.mism || s.sprIn n 1 || s.sprIn n 3 })
  | _, _ => s

/-! ## Engine state (R80, R108) -/

/-- Clear W0 to W7 and ACC. -/
def Engine.cleared (q : Engine) : Engine := { q with w := [], acc := 0 }

/-- A load of all of ACC: bits [47:32] from `hi`, bits [31:0] from a held ACC_LO write or as they are (R108). -/
def Engine.loadAcc (q : Engine) (hi : Word) (lo : Option Word) : Engine :=
  let l : Word := match lo with
    | some v => v
    | none => BitVec.ofInt 32 q.acc
  let h : BitVec 16 := hi.truncate 16
  { q with acc := (h ++ l : BitVec 48).toInt }

/-- A waiting write takes effect. -/
def Engine.applyWrite (q : Engine) (x : EngineWrite) : Engine :=
  match x with
  | .w i v => { q with w := AMap.set 0 q.w i v }
  | .acc hi lo => q.loadAcc hi lo
  | .clear => q.cleared

/-- A write or clear of engine state, with the codewords it makes: at once, or when the run in progress ends (R80, R81). -/
def State.engineWrite (s : State) (e : Nat) (x : EngineWrite) (masks : List (Nat × BitVec 39)) : State :=
  let s := if (s.eng e).run = none then s.putMasks e masks else s
  s.updEng e (fun q =>
    if q.run.isSome then { q with waiting := q.waiting ++ [x], waitMasks := q.waitMasks ++ masks } else q.applyWrite x)

/-- The address of engine-state word `o` of channel `n` (R108). -/
def engineAddr (n o : Nat) : Nat := faceBase (n / 16) + 0x82000 + n % 16 * 0x40 + o

/-- A write to an engine-state word (R18, R107, R108). A narrower one leaves an undefined word (R446; log entry 57). -/
def writeEngine (a : Access) (n o : Nat) (w : Word) (s : State) : Wr :=
  pitOnly a (engineAddr n o) s (fun s =>
    let k := engineAddr n o
    let old := s.eccMask k
    let (w, s) := if a.size = 4 then (w, s.eccWrite k) else s.freshWord
    let m := if a.size = 4 then s.eccMask k else 0
    let s := s.setEcc k old
    let e := s.stateEngine n
    let q := s.eng e
    if o < 0x20 then okWr (s.engineWrite e (.w (o / 4) w) [(o, m)])
    else if o = 0x20 then okWr (s.updEng e (fun q => { q with accLo := some w, accLoMask := m }))
    else
      let masks := (if q.accLo.isSome then [(0x20, q.accLoMask)] else []) ++ [(0x24, m)]
      okWr ((s.updEng e (fun q => { q with accLo := none, accLoMask := 0 })).engineWrite e (.acc w q.accLo) masks))

/-- ENGINE_STATE_WRITE (R80, R107). -/
def execEngineStateWrite (dt : Nat) (a : Access) (e : Fin 128) (i : Fin 8) (w : Word) (s : State) : Out :=
  run dt s (fun s => settle a (engineAddr e (4 * i.val)) (writeEngine a e (4 * i.val) w s))

/-- ACC_LO (R108). -/
def execAccLo (dt : Nat) (a : Access) (e : Fin 128) (w : Word) (s : State) : Out :=
  run dt s (fun s => settle a (engineAddr e 0x20) (writeEngine a e 0x20 w s))

/-- ACC_HI (R108). -/
def execAccHi (dt : Nat) (a : Access) (e : Fin 128) (w : Word) (s : State) : Out :=
  run dt s (fun s => settle a (engineAddr e 0x24) (writeEngine a e 0x24 w s))

/-- A shift change has changed the program of channel `n` (R81, R107). -/
def State.programApplied (s : State) (n : Nat) : State :=
  if s.flag (R.LE_CFG n) LE_CFG.CLR_ON_LOAD then forAll (s.enginesOf n ++ [n]).eraseDups s (fun s e => s.engineWrite e .clear cleanMasks)
  else s

/-! ## Runs (R75 to R79) -/

/-- The nominal period of channel `n` in force, which the PER operand and CMT use (R87, R114, R447). -/
def State.periodOf (s : State) (n : Nat) : Nat := s.period (s.cgOf n)

/-- The FLG word of channel `n` at the start of a run (R82): the flags of X0, LEG_MISS and the stale bits (log entry 32). -/
def State.flgWord (s : State) (n : Nat) (miss : Bool) : Word :=
  let q := s.eng n
  let stale := (List.range 16).foldl (fun a i =>
    let b := s.reg (R.LE_BIND n i)
    if LE_BIND.EN.get b = 1 ∧ s.sigStale (LE_BIND.SIG.get b) = true then a + 2 ^ (8 + i) else a) 0
  BitVec.ofNat 32 (q.resultFlg % 16 + (if miss then 16 else 0) + stale)

/-- The leg results X0 to X7 of channel `n` (R82, R94). -/
def State.legResults (s : State) (n : Nat) : AMap Word :=
  if s.leaderOf n = n then
    (s.legsOf n).foldl (fun m l => AMap.set 0 m (l - n) (s.eng l).result) []
  else AMap.set 0 [] 0 (s.eng n).result

/-- The snapshot of a run of channel `n` (R77). -/
def State.snapshot (s : State) (n : Nat) (miss pair : Bool) : Run :=
  let f := n / 16
  { program := s.programOf n, masks := s.stepMasks n, inputs := (s.eng n).inputs, legs := s.legResults n, flg := s.flgWord n miss
    per := BitVec.ofNat 32 (s.periodOf n), duty := s.reg (R.CH_DUTY_LIVE n), time := s.now.truncate 32
    banks := (List.range 32).foldl (fun m t =>
      let k := R.FACE_TBL_STAT f t
      AMap.set 2 m t (s.fld k FACE_TBL_STAT.ACTIVE + 2 * s.fld k FACE_TBL_STAT.L)) []
    pair := pair }

/-- The run of engine `e` ends (R78, R80, R81, R105). -/
def State.endRun (s : State) (e : Nat) : State :=
  let n := s.engChan e
  let q := s.eng e
  match q.run with
  | none => s
  | some r =>
    let q' := { q with run := none, outs := if r.pair then some r.outs else none }
    let done := q'.waiting.foldl Engine.applyWrite { q' with waiting := [], waitMasks := [], loadAtEnd := false }
    let eff := s.takesEffect e
    let s := (s.putMasks e q.waitMasks).setEng e done
    let s := if q.loadAtEnd then s.copyEngine (if e < 128 then 128 + n / 16 else n) e else s
    let s :=
      if eff then (s.countMod (R.LE_STAT n) LE_STAT.RUN_CNT).fireFace (n / 16) (0xB0 + n % 16) s.now false
      else s
    s.compareOuts n

/-- Word `h` of step `i` of a run, and the inverted positions of its codeword. -/
def Run.stepWord (r : Run) (i h : Nat) : Word := let x := r.program.getD i (0, 0); if h = 0 then x.1 else x.2
def Run.stepMask (r : Run) (i h : Nat) : BitVec 39 := AMap.get 0 r.masks (2 * i + h)

/-- A word of step `i` holds an uncorrectable error. -/
def Run.badAt (r : Run) (i : Nat) : Bool :=
  [0, 1].any (fun h => match eccRead (r.stepWord i h) (r.stepMask i h) with | .bad _ => true | _ => false)

/-- Both words of step `i` are free of errors. -/
def Run.cleanAt (r : Run) (i : Nat) : Bool := r.stepMask i 0 == 0 && r.stepMask i 1 == 0

/-- The run of engine `e` reads the step it stands at: one with an uncorrectable word ends it before that step, and MEMERR sets
(R104). -/
def State.checkBad (s : State) (e : Nat) : State :=
  match (s.eng e).run with
  | some r =>
    let a := stepAddr (s.engChan e) r.pc
    let s := if r.cleanAt r.pc then s else
      forAll [0, 1] s (fun s h => (s.deliverCode (a h) (r.stepWord r.pc h) (r.stepMask r.pc h)).2.2)
    if r.badAt r.pc then (s.leRaise e LE_STAT.MEMERR).endRun e else s
  | none => s

/-- Start the run of channel `n` on its engines that are free (R77, R105); `miss` says that legs have not delivered (R76). -/
def State.startRun (s : State) (n : Nat) (miss : Bool) : State :=
  let engs := s.enginesOf n
  let free := engs.filter (fun e => (s.eng e).run.isNone)
  let r := s.snapshot n miss (free.length == 2)
  let s := s.updEng n (fun q => { q with delivered := [], firstAt := none })
  let s := s.raiseIf miss (R.LE_STAT n) LE_STAT.LEG_MISS
  let s := forAll free s (fun s e => s.updEng e (fun q => { q with run := some r }))
  forAll free s State.checkBad

/-- LOOP_RUN_START: a start request is taken (R75, R79): a run starts, or the request is discarded while one is in progress.
With the target's group stopped a pending transition of the spare engine takes place before the run (R105). -/
def execLoopRunStart (dt : Nat) (e : Fin 136) (s : State) : Out :=
  run dt s (fun s =>
    let n := s.engChan e
    let f := n / 16
    if (s.eng n).starts = 0 then s
    else
      let miss := (s.eng n).misses.contains 1
      let s := s.updEng n (fun q => { q with
        starts := q.starts - 1, misses := (q.misses.filter (fun i => decide (1 < i))).map (fun i => i - 1) })
      if (s.eng (s.effEngine n)).run.isSome then
        (s.count (R.LE_STAT n) LE_STAT.OVR_CNT).raise (R.LE_STAT n) LE_STAT.OVR
      else
        let s :=
          if s.groupRuns (s.cgOf n) = false ∧ s.fld (R.FACE_SPR_STAT f) FACE_SPR_STAT.CUR_TARGET = n % 16 then s.sprTick f
          else s
        s.startRun n miss)

/-- The newest start request was made without every leg's result. -/
def Engine.legMiss (q : Engine) : Bool := q.misses.contains q.starts

/-- LEG_WAIT_TIMEOUT: 100 ns after the first leg a run starts without every leg's result (R76). -/
def execLegWaitTimeout (dt : Nat) (e : Fin 136) (s : State) : Out :=
  run dt s (fun s =>
    let n := s.engChan e
    match (s.eng n).firstAt with
    | some t =>
      if Time.reached s.now (t + 20000) then
        (s.updEng n (fun q => { q with misses := q.misses ++ [q.starts + 1], firstAt := none, delivered := [] })).requestRun n
      else s
    | none => s)

/-- The run of engine `e` moves on past its step by `k` steps, and ends after step 31 (R78). -/
def State.nextStep (s : State) (e k : Nat) : State :=
  match (s.eng e).run with
  | none => s
  | some r =>
    if r.pc + k ≤ 31 then (s.updEng e (fun q => { q with run := some { r with pc := r.pc + k } })).checkBad e
    else s.endRun e

/-! ## Results (R51, R52, R54, R75, R76, R303) -/

/-- A result of channel `n` reaches the engines: its own, and the leader of its bridge (R75, R76). -/
def State.deliverResult (s : State) (n : Nat) (v : Int) (flags : Nat) : State :=
  let s := s.updEng n (fun q => { q with result := wordOf v, resultFlg := flags })
  let l := s.leaderOf n
  let legs := s.legsOf l
  let bridged := s.leStart l == 2 && legs.contains n
  let s :=
    if s.leStart n = 1 ∨ (s.leStart n = 2 ∧ s.leaderOf n ≠ n) then s.requestRun n else s
  if bridged then
    let q := s.eng l
    let d := AMap.set false q.delivered n true
    if legs.all (fun m => AMap.get false d m) then
      (s.setEng l { q with delivered := [], firstAt := none }).requestRun l
    else s.setEng l { q with delivered := d, firstAt := match q.firstAt with | some t => some t | none => some s.now }
  else s

/-- RESULT_DELIVERY: the oldest corrected value of channel `n` on its way reaches the decimation stage, the recorder lanes
and the comparator's stand-in; a complete group gives the loop engine one result (R51 to R54, R303, R374). -/
def execResultDelivery (dt : Nat) (n : Fin 128) (s : State) : Out :=
  runMem dt s (fun s =>
    match (s.chan n).results with
    | [] => s
    | x :: rest =>
      let s := s.updChan n (fun c => { c with results := rest })
      let flags := x.clip.toNat + 2 * x.short.toNat + 4 * x.gsettle.toNat + 8 * x.sby.toNat
      let s := s.resultToLanes n x.value x.inst
      let s := s.standInResult n x.value
      let (s, r) := s.decAdd n x.value flags x.inst
      match r with
      | none => s
      | some (v, fl) =>
        let m := (s.chan n).decM
        let k := R.CH_RESULT_DEC n
        let s := s.setF k CH_RESULT_DEC.DATA (BitVec.ofInt 20 (v / 2 ^ (16 - m))).toNat
        let s := s.setF k CH_RESULT_DEC.FLAGS
          (8 * (fl / 4 % 2) + 4 * (fl / 2 % 2) + 2 * (fl / 8 % 2) + fl % 2)
        s.deliverResult n v fl)

/-- PUB_QUEUE_DRAIN: the oldest entry of an engine's publish queue reaches the signal table (R91, R179). A PUB to a signal
of another device has an undefined result (R14, R92). -/
def execPubQueueDrain (dt : Nat) (e : Fin 136) (s : State) : Out :=
  runMemE dt s (fun s =>
    match (s.eng e).pubq with
    | [] => .ok s
    | p :: rest =>
      if s.ownsSig p.sig then .ok ((s.updEng e (fun q => { q with pubq := rest })).deviceSignal p.sig p.value p.qual)
      else .error (.foreignPublish p.sig))

end Sys2Proof.Machine
end

