-- ==== Sys2Proof/Machine/Tables.lean ====
section
/-! DEFINITION. Lookup tables and their rebuild (R100 to R104). -/

namespace Sys2Proof.Machine

open Sys2Proof

/-- The carrier group that paces the swap of table `t` of face `f` (R101). -/
def State.tblGroup (s : State) (f t : Nat) : Nat := s.cgOf (16 * f + s.fld (R.FACE_TBL_CFG f t) FACE_TBL_CFG.SYNC_CH)

/-- The banks of a table swap (R101, step 5). -/
def State.tblSwap (s : State) (f t : Nat) : State :=
  let k := R.FACE_TBL_STAT f t
  let s := s.setF k FACE_TBL_STAT.ACTIVE (1 - s.fld k FACE_TBL_STAT.ACTIVE)
  let s := s.setF k FACE_TBL_STAT.L (s.tblOf (32 * f + t)).captured
  (s.setF k FACE_TBL_STAT.OUTSTANDING 0).setF k FACE_TBL_STAT.PASSED 0

/-- Tables of the device with a rebuild open that group `g` paces. -/
def State.openTables (s : State) (g : Nat) : List (Nat × Nat) :=
  ((List.range 8).flatMap (fun f => (List.range 32).map (fun t => (f, t)))).filter (fun (f, t) =>
    s.flag (R.FACE_TBL_STAT f t) FACE_TBL_STAT.OUTSTANDING && s.tblGroup f t == g)

/-- A period boundary of group `g`: tables whose check has passed swap, the others with a rebuild open count it (R101, R102). -/
def State.tblBoundary (s : State) (g : Nat) : State :=
  forAll (s.openTables g) s (fun s (f, t) =>
    let k := R.FACE_TBL_STAT f t
    if s.flag k FACE_TBL_STAT.PASSED then s.tblSwap f t else s.count k FACE_TBL_STAT.STALE)

/-- Group `g` stops: tables whose check has passed swap at once (R101). -/
def State.tblStopped (s : State) (g : Nat) : State :=
  forAll (s.openTables g) s (fun s (f, t) =>
    if s.flag (R.FACE_TBL_STAT f t) FACE_TBL_STAT.PASSED then s.tblSwap f t else s)

/-- A write to entry `j` of bank `b` of a table (R18, R100, R101). -/
def writeTable (a : Access) (f t b j : Nat) (w : Word) (s : State) : Wr :=
  let addr := tableAddr f t b j
  pitOnly a addr s (fun s =>
    let k := R.FACE_TBL_STAT f t
    if s.fld k FACE_TBL_STAT.ACTIVE = b ∨ s.flag k FACE_TBL_STAT.OUTSTANDING = false ∨ s.flag k FACE_TBL_STAT.CHECKING = true then
      okWr (s.raise k FACE_TBL_STAT.WR_REJ)
    else
      let (w, s) := if a.size = 4 then (w, s) else s.freshWord
      let s := (s.setReg addr w).eccWrite addr
      okWr (s.setF k FACE_TBL_STAT.PASSED 0))

/-- TABLE_WRITE (R100). -/
def execTableWrite (dt : Nat) (a : Access) (f : Fin 8) (t : Fin 32) (b : Bool) (j : Fin 513) (w : Word) (s : State) : Out :=
  run dt s (fun s => settle a (tableAddr f t b.toNat j) (writeTable a f t b.toNat j w s))

/-- The commands of FACE_TBL_CTL (R101). -/
def State.tblCommand (s : State) (f t : Nat) (w : Word) : State :=
  let k := R.FACE_TBL_STAT f t
  let o := FACE_TBL_CTL.OPEN.get w
  let c := FACE_TBL_CTL.COMMIT.get w
  let x := FACE_TBL_CTL.ABANDON.get w
  let reject := s.raise k FACE_TBL_STAT.CMD_REJ
  if 1 < o + c + x then reject
  else if o = 1 then
    if s.flag k FACE_TBL_STAT.OUTSTANDING then reject
    else (s.setF k FACE_TBL_STAT.OUTSTANDING 1).setF k FACE_TBL_STAT.STALE 0
  else if c = 1 then
    if s.flag k FACE_TBL_STAT.OUTSTANDING && !s.flag k FACE_TBL_STAT.CHECKING then
      let s := (s.setF k FACE_TBL_STAT.PASSED 0).setF k FACE_TBL_STAT.CHECKING 1
      s.setTblOf (32 * f + t) { captured := s.fld (R.FACE_TBL_CFG f t) FACE_TBL_CFG.L_NEXT }
    else reject
  else if x = 1 then
    ((s.setF k FACE_TBL_STAT.OUTSTANDING 0).setF k FACE_TBL_STAT.CHECKING 0).setF k FACE_TBL_STAT.PASSED 0
  else s

/-- A write to FACE_TBL_CTL (R18, R101). -/
def writeTblCtl (a : Access) (f t : Nat) (w : Word) (s : State) : Wr :=
  let k := R.FACE_TBL_CTL f t
  pitOnly a k s (fun s => wordWrite a k w s (fun w s => okWr (s.tblCommand f t w)))

/-- OPEN (R101): a write with OPEN set. -/
def execTblOpen (dt : Nat) (a : Access) (f : Fin 8) (t : Fin 32) (w : Word) (s : State) : Out :=
  run dt s (fun s => settle a (R.FACE_TBL_CTL f t) (writeTblCtl a f t (FACE_TBL_CTL.OPEN.put w 1) s))

/-- COMMIT (R101): a write with COMMIT set. -/
def execTblCommit (dt : Nat) (a : Access) (f : Fin 8) (t : Fin 32) (w : Word) (s : State) : Out :=
  run dt s (fun s => settle a (R.FACE_TBL_CTL f t) (writeTblCtl a f t (FACE_TBL_CTL.COMMIT.put w 1) s))

/-- ABANDON (R101): a write with ABANDON set. -/
def execTblAbandon (dt : Nat) (a : Access) (f : Fin 8) (t : Fin 32) (w : Word) (s : State) : Out :=
  run dt s (fun s => settle a (R.FACE_TBL_CTL f t) (writeTblCtl a f t (FACE_TBL_CTL.ABANDON.put w 1) s))

/-- The bytes of entries 0 to 2^l of a bank as they are read, and the state after reading them. An uncorrectable entry enters the
check as it is delivered (log entry 107). -/
def State.tableBytes (s : State) (f t b l : Nat) : List Byte × State :=
  (List.range (2 ^ l + 1)).foldl (fun (acc, s) j =>
    let a := tableAddr f t b j
    let (w, _, s) := s.deliver a (s.reg a)
    (acc ++ bytesOf w, s)) ([], s)

/-- TABLE_CHECK_DONE: the running check of a table ends (R101, steps 3 to 5). -/
def execTableCheckDone (dt : Nat) (f : Fin 8) (t : Fin 32) (s : State) : Out :=
  run dt s (fun s =>
    let k := R.FACE_TBL_STAT f t
    if s.flag k FACE_TBL_STAT.CHECKING then
      let l := (s.tblOf (32 * f.val + t.val)).captured
      let s := s.setF k FACE_TBL_STAT.CHECKING 0
      if 1 ≤ l ∧ l ≤ 9 then
        let (bytes, s) := s.tableBytes f t (1 - s.fld k FACE_TBL_STAT.ACTIVE) l
        if crc32 bytes = s.reg (R.FACE_TBL_CRC f t) then
          let s := s.setF k FACE_TBL_STAT.PASSED 1
          if s.groupRuns (s.tblGroup f t) then s else s.tblSwap f t
        else s.raise k FACE_TBL_STAT.FAIL
      else s.raise k FACE_TBL_STAT.FAIL
    else s)

end Sys2Proof.Machine
end

