-- ==== Sys2Proof/Machine/Carrier.lean ====
section
/-! DEFINITION. Carrier periods and the edges in them (R65 to R70, R87, R109 to R119, R123, R447, R448): period boundaries,
trailing edges, event-compare matches and the commits that reach the edge generator. -/

namespace Sys2Proof.Machine

open Sys2Proof

/-! ## Positions in a period -/

/-- A position of channel `n` as the running period of group `g` takes it: at or beyond the actual length or the nominal
period it lies at the period end (R66, R114). -/
def State.clampPos (s : State) (g x : Nat) : Nat :=
  let len := (s.group g).len
  if len ≤ x ∨ s.period g ≤ x then len else x

/-- The members of group `g` (R110). -/
def State.membersOf (s : State) (g : Nat) : List Nat := (List.range 128).filter (fun n => s.cgOf n == g)

/-- The period boundary that follows the running period of group `g`. -/
def State.nextBoundary (s : State) (g : Nat) : Time := (s.group g).start + BitVec.ofNat 64 (s.group g).len

/-- An armed shift change that applies at or before `b` has not been applied yet. -/
def State.applyFirst (s : State) (b : Time) : Bool :=
  s.flag R.STG_STATUS STG_STATUS.ARMED && Time.reached b s.stg.applyAt

/-- The period boundary of group `g` is due: the group runs, its period has ended, and no shift change comes before it. -/
def State.boundaryDue (s : State) (g : Nat) : Bool :=
  s.groupRuns g && Time.reached s.now (s.nextBoundary g) && !s.applyFirst (s.nextBoundary g)

/-! ## Trailing edges and event compares -/

/-- The trailing edge of channel `n` in the running period is still to come and lies before the period end. -/
def State.trailOpen (s : State) (n : Nat) : Bool :=
  let g := s.cgOf n
  let c := s.chan n
  s.groupRuns g && !c.fired && decide (0 < c.eCur) && decide (c.eCur < (s.group g).len)

/-- The trailing edge of channel `n` fires at its scheduled instant (R113, R119). -/
def State.trail (s : State) (n : Nat) : State :=
  let t := (s.group (s.cgOf n)).start + BitVec.ofNat 64 (s.chan n).eCur
  let s := s.updChan n (fun c => { c with fired := true })
  (s.setWave n false t).fireFace (n / 16) (0x20 + n % 16) t true

/-- TRAILING_EDGE (R113). -/
def execTrailingEdge (dt : Nat) (n : Fin 128) (s : State) : Out :=
  run dt s (fun s =>
    if s.trailOpen n && Time.reached s.now ((s.group (s.cgOf n)).start + BitVec.ofNat 64 (s.chan n).eCur) then s.trail n
    else s)

/-- Event-compare position `i` of channel `n` (R119). -/
def State.evcOf (s : State) (n i : Nat) : Nat := (s.reg (if i = 0 then R.CH_PWM_EVC0 n else R.CH_PWM_EVC1 n)).toNat

/-- Event compare `i` of channel `n` can still match in the running period (R119). -/
def State.evcOpen (s : State) (n i : Nat) : Bool :=
  let g := s.cgOf n
  let c := s.chan n
  s.groupRuns g && !(if i = 0 then c.evc0 else c.evc1) && decide (s.evcOf n i < (s.group g).len)

/-- Event compare `i` of channel `n` matches at its scheduled instant (R119). -/
def State.evcMatch (s : State) (n i : Nat) : State :=
  let t := (s.group (s.cgOf n)).start + BitVec.ofNat 64 (s.evcOf n i)
  let s := s.updChan n (fun c => if i = 0 then { c with evc0 := true } else { c with evc1 := true })
  s.fireFace (n / 16) (0x10 * i + n % 16) t true

/-- EVENT_COMPARE_MATCH (R119). -/
def execEventCompareMatch (dt : Nat) (n : Fin 128) (i : Fin 2) (s : State) : Out :=
  run dt s (fun s =>
    if s.evcOpen n i && Time.reached s.now ((s.group (s.cgOf n)).start + BitVec.ofNat 64 (s.evcOf n i)) then s.evcMatch n i
    else s)

/-! ## Period boundaries -/

/-- What a boundary of its group does to a member's period (R113, R114, R145, R383, R448): a leg that returns from service takes up
its role, and the new period takes its trailing edge and its commands from the live duty operand. -/
def State.newPeriod (s : State) (n : Nat) (b : Time) : State :=
  let s := s.returnAtBoundary n
  let len := (s.group (s.cgOf n)).len
  let e := s.clampPos (s.cgOf n) (s.reg (R.CH_DUTY_LIVE n)).toNat
  let s := s.updChan n (fun c => { c with eCur := e, fired := false, evc0 := false, evc1 := false })
  let on := decide (0 < e)
  let was := (s.chan n).row
  let r := s.rowOf n
  let s :=
    if was < 4 ∧ 4 ≤ r then
      let lmode := s.flag (R.CH_PWM_CFG n) CH_PWM_CFG.LMODE
      (s.updChan n (fun c => { c with wave := on, cmdL := !on && !lmode })).refreshAt n b
    else if was < 4 ∨ 4 ≤ r then (s.setWave n on b).refreshAt n b
    else (s.refreshAt n b).setWave n on b
  let s := if len = 0 then s else s.freeRestart n b
  s.decRestart n b (s.decOf n)

/-- The MODE and RST causes of the bridge led by `l` are released (R339). -/
def State.releaseCauses (s : State) (l : Nat) : State :=
  let s := s.updChan l (fun c => { c with releasing := false })
  (s.clearCause l BR_SAFE_STAT.MODE).clearCause l BR_SAFE_STAT.RST

/-- A release of the bridge led by `l` takes effect at once: its group is stopped (R339). -/
def State.releaseBridge (s : State) (l : Nat) : State := forAll (s.legsOf l) (s.releaseCauses l) State.refresh

/-- The correction a boundary of group `g` takes from RESID (R123). -/
def State.correction (s : State) (g : Nat) : Int :=
  let p : Int := s.period g
  let resid := (s.group g).resid
  let lim : Int := (s.reg (R.FACE_CG_SLEW g)).toNat
  let c := if lim = 0 then resid else clampInt (-lim) lim resid
  clampInt (p - (2 ^ 32 - 1)) (p - 50000) c

/-- The boundary of group `g` at `b` lies between an accepted ARM and its apply instant, that instant included, so that no
correction is taken there (R202). -/
def State.corrHeld (s : State) (g : Nat) (b : Time) : Bool :=
  s.stg.hset.contains g && (s.flag R.STG_STATUS STG_STATUS.FROZEN || s.stg.applyAt == b)

/-- The period boundary of group `g` at `b`. -/
def State.boundary (s : State) (g : Nat) (b : Time) : State :=
  let mem := s.membersOf g
  let s := forAll mem s (fun s n => if s.trailOpen n then s.trail n else s)
  let s := forAll mem s (fun s n => forAll [0, 1] s (fun s i => if s.evcOpen n i then s.evcMatch n i else s))
  let c := if s.corrHeld g b then 0 else s.correction g
  let p : Int := s.period g
  let due := (s.group g).syncDue
  let s := s.updGroup g (fun q =>
    { q with start := b, len := (p - c).toNat, cCur := c, resid := q.resid - c, syncDue := false })
  let s := if due then s.syncInstant g b else s
  let rel := mem.filter (fun n => (s.chan n).releasing)
  let s := forAll rel s State.releaseCauses
  -- every leg takes its place in R133 before a bridge escalates (R138)
  let s := forAll mem s State.protBoundary
  let s := forAll (mem.filter (fun n => s.leaderOf n == n)) s State.escalate
  let s := forAll mem s (fun s n => s.newPeriod n b)
  let s := s.fireAll (0x80 + g) b true
  let s := s.syncTied g b
  let s :=
    if s.isMaster ∧ (s.reg R.SHL_GMARK).toNat / 2 ^ g % 2 = 1 then
      let fresh := match (s.group g).lastMark with
        | some t => decide (2000000 ≤ Time.since t b)
        | none => true
      if fresh then
        (s.updGroup g (fun q => { q with lastMark := some b })).sendCtrl 0x02 true 0 (BitVec.ofNat 32 g :: timeWords b)
      else s
    else s
  let s := s.tblBoundary g
  forAll (List.range 8) s (fun s f =>
    let s := if s.cgOf (16 * f + s.fld (R.FACE_SBY_STAT f) FACE_SBY_STAT.CUR_TARGET) = g then s.sbyTick f else s
    if s.cgOf (16 * f + s.fld (R.FACE_SPR_STAT f) FACE_SPR_STAT.CUR_TARGET) = g then s.sprTick f else s)

/-- CARRIER_PERIOD_BOUNDARY: the count of group `g` restarts at 0 (R109). -/
def execCarrierPeriodBoundary (dt : Nat) (g : Fin 32) (s : State) : Out :=
  run dt s (fun s => if s.boundaryDue g then s.boundary g (s.nextBoundary g) else s)

/-! ## Commits at the edge generator -/

/-- The position of a commit (R87). -/
def State.commitPos (s : State) (n : Nat) (c : Commit) : Nat :=
  if c.frac then
    let p := s.periodOf n
    if c.value.toInt ≤ 0 then 0
    else if c.value = 0x7FFFFFFF then p
    else c.value.toNat * p / 2 ^ 31
  else c.value.toNat

/-- A commit of position `v` reaches the edge generator of a channel of a stopped group (R447). -/
def State.commitStopped (s : State) (n v : Nat) : State :=
  let s := s.setReg (R.CH_COMMIT_AT n) 0
  let s := s.setF (R.CH_COMMIT_STAT n) CH_COMMIT_STAT.SAME 0
  s.setReg (R.CH_DUTY_LIVE n) (BitVec.ofNat 32 v)

/-- A commit of position `v` reaches the edge generator at count `tc` of the running period (R66). -/
def State.commitRunning (s : State) (n v tc : Nat) : State :=
  let k := R.CH_COMMIT_STAT n
  let s := s.setReg (R.CH_COMMIT_AT n) (BitVec.ofNat 32 tc)
  let s := s.setReg (R.CH_DUTY_LIVE n) (BitVec.ofNat 32 v)
  let e := (s.chan n).eCur
  if e < tc + 2000 then
    ((s.setF k CH_COMMIT_STAT.SAME 0).raise k CH_COMMIT_STAT.LATE).count k CH_COMMIT_STAT.LATE_CNT
  else
    let g := s.cgOf n
    let s := s.setF k CH_COMMIT_STAT.SAME 1
    let v' := s.clampPos g v
    if v' < tc + 2000 then
      let s := s.updChan n (fun c => { c with eCur := s.clampPos g (tc + 2000) })
      (s.raise k CH_COMMIT_STAT.CLAMP).count k CH_COMMIT_STAT.CLAMP_CNT
    else s.updChan n (fun c => { c with eCur := v' })

/-- A commit reaches the edge generator of channel `n` (R66, R96, R447). -/
def State.applyCommit (s : State) (n : Nat) (c : Commit) : State :=
  let g := s.cgOf n
  if s.permitted n = false then s.raise (R.LE_STAT (s.leaderOf n)) LE_STAT.CMT_BLK
  else if s.groupRuns g then s.commitRunning n (s.commitPos n c) (s.countAt g s.now)
  else s.commitStopped n (s.commitPos n c)

/-- COMMIT_ARRIVAL: the oldest commit on its way to channel `n` reaches its edge generator; a boundary that is due comes
before it (R65, R66). -/
def execCommitArrival (dt : Nat) (n : Fin 128) (s : State) : Out :=
  run dt s (fun s =>
    match (s.chan n).commits with
    | [] => s
    | c :: rest =>
      let g := s.cgOf n
      if s.groupRuns g && Time.reached s.now (s.nextBoundary g) then s
      else (s.updChan n (fun q => { q with commits := rest })).applyCommit n c)

end Sys2Proof.Machine
end

