-- ==== Sys2Proof/Machine/StgRules.lean ====
section
/-! DEFINITION. The staging copy and its consistency check (R196 to R198, R200): prospective values, rules 1 to 13, and the
carrier groups a staged word touches. -/

namespace Sys2Proof.Machine

open Sys2Proof

/-! ## Staged words -/

/-- The step words of loop memory (R108): the engine's channel and the step. -/
def stepWordAt (k : Nat) : Option (Nat × Nat) :=
  let f := (k - 0x50000000) / 0x100000
  let o := k % 0x100000
  if 0x50000000 ≤ k ∧ k < 0x50800000 ∧ 0x80000 ≤ o ∧ o < 0x81000 then
    some (16 * f + (o - 0x80000) / 0x100, o % 0x100 / 8)
  else none

/-- The bits of the word at `k` that are ST-typed: the ST fields of a register, all of a step word. -/
def stMask (k : Nat) : Word := if (stepWordAt k).isSome then 0xFFFFFFFF else tyMask k .st

/-- The word at `k` as it stands with ST fields `v` laid over it (R197). -/
def State.overlay (s : State) (k : Nat) (v : Word) : Word := (s.reg k &&& ~~~(stMask k)) ||| (v &&& stMask k)

/-- The staged fields of the word at `k`. -/
def State.stagedAt (s : State) (k : Nat) : Option Word := (s.stg.words.find? (fun x => x.1 == k)).map (fun x => x.2)

/-- STG_PEEK_DATA of the word at `k`, and whether it is staged (R197). -/
def State.peek (s : State) (k : Nat) : Word × Bool :=
  match s.stagedAt k with
  | some v => (s.overlay k v, true)
  | none => (s.reg k, false)

/-- The system address of the entry that stages the word at `k` (R272): entries are taken in the order in which words are first
staged, 8 bytes each, the staged value first and the word's address after it (log entry 104). -/
def State.entryAddr (s : State) (k : Nat) : Nat := 0x80000000 + 8 * s.stg.order.idxOf k

/-- Read the entry of word `k`, which holds `v`, with its check bits (R276, R278). -/
def State.readEntry (s : State) (k : Nat) (v : Word) : Word × Bool × State :=
  let (v, ok, s) := s.deliver (s.entryAddr k) v
  let (_, ok', s) := s.deliver (s.entryAddr k + 4) (BitVec.ofNat 32 k)
  (v, ok && ok', s)

/-- Read the staging copy: its words as delivered, and whether none is uncorrectable (R278). -/
def State.readStaging (s : State) : List (Nat × Word) × Bool × State :=
  let (ws, ok, s) := s.stg.words.foldl (fun (x : List (Nat × Word) × Bool × State) e =>
    let (v, ok, s) := x.2.2.readEntry e.1 e.2
    ((e.1, v) :: x.1, x.2.1 && ok, s)) ([], true, s)
  (ws.reverse, ok, s)

/-- The words in address order, with the word at `k` replaced or added. -/
def putStaged : List (Nat × Word) → Nat → Word → List (Nat × Word)
  | [], k, v => [(k, v)]
  | (k', v') :: m, k, v =>
    if k < k' then (k, v) :: (k', v') :: m else if k = k' then (k, v) :: m else (k', v') :: putStaged m k v

/-- The prospective state (R198): the active state with the staging copy laid over it. -/
def State.prospective (s : State) : State := forAll s.stg.words s (fun s x => s.setReg x.1 (s.overlay x.1 x.2))

/-! ## Rules 2 to 13: the words that take part in a failure, none where the rule holds -/

/-- The elements of a list for which `bad` holds, with their words. -/
def ruleOver {α : Type} (l : List α) (bad : α → Bool) (words : α → List Nat) : Option (List Nat) :=
  match l.filter bad with
  | [] => none
  | x :: xs => some ((x :: xs).flatMap words)

/-- All channels, groups, trackers, and so on. -/
def channels : List Nat := List.range 128

/-- Rule 2: a loop program has weight above 32 (R88). -/
def rule2 (p : State) : Option (List Nat) :=
  ruleOver channels (fun n => decide (32 < programWeight (p.programOf n)))
    (fun n => (List.range 32).flatMap (fun i => [stepAddr n i 0, stepAddr n i 1]))

/-- The bridge binding of channel `n` keeps R93. -/
def bindingOk (p : State) (n : Nat) : Bool :=
  let l := p.leaderOf n
  let leg := fun (m : Nat) => p.fld (R.CH_BRIDGE m) CH_BRIDGE.LEG
  let legs := p.fld (R.CH_BRIDGE l) CH_BRIDGE.LEGS
  p.leaderOf l == l && n == l + leg n && decide (leg n ≤ legs) && decide (l + legs ≤ 127) &&
    (n != l || (List.range (legs + 1)).all (fun j => p.leaderOf (n + j) == n && leg (n + j) == j))

/-- Rule 3: bridge bindings break R93. -/
def rule3 (p : State) : Option (List Nat) :=
  ruleOver channels (fun n => !bindingOk p n) (fun n => (p.leaderOf n :: n :: p.legsOf n).map (fun m => R.CH_BRIDGE m))

/-- Rule 4: two legs of one bridge name different groups (R110). -/
def rule4 (p : State) : Option (List Nat) :=
  ruleOver channels (fun n => p.cgOf n != p.cgOf (p.leaderOf n))
    (fun n => [R.CH_PWM_CFG n, R.CH_PWM_CFG (p.leaderOf n), R.CH_BRIDGE n])

/-- Rule 5: a PERIOD is below 50,000 tq (R111). -/
def rule5 (p : State) : Option (List Nat) :=
  ruleOver (List.range 32) (fun g => decide (p.period g < 50000)) (fun g => [R.FACE_CG_PERIOD g])

/-- Rule 6: a delay is at or above the nominal period of its channel's group (R116). -/
def rule6 (p : State) : Option (List Nat) :=
  ruleOver channels
    (fun n => [p.riseOf n .hi, p.fallOf n .hi, p.riseOf n .lo, p.fallOf n .lo].any (fun d => decide (p.period (p.cgOf n) ≤ d)))
    (fun n => [R.CH_DT_H n, R.CH_DT_L n, R.CH_PWM_CFG n, R.FACE_CG_PERIOD (p.cgOf n)])

/-- The group that group `g` is tied to within the device (R125). -/
def State.tiedTo (p : State) (g : Nat) : Option Nat :=
  if p.syncOf g = 1 then some (p.fld (R.FACE_CG_CFG g) FACE_CG_CFG.SYNC_GRP) else none

/-- Following ties from `h` for at most `k` more steps comes back to `g`. -/
def chainBack (p : State) (g : Nat) : Nat → Nat → Bool
  | 0, _ => false
  | k + 1, h =>
    match p.tiedTo h with
    | some x => x == g || chainBack p g k x
    | none => false

/-- Rule 7: tied groups form a closed chain (R125). -/
def rule7 (p : State) : Option (List Nat) :=
  ruleOver (List.range 32) (fun g => chainBack p g 32 g) (fun g => [R.FACE_CG_CFG g])

/-- Rule 8: N above the value that M acts as (R132). -/
def rule8 (p : State) : Option (List Nat) :=
  ruleOver channels (fun n => decide (p.cbcM n < p.fld (R.CH_PROT_CBC n) CH_PROT_CBC.N)) (fun n => [R.CH_PROT_CBC n])

/-- Rule 9: a binding or group change of a leg of a bridge in SAFE (R144). -/
def rule9 (s p : State) : Option (List Nat) :=
  ruleOver channels
    (fun n => s.isSafe n && (s.reg (R.CH_BRIDGE n) != p.reg (R.CH_BRIDGE n) || s.cgOf n != p.cgOf n))
    (fun n => (if s.reg (R.CH_BRIDGE n) != p.reg (R.CH_BRIDGE n) then [R.CH_BRIDGE n] else []) ++
      (if s.cgOf n != p.cgOf n then [R.CH_PWM_CFG n] else []))

/-- Rule 10: a tracker configuration breaks R164. -/
def rule10 (p : State) : Option (List Nat) :=
  ruleOver (List.range 16)
    (fun a =>
      let k := R.ANG_CFG a
      let nn := p.fld k ANG_CFG.N_POS
      let g := Nat.max 1 (p.fld k ANG_CFG.G)
      decide (nn < 4) || (!p.flag k ANG_CFG.WHEEL && decide (nn < g + 3)) ||
        decide (p.fld k ANG_CFG.COAST_LIM < g + 2) ||
        (p.flag (R.ANG_PUB a) ANG_PUB.EN && !p.ownsSig (p.fld (R.ANG_PUB a) ANG_PUB.SIG)))
    (fun a => R.ANG_CFG a :: R.ANG_PUB a :: (List.range 16).map (fun i => R.SIG_OWNMAP i))

/-- Rule 11: N_POS mod DIV is not 0 (R173). -/
def rule11 (p : State) : Option (List Nat) :=
  ruleOver (List.range 8)
    (fun e => p.fld (R.ANG_CFG (p.fld (R.ENC_CFG e) ENC_CFG.TRK)) ANG_CFG.N_POS
      % Nat.max 1 (p.fld (R.ENC_CFG e) ENC_CFG.DIV) != 0)
    (fun e => [R.ENC_CFG e, R.ANG_CFG (p.fld (R.ENC_CFG e) ENC_CFG.TRK)])

/-- The FEV consumers in use of face `f` (R192): the word that names the channel, and the channel. -/
def fevConsumers (p : State) (f : Nat) : List (Nat × Nat) :=
  ((List.range 16).filterMap (fun k =>
    let w := R.CH_ADC_CFG (16 * f + k)
    if p.fld w CH_ADC_CFG.SRC = 1 then some (w, p.fld w CH_ADC_CFG.FEV) else none)) ++
  ((List.range 16).filterMap (fun k =>
    let w := R.LE_CFG (16 * f + k)
    if p.leStart (16 * f + k) = 3 then some (w, p.fld w LE_CFG.FEV) else none)) ++
  ((List.range 4).filterMap (fun j =>
    let w := R.FACE_CG_CFG (4 * f + j)
    if p.syncOf (4 * f + j) = 3 then some (w, p.fld w FACE_CG_CFG.FEV) else none))

/-- Rule 12: two consumers in use name the same event channel (R192). -/
def rule12 (p : State) : Option (List Nat) :=
  ruleOver ((List.range 8).flatMap (fun f =>
      let l := fevConsumers p f
      l.flatMap (fun x => (l.filter (fun y => x.1 != y.1 && x.2 == y.2)).map (fun _ => x.1))))
    (fun _ => true) (fun k => [k])

/-- Rule 13: a shift change of a cascade device that is not cascade-wide changes SIG_OWNMAP. -/
def rule13 (s p : State) (casc : Bool) : Option (List Nat) :=
  ruleOver (List.range 16)
    (fun i => s.inCascade && !casc && s.reg (R.SIG_OWNMAP i) != p.reg (R.SIG_OWNMAP i)) (fun i => [R.SIG_OWNMAP i])

/-- The lowest of rules 1 to 13 that fails for active state `s` and prospective state `p`, with the words that take part; rule
0 where all hold (R198). -/
def failingRule (s p : State) (casc : Bool) : Nat × List Nat :=
  let rs := [(2, rule2 p), (3, rule3 p), (4, rule4 p), (5, rule5 p), (6, rule6 p), (7, rule7 p), (8, rule8 p), (9, rule9 s p),
    (10, rule10 p), (11, rule11 p), (12, rule12 p), (13, rule13 s p casc)]
  if s.flag R.STG_STATUS STG_STATUS.OVF then (1, [])
  else
    match rs.find? (fun x => x.2.isSome) with
    | some (r, some ws) => (r, ws)
    | _ => (0, [])

/-- The outcome of a check (R198): the failing rule, and the address of one of the staged words that take part. An uncorrectable
word of the staging copy sets OVF, so that rule 1 fails (R278). -/
def State.checkOutcome (s : State) (casc : Bool) : (Nat × Nat) × State :=
  let (read, ok, s) := s.readStaging
  let s := if ok then s else s.setF R.STG_STATUS STG_STATUS.OVF 1
  let p := { s with stg := { s.stg with words := read } }.prospective
  let (r, ws) := failingRule s p casc
  let ws := ws.filter (fun k => (s.stagedAt k).isSome)
  let a := match ws with
    | [] => 0
    | k :: _ => ws.getD (Config.pick s.free % ws.length) k
  ((r, a), { s with free := s.free + 1 })

/-! ## Groups touched (R200) -/

/-- The channel a staged word belongs to: its register, or a step of its engine. -/
def wordChan (k : Nat) : Option Nat :=
  let f := (k - 0x50000000) / 0x100000
  let o := k % 0x100000
  if 0x50000000 ≤ k ∧ k < 0x50800000 ∧ o < 0x10000 then some (16 * f + o / 0x1000)
  else (stepWordAt k).map (fun x => x.1)

/-- The groups a staged word touches, for active state `s` and prospective state `p`. -/
def touchedBy (s p : State) (k : Nat) : List Nat :=
  let f := (k - 0x50000000) / 0x100000
  let o := k % 0x100000
  match wordChan k with
  | some n => [s.cgOf n, p.cgOf n]
  | none =>
    if 0x50000000 ≤ k ∧ k < 0x50800000 then
      if 0x10200 ≤ o ∧ o < 0x10280 then [4 * f + (o - 0x10200) / 0x20]
      else (List.range 16).map (fun c => s.cgOf (16 * f + c))
    else []

/-- The set H: the touched groups that run. -/
def State.touchedRunning (s : State) : List Nat :=
  let p := s.prospective
  let t := s.stg.words.flatMap (fun x => touchedBy s p x.1)
  (List.range 32).filter (fun g => t.contains g && s.groupRuns g)

end Sys2Proof.Machine
end

