-- ==== Sys2Proof/Machine/Apply.lean ====
section
/-! DEFINITION. What becomes active at an apply instant, and what that does in every block (R38, R53, R63, R65, R81, R90, R111,
R112, R118, R124, R125, R136, R138, R144, R164, R169, R171, R176, R184, R204, R366). -/

namespace Sys2Proof.Machine

open Sys2Proof

/-- Make the staged fields `v` of the word at `k` active at `x`; a word of loop memory is written with its check bits. An undefined
register is defined again only by a proper write that came after the one that left it undefined (R446). -/
def State.activate (s : State) (k : Nat) (v : Word) (x : Time) : State :=
  let s := match regAt k with
    | some (r, idx) =>
      match r.name, idx with
      | .FEV_CFG, [f, j] => s.noteGate (fevCfgKey f j) x
      | _, _ => s
    | none => s
  let s :=
    if AMap.get false s.undef k && !AMap.get false s.stg.clean k then (s.put k (s.overlay k v)).scramble k
    else (s.defined k).put k (s.overlay k v)
  if (stepWordAt k).isSome then s.eccWrite k else s

/-! ## Channels -/

/-- The channel settings other than protection that changed between `o` and the present state act on channel `n` at `x`. A new DEC
discards a group only if its acting exponent differs (log entry 106). -/
def State.channelApplied (s o : State) (n : Nat) (x : Time) (staged : Nat → Bool) : State :=
  -- R38
  let s := if s.fld (R.CH_AFE_CFG n) CH_AFE_CFG.GAIN ≠ o.fld (R.CH_AFE_CFG n) CH_AFE_CFG.GAIN then
      s.updChan n (fun c => { c with gainAt := some x })
    else s
  -- R375: SWAP and INV may change the level of a pin
  let was : State := { o with ch := s.ch }
  let s := s.updChan n (fun c => { c with
    pinHAt := if s.pin n .hi = was.pin n .hi then c.pinHAt else some x
    pinLAt := if s.pin n .lo = was.pin n .lo then c.pinLAt else some x })
  -- R129: SWAP moves an output that is on to the other pin, an on-edge there
  let s := if s.flag (R.CH_PWM_CFG n) CH_PWM_CFG.SWAP ≠ o.flag (R.CH_PWM_CFG n) CH_PWM_CFG.SWAP ∧ (s.chan n).outH ≠ (s.chan n).outL then
      s.openBlank n x
    else s
  -- R53
  let s := if s.decOf n ≠ o.decOf n then s.decRestart n x (o.decOf n) else s
  -- R44: SRC = 3 becomes active while the group stands, or the group stops
  let stopped := !s.groupRuns (s.cgOf n)
  let s :=
    if s.adcSrc n ≠ 3 then s.updChan n (fun c => { c with freeNext := none })
    else if stopped = false ∨ s.md.powerOn = true then s
    else if o.adcSrc n ≠ 3 ∨ o.groupRuns (o.cgOf n) = true then s.freeRestart n x
    else if o.adcInterval n = 0 ∧ s.adcInterval n ≠ 0 then s.freeResume n x
    else s
  -- R41, R63
  let s := forAll [false, true] s (fun s b =>
    if staged (if b then R.CH_CMPB_THR n else R.CH_CMPA_THR n) ∨ staged (R.CH_CMP_CFG n) ∨ s.gainOf n ≠ o.gainOf n then
      s.cmpApplied n b (o.cmpEn n b) x
    else s)
  -- R65
  let s := if staged (R.CH_PWM_CMP n) then s.setReg (R.CH_DUTY_LIVE n) (s.reg (R.CH_PWM_CMP n)) else s
  -- R90
  let s := forAll (List.range 16) s (fun s i =>
    let b := s.reg (R.LE_BIND n i)
    if staged (R.LE_BIND n i) then
      let s := s.updEng n (fun e => { e with loads := e.loads.filter (fun l => l.input != i) })
      if LE_BIND.EN.get b = 1 then
        let (v, s) := s.readSig (LE_BIND.SIG.get b)
        s.updEng n (fun e => { e with inputs := AMap.set 0 e.inputs i v })
      else s
    else s)
  -- R75, R76: legs are waited for while START acts as 2 in a leader
  let s := if s.leStart n = 2 ∧ s.leaderOf n = n then s else s.updEng n (fun e => { e with firstAt := none, delivered := [] })
  -- R81
  if (List.range 32).any (fun i => staged (stepAddr n i 0) || staged (stepAddr n i 1)) then s.programApplied n else s

/-- A source whose action becomes non-zero while it is active trips at the apply instant, as though it had asserted there
(R136); a channel whose group has a boundary at that very instant, be it the first of a group that starts there, takes the trip at the
boundary, once (R132, R133). -/
def State.protApplied (s o : State) (n : Nat) (x : Time) : State :=
  if s.groupRuns (s.cgOf n) ∧ s.nextBoundary (s.cgOf n) = x then s
  else
    let new := [0, 1, 2].filter (fun i => o.srcAction n i == 0 && s.srcAction n i != 0 && s.srcActive n i)
    let hid := new.filter (fun i => s.srcBlanked n i && s.blankOpen n)
    let s := s.raiseIf (hid != []) (R.CH_PROT_STAT n) CH_PROT_STAT.BLANKED_HIT
    s.trip n (new.filter (fun i => !hid.contains i)) false

/-! ## Carrier groups -/

/-- Group `g` starts or stops at `x`, and its ties change (R112, R124, R125). -/
def State.groupApplied (s o : State) (g : Nat) (x : Time) : State :=
  let k := R.FACE_CG_STAT g
  let c := R.FACE_CG_CFG g
  let en := s.flag c FACE_CG_CFG.EN
  let s :=
    if en ∧ s.groupRuns g = false then
      ((s.noteGate (runKey g) x).setF k FACE_CG_STAT.RUN 1).updGroup g (fun q => { q with start := x, len := 0, cCur := 0, syncDue := false })
    else if en = false ∧ s.groupRuns g = true then
      let s := ((s.noteGate (runKey g) x).setF k FACE_CG_STAT.RUN 0).setF k FACE_CG_STAT.LOCKED 0
      (s.updGroup g (fun q => { q with len := 0, cCur := 0, syncDue := false })).tblStopped g
    else s
  let sync := s.fld c FACE_CG_CFG.SYNC
  let s :=
    if sync = 0 ∨ sync ≠ o.fld c FACE_CG_CFG.SYNC ∨ s.fld c FACE_CG_CFG.SYNC_GRP ≠ o.fld c FACE_CG_CFG.SYNC_GRP ∨
        s.reg (R.FACE_CG_OFFSET g) ≠ o.reg (R.FACE_CG_OFFSET g) then
      s.setF k FACE_CG_STAT.LOCKED 0
    else s
  if sync = 0 ∧ o.fld c FACE_CG_CFG.SYNC ≠ 0 then s.updGroup g (fun q => { q with resid := 0, syncDue := false }) else s

/-! ## Angle -/

/-- The settings whose change returns a tracker to STALL (R164). -/
def trackerKey (w : Word) : List Nat :=
  [ANG_CFG.EN, ANG_CFG.WHEEL, ANG_CFG.G, ANG_CFG.N_POS, ANG_CFG.EDGE].map (fun f => f.get w)

/-- Trackers whose staged configuration changes return to STALL at `x` with the angle they then stand at. Edges from `x` on are judged
by the new settings (State.takeEdges), and the first pulse among them is the first of the acquisition (R164). -/
def State.stallChanged (s : State) (x : Time) : State :=
  let p := s.prospective
  forAll (List.range 16) s (fun s a =>
    if trackerKey (p.reg (R.ANG_CFG a)) = trackerKey (s.reg (R.ANG_CFG a)) then s
    else s.restartTracker a (s.thetaAt a x) x)

/-- Offsets, publishing, slots and emulators take their new settings at `x` (R169 to R174). -/
def State.angleApplied (s o : State) (staged : Nat → Bool) (x : Time) : State :=
  let s := forAll (List.range 16) s (fun s a =>
    let was := o.fld (R.ANG_OFS a) ANG_OFS.OFS
    let is_ := s.fld (R.ANG_OFS a) ANG_OFS.OFS
    let s := if was = is_ then s else s.offsetChanged a was is_ x
    if (staged (R.ANG_PUB a) ∨ staged (R.ANG_PUB_INT a)) ∧ s.trkValid a = true then s.restartPub a x else s)
  let s := forAll (List.range 64) s (fun s i => if staged (R.AEV_CFG i) then s.retargetSlot i x else s)
  forAll (List.range 8) s (fun s e => if staged (R.ENC_CFG e) ∨ staged (R.ENC_ZPOS e) then s.encRestart e x else s)

/-! ## Signals -/

/-- The owner of block `b`. -/
def State.blockOwner (s : State) (b : Nat) : Nat := (s.reg (R.SIG_OWNMAP (b / 8))).toNat / 16 ^ (b % 8) % 8

/-- Blocks that pass away from the device restart their age at `x`; those that pass to it are not stale (R183, R184). -/
def State.ownershipApplied (s o : State) (x : Time) : State :=
  forAll (List.range 128) s (fun s b =>
    if o.blockOwner b = o.ownId ∧ s.blockOwner b ≠ s.ownId then
      { s with rt := { s.rt with away := AMap.set none s.rt.away b (some x) } }
    else s)

/-! ## Everything at once -/

/-- Carrier edges of the running periods that lie before the apply instant are placed before anything changes. -/
def State.settleEdges (s : State) (gs : List Nat) (x : Time) : State :=
  forAll (gs.flatMap s.membersOf) s (fun s n =>
    let b := (s.group (s.cgOf n)).start
    let s := if s.trailOpen n && Time.reached x (b + BitVec.ofNat 64 (s.chan n).eCur) then s.trail n else s
    forAll [0, 1] s (fun s i =>
      if s.evcOpen n i && Time.reached x (b + BitVec.ofNat 64 (s.evcOf n i)) then s.evcMatch n i else s))

/-- The words become active at `x`, and every block follows; `o` is the state before. -/
def State.becomeActive (o : State) (x : Time) : State :=
  let ws := o.stg.words
  let staged := fun (k : Nat) => ws.any (fun w => w.1 == k)
  let chans := (List.range 128).filter (fun n => ws.any (fun w => wordChan w.1 == some n))
  let s := (o.settleEdges o.stg.hset x).stallChanged x
  let s := forAll ws s (fun s w => s.activate w.1 w.2 x)
  let s := s.takeEdges
  let s := forAll (List.range 32) s (fun s g => s.groupApplied o g x)
  -- a channel whose group now stands has its commands off (R112)
  let s := forAll channels s (fun s n =>
    if s.groupRuns (s.cgOf n) then s
    else if (s.chan n).wave ∨ (s.chan n).cmdL then s.setCmds n false false x
    else s)
  let touched := (List.range 128).filter (fun n =>
    chans.contains n || (o.groupRuns (o.cgOf n) && !s.groupRuns (s.cgOf n)))
  let s := forAll touched s (fun s n => s.channelApplied o n x staged)
  let s := forAll chans s (fun s n => s.protApplied o n x)
  -- R144: a new pattern acts at once
  let s := forAll channels s (fun s n =>
    if s.reg (R.BR_SAFE_CFG (s.leaderOf n)) ≠ o.reg (R.BR_SAFE_CFG (o.leaderOf n)) then
      s.updChan n (fun c => { c with safeOnAt := none })
    else s)
  let s := s.refreshAllAt x
  let s := forAll s.leaders s State.escalate
  (s.angleApplied o staged x).ownershipApplied o x

/-- The update unit's pending image is live from the first apply after a STAGE (R366). -/
def State.liveImage (s : State) : State :=
  if s.flag R.UPD_STAT UPD_STAT.PEND then
    let s := s.setReg R.LIVE_SEQ (s.reg R.UPD_SEQ)
    let s := s.setF R.LOAD_STAT LOAD_STAT.LIVE_SLOT (1 - s.fld R.LOAD_STAT LOAD_STAT.LIVE_SLOT)
    s.setF R.UPD_STAT UPD_STAT.PEND 0
  else s

/-- The staged words become active at `x`, and the shift change ends (R204). -/
def State.applyWords (s : State) (x : Time) : State :=
  let k := R.STG_STATUS
  let s := (s.becomeActive x).liveImage
  let s := { s with stg := { s.stg with words := [], order := [], applyAt := x } }
  let s := s.setF R.STG_ENTRIES STG_ENTRIES.COUNT 0
  let s := ((s.setF k STG_STATUS.ARMED 0).setF k STG_STATUS.PASS 0).setF k STG_STATUS.FROZEN 0
  let s := s.raise k STG_STATUS.APPLIED
  let s := s.setReg R.STG_CASC_ARM 0
  let s := (s.setReg R.STG_LAST_LO (x.truncate 32)).setReg R.STG_LAST_HI ((x >>> 32).truncate 32)
  s.fireGev 0x280 x

/-- The shift change applies at `x` (R204) with the words the staging copy delivers; an uncorrectable one cancels it (R278). -/
def State.applyShift (s : State) (x : Time) : State :=
  let (read, ok, s) := s.readStaging
  if ok then { s with stg := { s.stg with words := read } }.applyWords x
  else (s.setF R.STG_STATUS STG_STATUS.OVF 1).cancelArm

/-- No group of H has a period boundary before `x` still to come. -/
def State.boundariesDone (s : State) (x : Time) : Bool :=
  s.stg.hset.all (fun g => !s.groupRuns g || Time.reached (s.nextBoundary g) x)

/-- SHIFT_CHANGE_APPLY: device time has reached the apply instant of an armed shift change (R204), or one that a subordinate has
confirmed and that has had no commit (R206). -/
def execShiftChangeApply (dt : Nat) (s : State) : Out :=
  run dt s (fun s =>
    let x := s.stg.applyAt
    if s.flag R.STG_STATUS STG_STATUS.ARMED then
      if Time.reached s.now x && s.boundariesDone x then s.applyShift x else s
    else
      match s.stg.offered with
      | some y =>
        if Time.reached s.now y then
          { s with stg := { s.stg with offered := none } }.raise R.STG_STATUS STG_STATUS.CANCELLED
        else s
      | none => s)

end Sys2Proof.Machine
end

