-- ==== Sys2Proof/Machine/Interrupts.lean ====
section
/-! DEFINITION. The interrupt controller (R246 to R256): the doorbell, the registers of the sources and targets, coalescing,
completion, the offer to a target, and what PARK saves. An event of a source is State.intEvent. -/

namespace Sys2Proof.Machine

open Sys2Proof

/-! ## Doorbell (R247, R254) -/

/-- The act of a doorbell write; the report of a refusal names the master that made it (R254, R294). -/
def State.ringDoorbell (s : State) (a : Access) (w : Word) : State :=
  let i := INT_DOORBELL.SRC.get w
  let k := R.SRC_CFG i
  if a.world = .bank ∧ s.fld k SRC_CFG.WORLD = 0 ∧ s.flag k SRC_CFG.BANKRING = false then
    let s := s.raise R.INT_STAT INT_STAT.RING_REJ
    let s := s.count R.INT_STAT INT_STAT.RING_CNT
    s.info a.src 0x0011 (BitVec.ofNat 32 i)
  else s.intEvent i

/-- A write to INT_DOORBELL. -/
def writeDoorbell (a : Access) (w : Word) (s : State) : Wr :=
  wordWrite a R.INT_DOORBELL w s (fun w s => okWr (s.ringDoorbell a w))

/-- INT_DOORBELL (R247). -/
def execIntDoorbell (dt : Nat) (a : Access) (w : Word) (s : State) : Out :=
  run dt s (fun s => settle a R.INT_DOORBELL (writeDoorbell a w s))

/-! ## Pending bits (R248, R249, R254) -/

/-- PENDING of source `i` clears, which empties its count and stops its time. -/
def State.clearPending (s : State) (i : Nat) : State :=
  s.updSrc i (fun q => { q with pending := false, gather := 0, since := 0, ready := false })

/-- The act of a write to INT_PEND word `i`: a 1 clears, but not a bit that an event sets at this instant (R5), and from Bank
world only of Bank-owned sources. -/
def State.clearPend (s : State) (wd : World) (i : Nat) (w : Word) : State :=
  let w := w &&& ~~~(AMap.get 0 s.hwSet (R.INT_PEND i))
  forAll ((List.range 32).filter (fun b => w.getLsbD b)) s (fun s b =>
    let n := 32 * i + b
    if wd = .pit ∨ s.fld (R.SRC_CFG n) SRC_CFG.WORLD = 1 then s.clearPending n else s)

/-- The PENDING bits of word `i` become undefined with it (R446): a source is pending as the free word `v` says. -/
def State.scramblePending (s : State) (i : Nat) (v : Word) : State :=
  forAll (List.range 32) s (fun s b =>
    let n := 32 * i + b
    if v.getLsbD b = false then s.clearPending n
    else s.updSrc n (fun q =>
      if q.pending then q
      else { q with pending := true, gather := 1, since := s.now, ready := decide (s.coalCount n ≤ 1) }))

/-- A write to INT_PEND; a narrow one leaves the PENDING bits undefined (R446). -/
def writeIntPend (a : Access) (i : Nat) (w : Word) (s : State) : Wr :=
  let k := R.INT_PEND i
  let r := wordWrite a k w s (fun w s => okWr (s.clearPend a.world i w))
  if a.size = 4 then r else (r.1.scramblePending i (r.1.reg k), r.2)

/-- INT_PEND_WRITE (R248). -/
def execIntPendWrite (dt : Nat) (a : Access) (i : Fin 128) (w : Word) (s : State) : Out :=
  run dt s (fun s => settle a (R.INT_PEND i) (writeIntPend a i w s))

/-! ## Configuration (R248, R254) -/

/-- A write that Bank world may not make to a Pit-owned source (R254, R19). -/
def ownerOnly (a : Access) (i addr : Nat) (s : State) (f : State → Wr) : Wr :=
  if a.world = .bank ∧ s.fld (R.SRC_CFG i) SRC_CFG.WORLD = 0 then (s.refuse19 a addr, false) else f s

/-- The act of a write to SRC_CFG: Bank world stores WORLD = 1, and EN going to 1 samples a level source. -/
def State.configureSource (s : State) (wd : World) (i : Nat) (w : Word) : State :=
  let k := R.SRC_CFG i
  let was := s.flag k SRC_CFG.EN
  let w := if wd = .bank then SRC_CFG.WORLD.put w 1 else w
  let s := s.fieldWrite k w
  if !was && s.flag k SRC_CFG.EN && isLevelSource i then s.resample i else s

/-- A write to SRC_CFG. -/
def writeSrcCfg (a : Access) (i : Nat) (w : Word) (s : State) : Wr :=
  ownerOnly a i (R.SRC_CFG i) s (fun s =>
    wordWrite a (R.SRC_CFG i) w s (fun w s => okWr (s.configureSource a.world i w)))

/-- SRC_CFG_WRITE (R254). -/
def execSrcCfgWrite (dt : Nat) (a : Access) (i : Fin 4096) (w : Word) (s : State) : Out :=
  run dt s (fun s => settle a (R.SRC_CFG i) (writeSrcCfg a i w s))

/-- A write to SRC_COAL; a count already gathered may reach the new limit (R249). -/
def writeSrcCoal (a : Access) (i : Nat) (w : Word) (s : State) : Wr :=
  ownerOnly a i (R.SRC_COAL i) s (fun s => wordWrite a (R.SRC_COAL i) w s (fun w s =>
    let s := s.fieldWrite (R.SRC_COAL i) w
    let n := s.coalCount i
    okWr (s.updSrc i (fun q => { q with ready := q.ready || (q.pending && decide (n ≤ q.gather)) }))))

/-- The coalescing time limit of source `i` in tq (R249). -/
def State.coalTime (s : State) (i : Nat) : Nat := Nat.max 1 (s.fld (R.SRC_COAL i) SRC_COAL.TIME) * 200000

/-- COALESCE_TIMEOUT: a pending source becomes ready when its time limit has passed since the first event (R249). -/
def execCoalesceTimeout (dt : Nat) (i : Fin 4096) (s : State) : Out :=
  run dt s (fun s =>
    let q := s.src i
    if q.pending && q.gather != 0 && Time.reached s.now (q.since + BitVec.ofNat 64 (s.coalTime i)) then
      s.setSrc i { q with ready := true }
    else s)

/-! ## Targets (R250 to R252, R254) -/

/-- A write to TGT_CTL: from Pit world, and from core `t` in either world (R254). -/
def writeTgtCtl (a : Access) (t : Nat) (w : Word) (s : State) : Wr :=
  let k := R.TGT_CTL t
  let act := fun (s : State) => wordWrite a k w s (fun w s => okWr (s.fieldWrite k w))
  if a.core? = some t then act s else pitOnly a k s act

/-- The act of a write to TGT_COMPLETE of target `t` (R252). -/
def State.complete (s : State) (t : Nat) (w : Word) : State :=
  let i := TGT_COMPLETE.SRC.get w
  let q := s.src i
  if q.active && q.taker == t then s.completeSource i else s.raise (R.TGT_STAT t) TGT_STAT.CMPL_REJ

/-- A write to TGT_COMPLETE. -/
def writeTgtComplete (a : Access) (t : Nat) (w : Word) (s : State) : Wr :=
  wordWrite a (R.TGT_COMPLETE t) w s (fun w s => okWr (s.complete t w))

/-- TGT_COMPLETE (R252). -/
def execTgtComplete (dt : Nat) (a : Access) (t : Fin 7) (w : Word) (s : State) : Out :=
  run dt s (fun s => settle a (R.TGT_COMPLETE t) (writeTgtComplete a t w s))

/-- The Deputy runs in lockstep (DEP_STAT.MODE 0). -/
def State.lockstep (s : State) : Bool := !s.flag R.DEP_STAT DEP_STAT.MODE

/-- Hewer `p` is lost (R335). -/
def State.lostHewer (s : State) (p : Nat) : Bool := p < 4 && s.fld R.MODE_STAT MODE_STAT.LOST_H / 2 ^ p % 2 == 1

/-- The target source `i` is delivered to: in LIMP the sources of a lost Hewer go where MODE_REDIR sends them, and stay pending
when it names 7 or a lost Hewer (R336). -/
def State.targetOf (s : State) (i : Nat) : Nat :=
  let t := s.fld (R.SRC_CFG i) SRC_CFG.TARGET
  if s.mode = mLimp ∧ s.lostHewer t = true then
    let r := (s.reg R.MODE_REDIR).toNat / 2 ^ (4 * t) % 8
    if s.lostHewer r then 7 else r
  else t

/-- The source the controller offers target `t` (R250, R251): enabled, ready, not ACTIVE, of the highest PRIO, and among equals
the lowest number. -/
def State.offered (s : State) (t : Nat) : Option Nat :=
  if t = 5 ∧ s.lockstep = true then none
  else
    s.mv.sources.foldl (fun best (i, q) =>
      if q.ready && !q.active && s.flag (R.SRC_CFG i) SRC_CFG.EN && s.targetOf i == t then
        match best with
        | some b => if s.fld (R.SRC_CFG b) SRC_CFG.PRIO < s.fld (R.SRC_CFG i) SRC_CFG.PRIO then some i else best
        | none => some i
      else best) none

/-- The source core `t` takes at an instruction boundary, with its priority (R251). -/
def State.deliverable (s : State) (t : Nat) : Option (Nat × Nat) :=
  match s.offered t with
  | some i =>
    let q := s.fld (R.SRC_CFG i) SRC_CFG.PRIO
    let c := s.core t
    if c.cpl ≤ q ∧ s.flag (R.TGT_CTL t) TGT_CTL.DISABLE = false ∧ c.emg = false then some (i, q) else none
  | none => none

/-- TGT_STAT.ANY (R252). -/
def State.tgtAny (s : State) (t : Nat) : Bool :=
  s.mv.sources.any (fun (i, q) => q.ready && !q.active && s.targetOf i == t)

/-- TGT_TOP: the source that would be offered, its priority and number. -/
def State.tgtTop (s : State) (t : Nat) : Word :=
  match s.offered t with
  | some i => TGT_TOP.SRC.put (TGT_TOP.PRIO.put (TGT_TOP.VALID.put 0 1) (s.fld (R.SRC_CFG i) SRC_CFG.PRIO)) i
  | none => 0

/-- Source `i` has been taken by core `t`: its frame push has succeeded (R252). -/
def State.taken (s : State) (t i : Nat) : State :=
  let n := (s.src i).gather
  let s := (s.clearPending i).updSrc i (fun q => { q with active := true, taker := t })
  (s.setF (R.TGT_STAT t) TGT_STAT.LAST_SRC i).setF (R.TGT_STAT t) TGT_STAT.LAST_CNT n

/-! ## PARK (R256) -/

/-- Key `k` is one of the registers PARK saves: SRC_CFG, SRC_COAL, TGT_CTL. -/
def isSavedKey (k : Nat) : Bool :=
  (R.SRC_CFG 0 ≤ k && k < R.SRC_COAL 4096) || (R.TGT_CTL 0 ≤ k && k ≤ R.TGT_CTL 6 && (k - R.TGT_CTL 0) % 0x20 == 0)

/-- The controller saves its state on entry to PARK: every ACTIVE bit as PENDING, to be delivered again (R256). -/
def State.saveSources (s : State) : State :=
  { s with mv := { s.mv with
    savedRegs := s.regs.filter (fun e => isSavedKey e.1)
    savedSrc := s.mv.sources.map (fun (i, q) =>
      (i, { q with pending := q.pending || q.active, ready := q.ready || q.active, active := false, taker := 0 })) } }

/-- On wake the saved state comes back, and every enabled level source is sampled again (R256): an active condition is an event
again (R248). -/
def State.restoreSources (s : State) : State :=
  let regs := s.mv.savedRegs.foldl (fun m e => RegFile.set m e.1 e.2) (s.regs.filter (fun e => !isSavedKey e.1))
  let s := { s with
    regs := regs
    mv := { s.mv with sources := s.mv.savedSrc, savedRegs := [], savedSrc := [] } }
  forAll ((List.range 4096).filter (fun i => isLevelSource i && s.flag (R.SRC_CFG i) SRC_CFG.EN)) s State.resample

end Sys2Proof.Machine
end

