-- ==== Sys2Proof/Machine/Addresses.lean ====
section
/-! DEFINITION. Where an address of the local map (R30, R35) or of the system space (R32, R33) leads, and the block it lies in (R23). -/

namespace Sys2Proof.Machine

open Sys2Proof

/-- What a system address names. -/
inductive Target where
  /-- A block or memory of this device, at a system address with the cascade range of its own position resolved. -/
  | device (x : Nat)
  /-- A shared block of another device of the cascade. -/
  | cascade (d : Nat) (x : Nat)
  /-- Host memory behind PCIe: the offset in the outbound range. -/
  | host (x : Nat)
  | unmapped
  deriving DecidableEq, Repr

/-- An address lies in a shared block (R30). -/
def sharedMapped (x : Nat) : Bool :=
  (0x20000000 ≤ x && x < 0x20400000) || (0x24000000 ≤ x && x < 0x24800000) || (0x40000000 ≤ x && x < 0x400A0000) ||
  (0x50000000 ≤ x && x < 0x50800000) || (0x60000000 ≤ x && x < 0x600D0000) || (0x60100000 ≤ x && x < 0x60144000) ||
  (0x60180000 ≤ x && x < 0x601A0000)

/-- A system address names something of this device (R32, R33). -/
def State.deviceMapped (s : State) (x : Nat) : Bool :=
  sharedMapped x || (0x80080000 ≤ x && x < 0x80200000) ||
  (match regionOf x with
   | some r => r < 7 && (r != 5 || !s.lockstep)
   | none => false)

/-- Where a system address leads (R32, R33). -/
def State.route (s : State) (x : Nat) : Target :=
  if 0x800000000000 ≤ x ∧ x < 0x1000000000000 then .host (x - 0x800000000000)
  else if 0x010000000000 ≤ x ∧ x < 0x010800000000 then
    let d := (x - 0x010000000000) / 0x100000000
    let o := x % 0x100000000
    if s.inCascade = false then .unmapped
    else if d = s.ownId then (if sharedMapped o then .device o else .unmapped)
    else if 0x20000000 ≤ o ∧ o < 0x80000000 then .cascade d o
    else .unmapped
  else if s.deviceMapped x then .device x
  else .unmapped

/-- A system address with the cascade range of the device's own position resolved (R33). -/
def State.resolve (s : State) (x : Nat) : Nat :=
  match s.route x with
  | .device y => y
  | _ => x

/-- The system address of local address `v` of processor `p` (R30, R32, R33, R35); its private range ends at 16 MiB, beyond which
nothing is mapped. -/
def State.localToSystem (s : State) (p v : Nat) : Nat :=
  if v < 0x01000000 then privBase p + v
  else if v < 0x20000000 then 0
  else if v < 0x80000000 then v
  else s.resolve (s.fld (R.APWIN p) APWIN.BASE * 0x80000000 + (v - 0x80000000))

/-- The block a resolved address lies in, by its first address (R15, R30, R32): the order of accesses within it is that of their
issue (R23). The values and the status of the signals are one block, as are the staging memory, its window and its registers, and the Corer
and its capture buffer; the Canary and the gate-driver SPI of a face belong to the face. -/
def blockOf (x : Nat) : Nat :=
  if 0x800000000000 ≤ x then 0x800000000000
  else
    let hi := x / 0x100000000 * 0x100000000
    let o := x % 0x100000000
    if hi = 0x100000000 then hi + o / 0x1000000 * 0x1000000
    else if 0x24000000 ≤ o ∧ o < 0x24800000 then hi + 0x24000000
    else if 0x20000000 ≤ o ∧ o < 0x20400000 then hi + 0x20000000
    else if 0x40000000 ≤ o ∧ o < 0x400A0000 then hi + 0x40000000
    else if 0x50000000 ≤ o ∧ o < 0x50800000 then hi + o / 0x100000 * 0x100000
    else if 0x60140000 ≤ o ∧ o < 0x60144000 then hi + o / 0x1000 * 0x1000
    else if 0x80000000 ≤ o then hi + 0x60070000
    else if 0x60060000 ≤ o ∧ o < 0x60070000 then hi + 0x24000000
    else if 0x600C0000 ≤ o ∧ o < 0x600C0080 then hi + 0x50000000 + (o - 0x600C0000) / 0x10 * 0x100000
    else if 0x60190000 ≤ o ∧ o < 0x60198000 then hi + 0x50000000 + (o - 0x60190000) / 0x1000 * 0x100000
    else hi + o / 0x10000 * 0x10000

end Sys2Proof.Machine
end

