-- ==== Sys2Proof/Machine/DmaRegs.lean ====
section
/-! DEFINITION. The DMA channels: their registers (R257, R258, R262, R267), START, STOP and FLUSH (R260, R261, R263, R267), the
pacing machine (R263), requests (R261) and the end of a transfer (R266). Bursts and descriptors are in Dma.lean. -/

namespace Sys2Proof.Machine

open Sys2Proof

/-! ## Views -/

/-- DMA_STAT.STATE (0 OFF, 1 IDLE, 2 RUN, 3 STOPPING, 4 ERROR). -/
def State.dmaState (s : State) (c : Nat) : Nat := s.fld (R.DMA_STAT c) DMA_STAT.STATE
def State.dmaPace (s : State) (c : Nat) : Nat := s.fld (R.DMA_CFG c) DMA_CFG.PACE

/-- The channel is a scatter-gather channel (R257). -/
def isSg (c : Nat) : Bool := 56 ≤ c

/-- The ESIZE bytes of a channel (R259). -/
def State.dmaEsize (s : State) (c : Nat) : Nat := 2 ^ s.fld (R.DMA_CFG c) DMA_CFG.ESIZE

/-- The modes of the sides of a circular channel: 0 INCR, 1 FIXED, 2 RING (R259). -/
def State.dmaSmode (s : State) (c : Nat) : Nat := s.fld (R.DMA_CFG c) DMA_CFG.SMODE
def State.dmaDmode (s : State) (c : Nat) : Nat := s.fld (R.DMA_CFG c) DMA_CFG.DMODE

/-- The bases of the sides. -/
def State.dmaSrc (s : State) (c : Nat) : Nat :=
  (s.reg (R.DMA_SRC_LO c)).toNat + 0x100000000 * s.fld (R.DMA_SRC_HI c) DMA_SRC_HI.ADDR
def State.dmaDst (s : State) (c : Nat) : Nat :=
  (s.reg (R.DMA_DST_LO c)).toNat + 0x100000000 * s.fld (R.DMA_DST_HI c) DMA_DST_HI.ADDR

/-- The exponents of the rings. -/
def State.dmaSk (s : State) (c : Nat) : Nat := s.fld (R.DMA_RING c) DMA_RING.SK
def State.dmaDk (s : State) (c : Nat) : Nat := s.fld (R.DMA_RING c) DMA_RING.DK

/-- The channel has bursts that have not completed. -/
def DmaChannel.outstanding (d : DmaChannel) : Bool := d.reads != [] || d.held != [] || d.writes != [] || d.descRead.isSome

/-- The bytes of the shared buffer the channel has reserved (R269). -/
def DmaChannel.reserved (d : DmaChannel) : Nat :=
  ((d.reads ++ d.held ++ d.writes).map (fun (b : Burst) => b.len)).foldl (· + ·) 0

/-- The channel has work issued or pending. -/
def State.dmaBusy (s : State) (c : Nat) : Bool :=
  s.dmaState c == 2 || s.dmaState c == 3 || (s.dma c).active || (s.dma c).outstanding

/-- Put the channel into a state. -/
def State.dmaTo (s : State) (c st : Nat) : State := s.setF (R.DMA_STAT c) DMA_STAT.STATE st

/-! ## Completion (R266) -/

/-- A transfer completes: DONE sets and its producer fires. -/
def State.dmaDone (s : State) (c : Nat) : State :=
  let s := s.updDma c (fun d => { d with active := false })
  (s.raise (R.DMA_STAT c) DMA_STAT.DONE).fireGev (0x240 + c) s.now

/-- The list of a scatter-gather channel has ended: the descriptor with LAST has been read and its reads issued. -/
def DmaChannel.listEnded (d : DmaChannel) : Bool := d.descNext.isNone && d.left == 0

/-- The transfer under way has no more to request. -/
def State.dmaAllAsked (s : State) (c : Nat) : Bool :=
  let d := s.dma c
  if isSg c then (if s.dmaPace c = 1 then d.left == 0 && d.desc.isNone else d.listEnded) else d.left == 0

/-- What ends once every write response of the transfer has returned (R261, R265 to R267): a drain after STOP, a transfer, a
request. A scatter-gather channel is OFF after its last descriptor. -/
def State.dmaSettle (s : State) (c : Nat) : State :=
  let d := s.dma c
  let st := s.dmaState c
  if d.outstanding then s
  else if st = 3 then (s.dmaTo c 0).dmaDone c
  else if d.active && s.dmaAllAsked c && decide (s.dmaPace c ≤ 1) then
    if s.dmaPace c = 0 then (s.dmaTo c 0).dmaDone c
    else if isSg c && d.descNext.isNone then (s.dmaTo c 0).dmaDone c
    else (s.dmaTo c 1).dmaDone c
  else s

/-! ## Pacing (R262, R263) -/

/-- The pointers of channel `c`. -/
def State.dmaPut (s : State) (c : Nat) : Nat := (s.reg (R.DMA_PUT c)).toNat
def State.dmaTake (s : State) (c : Nat) : Nat := (s.reg (R.DMA_TAKE c)).toNat

/-- The fill level as the pacing machine reads it, modulo 2^32. -/
def State.dmaFill (s : State) (c : Nat) : Nat :=
  let n := (s.dma c).next
  if s.dmaPace c = 2 then (s.dmaPut c + 0x100000000 - n % 0x100000000) % 0x100000000
  else (n + 0x100000000 - s.dmaTake c) % 0x100000000

/-- Bytes to the next wrap of a RING side of exponent `k` at offset `o`. -/
def toWrap (o k : Nat) : Nat := 2 ^ k - o % 2 ^ k

/-- The largest burst the sides allow at offset `o` of a circular channel: up to 256 bytes, and none crosses a wrap (R259). -/
def State.dmaSpan (s : State) (c o : Nat) : Nat :=
  let b := 256
  let b := if s.dmaSmode c = 2 then Nat.min b (toWrap o (s.dmaSk c)) else b
  if s.dmaDmode c = 2 then Nat.min b (toWrap o (s.dmaDk c)) else b

/-- The bytes of the next read burst of channel `c`, rounded down to whole elements. -/
def State.dmaNextLen (s : State) (c : Nat) : Nat :=
  let d := s.dma c
  let e := s.dmaEsize c
  if isSg c then Nat.min 256 d.left
  else
    let room :=
      match s.dmaPace c with
      | 2 => s.dmaFill c
      | 3 => 2 ^ s.dmaDk c - s.dmaFill c
      | _ => d.left
    Nat.min (s.dmaSpan c d.next) room / e * e

/-- The watermarks. -/
def State.dmaHigh (s : State) (c : Nat) : Nat := (s.reg (R.DMA_WM_HIGH c)).toNat
def State.dmaLow (s : State) (c : Nat) : Nat := (s.reg (R.DMA_WM_LOW c)).toNat

/-- Leave RUN for IDLE. -/
def State.dmaIdle (s : State) (c : Nat) : State :=
  let k := R.DMA_STAT c
  let s := (s.dmaTo c 1).updDma c (fun d => { d with flushing := false })
  if s.dmaPace c = 2 then s.raiseIf (decide (s.dmaFill c ≤ s.dmaLow c)) k DMA_STAT.LOW_HIT
  else s.raiseIf (decide (s.dmaHigh c ≤ s.dmaFill c)) k DMA_STAT.HIGH_HIT

/-- The pacing machine evaluates (R263): from IDLE by the watermark or a FLUSH, from RUN when no burst can be asked for. -/
def State.dmaPacing (s : State) (c : Nat) : State :=
  let k := R.DMA_STAT c
  let p := s.dmaPace c
  if isSg c ∨ p < 2 then s
  else
    let s :=
      if s.dmaState c = 1 then
        if p = 2 ∧ s.dmaHigh c ≤ s.dmaFill c then (s.dmaTo c 2).raise k DMA_STAT.HIGH_HIT
        else if p = 3 ∧ s.dmaFill c ≤ s.dmaLow c then (s.dmaTo c 2).raise k DMA_STAT.LOW_HIT
        else if (s.dma c).flushing then s.dmaTo c 2
        else s
      else s
    if s.dmaState c = 2 ∧ s.dmaNextLen c = 0 then s.dmaIdle c else s

/-- The pacing machine after a burst has been issued (R263). -/
def State.dmaAfterBurst (s : State) (c : Nat) : State :=
  let p := s.dmaPace c
  if s.dmaState c = 2 ∧ p = 2 ∧ s.dmaFill c ≤ s.dmaLow c ∧ (s.dma c).flushing = false then s.dmaIdle c
  else if s.dmaState c = 2 ∧ p = 3 ∧ s.dmaHigh c ≤ s.dmaFill c then s.dmaIdle c
  else s

/-! ## START, STOP, FLUSH (R260, R261, R263, R267) -/

/-- A side breaks a condition of R260. -/
def badSide (mode base k e : Nat) : Bool :=
  mode == 3 || base % e != 0 || (mode == 2 && (k < 6 || 30 < k || base % 2 ^ k != 0))

/-- Another DMA channel or a Corer lane in use names the GEV of channel `c` (R192, R260). -/
def State.dmaGevTaken (s : State) (c : Nat) : Bool :=
  let g := s.fld (R.DMA_CFG c) DMA_CFG.GEV
  (List.range 64).any (fun x => x != c && s.dmaPace x == 1 && s.fld (R.DMA_CFG x) DMA_CFG.GEV == g &&
    s.dmaState x != 0 && s.dmaState x != 4) ||
  s.activeLanes.any (fun l => (List.range 4).any (fun j => s.slotIs l j 2 g))

/-- START finds a configuration error (R260). -/
def State.dmaCfgErr (s : State) (c : Nat) : Bool :=
  let e := s.dmaEsize c
  let p := s.dmaPace c
  let gev := p == 1 && s.dmaGevTaken c
  if isSg c then gev || decide (2 ≤ p)
  else
    let k := if p = 2 then s.dmaSk c else s.dmaDk c
    badSide (s.dmaSmode c) (s.dmaSrc c) (s.dmaSk c) e || badSide (s.dmaDmode c) (s.dmaDst c) (s.dmaDk c) e ||
    (s.reg (R.DMA_COUNT c)).toNat % e != 0 ||
    (p == 2 && s.dmaSmode c != 2) || (p == 3 && s.dmaDmode c != 2) ||
    (decide (2 ≤ p) && (decide (s.dmaHigh c ≤ s.dmaLow c) || decide (2 ^ k < s.dmaHigh c))) || gev

/-- DMA_DESC shows a descriptor address. -/
def State.showDesc (s : State) (c a : Nat) : State :=
  (s.setReg (R.DMA_DESC_LO c) (BitVec.ofNat 32 a)).setReg (R.DMA_DESC_HI c) (BitVec.ofNat 32 (a / 0x100000000 % 0x10000))

/-- An accepted START: offsets start at 0, and the channel begins by its PACE (R259, R261). -/
def State.dmaBegin (s : State) (c : Nat) : State :=
  let p := s.dmaPace c
  let s := s.setDma c {}
  let s := (s.setReg (R.DMA_DONE_BYTES c) 0).showDesc c 0
  let s :=
    if p = 2 then s.setReg (R.DMA_TAKE c) 0 else if p = 3 then s.setReg (R.DMA_PUT c) 0 else s
  let s := if isSg c then s.updDma c (fun d => { d with descNext := some (s.dmaSrc c) }) else s
  if p = 0 then
    let n := if isSg c then 0 else (s.reg (R.DMA_COUNT c)).toNat
    ((s.dmaTo c 2).updDma c (fun d => { d with active := true, left := n })).dmaSettle c
  else (s.dmaTo c 1).dmaPacing c

/-- The act of START. -/
def State.dmaStartCmd (s : State) (c : Nat) : State :=
  if s.dmaBusy c then s.raise (R.DMA_STAT c) DMA_STAT.WR_REJ
  else if s.dmaCfgErr c then (s.raise (R.DMA_STAT c) DMA_STAT.CFG_ERR).dmaTo c 0
  else s.dmaBegin c

/-- The act of STOP: no new read is issued, and the channel drains (R267). -/
def State.dmaStopCmd (s : State) (c : Nat) : State :=
  let st := s.dmaState c
  if st = 1 ∨ st = 2 then
    ((s.dmaTo c 3).updDma c (fun d => { d with
      left := 0, active := false, flushing := false, desc := none, descNext := none, reqs := 0 })).dmaSettle c
  else s

/-- The act of FLUSH: the source queue drains once. The machine reads FLUSH in IDLE only; one that comes in RUN is not kept (R263; log
entry 111). -/
def State.dmaFlushCmd (s : State) (c : Nat) : State :=
  if s.dmaPace c = 2 ∧ isSg c = false ∧ s.dmaState c = 1 then
    (s.updDma c (fun d => { d with flushing := true })).dmaPacing c
  else s

/-- The act of a write to DMA_CTL: START, then FLUSH, then STOP. -/
def State.dmaCtl (s : State) (c : Nat) (w : Word) : State :=
  let s := if DMA_CTL.START.get w = 1 then s.dmaStartCmd c else s
  let s := if DMA_CTL.FLUSH.get w = 1 then s.dmaFlushCmd c else s
  if DMA_CTL.STOP.get w = 1 then s.dmaStopCmd c else s

/-! ## Register writes (R257, R258, R262, R267) -/

/-- Who may write a channel's registers: Bank world not those of a Pit-owned channel, and only Supervisor level those of a
scatter-gather channel. -/
def dmaGuard (a : Access) (c addr : Nat) (s : State) (f : State → Wr) : Wr :=
  if a.world = .bank ∧ s.fld (R.DMA_CFG c) DMA_CFG.WORLD = 0 then (s.refuse19 a addr, false)
  else if isSg c then supOnly a s f
  else f s

/-- A write that is ignored while BUSY is 1 (R267). -/
def State.dmaUnlessBusy (s : State) (c : Nat) (f : State → State) : State :=
  if s.dmaBusy c then s.raise (R.DMA_STAT c) DMA_STAT.WR_REJ else f s

/-- A write to DMA_CFG sets WORLD to the world of the access (R258). -/
def writeDmaCfg (a : Access) (c : Nat) (w : Word) (s : State) : Wr :=
  let k := R.DMA_CFG c
  dmaGuard a c k s (fun s => wordWrite a k w s (fun w s =>
    okWr (s.dmaUnlessBusy c (fun s => (s.fieldWrite k w).setF k DMA_CFG.WORLD a.world.bit))))

/-- DMA_CFG_WRITE (R258). -/
def execDmaCfgWrite (dt : Nat) (a : Access) (c : Fin 64) (w : Word) (s : State) : Out :=
  run dt s (fun s => settle a (R.DMA_CFG c) (writeDmaCfg a c w s))

/-- A write to a base, the rings, a watermark or COUNT, at key `k`. -/
def writeDmaSetting (a : Access) (c k : Nat) (w : Word) (s : State) : Wr :=
  dmaGuard a c k s (fun s => wordWrite a k w s (fun w s => okWr (s.dmaUnlessBusy c (fun s => s.fieldWrite k w))))

/-- A write to DMA_CTL. -/
def writeDmaCtl (a : Access) (c : Nat) (w : Word) (s : State) : Wr :=
  let k := R.DMA_CTL c
  dmaGuard a c k s (fun s => wordWrite a k w s (fun w s => okWr (s.dmaCtl c w)))

/-- A write to DMA_STAT. -/
def writeDmaStat (a : Access) (c : Nat) (w : Word) (s : State) : Wr :=
  let k := R.DMA_STAT c
  dmaGuard a c k s (fun s => wordWrite a k w s (fun w s => okWr (s.fieldWrite k w)))

/-- DMA_START (R260): a write with START set. -/
def execDmaStart (dt : Nat) (a : Access) (c : Fin 64) (w : Word) (s : State) : Out :=
  run dt s (fun s => settle a (R.DMA_CTL c) (writeDmaCtl a c (DMA_CTL.START.put w 1) s))

/-- DMA_STOP (R267): a write with STOP set. -/
def execDmaStop (dt : Nat) (a : Access) (c : Fin 64) (w : Word) (s : State) : Out :=
  run dt s (fun s => settle a (R.DMA_CTL c) (writeDmaCtl a c (DMA_CTL.STOP.put w 1) s))

/-- DMA_FLUSH (R263): a write with FLUSH set. -/
def execDmaFlush (dt : Nat) (a : Access) (c : Fin 64) (w : Word) (s : State) : Out :=
  run dt s (fun s => settle a (R.DMA_CTL c) (writeDmaCtl a c (DMA_CTL.FLUSH.put w 1) s))

/-- The act of a write to PUT or TAKE (R262): the pointer the channel owns takes it only while BUSY is 0, and NEXT with it; the
other may overfill the ring, and the pacing machine evaluates again. -/
def State.dmaPointer (s : State) (c : Nat) (put : Bool) (w : Word) : State :=
  let k := if put then R.DMA_PUT c else R.DMA_TAKE c
  let p := s.dmaPace c
  let owned := (p == 2 && !put) || (p == 3 && put)
  if owned then
    s.dmaUnlessBusy c (fun s => ((s.fieldWrite k w).updDma c (fun d => { d with next := w.toNat })).dmaPacing c)
  else if p < 2 then s.fieldWrite k w
  else
    let s := s.fieldWrite k w
    let kx := if p = 2 then s.dmaSk c else s.dmaDk c
    let beyond := decide (2 ^ kx < (s.dmaPut c + 0x100000000 - s.dmaTake c) % 0x100000000)
    (s.raiseIf beyond (R.DMA_STAT c) DMA_STAT.QOVF).dmaPacing c

/-- A write to DMA_PUT or DMA_TAKE. -/
def writeDmaPointer (a : Access) (c : Nat) (put : Bool) (w : Word) (s : State) : Wr :=
  let k := if put then R.DMA_PUT c else R.DMA_TAKE c
  dmaGuard a c k s (fun s => wordWrite a k w s (fun w s => okWr (s.dmaPointer c put w)))

/-- DMA_POINTER_WRITE (R262). -/
def execDmaPointerWrite (dt : Nat) (a : Access) (c : Fin 64) (put : Bool) (w : Word) (s : State) : Out :=
  run dt s (fun s => settle a (if put then R.DMA_PUT c else R.DMA_TAKE c) (writeDmaPointer a c put w s))

/-! ## Requests (R261) -/

/-- DMA_REQUEST: a request that has arrived is served, or is lost while the previous request's work is unfinished (R193, R261). -/
def execDmaRequest (dt : Nat) (c : Fin 64) (s : State) : Out :=
  run dt s (fun s =>
    let d := s.dma c
    if d.reqs = 0 then s
    else
      let s := s.setDma c { d with reqs := d.reqs - 1 }
      if d.active then s.raise (R.DMA_STAT c) DMA_STAT.REQ_OVR
      else if s.dmaState c = 1 ∧ s.dmaPace c = 1 then
        let n := if isSg c then 0 else (s.reg (R.DMA_COUNT c)).toNat
        let s := (s.dmaTo c 2).updDma c (fun d => { d with active := true, left := n })
        if isSg c then s else s.dmaSettle c
      else s)

/-! ## Global status -/

/-- DMA_GSTAT: the channels with BUSY set and the bytes of the shared buffer reserved. -/
def State.dmaGstat (s : State) : Word :=
  let n := ((List.range 64).filter s.dmaBusy).length
  let b := ((List.range 64).map (fun c => (s.dma c).reserved)).foldl (· + ·) 0
  DMA_GSTAT.BUSY_CH.put (DMA_GSTAT.BUF.put 0 b) n

end Sys2Proof.Machine
end

