-- ==== Sys2Proof/Machine/Corer.lean ====
section
/-! DEFINITION. The lanes of the Corer: their registers, enabling and disabling, triggers and re-arming, the release of segments
(R302, R304, R307 to R313, R319, R320, R328). What a lane records is in LaneOps.lean, its drain in CorerPath.lean. -/

namespace Sys2Proof.Machine

open Sys2Proof

/-! ## Usage and quota (R319, R320) -/

/-- A lane's usage: its committed segments and its open one. -/
def State.laneUse (s : State) (l : Nat) : Nat :=
  let q := s.lane l
  q.committed.length + (match q.seg with | some g => if g.committed then 0 else 1 | none => 0)

/-- The first segment of the ring of lane `l`, and how many it has (R314). -/
def State.segBase (s : State) (l : Nat) : Nat := (s.laneReg l (R.LANE_SEG_BASE l)).toNat
def State.segCount (s : State) (l : Nat) : Nat := (s.laneReg l (R.LANE_SEG_COUNT l)).toNat

/-- LANE_QUOTA as it acts. -/
def State.laneQuota (s : State) (l : Nat) : Nat := Nat.max 1 (Nat.min (s.reg (R.LANE_QUOTA l)).toNat (s.segCount l))

/-- The committed segments that lane `l` has to release before it opens a new one (R319). -/
def State.overQuota (s : State) (l : Nat) : Nat := (s.lane l).committed.length + 1 - s.laneQuota l

/-- The lane may not open a segment before software releases some (R319). -/
def State.mustWait (s : State) (l : Nat) : Bool := s.flag (R.LANE_CFG l) LANE_CFG.RETAIN && decide (0 < s.overQuota l)

/-- QUOTA_OVER, LANE_USE and LANE_TAIL show the usage, and STORE_FULL reads 0 once the drain need not wait. -/
def State.showUse (s : State) (l : Nat) : State :=
  let u := s.laneUse l
  let s := if s.mustWait l then s else s.setF (R.LANE_STAT l) LANE_STAT.STORE_FULL 0
  let s := s.setReg (R.LANE_USE l) (BitVec.ofNat 32 u)
  let s := s.setReg (R.LANE_TAIL l) (BitVec.ofNat 32 ((s.lane l).committed.headD 0))
  s.setF (R.LANE_STAT l) LANE_STAT.QUOTA_OVER (decide (s.laneQuota l < u)).toNat

/-! ## Enabling (R309, R313, R328) -/

/-- Half-open ranges overlap. -/
def overlaps (a m b n : Nat) : Bool := a < b + n && b < a + m

/-- The GEVs the slots of lane `l` name. -/
def State.laneGevs (s : State) (l : Nat) : List Nat :=
  (List.range 4).filterMap (fun j =>
    if s.fld (R.LANE_COND l j) LANE_COND.TYPE = 2 then some (s.fld (R.LANE_COND l j) LANE_COND.SEL % 256) else none)

/-- A DMA channel in use takes GEV `g` as its requests. -/
def State.gevOnDma (s : State) (g : Nat) : Bool :=
  (List.range 64).any (fun c => s.dmaPace c == 1 && s.fld (R.DMA_CFG c) DMA_CFG.GEV == g &&
    s.dmaState c != 0 && s.dmaState c != 4)

/-- Enabling lane `l` finds a configuration error (R328). -/
def State.laneCfgErr (s : State) (l : Nat) : Bool :=
  let k := R.LANE_CFG l
  let base := s.fld (R.LANE_BUF l) LANE_BUF.BASE
  let len := s.fld (R.LANE_BUF l) LANE_BUF.LEN
  let segs := (s.reg (R.LANE_SEG_COUNT l)).toNat
  let others := s.activeLanes.filter (fun x => x != l)
  let src := s.fld k LANE_CFG.SRC
  let w := s.laneWidth l
  let gevs := s.laneGevs l
  len == 0 || decide (8192 < base + len) ||
  others.any (fun x => overlaps base len (s.fld (R.LANE_BUF x) LANE_BUF.BASE) (s.fld (R.LANE_BUF x) LANE_BUF.LEN)) ||
  decide (len * 1024 < s.lanePre l * s.recBytes l + 2048) ||
  (!s.flag k LANE_CFG.KIND && (decide (128 < src + w) || src % w != 0)) ||
  segs == 0 ||
  others.any (fun x => overlaps (s.reg (R.LANE_SEG_BASE l)).toNat segs (s.reg (R.LANE_SEG_BASE x)).toNat
    (s.reg (R.LANE_SEG_COUNT x)).toNat) ||
  !decide gevs.Nodup || gevs.any (fun g => s.gevOnDma g || others.any (fun x => (s.laneGevs x).contains g))

/-- The settings a lane keeps from its enabling until it is OFF. -/
def laneSettings (l : Nat) : List Nat :=
  [R.LANE_CFG l, R.LANE_BUF l, R.LANE_PRE l, R.LANE_POST l, R.LANE_SEG_BASE l, R.LANE_SEG_COUNT l]

/-- Lane `l` is enabled: after the checks it starts recording with an empty history (R309, R313, R328). -/
def State.enableLane (s : State) (l : Nat) : State :=
  if s.laneCfgErr l then s.raise (R.LANE_STAT l) LANE_STAT.CFG_ERR
  else
    let q := s.lane l
    let s := s.setF (R.LANE_CFG l) LANE_CFG.EN 1
    let s := s.setLane l { committed := q.committed, nextSeg := q.nextSeg, seg := none,
                           held := (laneSettings l).map (fun k => (k, s.reg k)) }
    let s := s.setReg (R.LANE_SEQ l) 0
    (s.setLaneState l (if s.flag (R.LANE_CFG l) LANE_CFG.MODE then lCont else if s.lanePre l = 0 then lArmed else lFill)).showUse l

/-- The drain of a lane with EN clear has nothing left to write: the lane enters OFF, and starts again if EN has been set
meanwhile. -/
def State.laneOff (s : State) (l : Nat) : State :=
  let q := s.lane l
  let s := (s.setLane l { q with closing := false, reopen := false, held := [], region := false }).setLaneState l lOff
  let s := if q.region then (s.updLane l (fun q => { q with committed := [], nextSeg := 0 })).showUse l else s
  if q.reopen then s.enableLane l else s

/-- The drain of the lane has issued everything: every core, and the header of its open segment as COMMITTED. -/
def Lane.drained (q : Lane) : Bool :=
  q.cores.all (fun c => c.hdrDone) && (match q.seg with | some g => g.committed | none => true)

/-- A lane whose EN has been cleared enters OFF once every write of its drain counts as done (R309, R312). -/
def State.closeLane (s : State) (l : Nat) : State :=
  let q := s.lane l
  if q.closing && q.drained && s.path.writes.all (fun w => w.lane != l) then s.laneOff l else s

/-- EN clears (R312): recording stops, the core in POST ends with TRUNC in its header, a queued trigger is discarded, and the
lane drains. -/
def State.disableLane (s : State) (l : Nat) : State :=
  let s := s.setF (R.LANE_CFG l) LANE_CFG.EN 0
  let s := s.updLane l (fun q => { q.endCores (s.lanePre l) true false with
    frame := [], pendRec := none, conds := [], triggers := [], queued := none, closing := true })
  let s := s.setF (R.LANE_STAT l) LANE_STAT.QUEUED 0
  s.closeLane l

/-- The drain stops at once, and cores that are not done are lost (R327). -/
def State.dropLane (s : State) (l : Nat) : State :=
  let s := s.setF (R.LANE_CFG l) LANE_CFG.EN 0
  let q := s.lane l
  let s := { s with path := { s.path with writes := s.path.writes.filter (fun w => w.lane != l) } }
  (((s.setLane l (if q.region then {} else { committed := q.committed, nextSeg := q.nextSeg })).setLaneState l lOff).setF
    (R.LANE_STAT l) LANE_STAT.QUEUED 0).showUse l

/-! ## Register writes -/

/-- A write to LANE_CFG: EN starts or stops the lane; the other fields are ignored while EN is 1 (R312, R328). -/
def State.laneConfigure (s : State) (l : Nat) (w : Word) : State :=
  let k := R.LANE_CFG l
  let en := LANE_CFG.EN.get w = 1
  if s.laneEn l then
    let same := LANE_CFG.EN.put w 1 = s.reg k
    let s := s.raiseIf (!decide same) (R.LANE_STAT l) LANE_STAT.WR_REJ
    if en then s else s.disableLane l
  else
    let s := s.fieldWrite k (LANE_CFG.EN.put w 0)
    if en then
      if s.laneState l = lOff then s.enableLane l else s.updLane l (fun q => { q with reopen := true })
    else s.updLane l (fun q => { q with reopen := false })

/-- A write to LANE_CFG. -/
def writeLaneCfg (a : Access) (l : Nat) (w : Word) (s : State) : Wr :=
  wordWrite a (R.LANE_CFG l) w s (fun w s => okWr (s.laneConfigure l w))

/-- LANE_ENABLE (R328): a write with EN set. -/
def execLaneEnable (dt : Nat) (a : Access) (l : Fin 32) (w : Word) (s : State) : Out :=
  run dt s (fun s => settle a (R.LANE_CFG l) (writeLaneCfg a l (LANE_CFG.EN.put w 1) s))

/-- LANE_DISABLE (R312): a write with EN clear. -/
def execLaneDisable (dt : Nat) (a : Access) (l : Fin 32) (w : Word) (s : State) : Out :=
  run dt s (fun s => settle a (R.LANE_CFG l) (writeLaneCfg a l (LANE_CFG.EN.put w 0) s))

/-- A write to another register of lane `l`, at key `k`, ignored while EN is 1. A new segment region starts at its base, once the
cores of the run before have drained. -/
def writeLaneSetting (a : Access) (l k : Nat) (w : Word) (s : State) : Wr :=
  wordWrite a k w s (fun w s =>
    okWr (if s.laneEn l then s.raise (R.LANE_STAT l) LANE_STAT.WR_REJ
    else
      let s := s.fieldWrite k w
      if k = R.LANE_SEG_BASE l ∨ k = R.LANE_SEG_COUNT l then
        if (s.lane l).closing then s.updLane l (fun q => { q with region := true })
        else (s.updLane l (fun q => { q with committed := [], nextSeg := 0 })).showUse l
      else s))

/-- A write to LANE_QUOTA takes effect at the segment boundaries that follow (R320). -/
def writeLaneQuota (a : Access) (l : Nat) (w : Word) (s : State) : Wr :=
  wordWrite a (R.LANE_QUOTA l) w s (fun w s => okWr ((s.fieldWrite (R.LANE_QUOTA l) w).showUse l))

/-- REL: the `n` oldest committed segments are released when RETAIN is 1 (R319). -/
def State.releaseSegs (s : State) (l n : Nat) : State :=
  if s.flag (R.LANE_CFG l) LANE_CFG.RETAIN then
    (s.updLane l (fun q => { q with committed := q.committed.drop n })).showUse l
  else s

/-- The act of a write to LANE_CTL (R307, R319). -/
def State.laneCtl (s : State) (l : Nat) (w : Word) : State :=
  let s := s.releaseSegs l (LANE_CTL.REL.get w)
  if LANE_CTL.SWTRIG.get w = 1 then s.condition l 4 s.now else s

/-- A write to LANE_CTL. -/
def writeLaneCtl (a : Access) (l : Nat) (w : Word) (s : State) : Wr :=
  wordWrite a (R.LANE_CTL l) w s (fun w s => okWr (s.laneCtl l w))

/-- SWTRIG (R307): a write with SWTRIG set. -/
def execSwtrig (dt : Nat) (a : Access) (l : Fin 32) (w : Word) (s : State) : Out :=
  run dt s (fun s => settle a (R.LANE_CTL l) (writeLaneCtl a l (LANE_CTL.SWTRIG.put w 1) s))

/-- REL (R319): a write of REL. -/
def execRel (dt : Nat) (a : Access) (l : Fin 32) (w : Word) (s : State) : Out :=
  run dt s (fun s => settle a (R.LANE_CTL l) (writeLaneCtl a l w s))

/-! ## Conditions and re-arming (R304, R308, R309) -/

/-- TRIGGER_CONDITION: the oldest condition met at slot `j` reaches the lane (R307, R308). -/
def execTriggerCondition (dt : Nat) (l : Fin 32) (j : Fin 4) (s : State) : Out :=
  run dt s (fun s =>
    let q := s.lane l
    match q.conds.find? (fun x => x.1 == j.val) with
    | some x => (s.setLane l { q with conds := q.conds.erase x }).condition l j x.2
    | none => s)

/-- SIGNAL_LANE_RECORD: the pending record of a signal lane is written 400 ns after the latest (R304). -/
def execSignalLaneRecord (dt : Nat) (l : Fin 32) (s : State) : Out :=
  runMem dt s (fun s =>
    let q := s.lane l
    match q.pendRec with
    | some (t, bytes) =>
      if s.signalRecordDue l then (s.setLane l { q with pendRec := none }).writeRecord l t bytes else s
    | none => s)

/-- REARM_END: LANE_REARM µs after the last record of POST a queued trigger starts its core, otherwise the lane arms or fills
(R309, R311). -/
def execRearmEnd (dt : Nat) (l : Fin 32) (s : State) : Out :=
  run dt s (fun s =>
    let q := s.lane l
    let us := Nat.max 1 (s.fld (R.LANE_REARM l) LANE_REARM.US)
    if s.laneEn l && s.laneState l == lRearm && Time.reached s.now (q.rearmFrom + BitVec.ofNat 64 (us * 200000)) then
      match q.queued with
      | some t =>
        -- what was met while this one was queued found the queue full
        ((s.setLane l { q with queued := none, triggers := q.triggers.map (fun x => { x with full := true }) }).setF (R.LANE_STAT l) LANE_STAT.QUEUED 0).startCore l t true
      | none => s.setLaneState l (if s.lanePre l ≤ q.history then lArmed else lFill)
    else s)

end Sys2Proof.Machine
end

