-- ==== Sys2Proof/Machine/PageCode.lean ====
section
/-! DEFINITION. The page code (R279 to R282): a shortened binary BCH code over GF(2^14) with strength t, its encoder, its
decoder, and ERASED codewords. The configuration image and the Corer store use it. -/

namespace Sys2Proof

/-! ## GF(2^14) -/

/-- Multiply by α modulo x^14 + x^10 + x^6 + x + 1. -/
def gfStep (a : Nat) : Nat := if 0x2000 ≤ a then (2 * a) ^^^ 0x4443 else 2 * a

/-- The product of two field elements. -/
def gfMul (a b : Nat) : Nat :=
  ((List.range 14).foldl (fun (acc, x) i => (if b.testBit i then acc ^^^ x else acc, gfStep x)) (0, a)).1

/-- A power of a field element; exponents below 2^14. -/
def gfPow (a n : Nat) : Nat :=
  ((List.range 14).foldl (fun (acc, x) i => (if n.testBit i then gfMul acc x else acc, gfMul x x)) (1, a)).1

/-- α^n. -/
def alphaPow (n : Nat) : Nat := gfPow 2 (n % 16383)

/-- The inverse of a field element that is not zero. -/
def gfInv (a : Nat) : Nat := gfPow a 16382

/-! ## Generator (R279) -/

/-- Multiply a polynomial over the field, lowest coefficient first, by x + c. -/
def polyTimesRoot (p : List Nat) (c : Nat) : List Nat :=
  ((0 :: p).zip (p ++ [0])).map (fun (hi, lo) => hi ^^^ gfMul c lo)

/-- The minimal polynomial of α^i as a binary polynomial. -/
def minPoly (i : Nat) : Nat :=
  let p := (List.range 14).foldl (fun p j => polyTimesRoot p (alphaPow (i * 2 ^ j))) [1]
  (p.zip (List.range 15)).foldl (fun acc (c, k) => if c = 0 then acc else acc + 2 ^ k) 0

/-- The product of two binary polynomials. -/
def clMul (a b bits : Nat) : Nat :=
  (List.range bits).foldl (fun acc i => if b.testBit i then acc ^^^ (a <<< i) else acc) 0

/-- The generator polynomial of strength `t`: the minimal polynomials of the odd powers, since α^(2i) has that of α^i. -/
def genPoly (t : Nat) : Nat := (List.range t).foldl (fun g k => clMul g (minPoly (2 * k + 1)) 15) 1

/-! ## Sizes (R280) -/

/-- Parity bytes of strength `t`. -/
def parityBytes (t : Nat) : Nat := (14 * t + 7) / 8

/-- Codeword bytes of strength `t`. -/
def codewordBytes (t : Nat) : Nat := 1024 + parityBytes t

/-! ## Encoder -/

/-- The bits of a list of bytes, each from bit 7 to bit 0. -/
def bitsOf (l : List Byte) : List Bool := l.flatMap (fun b => (List.range 8).map (fun i => b.getLsbD (7 - i)))

/-- The remainder of d(x) × x^n modulo the generator of degree `n`. -/
def bchRemainder (g n : Nat) (bits : List Bool) : Nat :=
  bits.foldl (fun r b =>
    let fb := b != r.testBit (n - 1)
    let r := (2 * r) % 2 ^ n
    if fb then r ^^^ (g % 2 ^ n) else r) 0

/-- The codeword of 1,024 data bytes (R279). -/
def pageEncode (t : Nat) (data : List Byte) : List Byte :=
  let n := 14 * t
  let m := parityBytes t
  let r := bchRemainder (genPoly t) n (bitsOf data) <<< (8 * m - n)
  data ++ (List.range m).map (fun i => BitVec.ofNat 8 (r >>> (8 * (m - 1 - i))))

/-! ## Decoder (R281) -/

/-- How a codeword is delivered (R281, R282, R326). -/
inductive PageOut where
  | good (data : List Byte)
  | corrected (data : List Byte) (n : Nat)
  | bad (data : List Byte)
  | erased
  deriving DecidableEq, Repr

/-- The syndrome r(α^j) of the bits of a codeword, highest coefficient first. -/
def syndromeOf (bits : List Bool) (j : Nat) : Nat :=
  let a := alphaPow j
  bits.foldl (fun acc b => gfMul acc a ^^^ (if b then 1 else 0)) 0

/-- The error-locator search over the syndromes (Berlekamp and Massey): the locator, the one before its last growth, its
degree, the steps since, and the discrepancy then. -/
structure Locator where
  c : List Nat
  b : List Nat
  l : Nat
  m : Nat
  d : Nat
  deriving DecidableEq, Repr

/-- The sum of two polynomials, the second scaled by `k` and shifted by `m`. -/
def polyAdd (p : List Nat) (k m : Nat) (q : List Nat) : List Nat :=
  let q := List.replicate m 0 ++ q.map (gfMul k)
  (List.range (Nat.max p.length q.length)).map (fun i => p.getD i 0 ^^^ q.getD i 0)

/-- One step of the search at syndrome `n`. -/
def Locator.step (syn : List Nat) (x : Locator) (n : Nat) : Locator :=
  let disc := (List.range (x.l + 1)).foldl (fun acc i => acc ^^^ gfMul (x.c.getD i 0) (syn.getD (n - i) 0)) 0
  if disc = 0 then { x with m := x.m + 1 }
  else
    let c := polyAdd x.c (gfMul disc (gfInv x.d)) x.m x.b
    if 2 * x.l ≤ n then { c := c, b := x.c, l := n + 1 - x.l, m := 1, d := disc }
    else { x with c := c, m := x.m + 1 }

/-- The value of a polynomial at `x`. -/
def polyAt (p : List Nat) (x : Nat) : Nat := p.foldr (fun c acc => gfMul acc x ^^^ c) 0

/-- The powers of x at which the locator finds an error, in a codeword of `n` bits. -/
def errorPowers (c : List Nat) (n : Nat) : List Nat :=
  (List.range n).filter (fun e => polyAt c (alphaPow (16383 - e)) == 0)

/-- The bytes of a list of bits, each from bit 7 to bit 0. -/
def bytesOfBits : Nat → List Bool → List Byte
  | 0, _ => []
  | n + 1, l =>
    (l.take 8).foldl (fun (acc : Byte) b => (acc <<< 1) ||| (if b then 1 else 0)) 0 :: bytesOfBits n (l.drop 8)

/-- The data and parity bits of a codeword that are zero. -/
def zeroBits (t : Nat) (cw : List Byte) : Nat := (((bitsOf cw).take (8192 + 14 * t)).filter (fun b => !b)).length

/-- Decode a codeword of strength `t`: up to t bit errors are corrected; without a consistent solution it is uncorrectable. -/
def pageDecode (t : Nat) (cw : List Byte) : PageOut :=
  if zeroBits t cw ≤ t then .erased
  else
    let n := 8192 + 14 * t
    let bits := (bitsOf cw).take n
    let syn := (List.range (2 * t)).map (fun j => syndromeOf bits (j + 1))
    if syn.all (fun x => x == 0) then .good (cw.take 1024)
    else
      let x := (List.range (2 * t)).foldl (Locator.step syn) { c := [1], b := [1], l := 0, m := 1, d := 1 }
      let es := errorPowers x.c n
      if x.l ≤ t ∧ es.length = x.l then
        let fixed := (bits.zip (List.range n)).map (fun (b, p) => if es.contains (n - 1 - p) then !b else b)
        .corrected (bytesOfBits 1024 fixed) x.l
      else .bad (cw.take 1024)

/-- The data delivered. -/
def PageOut.data : PageOut → List Byte
  | .good d => d
  | .corrected d _ => d
  | .bad d => d
  | .erased => List.replicate 1024 0xFF

end Sys2Proof
end

