-- ==== Sys2Proof/Machine/CorerPath.lean ====
section
/-! DEFINITION. The Corer's drain and its output paths (R314 to R326): headers, codewords, segments, the PCIe writes and the
Ethernet segment transport, and the read-back of the store. -/

namespace Sys2Proof.Machine

open Sys2Proof

/-! ## The store (R314) -/

/-- The store strength t (CORER_CTL.T). -/
def State.corerT (s : State) : Nat :=
  let v := s.fld R.CORER_CTL CORER_CTL.T
  if v = 0 ∨ 10 < v then 16 else 4 * v

/-- Codewords in a segment of strength `t`: what fits after the 64-byte header. -/
def cwPerSegment (t : Nat) : Nat := 65472 / codewordBytes t

/-- The store address of codeword `c` of segment `g`. -/
def codewordAddr (t g c : Nat) : Nat := g * 65536 + 64 + c * codewordBytes t

/-! ## Headers (R316, R317) -/

/-- Words 0 to 14 of a header and their CRC-32. -/
def headerBytes (ws : List Word) : List Byte :=
  let b := ws.flatMap bytesOf
  b ++ bytesOf (crc32 b)

/-- A bit at place `n` when it is set. -/
def bitAt (b : Bool) (n : Nat) : Nat := if b then 2 ^ n else 0

/-- The lowest bit of a mask (R308). -/
def lowestBit (m : Nat) : Nat := ((List.range 5).find? (fun i => m.testBit i)).getD 0

/-- The core header (R316), with the settings the core was recorded with; `open_` for the first writing, while the core counts as being
recorded. -/
def State.coreHeader (s : State) (l : Nat) (c : CoreRec) (open_ : Bool) : List Byte :=
  let kind := LANE_CFG.KIND.get c.cfg == 1
  let pre := c.preReq
  let w0 := 0x00020000 + s.ownId * 8192 + l * 256 + Nat.min 2 (LANE_CFG.WIDTH.get c.cfg) * 64 + bitAt kind 5 + bitAt c.cont 4 +
    bitAt c.queued 3 + bitAt (c.trunc && !open_) 2 + bitAt (decide (c.pre < pre)) 1 + bitAt open_ 0
  let mask := if c.cont then 0 else c.mask
  headerBytes ([BitVec.ofNat 32 w0, BitVec.ofNat 32 c.seq,
    BitVec.ofNat 32 (s.recBytes l * 0x1000000 + LANE_CFG.SRC.get c.cfg),
    BitVec.ofNat 32 ((if c.cont then 0 else lowestBit mask) * 256 + mask)] ++
    timeWords c.trigAt ++ timeWords c.firstAt ++
    [BitVec.ofNat 32 pre, BitVec.ofNat 32 c.pre,
     if c.cont then 0xFFFFFFFF else BitVec.ofNat 32 c.postReq,
     if open_ then 0xFFFFFFFF else BitVec.ofNat 32 c.post,
     BitVec.ofNat 32 c.missed, 0, 0])

/-- The segment header (R317). -/
def State.segHeader (s : State) (l : Nat) (g : Segment) : List Byte :=
  let (fc, cs) := g.first.getD (0xFFFF, 0)
  headerBytes ([BitVec.ofNat 32 (0x00010000 + s.ownId * 8192 + l * 256 + (if g.committed then 3 else 2)),
    BitVec.ofNat 32 g.seq,
    BitVec.ofNat 32 (s.corerT * 0x1000000 + g.cwUsed * 0x10000 + fc), BitVec.ofNat 32 cs,
    BitVec.ofNat 32 g.bad, BitVec.ofNat 32 (g.bad / 0x100000000)] ++ timeWords s.now ++ List.replicate 7 0)

/-! ## The Ethernet segment transport (R324) -/

/-- The bytes of a number, highest first. -/
def beBytes (n v : Nat) : List Byte := (List.range n).map (fun i => BitVec.ofNat 8 (v >>> (8 * (n - 1 - i))))

/-- The bytes of a number, lowest first. -/
def leBytes (n v : Nat) : List Byte := (List.range n).map (fun i => BitVec.ofNat 8 (v >>> (8 * i)))

/-- The one's-complement sum of the 16-bit words of a list of bytes. -/
def onesSum : List Byte → Nat → Nat
  | a :: b :: l, acc => onesSum l (acc + a.toNat * 256 + b.toNat)
  | [a], acc => onesSum [] (acc + a.toNat * 256)
  | [], acc => acc

/-- The Internet checksum of a list of bytes. -/
def inetChecksum (l : List Byte) : Nat :=
  let x := onesSum l 0
  let x := x % 65536 + x / 65536
  let x := x % 65536 + x / 65536
  65535 - x % 65536

/-- The 24-byte transport header (R324). -/
def transportHeader (typ len seq addr lane dev : Nat) : List Byte :=
  [1, BitVec.ofNat 8 typ] ++ leBytes 2 len ++ leBytes 4 seq ++ leBytes 6 addr ++ [BitVec.ofNat 8 lane, BitVec.ofNat 8 dev] ++
    List.replicate 8 0

/-- The Ethernet frame, without FCS, of a datagram sent by MAC `m` (R324, R409). What the manual leaves to the sender of an IPv4
header (type of service, identification, time to live) is free. -/
def State.corerFrame (s : State) (m : Nat) (v : Word) (udp : List Byte) : List Byte :=
  let sip := beBytes 4 (s.reg R.CORER_NET_SIP).toNat
  let dip := beBytes 4 (s.reg R.CORER_NET_DIP).toNat
  let ulen := udp.length + 8
  let ports := beBytes 2 (s.fld R.CORER_NET_PORTS CORER_NET_PORTS.SPORT) ++
    beBytes 2 (s.fld R.CORER_NET_PORTS CORER_NET_PORTS.DPORT) ++ beBytes 2 ulen
  let sum := inetChecksum (sip ++ dip ++ [0, 17] ++ beBytes 2 ulen ++ ports ++ udp)
  let seg := ports ++ beBytes 2 (if sum = 0 then 0xFFFF else sum) ++ udp
  let ip := fun (c : Nat) => [0x45, byteOf v 0] ++ beBytes 2 (20 + seg.length) ++ [byteOf v 1, byteOf v 2, 0x40, 0] ++
    [byteOf v 3, 17] ++ beBytes 2 c ++ sip ++ dip
  let tci := s.fld (R.MAC_CTAG m) MAC_CTAG.VAL
  beBytes 6 ((s.reg R.CORER_NET_DMAC_LO).toNat + 0x100000000 * ((s.reg R.CORER_NET_DMAC_HI).toNat % 65536)) ++
  beBytes 6 ((s.reg (R.MAC_ADDR_LO m)).toNat + 0x100000000 * ((s.reg (R.MAC_ADDR_HI m)).toNat % 65536)) ++
  (if tci = 0 then [] else [0x81, 0] ++ beBytes 2 tci) ++ [0x08, 0] ++ ip (inetChecksum (ip 0)) ++ seg

/-- IDLE of a shaped queue; 0 for a queue without a shaper (R409). -/
def State.idleOf (s : State) (m q : Nat) : Nat :=
  if q = 6 then s.fld (R.MAC_CBS6 m) MAC_CBS6.VAL else if q = 7 then s.fld (R.MAC_CBS7 m) MAC_CBS7.VAL else 0

/-- The credit of a queue after `t` tq: it rises at idleSlope while frames wait or while it is negative; without frames it does
not stay above zero (IEEE 802.1Qav). In units of 5·10^-6 bits one tq brings IDLE. -/
def creditAfter (waits : Bool) (idle t : Nat) (c : Int) : Int :=
  if idle = 0 then 0
  else
    let x := c + (idle * t : Nat)
    if waits then x else if x < 0 then x else 0

/-- The credits of MAC `m` brought up to date, by the queues in which frames have waited since they last were. -/
def State.creditsNow (s : State) (m : Nat) : State :=
  let q := s.mac m
  let t := Time.since q.creditAt s.now
  s.setMac m { q with
    credit6 := creditAfter q.waits6 (s.idleOf m 6) t q.credit6
    credit7 := creditAfter q.waits7 (s.idleOf m 7) t q.credit7
    creditAt := s.now }

/-- A datagram joins the Corer's queue of MAC `m`; frames then wait in queue CQ (R409). -/
def State.sendDatagram (s : State) (m typ seq addr lane : Nat) (payload : List Byte) : State :=
  let (v, s) := s.freshWord
  let fr := s.corerFrame m v (transportHeader typ payload.length seq addr lane s.ownId ++ payload)
  let cq := s.fld (R.MAC_CFG m) MAC_CFG.CQ
  (s.creditsNow m).updMac m (fun q => { q with
    corerq := q.corerq ++ [fr], waits6 := q.waits6 || cq == 6, waits7 := q.waits7 || cq == 7 })

/-! ## The path (R321, R322, R325) -/

/-- The port segment `g` goes through: 0 or 1 a MAC, 2 PCIe. -/
def State.corerPort (s : State) (g : Nat) : Nat :=
  match s.fld R.CORER_CTL CORER_CTL.PATH with
  | 0 => 2
  | 1 => 0
  | 2 => 1
  | _ => g % 2

/-- The PCIe port can make outbound accesses (R414); not in D3hot (log entry 82). -/
def State.pcieOut (s : State) : Bool := s.flag R.PCIE_STAT PCIE_STAT.LINK && s.io.busMaster && !s.io.d3hot

/-- Issue an outbound non-posted request of `len` bytes at a host address (R414). -/
def State.pcieRequest (s : State) (host len : Nat) (for_ : OutboundFor) : Nat × State :=
  let t := s.io.pcieTag
  (t, { s with io := { s.io with
    pcieTag := (t + 1) % 65536
    outbound := s.io.outbound ++ [{ tag := t, host := host % 2 ^ 64, len := len, since := s.now, for_ := for_ }] } })

/-- The host address of store address `a` (R321). -/
def State.storeHost (s : State) (a : Nat) : Nat :=
  ((s.reg R.CORER_HBASE_LO).toNat + 0x100000000 * (s.reg R.CORER_HBASE_HI).toNat + a) % 2 ^ 64

/-- WIN as it acts (R325). -/
def State.corerWin (s : State) : Nat :=
  let v := s.fld R.CORER_NET_CFG CORER_NET_CFG.WIN
  if v = 0 then 1 else Nat.min 1024 v

/-- RTO in tq, and RETRY, as they act. -/
def State.corerRto (s : State) : Nat := Nat.max 1 (s.fld R.CORER_NET_CFG CORER_NET_CFG.RTO) * 200000
def State.corerRetry (s : State) : Nat := Nat.max 1 (s.fld R.CORER_NET_CFG CORER_NET_CFG.RETRY)

/-- The writes of MAC `m` that no ACK covers, oldest first. -/
def State.unacked (s : State) (m : Nat) : List StoreWrite := s.path.writes.filter (fun w => w.port == m && !w.confirmed)

/-- The path takes a write through port `p` now. -/
def State.pathReady (s : State) (p : Nat) : Bool :=
  s.flag R.CORER_CTL CORER_CTL.EN &&
  (if p = 2 then s.pcieOut && decide (s.io.outbound.length < 32)
   else !s.path.stopped && decide ((s.unacked p).length < s.corerWin))

/-- Send the DATA datagram of a write (R324). -/
def State.sendData (s : State) (w : StoreWrite) : State := s.sendDatagram w.port 1 w.seq w.addr w.lane w.bytes

/-- Issue a write to the store (R315, R321, R325). -/
def State.storeWrite (s : State) (l : Nat) (core : Option Nat) (addr : Nat) (bytes : List Byte) : State :=
  let g := addr / 65536
  let p := s.corerPort g
  let w : StoreWrite := { lane := l, core := core, addr := addr, bytes := bytes, port := p }
  let s := { s with path := { s.path with lastLane := l } }
  if p = 2 then
    -- the data leave as memory writes, and the read that confirms them after them
    let (t, s) := s.pcieRequest (s.storeHost (g * 65536)) 4 (.corerWrite l)
    let s := { s with io := { s.io with
      posted := s.io.posted ++ [({ host := s.storeHost addr, bytes := bytes, tag := t } : Posted)] } }
    { s with path := { s.path with writes := s.path.writes ++ [{ w with tag := t }] } }
  else
    let n := AMap.get 0 s.path.nextSeq p
    let w := { w with seq := n }
    let s := if s.unacked p = [] then
        { s with path := { s.path with timer := AMap.set none s.path.timer p (some s.now) } }
      else s
    let s := { s with path := { s.path with
      writes := s.path.writes ++ [w], nextSeq := AMap.set 0 s.path.nextSeq p ((n + 1) % 0x100000000) } }
    s.sendData w

/-! ## The drain (R315, R317 to R319) -/

/-- What the drain of a lane writes next. -/
inductive DrainAct where
  /-- Write the header of the lane's segment; the core it follows. -/
  | header (core : Option CoreRec)
  /-- Write the segment's header as COMMITTED. -/
  | commit
  /-- Rewrite the first codeword of a core that has ended. -/
  | rewrite (c : CoreRec)
  /-- Open a new segment. -/
  | openSeg
  /-- Write the next codeword of a core. -/
  | codeword (c : CoreRec)
  deriving DecidableEq, Repr

/-- Codewords of an ended core. -/
def CoreRec.codewords (c : CoreRec) (rb : Nat) : Nat := (64 + rb * (c.pre + c.post) + 1023) / 1024

/-- The next codeword of core `c` has its data. -/
def State.codewordReady (s : State) (l : Nat) (c : CoreRec) : Bool :=
  let rb := s.recBytes l
  c.trig.isSome &&
  (if c.ended then decide (c.drained < c.codewords rb)
   else decide (1024 * (c.drained + 1) ≤ 64 + rb * ((s.lane l).nextRec - c.first)))

/-- The segment is full. -/
def State.segFull (s : State) (g : Segment) : Bool := decide (cwPerSegment s.corerT ≤ g.cwUsed)

/-- The next write of the drain of lane `l`. -/
def State.drainNext (s : State) (l : Nat) : Option DrainAct :=
  let q := s.lane l
  let rb := s.recBytes l
  let full := match q.seg with | some g => s.segFull g && !g.committed | none => false
  if full then some .commit
  else
    match q.cores.find? (fun c => !c.hdrDone) with
    | some c =>
      if c.ended && c.trig.isSome && decide (c.codewords rb ≤ c.drained) then
        if c.rewritten then some (.header (some c)) else some (.rewrite c)
      else if s.codewordReady l c then
        match q.seg with
        | some g => if g.committed then some .openSeg else some (.codeword c)
        | none => some .openSeg
      else none
    | none => if q.closing && !q.drained then some .commit else none

/-- The port the next write of lane `l` goes through. -/
def State.drainPort (s : State) (l : Nat) (act : DrainAct) : Nat :=
  let q := s.lane l
  match act with
  | .openSeg => s.corerPort (s.segBase l + q.nextSeg)
  | .rewrite c => s.corerPort (c.firstCw.getD 0 / 65536)
  | _ => s.corerPort ((q.seg.map (fun g => g.idx)).getD 0)

/-- The drain of lane `l` waits for a release (R319). -/
def State.drainWaits (s : State) (l : Nat) : Bool := s.drainNext l == some .openSeg && s.mustWait l

/-- Every write of lane `l` that went through another port is confirmed, so that one through port `p` cannot pass it (R315). -/
def State.laneInOrder (s : State) (l p : Nat) : Bool :=
  s.path.writes.all (fun w => w.lane != l || w.port == p || w.confirmed)

/-- Lane `l` has a write that the path takes. -/
def State.drainReady (s : State) (l : Nat) : Bool :=
  match s.drainNext l with
  | some act => !s.drainWaits l && s.pathReady (s.drainPort l act) && s.laneInOrder l (s.drainPort l act)
  | none => false

/-- The lane that the path serves next: round-robin from the one served last (R322). -/
def State.drainTurn (s : State) : Option Nat :=
  ((List.range 32).map (fun i => (s.path.lastLane + 1 + i) % 32)).find? s.drainReady

/-- Change a core of a lane. -/
def State.updCoreRec (s : State) (l : Nat) (c c' : CoreRec) : State :=
  s.updLane l (fun q => { q with cores := q.cores.map (fun x => if x = c then c' else x) })

/-- Rewrite the header of the lane's segment. -/
def State.writeSegHeader (s : State) (l : Nat) (core : Option Nat) : State :=
  match (s.lane l).seg with
  | some g => s.storeWrite l core (g.idx * 65536) (s.segHeader l g)
  | none => s

/-- The segment of lane `l` is committed. -/
def State.commitSeg (s : State) (l : Nat) : State :=
  let s := s.updLane l (fun q =>
    match q.seg with
    | some g => { q with seg := some { g with committed := true }, committed := q.committed ++ [g.idx] }
    | none => q)
  (s.writeSegHeader l none).showUse l

/-- A segment boundary (R319): the oldest segments over the quota are released. With RETAIN the drain has waited until there
are none (State.drainWaits). -/
def State.openSegment (s : State) (l : Nat) : State :=
  let q := s.lane l
  let count := Nat.max 1 (s.segCount l)
  let g : Segment := { idx := s.segBase l + q.nextSeg % count, seq := q.segSeq }
  let s := s.setLane l { q with
    committed := q.committed.drop (s.overQuota l), seg := some g, segSeq := q.segSeq + 1, nextSeg := (q.nextSeg + 1) % count }
  (s.writeSegHeader l none).showUse l

/-- The capture codeword that holds record `r` of lane `l`, once it has been written (R305). -/
def State.captureCw (s : State) (l r : Nat) : Option Nat :=
  let per := 1024 / s.recBytes l
  if (r / per + 1) * per ≤ (s.lane l).nextRec then
    some (s.laneBase l + (r / per) % Nat.max 1 (s.laneLen l))
  else none

/-- The records of codeword `d` of core `c`. -/
def State.codewordRecs (s : State) (l : Nat) (c : CoreRec) (d : Nat) : List LaneRecord :=
  let rb := s.recBytes l
  let lo := c.first + (1024 * d - 64) / rb
  let n := if d = 0 then 960 / rb else 1024 / rb
  let hi := if c.ended then Nat.min (lo + n) (c.first + c.pre + c.post) else lo + n
  (s.lane l).records.filter (fun x => lo ≤ x.idx && x.idx < hi)

/-- The codeword of the capture buffer holds more errors than the code corrects, so that what it delivers is not known. -/
def State.captureLost (s : State) (l : Nat) (x : LaneRecord) : Bool :=
  match s.captureCw l x.idx with
  | some cw => pageBeyond (AMap.get 0 s.pageErr cw)
  | none => false

/-- The bytes of a record as they are read: those of a codeword with more errors than the code corrects are free (R318, R281). -/
def State.readRecord (s : State) (x : LaneRecord) (lost : Bool) : List Byte × State :=
  if lost then
    let (bs, s) := (List.range ((x.bytes.length + 3) / 4)).foldl (fun (y : List Byte × State) _ =>
      let (v, t) := y.2.freshWord
      (y.1 ++ bytesOf v, t)) ([], s)
    (bs.take x.bytes.length, s)
  else (x.bytes, s)

/-- Read the capture codewords that hold some records: whether one of them is uncorrectable, and the bytes as read (R318). -/
def State.readCapture (s : State) (l : Nat) (rs : List LaneRecord) : Bool × List Byte × State :=
  let marked := rs.map (fun x => (x, s.captureLost l x))
  let cws := (rs.filterMap (fun x => s.captureCw l x.idx)).eraseDups
  let (bad, s) := cws.foldl (fun (bad, s) cw => match s.deliverPage cw with | (ok, s) => (bad || !ok, s)) (false, s)
  let (bytes, s) := marked.foldl (fun (y : List Byte × State) x =>
    let (b, t) := y.2.readRecord x.1 x.2
    (y.1 ++ b, t)) ([], s)
  (bad, bytes, s)

/-- A list of bytes padded with zeros to `n`. -/
def padTo (n : Nat) (l : List Byte) : List Byte := l ++ List.replicate (n - l.length) 0

/-- The drain writes the next codeword of core `c` (R315, R318). -/
def State.drainCodeword (s : State) (l : Nat) (c : CoreRec) : State :=
  match (s.lane l).seg with
  | none => s
  | some g =>
    let t := s.corerT
    let rs := s.codewordRecs l c c.drained
    let (bad, recs, s) := s.readCapture l rs
    let first := c.drained == 0
    let data := padTo 1024 (if first then s.coreHeader l c true ++ recs else recs)
    let addr := codewordAddr t g.idx g.cwUsed
    let g' : Segment := { g with
      cwUsed := g.cwUsed + 1
      first := if first && g.first.isNone then some (g.cwUsed, c.seq) else g.first
      bad := if bad then g.bad ||| 2 ^ g.cwUsed else g.bad }
    let c' : CoreRec := { c with
      drained := c.drained + 1
      firstCw := if first then some addr else c.firstCw
      firstSeg := if first then g.seq else c.firstSeg
      firstData := if first then recs else c.firstData }
    let s := (s.updCoreRec l c c').updLane l (fun q => { q with seg := some g' })
    s.storeWrite l (some c.seq) addr (pageEncode t data)

/-- The drain rewrites the first codeword of core `c`, unless its segment has been released since (R315, R319). -/
def State.drainRewrite (s : State) (l : Nat) (c : CoreRec) : State :=
  let q := s.lane l
  let s := s.updCoreRec l c { c with rewritten := true }
  match c.firstCw with
  | some addr =>
    let g := addr / 65536
    let kept := q.committed.contains g || (match q.seg with | some x => x.idx == g | none => false)
    -- the lane has not opened the same segment anew since
    let same := decide (q.segSeq ≤ c.firstSeg + Nat.max 1 (s.segCount l))
    if kept && same then s.storeWrite l (some c.seq) addr (pageEncode s.corerT (padTo 1024 (s.coreHeader l c false ++ c.firstData)))
    else s
  | none => s

/-- A core is complete when all its writes have been issued and count as done (R323). -/
def State.coresDone (s : State) (l : Nat) : State :=
  let done := (s.lane l).cores.filter (fun c =>
    c.hdrDone && s.path.writes.all (fun w => w.lane != l || w.core != some c.seq))
  forAll done s (fun s c =>
    let s := s.updLane l (fun q => { q with cores := q.cores.erase c })
    let s := s.setReg (R.LANE_SEQ l) (s.reg (R.LANE_SEQ l) + 1)
    (s.raise (R.LANE_STAT l) LANE_STAT.CORE_DONE).fireGev (0x220 + l) s.now)

/-- The segment that lane `l` filled last is kept: it is open, or committed and not released since (R319). -/
def Lane.segKept (q : Lane) : Bool :=
  match q.seg with
  | some g => !g.committed || q.committed.contains g.idx
  | none => false

/-- The header that follows core `c` is written, unless its segment has been released; all writes of the core have then been issued. -/
def State.drainHeader (s : State) (l : Nat) (c : CoreRec) : State :=
  let s := s.updCoreRec l c { c with hdrDone := true }
  if (s.lane l).segKept then s.writeSegHeader l (some c.seq) else (s.coresDone l).closeLane l

/-- The drain of lane `l` issues a write (R315, R317). -/
def State.drainAct (s : State) (l : Nat) (act : DrainAct) : State :=
  match act with
  | .commit => s.commitSeg l
  | .openSeg => s.openSegment l
  | .codeword c => s.drainCodeword l c
  | .rewrite c => s.drainRewrite l c
  | .header none => s.writeSegHeader l none
  | .header (some c) => s.drainHeader l c

/-- DRAIN_WRITE: the path takes the next codeword or header of lane `l`, whose turn it is (R315, R322); a lane at its quota
with RETAIN waits, and STORE_FULL reads 1 (R319). -/
def execDrainWrite (dt : Nat) (l : Fin 32) (s : State) : Out :=
  run dt s (fun s =>
    if s.drainWaits l then s.setF (R.LANE_STAT l) LANE_STAT.STORE_FULL 1
    else if s.drainTurn = some l.val then
      match s.drainNext l with
      | some act => s.drainAct l act
      | none => s
    else s)

/-! ## Writes that count as done (R321, R323, R325) -/

/-- PATH_WRITE_DONE: the oldest write of lane `l` counts as done once its read-back has completed or an ACK covers it (R321). -/
def execPathWriteDone (dt : Nat) (l : Fin 32) (s : State) : Out :=
  run dt s (fun s =>
    match s.path.writes.find? (fun w => w.lane == l.val) with
    | some w =>
      if w.confirmed then
        ({ s with path := { s.path with writes := s.path.writes.erase w } }.coresDone l).closeLane l
      else s
    | none => s)

/-- The acknowledged sequence of MAC `m` advances to `n` (R325). -/
def State.corerAcked (s : State) (m n : Nat) : State :=
  let a := AMap.get 0 s.path.acked m
  let top := AMap.get 0 s.path.nextSeq m
  let d := (n + 0x100000000 - a) % 0x100000000
  if 0 < d ∧ d ≤ (top + 0x100000000 - a) % 0x100000000 then
    let s := { s with path := { s.path with
      writes := s.path.writes.map (fun (w : StoreWrite) =>
        if w.port == m && decide ((w.seq + 0x100000000 - a) % 0x100000000 < d) then { w with confirmed := true } else w)
      acked := AMap.set 0 s.path.acked m n
      retries := AMap.set 0 s.path.retries m 0 } }
    { s with path := { s.path with
      timer := AMap.set none s.path.timer m (if s.unacked m = [] then none else some s.now) } }
  else s

/-- CORER_ACK: an ACK datagram arrives (R325). -/
def execCorerAck (dt : Nat) (m : Fin 2) (seq : Word) (s : State) : Out := run dt s (fun s => s.corerAcked m seq.toNat)

/-- Resend every unacknowledged datagram of MAC `m` from the oldest (R325). -/
def State.resend (s : State) (m : Nat) : State := forAll (s.unacked m) s State.sendData

/-- CORER_RTO: the acknowledged sequence has not advanced for RTO µs (R325). -/
def execCorerRto (dt : Nat) (m : Fin 2) (s : State) : Out :=
  run dt s (fun s =>
    match AMap.get none s.path.timer m with
    | some t =>
      if !s.path.stopped && Time.reached s.now (t + BitVec.ofNat 64 s.corerRto) then
        let n := AMap.get 0 s.path.retries m + 1
        let s := { s with path := { s.path with
          retries := AMap.set 0 s.path.retries m n, timer := AMap.set none s.path.timer m (some s.now) } }
        if s.corerRetry ≤ n then
          let a := match s.unacked m with | w :: _ => w.addr | [] => 0
          let s := { s with path := { s.path with stopped := true } }
          (s.raise R.CORER_STAT CORER_STAT.PATH_ERR).report 0x160 0x0071 clsUncorr (BitVec.ofNat 32 a)
        else s.resend m
      else s
    | none => s)

/-- The Ethernet path restarts (R325). -/
def State.restartPath (s : State) : State :=
  if s.path.stopped then
    let s := { s with path := { s.path with
      stopped := false, retries := []
      timer := [0, 1].foldl (fun t m => AMap.set none t m (if s.unacked m = [] then none else some s.now)) s.path.timer } }
    (s.resend 0).resend 1
  else s

/-- A write to CORER_STAT: clearing PATH_ERR restarts the path (R325). -/
def writeCorerStat (a : Access) (w : Word) (s : State) : Wr :=
  wordWrite a R.CORER_STAT w s (fun w s =>
    let s := s.fieldWrite R.CORER_STAT w
    okWr (if s.flag R.CORER_STAT CORER_STAT.PATH_ERR then s else s.restartPath))

/-- PATH_ERR_CLEAR (R325): a write with PATH_ERR set. -/
def execPathErrClear (dt : Nat) (a : Access) (w : Word) (s : State) : Out :=
  run dt s (fun s => settle a R.CORER_STAT (writeCorerStat a (CORER_STAT.PATH_ERR.put w 1) s))

/-- EN of the path sets: the DATA sequences start at 0; what has not been acknowledged is sent again under new numbers, unless the path
has stopped, which lasts until PATH_ERR is cleared (R325). -/
def State.startPath (s : State) : State :=
  let old := s.path.writes
  let renum := fun (m : Nat) => (old.filter (fun w => w.port == m && !w.confirmed)).zip (List.range old.length)
  let num := fun (w : StoreWrite) =>
    if w.port = 2 ∨ w.confirmed then w
    else match (renum w.port).find? (fun x => x.1 == w) with | some x => { w with seq := x.2 } | none => w
  let s := { s with path := { s.path with
    writes := old.map num
    nextSeq := [0, 1].foldl (fun t m => AMap.set 0 t m (renum m).length) []
    acked := [], retries := []
    timer := [0, 1].foldl (fun t m => AMap.set none t m (if renum m = [] then none else some s.now)) [] } }
  if s.path.stopped then s else (s.resend 0).resend 1

/-- The act of a write to CORER_CTL: PATH and T are kept while a lane is enabled. -/
def State.corerCtl (s : State) (w : Word) : State :=
  let k := R.CORER_CTL
  let was := s.flag k CORER_CTL.EN
  let same := CORER_CTL.PATH.get w = s.fld k CORER_CTL.PATH ∧ CORER_CTL.T.get w = s.fld k CORER_CTL.T
  let s :=
    if s.activeLanes ≠ [] ∧ ¬ same then
      (s.setF k CORER_CTL.EN (CORER_CTL.EN.get w)).raise R.CORER_STAT CORER_STAT.WR_REJ
    else s.fieldWrite k w
  if !was && s.flag k CORER_CTL.EN then s.startPath else s

/-- A write to CORER_CTL. -/
def writeCorerCtl (a : Access) (w : Word) (s : State) : Wr :=
  wordWrite a R.CORER_CTL w s (fun w s => okWr (s.corerCtl w))

/-! ## Reading the store back (R326) -/

/-- The read-back ends with a RESULT and a number of corrected errors. -/
def State.readBackDone (s : State) (result n : Nat) : State :=
  let k := R.CORER_RD_CTL
  let s := { s with path := { s.path with reading := none, rdWait := false, rdParts := [] } }
  ((s.setF k CORER_RD_CTL.BUSY 0).setF k CORER_RD_CTL.RESULT result).setF k CORER_RD_CTL.NERR n

/-- The address of the read-back. -/
def State.readBackAddr (s : State) : Nat :=
  (s.reg R.CORER_RD_LO).toNat + 0x100000000 * ((s.reg R.CORER_RD_HI).toNat % 65536)

/-- Bytes of the read-back that have been requested over PCIe. -/
def State.readBackAsked (s : State) : Nat := (s.path.rdParts.map (fun (p : ReadPart) => p.len)).sum

/-- The next request of a read-back over PCIe leaves, if the port has room: of at most 512 bytes, and not across a 4-KiB boundary (R412;
the boundary is the standard's). -/
def State.issueReadPart (s : State) : State :=
  if s.path.rdWait ∧ s.io.outbound.length < 32 then
    let n := s.readBackAsked
    let host := s.storeHost (s.readBackAddr + n)
    let left := codewordBytes s.corerT - n
    let len := Nat.min left (Nat.min 512 (4096 - host % 4096))
    let (tag, s) := s.pcieRequest host len .corerRead
    { s with path := { s.path with rdParts := s.path.rdParts ++ [{ tag := tag, len := len }], rdWait := decide (len < left) } }
  else s

/-- The requests of a read-back over PCIe leave as far as the port has room; there are at most four. -/
def State.issueReadBack (s : State) : State := s.issueReadPart.issueReadPart.issueReadPart.issueReadPart

/-- The act of GO. -/
def State.readBack (s : State) : State :=
  let k := R.CORER_RD_CTL
  if s.flag k CORER_RD_CTL.BUSY then s
  else
    let a := s.readBackAddr
    let t := s.corerT
    let b := codewordBytes t
    let o := a % 65536
    if o < 64 ∨ (o - 64) % b ≠ 0 ∨ cwPerSegment t ≤ (o - 64) / b then s.readBackDone 5 0
    else
      let p := s.corerPort (a / 65536)
      if s.flag R.CORER_CTL CORER_CTL.EN = false ∨ (p = 2 ∧ s.pcieOut = false) then s.readBackDone 4 0
      else
        let s := s.setF k CORER_RD_CTL.BUSY 1
        if p = 2 then ({ s with path := { s.path with reading := some (s.now, p, 0), rdWait := true } }).issueReadBack
        else
          let tag := s.path.rdTag
          let s := { s with path := { s.path with reading := some (s.now, p, tag), rdTag := (tag + 1) % 0x100000000 } }
          s.sendDatagram p 3 tag a 0 []

/-- A write to CORER_RD_CTL. -/
def writeCorerRd (a : Access) (w : Word) (s : State) : Wr :=
  wordWrite a R.CORER_RD_CTL w s (fun w s => okWr (if CORER_RD_CTL.GO.get w = 1 then s.readBack else s))

/-- GO (R326): a write with GO set. -/
def execGo (dt : Nat) (a : Access) (w : Word) (s : State) : Out :=
  run dt s (fun s => settle a R.CORER_RD_CTL (writeCorerRd a (CORER_RD_CTL.GO.put w 1) s))

/-- The codeword of a read-back has arrived: it is decoded, and the window shows its data (R326). -/
def State.readBackData (s : State) (cw : List Byte) : State :=
  let o := pageDecode s.corerT cw
  let s := { s with path := { s.path with window := o.data } }
  match o with
  | .good _ => s.readBackDone 0 0
  | .corrected _ n => s.readBackDone 1 n
  | .bad _ => s.readBackDone 2 0
  | .erased => s.readBackDone 3 0

/-- A reply to the running read-back; none counts after RTO µs (R326). -/
def State.readBackReply (s : State) (r : PathReply) : State :=
  match s.path.reading with
  | none => s
  | some (t, p, tag) =>
    let mine := fun (x : Outbound) => s.path.rdParts.any (fun (q : ReadPart) => q.tag == x.tag)
    let s := { s with io := { s.io with outbound := s.io.outbound.filter (fun x => !mine x) } }
    let late := Time.reached s.now (t + BitVec.ofNat 64 s.corerRto)
    match r with
    | .data cw => if late ∨ cw.length ≠ codewordBytes s.corerT then s.readBackDone 4 0 else s.readBackData cw
    | .failed => s.readBackDone 4 0

/-- A request of the running read-back over PCIe has been answered: with the last of them the codeword is there; one that fails, or that
is answered after RTO µs, ends the read-back (R326, R412). -/
def State.readPartDone (s : State) (tag : Nat) (r : PathReply) : State :=
  match s.path.reading with
  | none => s
  | some (t, _, _) =>
    if s.path.rdParts.any (fun (q : ReadPart) => q.tag == tag) then
      match r with
      | .failed => s.readBackDone 4 0
      | .data l =>
        let ps := s.path.rdParts.map (fun (q : ReadPart) => if q.tag = tag then { q with data := some l } else q)
        let s := { s with path := { s.path with rdParts := ps } }
        if Time.reached s.now (t + BitVec.ofNat 64 s.corerRto) then s.readBackDone 4 0
        else if !s.path.rdWait && ps.all (fun (q : ReadPart) => q.data.isSome) then
          s.readBackReply (.data (ps.flatMap (fun (q : ReadPart) => q.data.getD [])))
        else s
    else s

/-- STORE_READ_DONE: the running read-back completes (R326). -/
def execStoreReadDone (dt : Nat) (reply : PathReply) (s : State) : Out := run dt s (fun s => s.readBackReply reply)

end Sys2Proof.Machine
end

