-- ==== Sys2Proof/Machine/Integrity.lean ====
section
/-! DEFINITION. The scrubber (R284 to R286): its walk over the words of each region, the correction it writes back, and a pass
that overruns. -/

namespace Sys2Proof.Machine

open Sys2Proof

/-- Words, or codewords, of region `r` (R271). -/
def regionWords (r : Nat) : Nat :=
  if r < 6 then 98304
  else if r = 6 then 131072
  else if r = 7 then 1048576
  else if r = 8 then 8192
  else if r = 9 then 131072
  else if r = 10 then 32768
  else if r < 19 then 66832
  else 524288

/-- The system address of word, or codeword, `i` of region `r` (R271, R272, R32): of a processor the instruction memory first,
of a face the steps, the engine state, then the tables. -/
def regionWordAddr (r i : Nat) : Nat :=
  if r < 6 then privBase r + (if i < 65536 then 4 * i else 0x100000 + 4 * (i - 65536))
  else if r = 6 then privBase 6 + 4 * i
  else if r = 7 then 0x20000000 + 4 * i
  else if r = 8 then 0x24000000 + 1024 * i
  else if r = 9 then 0x40000000 + 4 * i
  else if r = 10 then 0x40080000 + 4 * i
  else if r < 19 then
    0x50000000 + (r - 11) * 0x100000 +
      (if i < 1024 then 0x80000 + 4 * i
       else if i < 1296 then 0x82000 + 4 * (i - 1024)
       else 0xC0000 + 4 * (i - 1296))
  else 0x80000000 + 4 * i

/-- The length of a scrub pass of region `r` in tq; 0 for a region that is not scrubbed. -/
def State.scrubPeriod (s : State) (r : Nat) : Nat := s.fld (R.MI_SCRUB_CFG r) MI_SCRUB_CFG.PERIOD * 200000000

/-- The scrubber runs: not from the start of a system reset until LOAD ends, and not in PARK (R286). -/
def State.scrubs (s : State) : Bool := s.md.loadStep == 4 && s.mode != mLoad && s.mode != mPark

/-- Every region restarts at its first word (R286). -/
def State.scrubRestart (s : State) : State :=
  let from_ : AMap Time := (List.range 20).foldl (fun m r => AMap.set 0 m r s.now) []
  { s with lg := { s.lg with scrubAt := [], scrubLate := [], scrubFrom := from_ } }

/-- The scrubber's read of a word of region `r` at `a`, and the write-back of what it corrects (R285). -/
def State.scrubWord (s : State) (r a : Nat) : State :=
  match eccRead 0 (s.eccMask a) with
  | .clean _ => s
  | .corrected _ => ((s.noteCe r a).setEcc a 0).count (R.MI_SCRUB_STAT r) MI_SCRUB_STAT.FIXED
  | .bad _ => s.noteUe r a 0x0003

/-- A codeword of the capture buffer is left with undefined data. -/
def State.scramblePage (s : State) (c : Nat) : State :=
  forAll (List.range 256) s (fun s i =>
    let (w, s) := s.freshWord
    s.setWord (0x24000000 + 1024 * c + 4 * i) w)

/-- The scrubber's read of codeword `c` of the capture buffer (R281, R285); what it miscorrects it writes back as corrected. -/
def State.scrubPage (s : State) (c : Nat) : State :=
  let n := AMap.get 0 s.pageErr c
  let a := 0x24000000 + 1024 * c
  let clean := fun (s : State) => { s with pageErr := AMap.set 0 s.pageErr c 0 }.count (R.MI_SCRUB_STAT 8) MI_SCRUB_STAT.FIXED
  if n = 0 then s
  else if pageBeyond n = false then clean (s.noteCe 8 a)
  else
    let t := { s with free := s.free + 1 }
    if Config.miscorrect s.free then clean (t.scramblePage c) else t.noteUe 8 a 0x0003

/-- The instant the next read of region `r` is due (R284): the reads are spread evenly over the pass. -/
def State.scrubDue (s : State) (r : Nat) : Time :=
  AMap.get 0 s.lg.scrubFrom r + BitVec.ofNat 64 (AMap.get 0 s.lg.scrubAt r * s.scrubPeriod r / regionWords r)

/-- The pass of region `r` ends: the next follows when PERIOD has run out, at once if it already has (R284). -/
def State.scrubPassDone (s : State) (r : Nat) : State :=
  let next := AMap.get 0 s.lg.scrubFrom r + BitVec.ofNat 64 (s.scrubPeriod r)
  let s := { s with lg := { s.lg with
    scrubAt := AMap.set 0 s.lg.scrubAt r 0
    scrubFrom := AMap.set 0 s.lg.scrubFrom r (if Time.reached s.now next then s.now else next)
    scrubLate := AMap.set false s.lg.scrubLate r false } }
  s.countMod (R.MI_SCRUB_STAT r) MI_SCRUB_STAT.PASSES

/-- SCRUB_READ: the scrubber reads the next word or codeword of region `i` (R284, R285). -/
def execScrubRead (dt : Nat) (i : Fin 20) (s : State) : Out :=
  runMem dt s (fun s =>
    let at_ := AMap.get 0 s.lg.scrubAt i
    if s.scrubs && s.scrubPeriod i != 0 && Time.reached s.now (s.scrubDue i) then
      let s := if i.val = 8 then s.scrubPage at_ else s.scrubWord i (regionWordAddr i at_)
      if at_ + 1 < regionWords i then { s with lg := { s.lg with scrubAt := AMap.set 0 s.lg.scrubAt i (at_ + 1) } }
      else s.scrubPassDone i
    else s)

/-- SCRUB_PASS_OVERRUN: the PERIOD of region `i` has run out with words still to read (R284). -/
def execScrubPassOverrun (dt : Nat) (i : Fin 20) (s : State) : Out :=
  run dt s (fun s =>
    let next := AMap.get 0 s.lg.scrubFrom i + BitVec.ofNat 64 (s.scrubPeriod i)
    if s.scrubs && s.scrubPeriod i != 0 && !AMap.get false s.lg.scrubLate i && Time.reached s.now next then
      let s := { s with lg := { s.lg with scrubLate := AMap.set false s.lg.scrubLate i true } }
      (s.raise (R.MI_SCRUB_STAT i) MI_SCRUB_STAT.LAG).raise R.MI_STAT MI_STAT.LAG
    else s)

/-- A write to MI_SCRUB_CFG; a region whose PERIOD leaves or reaches 0 starts at its first word (R284, R286). -/
def writeScrubCfg (a : Access) (r : Nat) (w : Word) (s : State) : Wr :=
  wordWrite a (R.MI_SCRUB_CFG r) w s (fun w s =>
    let was := s.scrubPeriod r
    let s := s.fieldWrite (R.MI_SCRUB_CFG r) w
    okWr (if was = 0 ∨ s.scrubPeriod r = 0 then
      { s with lg := { s.lg with
        scrubAt := AMap.set 0 s.lg.scrubAt r 0
        scrubFrom := AMap.set 0 s.lg.scrubFrom r s.now
        scrubLate := AMap.set false s.lg.scrubLate r false } }
    else s))

end Sys2Proof.Machine
end

