-- ==== Sys2Proof/Machine/Modes.lean ====
section
/-! DEFINITION. The modes (R330 to R343), the release of HOLD, the watchdogs (R348, R349), and the registers of reset and
modes. -/

namespace Sys2Proof.Machine

open Sys2Proof

/-- A write that only Pit-world Supervisor may make: R19 from Bank world, an error response from User level (R331). -/
def modeOnly (a : Access) (k : Nat) (s : State) (f : State → Wr) : Wr := pitOnly a k s (fun s => supOnly a s f)

/-! ## Requests (R331, R332, R341) -/

/-- LIMP_CAUSE. -/
def State.limpCauses (s : State) : Nat := s.fld R.MODE_STAT MODE_STAT.LIMP_CAUSE

/-- RUN, or LIMP while a LIMP cause is set. -/
def State.runOrLimp (s : State) : Nat := if s.limpCauses = 0 then mRun else mLimp

/-- A request for PARK finds every condition of R341. -/
def State.parkReady (s : State) : Bool :=
  s.mode == mRun && (List.range 32).all (fun g => !s.groupRuns g) && !s.flag R.STG_STATUS STG_STATUS.ARMED &&
  (List.range 32).all (fun l => s.laneState l == lOff) && (List.range 64).all (fun c => !s.dmaBusy c)

/-- A request for a mode is one that R332 permits. -/
def State.requestOk (s : State) (req : Nat) : Bool :=
  let m := s.mode
  if req = mRun then m == mCommission || (m == mLimp && s.limpCauses &&& 15 == 0)
  else if req = mLimp then m == mCommission || m == mRun || m == mLimp || m == mHold
  else if req = mHold then m == mLoad || m == mCommission || m == mRun || m == mLimp
  else if req = mPark then s.parkReady
  else false

/-- What an accepted request does (R332, R334, R335, R341). -/
def State.takeRequest (s : State) (req : Nat) : State :=
  if req = mRun then
    if s.mode = mLimp then (s.limpClear 4).setMode mRun
    else (s.setMode s.runOrLimp).refreshAll
  else if req = mLimp then s.limpCause 4
  else if req = mHold then s.holdTrigger 1
  else
    -- a core that stands at a WAIT has stopped for PARK (log entry 95)
    forAll (List.range 7) { s with md := { s.md with parkReq := some s.now } } (fun s p =>
      s.updFlow p (fun q => { q with parked := q.parked || q.waiting }))

/-- The act of a write to MODE_CTL. -/
def State.modeCtl (s : State) (w : Word) : State :=
  let req := MODE_CTL.REQ.get w
  if MODE_CTL.KEY.get w = 0x6D ∧ s.requestOk req = true then s.takeRequest req
  else s.raise R.MODE_STAT MODE_STAT.REQ_REJ

/-- A write to MODE_CTL. -/
def writeModeCtl (a : Access) (w : Word) (s : State) : Wr :=
  modeOnly a R.MODE_CTL s (fun s => wordWrite a R.MODE_CTL w s (fun w s => okWr (s.modeCtl w)))

/-- A write to MODE_CTL that requests mode `m`. -/
def State.requestRow (s : State) (a : Access) (m : Nat) (w : Word) : State :=
  settle a R.MODE_CTL (writeModeCtl a (MODE_CTL.REQ.put w m) s)

/-! ## PARK and wake (R341 to R343) -/

/-- Processor `p` has stopped at a WAIT for PARK, or does not run at all (R330, R341). -/
def State.coreStopped (s : State) (p : Nat) : Bool := !(s.core p).running || (s.flow p).parked

/-- Every running core has stopped. -/
def State.allStopped (s : State) : Bool := (List.range 7).all s.coreStopped

/-- PARK_TIMEOUT: a core has not stopped within 10 ms, so the stopped cores continue (R341). -/
def execParkTimeout (dt : Nat) (s : State) : Out :=
  run dt s (fun s =>
    match s.md.parkReq with
    | some t =>
      if s.allStopped = false ∧ 2000000000 ≤ Time.since t s.now then
        let s := { s with md := { s.md with parkReq := none } }
        let s := forAll (List.range 7) s (fun s p => s.updFlow p (fun q => { q with parked := false }))
        s.raise R.MODE_STAT MODE_STAT.PARK_TO
      else s
    | none => s)

/-- An instant some time later. -/
def laterBy (n : Nat) (t : Option Time) : Option Time := t.map (fun x => x + BitVec.ofNat 64 n)

/-- The link's own instants, moved by the time the link was powered down (R342). -/
def State.linkLater (s : State) (away : Nat) : State :=
  let l := s.io.link
  { s with io := { s.io with link := { l with
    lastBeat := l.lastBeat.map (fun e => (e.1, laterBy away e.2))
    masterAt := l.masterAt + BitVec.ofNat 64 away
    isoFrom := laterBy away l.isoFrom } } }

/-- The device wakes from PARK into mode `m` (R256, R286, R343): WAKE_STAT records the source, every WAIT completes, the
watchdogs, which did not count, go on, and the comparators follow their inputs again. -/
def State.wakeTo (s : State) (bit m : Nat) : State :=
  let away := Time.since s.md.parkFrom s.now
  let s := s.raiseBits R.WAKE_STAT (BitVec.ofNat 32 (2 ^ bit))
  let s := s.restoreSources
  let s := { s with md := { s.md with wdFrom := laterBy away s.md.wdFrom, wdSuspend := laterBy away s.md.wdSuspend } }
  let s := forAll (List.range 7) s (fun s p => s.updFlow p (fun q =>
    { q with parked := false, waiting := false, wdFrom := laterBy away q.wdFrom }))
  let s := ((s.linkLater away).setMode m).scrubRestart.refreshAll
  forAll (List.range 128) s (fun s n => (s.cmpEval n false).cmpEval n true)

/-- A wake source ends PARK, if it is enabled (R342). -/
def State.wakeBy (s : State) (bit : Nat) : State :=
  if s.mode = mPark ∧ (s.reg R.WAKE_CFG).toNat / 2 ^ bit % 2 = 1 then s.wakeTo bit s.runOrLimp else s

/-- SAFE_N is recognised low (R332, R334): code 0x0083, and HOLD; from PARK the device wakes into HOLD. -/
def State.safeNLow (s : State) : State :=
  let s := { s with md := { s.md with safeLow := true } }
  let s := s.report 0x188 0x0083 clsSafety 0
  if s.mode = mPark then
    let s := s.setF R.MODE_STAT MODE_STAT.HOLD_SRC (s.fld R.MODE_STAT MODE_STAT.HOLD_SRC ||| 1)
    ((s.setF R.MODE_STAT MODE_STAT.HOLD_FROM mRun).wakeTo 9 mHold).allModeCause
  else s.holdTrigger 0

/-- SAFE_N_ASSERT: SAFE_N is recognised low, or has returned high (R334). -/
def execSafeNAssert (dt : Nat) (low : Bool) (s : State) : Out :=
  run dt s (fun s => if low then s.safeNLow else { s with md := { s.md with safeLow := false } })

/-! ## The release of HOLD (R338, R339) -/

/-- A bridge holds the RST cause. -/
def State.anyRst (s : State) : Bool := s.leaders.any (fun l => s.flag (R.BR_SAFE_STAT l) BR_SAFE_STAT.RST)

/-- The release window is open and has not expired. -/
def State.windowOpen (s : State) : Bool :=
  s.flag R.MODE_REL MODE_REL.OPEN &&
  (match s.md.relFrom with | some t => decide (Time.since t s.now < 2000000000) | none => false)

/-- The reason to refuse KEY = 0x53, or 0; of several the lowest (log entry 84). -/
def State.releaseReason (s : State) : Nat :=
  let hold := s.mode == mHold
  if !hold && !s.anyRst then 1
  else if s.md.safeLow then 2
  else if hold && s.reg R.TALLY_SAFE != 0 then 3
  else if s.fld R.DEP_STAT DEP_STAT.STATE = 6 then 4
  else if s.md.isol then 5
  else if !s.windowOpen then 6
  else if s.fld R.MODE_STAT MODE_STAT.HOLD_SRC / 64 % 2 = 1 then 8
  else 0

/-- A refused release write (R338). -/
def State.releaseRefused (s : State) (reason : Nat) : State :=
  let k := R.MODE_REL
  let s := { s with md := { s.md with relFrom := none } }
  ((s.setF k MODE_REL.REASON reason).setF k MODE_REL.OPEN 0).raise k MODE_REL.REJ

/-- An accepted release (R339). -/
def State.released (s : State) : State :=
  let hold := s.mode == mHold
  let s := s.setF R.MODE_STAT MODE_STAT.HOLD_SRC 0
  let s := ({ s with md := { s.md with relFrom := none } }).setF R.MODE_REL MODE_REL.OPEN 0
  let s :=
    if hold then
      s.setMode (if s.fld R.MODE_STAT MODE_STAT.HOLD_FROM = mCommission then mCommission else s.runOrLimp)
    else s
  let s := forAll s.leaders s (fun s l =>
    if s.anyFlag (R.BR_SAFE_STAT l) [BR_SAFE_STAT.MODE, BR_SAFE_STAT.RST] then
      if s.groupRuns (s.cgOf l) then s.updChan l (fun c => { c with releasing := true }) else s.releaseBridge l
    else s)
  s.refreshAll

/-- The act of a write to MODE_REL; a write with KEY = 0 is no release write, and any other key is out of order. -/
def State.modeRel (s : State) (w : Word) : State :=
  let k := R.MODE_REL
  let s := s.clearFlags k (w &&& MODE_REL.REJ.mask)
  let key := MODE_REL.KEY.get w
  if key = 0 then s
  else if key = 0x52 then
    if s.mode = mHold ∨ s.anyRst = true then
      ({ s with md := { s.md with relFrom := some s.now } }).setF k MODE_REL.OPEN 1
    else s.releaseRefused 1
  else if key = 0x53 then
    let r := s.releaseReason
    if r = 0 then s.released else s.releaseRefused r
  else s.releaseRefused 7

/-- A write to MODE_REL. -/
def writeModeRel (a : Access) (w : Word) (s : State) : Wr :=
  modeOnly a R.MODE_REL s (fun s => wordWrite a R.MODE_REL w s (fun w s => okWr (s.modeRel w)))

/-- RELEASE_WINDOW_EXPIRY: 10 ms have passed since the window opened (R338). -/
def execReleaseWindowExpiry (dt : Nat) (s : State) : Out :=
  run dt s (fun s =>
    match s.md.relFrom with
    | some t =>
      if 2000000000 ≤ Time.since t s.now then
        ({ s with md := { s.md with relFrom := none } }).setF R.MODE_REL MODE_REL.OPEN 0
      else s
    | none => s)

/-! ## Other registers of reset and modes -/

/-- A write to a register of the block that acts by its field types alone. -/
def writeModeReg (a : Access) (k : Nat) (w : Word) (s : State) : Wr :=
  modeOnly a k s (fun s => wordWrite a k w s (fun w s => okWr (s.fieldWrite k w)))

/-- A write to MODE_PERMIT acts on the outputs at once (R337). -/
def writeModePermit (a : Access) (i : Nat) (w : Word) (s : State) : Wr :=
  let k := R.MODE_PERMIT i
  modeOnly a k s (fun s => wordWrite a k w s (fun w s => okWr (s.fieldWrite k w).refreshAll))

/-! ## Watchdogs (R348, R349) -/

/-- WDOG_MS of the image loaded. -/
def State.wdogMs (s : State) : Nat := (wordAt s.md.header 0x1A).toNat % 65536

/-- The instant up to which the device watchdog has counted: in PARK it stands (R348). -/
def State.wdogNow (s : State) : Time := if s.mode = mPark then s.md.parkFrom else s.now

/-- The device watchdog's counted time in tq: not while it is suspended, for at most 200 µs (R242), nor in PARK. -/
def State.wdogCount (s : State) (t : Time) : Nat :=
  let total := Time.since t s.wdogNow
  match s.md.wdSuspend with
  | some x => total - Nat.min 40000000 (Time.since x s.wdogNow)
  | none => total

/-- WDOG_STAT.REMAIN: the whole milliseconds left. -/
def State.wdogRemain (s : State) : Nat :=
  match s.md.wdFrom with
  | some t => (s.wdogMs * 200000000 - s.wdogCount t) / 200000000
  | none => 0

/-- The device watchdog does not count from now on. -/
def State.wdogPause (s : State) : State :=
  if s.md.wdSuspend.isSome then s else { s with md := { s.md with wdSuspend := some s.now } }

/-- It counts again. -/
def State.wdogGo (s : State) : State :=
  match s.md.wdSuspend with
  | some x =>
    { s with md := { s.md with
      wdFrom := laterBy (Nat.min 40000000 (Time.since x s.now)) s.md.wdFrom, wdSuspend := none } }
  | none => s

/-- The act of a write to WDOG_KICK (R348): 0x5A and, directly after it, 0xA5; anything else, a second 0x5A too, sets BADKICK. -/
def State.wdogKick (s : State) (a : Access) (w : Word) : State :=
  let k := R.WDOG_STAT
  let v := WDOG_KICK.VAL.get w
  if a.master ≠ 4 then s.raise k WDOG_STAT.FOREIGN
  else if v = 0x5A then
    -- after another 0x5A it is not in the order of a kick
    { (s.raiseIf s.md.wdHalf k WDOG_STAT.BADKICK) with md := { s.md with wdHalf := true } }
  else if v = 0xA5 ∧ s.md.wdHalf = true then
    { s with md := { s.md with
      wdHalf := false
      wdFrom := s.md.wdFrom.map (fun _ => s.now)
      wdSuspend := s.md.wdSuspend.map (fun _ => s.now) } }
  else ({ s with md := { s.md with wdHalf := false } }).raise k WDOG_STAT.BADKICK

/-- A write to WDOG_KICK, by the Deputy in either world. -/
def writeWdogKick (a : Access) (w : Word) (s : State) : Wr :=
  wordWrite a R.WDOG_KICK w s (fun w s => okWr (s.wdogKick a w))

/-- WDOG_KICK (R348). -/
def execWdogKick (dt : Nat) (a : Access) (w : Word) (s : State) : Out :=
  run dt s (fun s => settle a R.WDOG_KICK (writeWdogKick a w s))

/-- The timeout of the core watchdog of processor `p` in tq. -/
def State.cwdogTime (s : State) (p : Nat) : Nat := Nat.max 1 (s.fld (R.CWDOG p) CWDOG.US) * 200000

/-- A write to CWDOG: setting EN starts the watchdog, and EN cannot be cleared (R245, R349). -/
def writeCwdog (a : Access) (p : Nat) (w : Word) (s : State) : Wr :=
  let k := R.CWDOG p
  modeOnly a k s (fun s => wordWrite a k w s (fun w s =>
    let was := s.flag k CWDOG.EN
    let s := s.fieldWrite k w
    okWr (if !was && s.flag k CWDOG.EN then s.updFlow p (fun q => { q with wdFrom := some s.now }) else s)))

/-- A write to CWDOG_KICK restarts the timeout, whatever it carries (R349). -/
def writeCwdogKick (a : Access) (p : Nat) (w : Word) (s : State) : Wr :=
  let k := R.CWDOG_KICK p
  modeOnly a k s (fun s => wordWrite a k w s (fun _ s =>
    okWr (s.updFlow p (fun q => { q with wdFrom := q.wdFrom.map (fun _ => s.now) }))))

/-- CORE_WATCHDOG_EXPIRY: the timeout has passed without a kick, so the core is reset (R349). It
does not count in PARK, nor while the core is held at QUIESCE (R376). -/
def execCoreWatchdogExpiry (dt : Nat) (p : Fin 7) (s : State) : Out :=
  run dt s (fun s =>
    match (s.flow p).wdFrom with
    | some t =>
      if s.mode ≠ mPark ∧ (s.flow p).held.isNone = true ∧ s.cwdogTime p ≤ Time.since t s.now then s.coreReset p 2 else s
    | none => s)

end Sys2Proof.Machine
end

