-- ==== Sys2Proof/Machine/Reset.lean ====
section
/-! DEFINITION. The resets and their reach (R16, R24 to R29, R153, R155, R344 to R347, R387), and the start of a core (R218).
Log entry 85 gives how the end of a reset source reaches the model. -/

namespace Sys2Proof.Machine

open Sys2Proof

/-! ## Power-on and brown-out (R8, R344, R387, R430) -/

/-- Every domain is reset and one cause sets after it; what the pins and the OTP hold stays (R347). -/
def State.powerReset (s : State) (cause : Fld) : State :=
  let old := s.mode
  let n : State := { State.reset with
    pending := s.pending
    free := s.free
    sq1 := s.sq1
    regs := [(R.RST_CAUSE, cause.mask)]
    io := { link := { role := s.io.link.role, id := s.io.link.id, strapErr := s.io.link.strapErr } } }
  if old = mLoad then n else n.info 0x188 0x0080 (BitVec.ofNat 32 (old * 16))

/-- POWER_ON: all supplies have risen; the straps are sampled (R344, R387). -/
def execPowerOn (dt : Nat) (role : BitVec 2) (id : Fin 8) (s : State) : Out :=
  runMem dt s (fun s =>
    let s := s.powerReset RST_CAUSE.POR
    { s with io := { link := { role := if role = 3 then 0 else role.toNat, id := id.val, strapErr := role == 3 } } })

/-- The cause a brown-out of a supply records (R344). -/
def borField : Supply → Fld
  | .vddCore => RST_CAUSE.BOR_CORE
  | .vddaF _ => RST_CAUSE.BOR_A
  | .vddio => RST_CAUSE.BOR_IO

/-- BROWN_OUT: a monitored supply stays below its falling threshold (R430). -/
def execBrownOut (dt : Nat) (sup : Supply) (s : State) : Out := runMem dt s (fun s => s.powerReset (borField sup))

/-! ## System reset (R26 to R29, R346, R347) -/

/-- The register at key `k` is one a system reset reaches: the S and K domains; the words of the loop memories and the
registers of every other domain are kept (R347). -/
def sysResetKey (k : Nat) : Bool :=
  match regAt (k % 0x100000000) with
  | some (r, _) => r.dom == .S || r.dom == .K
  | none => false

/-- A face set to HOLD by the image (R16). -/
def State.faceHolds (s : State) (f : Nat) : Bool := s.fld R.MODE_CFG MODE_CFG.FACE_HOLD / 2 ^ f % 2 == 1

/-- The bridges of faces set to HOLD take the RST cause; one that spans two faces follows HOLD if either is (R16, R141). -/
def State.rstCauses (s : State) : State :=
  forAll s.leaders s (fun s l =>
    if (s.legsOf l).any (fun n => s.faceHolds (n / 16)) then
      (s.setCause l BR_SAFE_STAT.RST).updChan l (fun c => { c with releasing := false })
    else s)

/-- Everything beside the registers that the S and K domains hold returns to its reset state; the debug logic's halts, the
link, the gate-driver SPI, the Canary's counts, the retention area of PARK (R24) and the debug logic's requests (R347) are kept. -/
def State.clearUnits (s : State) : State :=
  { s with
    regs := s.regs.filter (fun e => !sysResetKey e.1)
    hwSet := s.hwSet.filter (fun e => !sysResetKey e.1)
    undef := s.undef.filter (fun e => !sysResetKey e.1)
    rt := { s.rt with gev := [], gevLast := [] }
    stg := {}
    pr := { flows := (List.range 7).foldl (fun m p =>
      AMap.set {} m p { halted := (s.flow p).halted, stepping := (s.flow p).stepping }) [],
            deputy := { haltReq := s.pr.deputy.haltReq } }
    mv := { savedRegs := s.mv.savedRegs, savedSrc := s.mv.savedSrc }
    lg := {}
    lanes := []
    path := {}
    up := {}
    ts := { outCnt := s.ts.outCnt, inCnt := s.ts.inCnt }
    io := { link := s.io.link, spis := s.io.spis, tapReset := s.io.tapReset, ir := s.io.ir, dapOp := s.io.dapOp, dapWorld := s.io.dapWorld
            dapProc := s.io.dapProc, dapAddr := s.io.dapAddr, dapData := s.io.dapData, dapTag := s.io.dapTag.filter (fun t => t < 65536) } }

/-- A system reset begins with a cause (R344); a HOLD trigger that came during a LOAD that it begins anew is not forgotten (R332). While a
reset lasts whose LOAD has not begun, only the cause is recorded. -/
def State.sysReset (s : State) (cause : Fld) : State :=
  let s := s.raise R.RST_CAUSE cause
  if s.md.inReset = true ∧ s.md.loadStep = 0 then s
  else
    let prev := s.mode
    let x := s.stg.applyAt
    -- R27: an apply whose instant has been reached completes in full
    let s := if s.flag R.STG_STATUS STG_STATUS.ARMED && Time.reached s.now x then s.applyShift x else s
    let s := s.clearUnits
    let s := { s with md := { s.md with
      loadStep := 0, powerOn := false, inReset := true, holdInLoad := s.md.holdInLoad && prev == mLoad, relFrom := none, parkReq := none
      wdFrom := none, wdHalf := false, wdSuspend := none, gevLive := false } }
    let s := s.setF R.MODE_STAT MODE_STAT.PREV prev
    (s.setMode mLoad).rstCauses.refreshAll

/-- RESET_N_ASSERT (R344). -/
def execResetNAssert (dt : Nat) (s : State) : Out := run dt s (fun s => s.sysReset RST_CAUSE.PIN)

/-- DEVICE_WATCHDOG_EXPIRY: WDOG_MS ms have passed without a kick; it does not count in PARK (R348). -/
def execDeviceWatchdogExpiry (dt : Nat) (s : State) : Out :=
  run dt s (fun s =>
    match s.md.wdFrom with
    | some t =>
      if s.mode ≠ mPark ∧ s.wdogMs * 200000000 ≤ s.wdogCount t then s.sysReset RST_CAUSE.WDOG else s
    | none => s)

/-- REF_LOSS: the reference is lost (R153). -/
def execRefLoss (dt : Nat) (s : State) : Out :=
  run dt s (fun s =>
    if s.tb.counting = true ∧ s.md.refBad = false then
      let s := { s with md := { s.md with refBad := true }, tb := { s.tb with lostAt := s.tb.ref } }
      let s := (s.setF R.TB_STAT TB_STAT.HOLDOVER 1).raise R.TB_STAT TB_STAT.REF_LOST
      (s.report 0x98 0x0033 clsSafety 0).sysReset RST_CAUSE.REFCLK
    else s)

/-- REF_VALID: the reference is valid again; the phase by which device time has departed in holdover is measured, and then removed
(R155). What is measured is what device time has gathered against the reference since the loss (`State.rateDrift`), so the operand, which
names a phase the sender expects, has no part in it. -/
def execRefValid (dt : Nat) (_phase : Int) (s : State) : Out :=
  run dt s (fun s =>
    if s.md.refBad then
      let s := { s with md := { s.md with refBad := false }, tb := { s.tb with phaseFrac := 0 } }
      if s.tb.phase = 0 then s.setF R.TB_STAT TB_STAT.HOLDOVER 0 else s
    else s)

/-! ## Software resets (R25, R344) -/

/-- The processors of the device: the pair in lockstep is processor 4 (R25, R32). In split operation a copy that has been fenced is
none (R243). -/
def State.hasCore (s : State) (p : Nat) : Bool :=
  (p != 5 || !s.lockstep) &&
  (s.lockstep || !((p == 4 && s.flag R.DEP_STAT DEP_STAT.FENCED_A) || (p == 5 && s.flag R.DEP_STAT DEP_STAT.FENCED_B)))

/-- The act of a write to RST_REQ. -/
def State.rstReq (s : State) (w : Word) : State :=
  if RST_REQ.KEY.get w = 0x0B5E then
    let s := forAll ((List.range 7).filter (fun p => s.hasCore p && RST_REQ.CORE.get w / 2 ^ p % 2 == 1)) s
      (fun s p => s.coreReset p 3)
    if RST_REQ.SYS.get w = 1 then s.sysReset RST_CAUSE.SWSYS else s
  else s

/-- A write to RST_REQ. -/
def writeRstReq (a : Access) (w : Word) (s : State) : Wr :=
  modeOnly a R.RST_REQ s (fun s => wordWrite a R.RST_REQ w s (fun w s => okWr (s.rstReq w)))

/-! ## The start of a core (R218) -/

/-- ENTRY[p] of the image loaded (R351). -/
def State.entryOf (s : State) (p : Nat) : Word := wordAt s.md.header (0x20 + 4 * p)

/-- CORE_START: a core released from reset starts at its reset entry, at Supervisor level of the world the image names, with no
handler active (R218). None starts in PARK (R330). -/
def execCoreStart (dt : Nat) (p : Fin 7) (s : State) : Out :=
  run dt s (fun s =>
    if (s.core p).starting ∧ s.md.inReset = false ∧ s.mode ≠ mPark ∧ s.hasCore p = true ∧
        s.flag R.LOAD_STAT LOAD_STAT.NOIMG = false then
      let e := s.entryOf p
      s.setCore p { running := true, pc := e &&& ~~~1, world := World.ofBit (e.toNat % 2) }
    else s)

end Sys2Proof.Machine
end

