-- ==== Sys2Proof/Machine/Ecdsa.lean ====
section
/-! DEFINITION. Verification of an ECDSA signature over the NIST P-256 curve (FIPS 186-5, SP 800-186), which R352 uses. -/

namespace Sys2Proof.Machine

open Sys2Proof

/-- The field prime, the order of the base point, the coefficient b, and the base point. -/
def p256P : Nat := 0xFFFFFFFF00000001000000000000000000000000FFFFFFFFFFFFFFFFFFFFFFFF
def p256N : Nat := 0xFFFFFFFF00000000FFFFFFFFFFFFFFFFBCE6FAADA7179E84F3B9CAC2FC632551
def p256B : Nat := 0x5AC635D8AA3A93E7B3EBBD55769886BC651D06B0CC53B0F63BCE3C3E27D2604B
def p256Gx : Nat := 0x6B17D1F2E12C4247F8BCE6E563A440F277037D812DEB33A0F4A13945D898C296
def p256Gy : Nat := 0x4FE342E2FE1A7F9B8EE7EB4A7C0F9E162BCE33576B315ECECBB6406837BF51F5

/-- Difference in the field. -/
def fpSub (a b : Nat) : Nat := (a + p256P - b % p256P) % p256P

/-- `a` to the power of the lowest `k` bits of `e`, modulo `m`. -/
def powModBits (m : Nat) : Nat → Nat → Nat → Nat
  | 0, _, _ => 1 % m
  | k + 1, a, e =>
    let r := powModBits m k (a * a % m) (e / 2)
    if e % 2 = 1 then r * a % m else r

/-- The inverse modulo the prime `m`, of 256 bits. -/
def invMod (m a : Nat) : Nat := powModBits m 256 (a % m) (m - 2)

/-- A point in Jacobian coordinates; Z = 0 is the point at infinity. -/
structure JPoint where
  x : Nat
  y : Nat
  z : Nat

/-- Doubling, for a = −3. -/
def JPoint.double (q : JPoint) : JPoint :=
  let p := p256P
  if q.z = 0 ∨ q.y = 0 then { x := 1, y := 1, z := 0 }
  else
    let zz := q.z * q.z % p
    let m := 3 * (fpSub q.x zz * ((q.x + zz) % p) % p) % p
    let yy := q.y * q.y % p
    let t := 4 * q.x * yy % p
    let x' := fpSub (m * m % p) (2 * t % p)
    { x := x'
      y := fpSub (m * fpSub t x' % p) (8 * (yy * yy % p) % p)
      z := 2 * q.y * q.z % p }

/-- The sum of two points. -/
def JPoint.add (a b : JPoint) : JPoint :=
  let p := p256P
  if a.z = 0 then b
  else if b.z = 0 then a
  else
    let az := a.z * a.z % p
    let bz := b.z * b.z % p
    let u1 := a.x * bz % p
    let u2 := b.x * az % p
    let s1 := a.y * (bz * b.z % p) % p
    let s2 := b.y * (az * a.z % p) % p
    if u1 = u2 then (if s1 = s2 then a.double else { x := 1, y := 1, z := 0 })
    else
      let h := fpSub u2 u1
      let r := fpSub s2 s1
      let hh := h * h % p
      let hhh := h * hh % p
      let v := u1 * hh % p
      let x' := fpSub (fpSub (r * r % p) hhh) (2 * v % p)
      { x := x'
        y := fpSub (r * fpSub v x' % p) (s1 * hhh % p)
        z := h * (a.z * b.z % p) % p }

/-- A multiple of a point, from the highest of `k` bits of the factor. -/
def JPoint.mul (q : JPoint) (n : Nat) : Nat → JPoint
  | 0 => { x := 1, y := 1, z := 0 }
  | k + 1 =>
    -- bits n >> (256 - (k+1)) are done so far
    let r := (q.mul n k).double
    if (n >>> (255 - k)) % 2 = 1 then r.add q else r

/-- The point (x, y) lies on the curve, with coordinates in the field. -/
def onCurve (x y : Nat) : Bool :=
  decide (x < p256P) && decide (y < p256P) &&
  y * y % p256P == ((x * x % p256P + p256P - 3) * x + p256B) % p256P

/-- The number whose bytes, the first highest, are given. -/
def beNat (l : List Byte) : Nat := l.foldl (fun a b => a * 256 + b.toNat) 0

/-- The signature r, s of a digest verifies under the public key x, y. -/
def ecdsaVerify (key sig digest : List Byte) : Bool :=
  let x := beNat (key.take 32)
  let y := beNat (key.drop 32)
  let r := beNat (sig.take 32)
  let s := beNat (sig.drop 32)
  let ok := onCurve x y && decide (0 < r) && decide (r < p256N) && decide (0 < s) && decide (s < p256N)
  if ok then
    let w := invMod p256N s
    let u1 := beNat digest * w % p256N
    let u2 := r * w % p256N
    let q := (JPoint.mul { x := p256Gx, y := p256Gy, z := 1 } u1 256).add (JPoint.mul { x := x, y := y, z := 1 } u2 256)
    if q.z = 0 then false
    else
      let zi := invMod p256P q.z
      q.x * (zi * zi % p256P) % p256P % p256N == r
  else false

end Sys2Proof.Machine
end

