-- ==== Sys2Proof/Machine/Sha256.lean ====
section
/-! DEFINITION. The SHA-256 digest (FIPS 180-4), which R352, R353, R364 and R365 use. -/

namespace Sys2Proof.Machine

open Sys2Proof

/-- The 64 round constants: the first 32 bits of the fractional parts of the cube roots of the first 64 primes. -/
def shaK : List Nat :=
  [0x428A2F98, 0x71374491, 0xB5C0FBCF, 0xE9B5DBA5, 0x3956C25B, 0x59F111F1, 0x923F82A4, 0xAB1C5ED5,
   0xD807AA98, 0x12835B01, 0x243185BE, 0x550C7DC3, 0x72BE5D74, 0x80DEB1FE, 0x9BDC06A7, 0xC19BF174,
   0xE49B69C1, 0xEFBE4786, 0x0FC19DC6, 0x240CA1CC, 0x2DE92C6F, 0x4A7484AA, 0x5CB0A9DC, 0x76F988DA,
   0x983E5152, 0xA831C66D, 0xB00327C8, 0xBF597FC7, 0xC6E00BF3, 0xD5A79147, 0x06CA6351, 0x14292967] ++
  [0x27B70A85, 0x2E1B2138, 0x4D2C6DFC, 0x53380D13, 0x650A7354, 0x766A0ABB, 0x81C2C92E, 0x92722C85,
   0xA2BFE8A1, 0xA81A664B, 0xC24B8B70, 0xC76C51A3, 0xD192E819, 0xD6990624, 0xF40E3585, 0x106AA070,
   0x19A4C116, 0x1E376C08, 0x2748774C, 0x34B0BCB5, 0x391C0CB3, 0x4ED8AA4A, 0x5B9CCA4F, 0x682E6FF3,
   0x748F82EE, 0x78A5636F, 0x84C87814, 0x8CC70208, 0x90BEFFFA, 0xA4506CEB, 0xBEF9A3F7, 0xC67178F2]

/-- The initial hash value. -/
def shaInit : List Word :=
  [0x6A09E667, 0xBB67AE85, 0x3C6EF372, 0xA54FF53A, 0x510E527F, 0x9B05688C, 0x1F83D9AB, 0x5BE0CD19]

/-- The 32-bit word of four bytes, the first highest. -/
def beWord (a b c d : Byte) : Word := a ++ b ++ c ++ d

/-- The words of a list of bytes. -/
def beWords : List Byte → List Word
  | a :: b :: c :: d :: l => beWord a b c d :: beWords l
  | _ => []

/-- The message with its padding. -/
def shaPad (m : List Byte) : List Byte :=
  let n := m.length
  let zeros := (119 - n % 64) % 64
  m ++ ([(0x80 : Byte)] ++ (List.replicate zeros (0 : Byte) ++ (List.range 8).map (fun i => BitVec.ofNat 8 ((8 * n) >>> (8 * (7 - i))))))

/-- The small sigma functions of the message schedule. -/
def shaS0 (x : Word) : Word := x.rotateRight 7 ^^^ x.rotateRight 18 ^^^ (x >>> 3)
def shaS1 (x : Word) : Word := x.rotateRight 17 ^^^ x.rotateRight 19 ^^^ (x >>> 10)

/-- One round on (a … h), with the schedule's window of 16 words, its first the round's own. -/
structure ShaRound where
  a : Word
  b : Word
  c : Word
  d : Word
  e : Word
  f : Word
  g : Word
  h : Word
  w : List Word

/-- One round. -/
def ShaRound.step (s : ShaRound) (k : Nat) : ShaRound :=
  let w0 := s.w.headD 0
  let s1 := s.e.rotateRight 6 ^^^ s.e.rotateRight 11 ^^^ s.e.rotateRight 25
  let ch := (s.e &&& s.f) ^^^ (~~~s.e &&& s.g)
  let t1 := s.h + s1 + ch + BitVec.ofNat 32 k + w0
  let s0 := s.a.rotateRight 2 ^^^ s.a.rotateRight 13 ^^^ s.a.rotateRight 22
  let maj := (s.a &&& s.b) ^^^ (s.a &&& s.c) ^^^ (s.b &&& s.c)
  let next := shaS1 (s.w.getD 14 0) + s.w.getD 9 0 + shaS0 (s.w.getD 1 0) + w0
  { a := t1 + (s0 + maj), b := s.a, c := s.b, d := s.c, e := s.d + t1, f := s.e, g := s.f, h := s.g,
    w := s.w.drop 1 ++ [next] }

/-- The hash value after one block of 16 words. -/
def shaBlock (hs : List Word) (ws : List Word) : List Word :=
  let g := fun i => hs.getD i 0
  let r := shaK.foldl ShaRound.step
    { a := g 0, b := g 1, c := g 2, d := g 3, e := g 4, f := g 5, g := g 6, h := g 7, w := ws }
  [g 0 + r.a, g 1 + r.b, g 2 + r.c, g 3 + r.d, g 4 + r.e, g 5 + r.f, g 6 + r.g, g 7 + r.h]

/-- The blocks one after another. -/
def shaBlocks : Nat → List Word → List Word → List Word
  | 0, _, hs => hs
  | n + 1, ws, hs => shaBlocks n (ws.drop 16) (shaBlock hs (ws.take 16))

/-- The 32 bytes of the digest of a message. -/
def sha256 (m : List Byte) : List Byte :=
  let ws := beWords (shaPad m)
  (shaBlocks (ws.length / 16) ws shaInit).flatMap (fun (w : Word) =>
    (List.range 4).map (fun i => (w >>> (8 * (3 - i))).truncate 8))

end Sys2Proof.Machine
end

