-- ==== Sys2Proof/Machine/Image.lean ====
section
/-! DEFINITION. The configuration image (R350 to R355): its header, its section table, and the checks made of them. -/

namespace Sys2Proof.Machine

open Sys2Proof

/-! ## Fields -/

/-- The number of `n` little-endian bytes at offset `o`. -/
def leNat (img : List Byte) (o n : Nat) : Nat :=
  ((img.drop o).take n).foldr (fun b a => a * 256 + b.toNat) 0

/-- `n` bytes at offset `o`. -/
def slice (img : List Byte) (o n : Nat) : List Byte := (img.drop o).take n

/-- Header fields (R351). -/
def imgSections (img : List Byte) : Nat := leNat img 0x06 2
def imgSeq (img : List Byte) : Nat := leNat img 0x08 4
def imgIdrev (img : List Byte) : Word := BitVec.ofNat 32 (leNat img 0x0C 4)
def imgLen (img : List Byte) : Nat := leNat img 0x10 4
def imgT (img : List Byte) : Nat := leNat img 0x14 1
def imgKeyIdx (img : List Byte) : Nat := leNat img 0x15 1
def imgStart (img : List Byte) : Nat := leNat img 0x16 1
def imgSplit (img : List Byte) : Bool := leNat img 0x17 1 != 0
def imgEntry (img : List Byte) (p : Nat) : Nat := leNat img (0x20 + 4 * p) 4

/-- The end of the section table. -/
def imgTableEnd (img : List Byte) : Nat := 256 + 64 * imgSections img

/-- `a` is newer than `b` (R351). -/
def newer (a b : Nat) : Bool :=
  let d := (a + 0x100000000 - b % 0x100000000) % 0x100000000
  decide (1 ≤ d) && decide (d ≤ 0x7FFFFFFF)

/-- A section table entry (R353). -/
structure Section where
  typ : Nat
  target : Nat
  ofs : Nat
  len : Nat
  dest : Nat
  digest : List Byte
  zeros : Bool
  deriving DecidableEq, Repr

/-- Entry `i` of the section table. -/
def imgSection (img : List Byte) (i : Nat) : Section :=
  let b := slice img (256 + 64 * i) 64
  { typ := leNat b 0 2, target := leNat b 2 1, ofs := leNat b 4 4, len := leNat b 8 4, dest := leNat b 0x0C 4
    digest := slice b 0x20 32
    zeros := leNat b 3 1 == 0 && leNat b 0x10 16 == 0 }

/-- The section table. -/
def imgTable (img : List Byte) : List Section := (List.range (imgSections img)).map (imgSection img)

/-! ## The checks of R355 on header and table -/

/-- The flash address at which slot B begins (R350, R357). -/
def State.slotBBase (s : State) : Nat := s.md.otp.slotB.getD 0x04000000

/-- Check 3: a field of the header is out of range. -/
def State.rangeOk (s : State) (img : List Byte) : Bool :=
  let n := imgSections img
  let len := imgLen img
  let t := imgT img
  leNat img 0 4 == 0x4D495A50 && leNat img 4 2 == 1 && decide (1 ≤ n) && decide (n ≤ 512) && decide (1 ≤ t) && decide (t ≤ 10) &&
  decide (0 < len) && len % 1024 == 0 && decide (1094 + (len / 1024 - 1) * codewordBytes (4 * t) ≤ s.slotBBase)

/-- Check 4: VENDOR, PART and MAJOR are the device's, and MINOR does not exceed it. -/
def State.idrevOk (s : State) (img : List Byte) : Bool :=
  let w := imgIdrev img
  let d := s.reg R.IDREV
  IDREV.VENDOR.get w == IDREV.VENDOR.get d && IDREV.PART.get w == IDREV.PART.get d &&
  IDREV.MAJOR.get w == IDREV.MAJOR.get d && decide (IDREV.MINOR.get w ≤ IDREV.MINOR.get d)

/-- Check 5: the key is usable and is the one OTP names; none is once secrets are cleared (R352, R357, R385). -/
def State.keyOk (s : State) (img : List Byte) : Bool :=
  let i := imgKeyIdx img
  let h := AMap.get [] s.md.otp.keyHash i
  decide (i ≤ 3) && !s.flag R.TS_SEC TS_SEC.CLEARED && !AMap.get false s.md.otp.revoked i && h.length == 32 &&
  sha256 (slice img 0x80 64) == h

/-- The signed digest: the SHA-256 of header and table with SIG taken as zero (R352). -/
def signedDigest (img : List Byte) : List Byte :=
  sha256 (slice img 0 0xC0 ++ List.replicate 64 (0 : Byte) ++ slice img 256 (64 * imgSections img))

/-- Check 6: the signature verifies. -/
def signatureOk (img : List Byte) : Bool := ecdsaVerify (slice img 0x80 64) (slice img 0xC0 64) (signedDigest img)

/-- The size of the instruction memory of processor `p` that an image may load, a Hewer's active bank (R30, R354). -/
def codeSize (p : Nat) : Nat := if p < 4 then 0x20000 else if p < 6 then 0x40000 else 0x80000

/-- The size of the instruction memory of processor `p` (R30). -/
def insnSize (p : Nat) : Nat := if p < 6 then 0x40000 else 0x80000

/-- A section's destination lies in the memory its type and target name (R354). -/
def Section.destOk (x : Section) : Bool :=
  match x.typ with
  | 0x0001 => decide (x.target ≤ 6) && decide (x.dest + x.len ≤ codeSize x.target)
  | 0x0002 =>
    if x.target = 7 then decide (0x20000000 ≤ x.dest) && decide (x.dest + x.len ≤ 0x20400000)
    else if x.target = 6 then decide (x.dest + x.len ≤ 0x80000)
    else decide (x.target ≤ 5) && decide (0x100000 ≤ x.dest) && decide (x.dest + x.len ≤ 0x120000)
  | 0x0010 => x.dest == 0 && x.len % 8 == 0
  | 0x00F0 => x.dest == 0
  | _ => false

/-- Two sections overlap in the image. -/
def Section.overlaps (x y : Section) : Bool := decide (x.ofs < y.ofs + y.len) && decide (y.ofs < x.ofs + x.len)

/-- No two sections of a list overlap. -/
def apart : List Section → Bool
  | [] => true
  | x :: l => l.all (fun y => !x.overlaps y) && apart l

/-- Check 7: the section table keeps R353 and R354, and every ENTRY lies inside its instruction memory. -/
def tableOk (img : List Byte) : Bool :=
  (imgTable img).all (fun x =>
    x.zeros && x.ofs % 1024 == 0 && decide (imgTableEnd img ≤ x.ofs) && decide (x.ofs + x.len ≤ imgLen img) && x.destOk) &&
  apart (imgTable img) &&
  (List.range 7).all (fun p => decide (imgEntry img p / 2 * 2 < insnSize p))

/-- Check 8: the Deputy configuration suits the variant and the sections (R2). -/
def State.deputyOk (s : State) (img : List Byte) : Bool :=
  imgSplit img ||
  (!s.sq1 && (imgTable img).all (fun x => !((x.typ == 1 || x.typ == 2) && x.target == 5)))

/-- The first of checks 3 to 8 that fails, or 0. -/
def State.headerError (s : State) (img : List Byte) : Nat :=
  if !s.rangeOk img then 3
  else if !s.idrevOk img then 4
  else if !s.keyOk img then 5
  else if !signatureOk img then 6
  else if !tableOk img then 7
  else if !s.deputyOk img then 8
  else 0

/-! ## Codewords (R350, R355) -/

/-- The data of a codeword of strength `t`, none where it is uncorrectable (R281, R282). -/
def codewordData (t : Nat) (cw : List Byte) : Option (List Byte) :=
  match pageDecode t cw with
  | .bad _ => none
  | o => some o.data

/-- The data of codewords one after another, none where one is uncorrectable. -/
def codewordsData (t : Nat) : List (List Byte) → Option (List Byte)
  | [] => some []
  | cw :: l =>
    match codewordData t cw, codewordsData t l with
    | some a, some b => some (a ++ b)
    | _, _ => none

/-- A slot judged by checks 1 to 8 on its codewords: codeword 0, then those of the section table (R355, R356). -/
def State.judgeSlot (s : State) (cws : List (List Byte)) : SlotInfo :=
  match cws with
  | [] => { err := 1 }
  | c0 :: rest =>
    match pageDecode 40 c0 with
    | .erased => { err := 1 }
    | .bad _ => { err := 2 }
    | o =>
      let img := o.data
      if !s.rangeOk img then { err := 3, bytes := img }
      else
        let n := (imgTableEnd img + 1023) / 1024 - 1
        match codewordsData (4 * imgT img) (rest.take n) with
        | none => { err := 2, bytes := img }
        | some more =>
          if rest.length < n then { err := 2, bytes := img }
          else { err := s.headerError (img ++ more), bytes := img ++ more }

/-- The data of codewords one after another up to the first that is uncorrectable, and whether none is. -/
def codewordsRead (t : Nat) : List (List Byte) → List Byte × Bool
  | [] => ([], true)
  | cw :: l =>
    match codewordData t cw with
    | some a => (a ++ (codewordsRead t l).1, (codewordsRead t l).2)
    | none => ([], false)

/-- A section as it is read from the codewords of its slot: its bytes up to the first that cannot be read, and whether all can (R350, R353). -/
def sectionRead (cws : List (List Byte)) (hdr : List Byte) (x : Section) : List Byte × Bool :=
  let n := (x.len + 1023) / 1024
  let cs := (cws.drop (x.ofs / 1024)).take n
  let r := codewordsRead (4 * imgT hdr) cs
  (r.1.take x.len, r.2 && cs.length == n)

/-- The bytes of an image from its header and table and its codewords; a codeword that cannot be read holds zeros. -/
def imageBytes (cws : List (List Byte)) (hdr : List Byte) : List Byte :=
  let c := hdr.length / 1024
  hdr ++ ((cws.drop c).take (imgLen hdr / 1024 - c)).flatMap (fun cw =>
    (codewordData (4 * imgT hdr) cw).getD (List.replicate 1024 0))

end Sys2Proof.Machine
end

