-- ==== Sys2Proof/Machine/Deputy.lean ====
section
/-! DEFINITION. The Deputy pair in lockstep (R237 to R243): traffic classes, mismatches, the self-test's outcome, and agreement on
asynchronous inputs. The pair is held as processor 4; log entry 86 gives what of the copies the model holds. -/

namespace Sys2Proof.Machine

open Sys2Proof

/-- The state of the pair. -/
def State.depState (s : State) : Nat := s.fld R.DEP_STAT DEP_STAT.STATE

/-- The pair runs compared: lockstep with both copies. -/
def State.paired (s : State) : Bool := s.lockstep && s.depState == 0

/-- The copies of the pair do not present the same: one waits for the other's access, or for the acknowledgement of its proposal
(R237, R238). -/
def State.depDiffers (s : State) : Bool :=
  s.paired && (s.pr.deputy.accA != s.pr.deputy.accB || s.pr.deputy.proposal)

/-- Processor `p` is the pair, or a survivor, and neither executes nor issues an access: a mismatch is being handled, both copies are
halted, or one waits for the other. -/
def State.depStopped (s : State) (p : Nat) : Bool :=
  (p == 4 && s.lockstep && (s.depState == 1 || s.depState == 2)) || ((p == 4 || p == 5) && s.depState == 6) ||
  (p == 4 && s.depDiffers)

/-! ## What the copies present (R237) -/

/-- The copies present these accesses, or copy A a proposal; what has been presented since earlier keeps its time. -/
def State.present (s : State) (x y : Option DepAccess) (proposal : Bool) : State :=
  let d := s.pr.deputy
  let same := (x.isSome && x == d.accA) || (y.isSome && y == d.accB) || (proposal && d.proposal)
  { s with pr := { s.pr with deputy := { d with
    accA := x, accB := y, proposal := proposal, presentAt := if same then d.presentAt else s.now } } }

/-- The access the copies present alike is issued, or nothing is presented any longer. -/
def State.presentNone (s : State) : State :=
  { s with pr := { s.pr with deputy := { s.pr.deputy with accA := none, accB := none, proposal := false } } }

/-- Processor `p`, if it is the pair, presents an access of both copies, one outside private memory; any other processor has nothing to
compare. -/
def State.presentBoth (s : State) (p sys : Nat) (v : DepAccess) : State :=
  if p = 4 ∧ s.paired = true ∧ ¬ (privBase 4 ≤ sys ∧ sys < privBase 5) then s.present (some v) (some v) false else s

/-- Processor `p` issues the access it has presented. -/
def State.accessIssued (s : State) (p : Nat) : State := if p = 4 then s.presentNone else s

/-! ## Traffic classes (R239) -/

/-- A local address at `a` lies in the channel domain, or is a register of it outside its blocks (R24, R30). -/
def channelDomain (a : Nat) : Bool :=
  (0x40000000 ≤ a && a < 0x400A0000) || (0x50000000 ≤ a && a < 0x50800000) || (0x60000000 ≤ a && a < 0x60020000) ||
  (0x600C0000 ≤ a && a < 0x600D0000) || (0x60100000 ≤ a && a < 0x60110000) || (0x60190000 ≤ a && a < 0x601A0000) ||
  (match regAt a with | some (r, _) => r.dom == .C | none => false)

/-- A local address lies in the staging and shift-change block. -/
def stagingBlock (a : Nat) : Bool := 0x60070000 ≤ a && a < 0x60080000

/-- A key register: one that acts only on a write that carries its key. -/
def keyRegister (a : Nat) : Bool := a == R.MODE_CTL || a == R.MODE_REL || a == R.RST_REQ || a == R.TS_SVC

/-- An access is of the Actuation class: a Pit-world write to the channel domain, which holds the protection registers, to the
staging and shift-change block or to a key register, at whatever address it reaches them (R33, R35). -/
def State.actuation (s : State) (x : DepAccess) : Bool :=
  let a := x.addr.toNat
  let a := if a < 0x80000000 then a else s.fld (R.APWIN 4) APWIN.BASE * 0x80000000 + (a - 0x80000000)
  -- the device's own position in the cascade range (R33)
  let a := if s.inCascade = true ∧ 0x010000000000 ≤ a ∧ a < 0x010800000000 ∧ (a - 0x010000000000) / 0x100000000 = s.ownId then
      a % 0x100000000
    else a
  x.world == .pit && x.write &&
    (channelDomain a || stagingBlock a || keyRegister (a - a % 4) || (0x80000000 ≤ a && a < 0x80200000))

/-! ## Mismatches (R240) -/

/-- A mismatch of the accesses presented, or of a proposal: both copies stop and the self-test begins; of the Actuation class the device
enters HOLD at once (R241). -/
def State.depMismatch (s : State) (x y : Option DepAccess) (proposal : Bool) : State :=
  let k := R.DEP_STAT
  let act := !proposal && [x, y].any (fun o => match o with | some v => s.actuation v | none => false)
  let addr : Word := if proposal then 0 else match x with | some v => v.addr | none => 0
  let s := (s.raise k DEP_STAT.MISMATCH).count k DEP_STAT.MIS_CNT
  let s := s.setF k DEP_STAT.CLASS (if act then 0 else 1)
  let s := (s.setReg R.DEP_MIS_ADDR addr).setF k DEP_STAT.STATE 1
  let s := { s with pr := { s.pr with deputy := { s.pr.deputy with since := s.now, accA := x, accB := y, proposal := false } } }.wdogPause
  if act then (s.report 0xA7 0x0041 clsSafety addr).holdTrigger 2 else s

/-- DEPUTY_MISMATCH: what the copies present at the comparison. Two differing accesses are a mismatch at once; what one copy presents
alone, an access or a proposal, is withheld and waits for the other copy (R237, R240). -/
def execDeputyMismatch (dt : Nat) (accA accB : Option DepAccess) (proposal : Bool) (s : State) : Out :=
  run dt s (fun s =>
    if s.paired = true then
      if proposal = false ∧ accA.isSome = true ∧ accB.isSome = true ∧ accA ≠ accB then s.depMismatch accA accB false
      else s.present accA accB proposal
    else s)

/-- What is presented by one copy alone, or proposed, has been so for 1 µs: the access of the copy that presents one is the one it
presents here. -/
def State.depWaited (s : State) (accA accB : Option DepAccess) (proposal : Bool) : Bool :=
  let d := s.pr.deputy
  decide (200000 ≤ Time.since d.presentAt s.now) &&
    (if proposal then d.proposal
     else (accA.isSome && accB.isNone && accA == d.accA) || (accB.isSome && accA.isNone && accB == d.accB))

/-- DEPUTY_TIMEOUT: one copy presents an access or a proposal and nothing matching, or no acknowledgement, follows within 1 µs
(R240). -/
def execDeputyTimeout (dt : Nat) (accA accB : Option DepAccess) (proposal : Bool) (s : State) : Out :=
  run dt s (fun s =>
    if s.paired = true ∧ s.depWaited accA accB proposal = true then s.depMismatch accA accB proposal else s)

/-! ## The self-test (R241 to R243) -/

/-- A copy is fenced, and the survivor continues alone (R243). -/
def State.fenceCopy (s : State) (copyB : Bool) : State :=
  let k := R.DEP_STAT
  let s := s.setF k (if copyB then DEP_STAT.FENCED_B else DEP_STAT.FENCED_A) 1
  (s.setF k DEP_STAT.STATE (if copyB then 3 else 4)).limpCause 0

/-- The load has not been issued: nothing has returned for it and no request of it is out. -/
def PendLoad.unissued (l : PendLoad) : Bool := l.tag.isNone && l.data.isNone && !l.err

/-- The survivor of a fence issues the access it presented at the mismatch as it presented it (R241): processor 4 continues with it
in place of the one the pair withheld, which no copy issues. A read that stands for no load of the pair's own is made and its data
discarded. -/
def State.issueAsPresented (s : State) (copyB : Bool) : State :=
  let c := s.core 4
  let v := if copyB then s.pr.deputy.accA else s.pr.deputy.accB
  let withheld := (s.flow 4).load.filter PendLoad.unissued
  let issued := (s.flow 4).load.filter (fun l => !l.unissued)
  let s := s.presentNone.updFlow 4 (fun q => { q with
    stores := q.stores.filter (fun b => b.tag.isSome), load := issued })
  match v with
  | none => s
  | some v =>
    let x := s.localToSystem 4 v.addr.toNat
    if v.write then
      s.updFlow 4 (fun q => { q with stores := q.stores ++
        [{ addr := x, va := v.addr, size := v.size, data := v.data, world := v.world, sup := c.sup }] })
    else
      let l : PendLoad := withheld.getD { addr := x, va := v.addr, size := v.size, signed := false, float := false, rd := 0,
                                          world := v.world, sup := c.sup, next := c.pc }
      s.updFlow 4 (fun q => { q with load := some { l with addr := x, va := v.addr, size := v.size, world := v.world } })

/-- Both copies fail: they are halted, and the device enters HOLD. -/
def State.haltPair (s : State) : State := (s.setF R.DEP_STAT DEP_STAT.STATE 6).holdTrigger 3

/-- DEPUTY_SELF_TEST_DONE: 38 µs after the mismatch the outcome is applied by class (R241). -/
def execDeputySelfTestDone (dt : Nat) (passA passB : Bool) (s : State) : Out :=
  run dt s (fun s =>
    if s.lockstep = true ∧ s.depState = 1 ∧ 7600000 ≤ Time.since s.pr.deputy.since s.now then
      let service := s.flag R.DEP_STAT DEP_STAT.CLASS
      let addr := s.reg R.DEP_MIS_ADDR
      let tell := fun (s : State) (code cls : Nat) (d : Word) => if service then s.report 0xA7 code cls d else s
      match passA, passB with
      | true, true => (tell s 0x0043 clsCorr addr).setF R.DEP_STAT DEP_STAT.STATE 2
      | false, true => (tell ((s.fenceCopy false).issueAsPresented false) 0x0042 clsUncorr 0).wdogGo
      | true, false => (tell ((s.fenceCopy true).issueAsPresented true) 0x0042 clsUncorr 1).wdogGo
      | false, false => (tell s 0x0044 clsSafety addr).haltPair.wdogGo
    else s)

/-- The entries of a map from `b + n` up to `b + 2n` become those from `b` up to `b + n`. -/
def copyUp {α : Type} (b n : Nat) (m : AMap α) : AMap α :=
  m.filter (fun e => decide (e.1 < b + n)) ++
    (m.filter (fun e => decide (b ≤ e.1 ∧ e.1 < b + n))).map (fun e => (e.1 + n, e.2)) ++
    m.filter (fun e => decide (b + 2 * n ≤ e.1))

/-- Both private memories of copy A are copied into copy B: regions 4 and 5 (R242, R271). A word with an error is corrected as it is read
and written with new check bits (R276, R277); an uncorrectable one is copied with its error (log entry 86). -/
def State.copyDeputy (s : State) : State :=
  let bad := s.ecc.filter (fun e => decide (privBase 4 ≤ e.1 ∧ e.1 < privBase 5))
  let s := { s with mem := copyUp (privBase 4) 0x01000000 s.mem, ecc := copyUp (privBase 4) 0x01000000 s.ecc }
  forAll bad s (fun s e =>
    match s.deliverMem e.1 with
    | (w, true, s) => (s.setWord (e.1 + 0x01000000) w).setEcc (e.1 + 0x01000000) 0
    | (_, false, s) => s)

/-- DEPUTY_RESYNC_DONE: the memory copy is complete and the Deputy core reset is released (R242). -/
def execDeputyResyncDone (dt : Nat) (s : State) : Out :=
  runMem dt s (fun s =>
    if s.lockstep = true ∧ s.depState = 2 then
      let s := (s.copyDeputy.coreReset 4 4).wdogGo
      (s.setF R.DEP_STAT DEP_STAT.STATE 0).count R.DEP_STAT DEP_STAT.RESYNC_CNT
    else s)

/-! ## Agreement (R238) -/

/-- A service request that QUIESCE of the pair would observe: a Deputy slice waits. -/
def State.depService (s : State) : Bool := s.ts.slices.any (fun x => x.y == 4 && x.stage == 4)

/-- The value of an asynchronous input as copy A samples it. -/
def State.depInput (s : State) : DepInput → Bool
  | .interrupt => (s.deliverable 4).isSome
  | .wake => (s.deliverable 4).isSome || s.pr.deputy.haltReq
  | .halt => s.pr.deputy.haltReq
  | .service => s.depService

/-- What the copies have agreed on was agreed at the present instruction boundary: at this count of retired instructions. -/
def State.agreedHere (s : State) : Bool := s.pr.deputy.agreedAt == (s.flow 4).retired

/-- What the pair has agreed on at the present boundary; what was agreed at an earlier one no longer holds. -/
def State.agreements (s : State) : Deputy :=
  let d := s.pr.deputy
  let d := { d with proposal := false }
  if s.agreedHere then d
  else { d with agreedAt := (s.flow 4).retired, agreedIrq := false, agreedWake := false, agreedService := false }

/-- DEPUTY_AGREEMENT: copy B acknowledges the value copy A has sampled, at the same count of retired instructions, and both act on
it at that boundary (R238). -/
def execDeputyAgreement (dt : Nat) (i : DepInput) (v : Bool) (s : State) : Out :=
  run dt s (fun s =>
    if s.paired = true ∧ s.depInput i = v then
      let d := s.agreements
      match i with
      | .interrupt => { s with pr := { s.pr with deputy := { d with agreedIrq := v } } }
      | .wake => { s with pr := { s.pr with deputy := { d with agreedWake := v } } }
      | .service => { s with pr := { s.pr with deputy := { d with agreedService := v } } }
      | .halt =>
        if v then
          { s with pr := { s.pr with deputy := { d with haltReq := false } } }.updFlow 4 (fun q =>
            { q with halted := true, waiting := false })
        else { s with pr := { s.pr with deputy := d } }
    else s)

end Sys2Proof.Machine
end

