-- ==== Sys2Proof/Machine/Service.lean ====
section
/-! DEFINITION. Self-test in slices (R369 to R380), the Canary (R381), gate-output loop-back (R375), service commands (R382,
R383) and test access (R385). Log entry 88 gives how a slice waits and starts. -/

namespace Sys2Proof.Machine

open Sys2Proof

/-! ## Slices: what they need -/

/-- A write to the block that only Pit-world Supervisor may make; every other is handled as in R19 (R382). -/
def tsOnly (a : Access) (k : Nat) (s : State) (f : State → Wr) : Wr :=
  if a.world = .pit ∧ a.sup = true then f s else (s.refuse19 a k, false)

/-- The duration of the test of a slice in µs (R369, R376). -/
def sliceUs (y : Nat) (budget : Bool) : Nat :=
  match y with
  | 0 => 120 | 1 => 40 | 2 => 60 | 3 => if budget then 150 else 900 | _ => 38

/-- Devices present, the device itself among them (R401). -/
def State.presentCount (s : State) : Nat :=
  ((List.range 8).filter (fun d => d == s.ownId || s.fld R.SHL_STAT SHL_STAT.PRESENT / 2 ^ d % 2 == 1)).length

/-- TS_STAT.BUDGET: budget mode (R380). -/
def State.budget (s : State) : Bool := s.inCascade && decide (3 ≤ s.presentCount)

/-- The whole length of a slice in µs, with the hand-overs at each end (R369, R380); one that tests the path of a withdrawn face directly has
none (R384). -/
def State.sliceLen (s : State) (y target : Nat) : Nat :=
  let f := target / 16
  let handOver := fun (sh : Nat) => (2 * (sh + 1) * s.periodOf target + 199999) / 200000
  let extra :=
    if y = 0 then if s.faceOut f then 0 else handOver (s.fld (R.FACE_SBY_CTL f) FACE_SBY_CTL.SHADOW)
    else if y = 2 then handOver (s.fld (R.FACE_SPR_CTL f) FACE_SPR_CTL.SHADOW)
    else 0
  sliceUs y s.budget + extra

/-- A slice that has left the queue and has not ended. -/
def Slice.live (x : Slice) : Bool := x.stage != 0

/-- Power leaves room for a slice (R379): two faces with slices of types 0 to 2, one processor slice. -/
def State.powerRoom (s : State) (y target : Nat) : Bool :=
  let on := s.ts.slices.filter Slice.live
  if y ≤ 2 then
    let faces := ((on.filter (fun (x : Slice) => decide (x.y ≤ 2))).map (fun (x : Slice) => x.target / 16) ++ [target / 16]).eraseDups
    decide (faces.length ≤ 2)
  else !on.any (fun (x : Slice) => decide (3 ≤ x.y))

/-- The unit of a slice is marked failed (R371). -/
def State.sliceFailed (s : State) (y target : Nat) : Bool :=
  if y ≤ 2 then s.bankBit (R.TS_FAILED_CH 0) target
  else if y = 3 then s.fieldBit R.TS_FAILED_UNIT TS_FAILED_UNIT.HEWER target
  else if s.lockstep then s.fld R.TS_FAILED_UNIT TS_FAILED_UNIT.DEP != 0
  else s.fieldBit R.TS_FAILED_UNIT TS_FAILED_UNIT.DEP target

/-- The number of targets of a slice type: channels, Hewers, the pair or its two split cores. -/
def State.sliceTargets (s : State) (y : Nat) : Nat := if y ≤ 2 then 128 else if y = 3 then 4 else if s.lockstep then 1 else 2

/-- The sequencer leaves the target out (R371). -/
def State.sliceExcluded (s : State) (y target : Nat) : Bool :=
  (if y ≤ 2 then s.bankBit (R.TS_MASK_CH 0) target
   else if y = 3 then s.fld (R.TS_CFG 3) TS_CFG.HEXCL / 2 ^ target % 2 == 1
   else false) || s.sliceFailed y target

/-- The sequencer's next target, in ascending order (R371). -/
def State.nextSlice (s : State) (y : Nat) : Option Nat :=
  let n := s.sliceTargets y
  let from_ := AMap.get 0 s.ts.nextTarget y
  ((List.range n).map (fun i => (from_ + i) % n)).find? (fun t => !s.sliceExcluded y t)

/-! ## Slices: beginning -/

/-- A slice whose room or grant has come begins: it takes its unit over, or waits for a QUIESCE (R369, R372, R376, R384). -/
def State.startSlice (s : State) (sl : Slice) : State :=
  let f := sl.target / 16
  let k := sl.target % 16
  let test := { sl with stage := 2, begun := some s.now }
  match sl.y with
  | 0 =>
    if s.faceOut f then s.putSlice sl { test with direct := true }
    else
      let t := s.sbyCommand f 1 k true
      if t.flag (R.FACE_SBY_STAT f) FACE_SBY_STAT.PEND ∧ s.flag (R.FACE_SBY_STAT f) FACE_SBY_STAT.PEND = false then
        t.putSlice sl { sl with stage := 1 }
      else s.skipSlice sl
  | 1 => (s.putSlice sl test).beginStandIn sl.target false
  | 2 =>
    let t := s.sprCommand f 1 k true
    if t.flag (R.FACE_SPR_STAT f) FACE_SPR_STAT.PEND ∧ s.flag (R.FACE_SPR_STAT f) FACE_SPR_STAT.PEND = false then
      t.putSlice sl { sl with stage := 1 }
    else s.skipSlice sl
  | _ =>
    if sl.y = 3 ∧ s.unitWithdrawn 2 sl.target = true then s.skipSlice sl
    else s.putSlice sl { sl with stage := 4, since := s.now }

/-- The slice time granted to device `d` within the latest 10 ms, in tq. -/
def State.grantedTime (s : State) (d : Nat) : Nat :=
  (s.ts.granted.filter (fun x => x.1 == d && decide (Time.since x.2.1 s.now < 2000000000))).foldl (fun a x => a + x.2.2) 0

/-- The master's answer to a request of device `d` for a slice of `us` µs (R380); a grant is recorded. -/
def State.grant (s : State) (d us : Nat) : Bool × State :=
  if us ≤ 150 ∧ s.grantedTime d + us * 200000 ≤ 200000000 then
    let keep := s.ts.granted.filter (fun x => decide (Time.since x.2.1 s.now < 2000000000))
    (true, { s with ts := { s.ts with granted := keep ++ [(d, s.now, us * 200000)] } })
  else (false, s)

/-- The cascade master this device follows: the device of lowest position heard as master. -/
def State.masterPos (s : State) : Nat := s.io.link.master.getD 0

/-- A slice waits for room or a grant: in budget mode the master is asked, in power mode it starts if there is room. -/
def State.askSlice (s : State) (sl : Slice) : State :=
  if s.budget then
    let us := s.sliceLen sl.y sl.target
    if s.isMaster then
      match s.grant s.ownId us with
      | (true, s) => s.startSlice sl
      | (false, s) => s
    else
      { s with ts := { s.ts with asked := s.ts.asked ++ [(sl.y, sl.target, s.now)] } }.sendCtrl 0x0A false s.masterPos [BitVec.ofNat 32 us]
  else if s.powerRoom sl.y sl.target then s.startSlice sl
  else s

/-- A slice is wanted of a type and target: it is skipped at once in the cases of R372 that hold now, else it waits. -/
def State.wantSlice (s : State) (y target : Nat) : State :=
  let noStandIn := y == 1 && s.adcSrc target == 0 && (s.srcAction target 1 != 0 || s.srcAction target 2 != 0)
  let out := y == 3 && s.unitWithdrawn 2 target
  if noStandIn || out then s.skipped y target
  else
    let sl : Slice := { y := y, target := target, stage := 0, since := s.now }
    ({ s with ts := { s.ts with slices := s.ts.slices ++ [sl] } }).askSlice sl

/-- INTERVAL of a slice type in tq. -/
def State.sliceInterval (s : State) (y : Nat) : Time :=
  BitVec.ofNat 64 (Nat.max 1 (s.fld (R.TS_CFG y) TS_CFG.INTERVAL) * 200000000)

/-- A write to TS_CFG: enabling a type starts its interval. -/
def writeTsCfg (a : Access) (y : Nat) (w : Word) (s : State) : Wr :=
  let k := R.TS_CFG y
  tsOnly a k s (fun s => wordWrite a k w s (fun w s =>
    let was := s.flag k TS_CFG.EN
    let s := s.fieldWrite k w
    okWr (if !was && s.flag k TS_CFG.EN then
        { s with ts := { s.ts with nextDue := AMap.set none s.ts.nextDue y (some (s.now + s.sliceInterval y)) } }
      else s)))

/-- A write to another register of the block that acts by its field types alone. -/
def writeTsReg (a : Access) (k : Nat) (w : Word) (s : State) : Wr :=
  tsOnly a k s (fun s => wordWrite a k w s (fun w s => okWr (s.fieldWrite k w)))

/-- SLICE_DUE: the interval of type `y` has run out, so a slice falls due; or a slice of the type that waits finds room (R371,
R379). -/
def execSliceDue (dt : Nat) (y : Fin 5) (s : State) : Out :=
  run dt s (fun s =>
    match s.ts.slices.find? (fun x => x.y == y.val && x.stage == 0) with
    | some sl => if s.budget then s else s.askSlice sl
    | none =>
      match AMap.get none s.ts.nextDue y with
      | some t =>
        if s.flag (R.TS_CFG y) TS_CFG.EN && Time.reached s.now t then
          let s := { s with ts := { s.ts with nextDue := AMap.set none s.ts.nextDue y (some (t + s.sliceInterval y)) } }
          if s.mode = mRun ∨ s.mode = mLimp then
            match s.nextSlice y with
            | some n =>
              let s := { s with ts := { s.ts with nextTarget := AMap.set 0 s.ts.nextTarget y ((n + 1) % s.sliceTargets y) } }
              s.wantSlice y n
            | none => s
          else s
        else s
      | none => s)

/-- The act of a write to TS_REQ (R371). -/
def State.tsReq (s : State) (w : Word) : State :=
  if TS_REQ.GO.get w = 0 then s
  else if s.mode = mLoad ∨ s.mode = mPark then s.raise R.TS_STAT TS_STAT.SKIP
  else
    let y := TS_REQ.TYPE.get w
    let n := if y = 4 then (s.nextSlice 4).getD 0 else TS_REQ.TARGET.get w
    if 4 < y ∨ (y = 3 ∧ 3 < n) ∨ s.sliceFailed y n = true then s else s.wantSlice y n

/-- A write to TS_REQ. -/
def writeTsReq (a : Access) (w : Word) (s : State) : Wr :=
  tsOnly a R.TS_REQ s (fun s => wordWrite a R.TS_REQ w s (fun w s => okWr (s.tsReq w)))

/-- TS_REQ_GO (R371): GO = 1. -/
def execTsReqGo (dt : Nat) (a : Access) (w : Word) (s : State) : Out :=
  run dt s (fun s => settle a R.TS_REQ (writeTsReq a (TS_REQ.GO.put w 1) s))

/-- SLICE_GRANT_TIMEOUT: 1 ms after it fell due a slice has had no room or grant, and is skipped (R372, R380). -/
def execSliceGrantTimeout (dt : Nat) (s : State) : Out :=
  run dt s (fun s =>
    match s.ts.slices.find? (fun x => x.stage == 0 && decide (200000000 ≤ Time.since x.since s.now)) with
    | some sl => s.skipSlice sl
    | none => s)

/-- SLICE_QUIESCE_TIMEOUT: no qualifying QUIESCE has followed within 10 ms (R372). -/
def execSliceQuiesceTimeout (dt : Nat) (y : Fin 5) (s : State) : Out :=
  run dt s (fun s =>
    match s.ts.slices.find? (fun x => x.y == y.val && x.stage == 4 && decide (2000000000 ≤ Time.since x.since s.now)) with
    | some sl => s.skipSlice sl
    | none => s)

/-! ## Slices: ending -/

/-- A processor slice of type 4 ends (R241, R243, R377). In lockstep the outcome is told to Tally as the Service rows of R241 tell it. -/
def State.endDeputySlice (s : State) (sl : Slice) (passA passB : Bool) : State :=
  let p := if s.lockstep then 4 else 4 + sl.target
  let s := s.wdogGo.letGo p
  if s.lockstep = false then
    if (if sl.target = 0 then passA else passB) then s.passSlice sl
    else
      let s := (s.setF R.DEP_STAT (if sl.target = 0 then DEP_STAT.FENCED_A else DEP_STAT.FENCED_B) 1).limpCause 0
      (s.updCore p (fun c => { c with running := false, starting := false })).failSlice sl (2 ^ sl.target)
  else
    let aIn := !s.flag R.DEP_STAT DEP_STAT.FENCED_A
    let bIn := !s.flag R.DEP_STAT DEP_STAT.FENCED_B
    let failA := aIn && !passA
    let failB := bIn && !passB
    let bits := failA.toNat + 2 * failB.toNat
    if bits = 0 then s.passSlice sl
    else if (failA || !aIn) && (failB || !bIn) then
      (s.report 0xA7 0x0044 clsSafety (s.reg R.DEP_MIS_ADDR)).haltPair.failSlice sl bits
    else ((s.fenceCopy failB).report 0xA7 0x0042 clsUncorr (BitVec.ofNat 32 failB.toNat)).failSlice sl bits

/-- The test of a slice is over: its unit returns, or the slice fails (R370, R373, R376, R378). -/
def State.endSlice (s : State) (sl : Slice) (t : Time) (passA passB : Bool) : State :=
  let us := Time.since t s.now / 200000
  let new := { sl with dur := sl.dur + us }
  let s := s.putSlice sl new
  let f := sl.target / 16
  let k := sl.target % 16
  match sl.y with
  | 0 =>
    if passA = false then s.failSlice new 0
    else if sl.direct = false ∧ s.fld (R.FACE_SBY_STAT f) FACE_SBY_STAT.STATE = 2 ∧ s.fld (R.FACE_SBY_STAT f) FACE_SBY_STAT.CUR_TARGET = k then
      (s.putSlice new { new with stage := 3 }).sbyCommand f 2 k true
    else s.passSlice new
  | 1 =>
    let s := (s.endStandIn sl.target false).endStandIn sl.target true
    if passA && passB then s.passSlice new else s.failSlice new ((!passA).toNat + 2 * (!passB).toNat)
  | 2 => if passA then (s.putSlice new { new with stage := 3 }).sprCommand f 2 k true else s.failSlice new 0
  | 3 =>
    if passA = false then s.failSlice new 0
    else
      let s := s.letGo sl.target
      if s.budget ∧ sl.part < 5 then
        let again := { new with part := sl.part + 1, stage := 0, since := s.now, begun := none }
        (s.putSlice new again).askSlice again
      else s.passSlice new
  | _ => s.endDeputySlice new passA passB

/-- SLICE_END: the duration of R369 has passed since the test of a slice of type `y` began; the test's outcome is presented, of
both comparators or both copies where there are two. -/
def execSliceEnd (dt : Nat) (y : Fin 5) (passA passB : Bool) (s : State) : Out :=
  run dt s (fun s =>
    let due := fun (x : Slice) => match x.begun with
      | some t => x.y == y.val && x.stage == 2 && decide (sliceUs y s.budget * 200000 ≤ Time.since t s.now)
      | none => false
    match s.ts.slices.find? due with
    | some sl => match sl.begun with
      | some t => s.endSlice sl t passA passB
      | none => s
    | none => s)

/-! ## Gate-output loop-back and Canary (R375, R381) -/

/-- A gate pin can have differed from its commanded level for 50 ns: the comparison was suspended for 30 ns after each commanded change
(R375; log entry 116). -/
def State.pinCompared (s : State) (n : Nat) (d : Side) : Bool :=
  (s.pinChanges n d).all (fun t => decide (16000 ≤ Time.since t s.now))

/-- LOOPBACK_MISMATCH: the level read back at a gate pin is not the commanded one, State.pin, and has not been for 50 ns (R375). -/
def execLoopbackMismatch (dt : Nat) (n : Fin 128) (o : Side) (s : State) : Out :=
  run dt s (fun s =>
    let pin : Nat := match o with | .hi => 0 | .lo => 1
    if s.pinCompared n o then
      (s.setBankBit (R.TS_FAILED_CH 0) n true).report n 0x0092 clsSafety (BitVec.ofNat 32 pin)
    else s)

/-- The FACE_LOST cause clears when no face has its FVREF fault and none is marked failed (R335). -/
def State.faceLostCheck (s : State) : State :=
  if (List.range 8).any (fun f => s.flag (R.FACE_VREF_STAT f) FACE_VREF_STAT.FAULT ||
      s.fieldBit R.TS_FAILED_UNIT TS_FAILED_UNIT.FACE f) then s
  else s.limpClear 2

/-- A measurement lies out of its band (R381). -/
def State.outOfBand (s : State) (f : Nat) (q : CanaryQty) (mv code : Nat) : Bool :=
  match q with
  | .fvref => decide (code < 32736) || decide (32800 < code)
  | .vdda => decide (mv < 1710) || decide (1890 < mv)
  | .vddio =>
    let v := if s.flag (R.CNY_CFG f) CNY_CFG.VIO_5V then 5000 else 3300
    decide (10 * mv < 9 * v) || decide (11 * v < 10 * mv)

/-- The number of a quantity in the Canary's counts. -/
def canaryIdx : CanaryQty → Nat
  | .fvref => 0
  | .vdda => 1
  | .vddio => 2

/-- The flag of a quantity sets, with its report (R335, R381). -/
def State.canaryFlag (s : State) (f : Nat) (q : CanaryQty) (mv : Nat) : State :=
  let k := R.CNY_STAT f
  let d := BitVec.ofNat 32 mv
  match q with
  | .fvref =>
    if s.flag k CNY_STAT.VREF_FAULT then s
    else
      let s := (s.setF k CNY_STAT.VREF_FAULT 1).setF (R.FACE_VREF_STAT f) FACE_VREF_STAT.FAULT 1
      (s.report (0x80 + f) 0x00A0 clsUncorr d).limpCause 2
  | .vdda =>
    let was := s.flag k CNY_STAT.VDDA_OUT
    let s := s.raise k CNY_STAT.VDDA_OUT
    if was then s else s.report (0x80 + f) 0x00A1 clsUncorr d
  | .vddio =>
    let was := s.flag k CNY_STAT.VIO_OUT
    let s := s.raise k CNY_STAT.VIO_OUT
    if was then s else s.report (0x80 + f) 0x00A2 clsSafety d

/-- CANARY_MEASUREMENT (R381): one measurement of a quantity, in mV and, of FVREF, as a code. -/
def execCanaryMeasurement (dt : Nat) (f : Fin 8) (q : CanaryQty) (mv code : Nat) (s : State) : Out :=
  run dt s (fun s =>
    if s.flag (R.CNY_CFG f) CNY_CFG.EN && s.mode != mPark then
      let s := if q = .fvref then s.setF (R.CNY_STAT f) CNY_STAT.VREF code else s
      let i := 4 * f.val + canaryIdx q
      let out := s.outOfBand f q mv code
      let o := if out then satInc 4 (AMap.get 0 s.ts.outCnt i) else 0
      let n := if out then 0 else satInc 16 (AMap.get 0 s.ts.inCnt i)
      let s := { s with ts := { s.ts with outCnt := AMap.set 0 s.ts.outCnt i o, inCnt := AMap.set 0 s.ts.inCnt i n } }
      if o = 4 then s.canaryFlag f q mv
      else if q = .fvref ∧ n = 16 ∧ s.flag (R.FACE_VREF_STAT f) FACE_VREF_STAT.FAULT = true then
        ((s.setF (R.CNY_STAT f) CNY_STAT.VREF_FAULT 0).setF (R.FACE_VREF_STAT f) FACE_VREF_STAT.FAULT 0).faceLostCheck
      else s
    else s)

/-- A write to CNY_CFG or to the W1C fields of CNY_STAT. -/
def writeCanary (a : Access) (k : Nat) (w : Word) (s : State) : Wr :=
  pitOnly a k s (fun s => wordWrite a k w s (fun w s => okWr (s.fieldWrite k w)))

/-- FVREF_READY: FVREF of a face has settled (R358, R438). -/
def execFvrefReady (dt : Nat) (f : Fin 8) (s : State) : Out :=
  run dt s (fun s => s.setF (R.FACE_VREF_STAT f) FACE_VREF_STAT.READY 1)

/-! ## Service commands (R382, R383) -/

/-- A service command is refused (R383). -/
def State.serviceBad (s : State) (cmd unit idx : Nat) : Bool :=
  s.flag R.TS_WD_UNIT TS_WD_UNIT.BUSY || !s.unitNamed unit idx || cmd == 0 || cmd == 3 ||
  (cmd == 1) == s.unitWithdrawn unit idx

/-- The act of a write to TS_SVC; one with another KEY does nothing. -/
def State.tsSvc (s : State) (w : Word) : State :=
  if TS_SVC.KEY.get w ≠ 0xC5 then s
  else
    let cmd := TS_SVC.CMD.get w
    let unit := TS_SVC.UNIT.get w
    let idx := TS_SVC.INDEX.get w
    if s.serviceBad cmd unit idx then s.raise R.TS_WD_UNIT TS_WD_UNIT.REJ
    else if s.unitSliced unit idx then
      ({ s with ts := { s.ts with waiting := some (cmd, unit, idx) } }).setF R.TS_WD_UNIT TS_WD_UNIT.BUSY 1
    else (s.doService cmd unit idx).faceLostCheck

/-- A write to TS_SVC. -/
def writeTsSvc (a : Access) (w : Word) (s : State) : Wr :=
  tsOnly a R.TS_SVC s (fun s => wordWrite a R.TS_SVC w s (fun w s => okWr (s.tsSvc w)))

/-- SERVICE_WITHDRAW (R383): CMD = 1. -/
def execServiceWithdraw (dt : Nat) (a : Access) (w : Word) (s : State) : Out :=
  run dt s (fun s => settle a R.TS_SVC (writeTsSvc a (TS_SVC.CMD.put w 1) s))

/-- SERVICE_RETURN (R383): CMD = 2. -/
def execServiceReturn (dt : Nat) (a : Access) (w : Word) (s : State) : Out :=
  run dt s (fun s => settle a R.TS_SVC (writeTsSvc a (TS_SVC.CMD.put w 2) s))

/-! ## Secrets and test access (R385) -/

/-- Debug or scan access is enabled: the OTP shadow and the digest in work are cleared first, and a report follows; scan only in HOLD or
with NOIMG set. -/
def State.enableAccess (s : State) (scan : Bool) : State :=
  let k := R.TS_SEC
  if scan ∧ ¬ (s.mode = mHold ∨ s.flag R.LOAD_STAT LOAD_STAT.NOIMG = true) then s
  else
    let s := s.setF k TS_SEC.CLEARED 1
    let s := { s with md := { s.md with otp := {} }, up := { s.up with lost := s.up.cmd != 0 } }
    (s.setF k (if scan then TS_SEC.SCAN else TS_SEC.DBG) 1).info 0x170 0x0093 (BitVec.ofNat 32 scan.toNat)

/-- DEBUG_ACCESS_ENABLE (R385). -/
def execDebugAccessEnable (dt : Nat) (scan : Bool) (s : State) : Out := run dt s (fun s => s.enableAccess scan)

end Sys2Proof.Machine
end

