-- ==== Sys2Proof/Machine/Serial.lean ====
section
/-! DEFINITION. The CAN FD controllers (R416, R417), the xSPI port (R418, R419), the gate-driver SPI masters (R420 to R422), and the
instructions of the test access port (R423). -/

namespace Sys2Proof.Machine

open Sys2Proof

/-- A write to a register of a block that both worlds write, acting by its field types alone (R18). -/
def writePlain (a : Access) (k : Nat) (w : Word) (s : State) : Wr := wordWrite a k w s (fun w s => okWr (s.fieldWrite k w))

/-- A write to a register of the channel domain that acts by its field types alone (R18). -/
def writePit (a : Access) (k : Nat) (w : Word) (s : State) : Wr := pitOnly a k s (fun s => writePlain a k w s)

/-! ## CAN FD (R416, R417, R425, R426) -/

/-- The quanta of a bit, times the prescaler: its length in 1/80 µs. -/
def bitLength (w : Word) : Nat := (CAN_NBT.BRP.get w + 1) * (1 + CAN_NBT.TSEG1.get w + CAN_NBT.TSEG2.get w)

/-- The bit timing keeps both rate limits: 1 Mbit/s nominal, 8 Mbit/s in the data phase (R416). -/
def State.canTimingOk (s : State) (i : Nat) : Bool :=
  decide (80 ≤ bitLength (s.reg (R.CAN_NBT i))) && decide (10 ≤ bitLength (s.reg (R.CAN_DBT i)))

/-- A write to CAN_CTL (R416). -/
def writeCanCtl (a : Access) (i : Nat) (w : Word) (s : State) : Wr :=
  let k := R.CAN_CTL i
  wordWrite a k w s (fun w s =>
    let s := s.fieldWrite k w
    okWr (if s.flag k CAN_CTL.EN && !s.canTimingOk i then
        (s.setF k CAN_CTL.EN 0).raise (R.CAN_STAT i) CAN_STAT.CFG_ERR
      else s))

/-- CAN_CTL_ENABLE: a write with EN set joins the bus, or is refused (R416). -/
def execCanCtlEnable (dt : Nat) (a : Access) (i : Fin 4) (w : Word) (s : State) : Out :=
  run dt s (fun s => settle a (R.CAN_CTL i) (writeCanCtl a i (CAN_CTL.EN.put w 1) s))

/-- CAN_TXREQ: buffers are requested; a bit reads 1 until its buffer is sent or withdrawn. -/
def execCanTxreq (dt : Nat) (a : Access) (i : Fin 4) (w : Word) (s : State) : Out :=
  run dt s (fun s => settle a (R.CAN_TXREQ i) (writePlain a (R.CAN_TXREQ i) w s))

/-- The hardware withdraws or finishes requests; a bit software sets at the same instant stays set (R5). -/
def State.canDone (s : State) (i : Nat) (m : Word) : State :=
  let k := R.CAN_TXREQ i
  s.put k (s.reg k &&& ~~~(m &&& ~~~(AMap.get 0 s.swSet k)))

/-- A write to CAN_TXABORT withdraws unsent requests. -/
def writeCanAbort (a : Access) (i : Nat) (w : Word) (s : State) : Wr :=
  wordWrite a (R.CAN_TXABORT i) w s (fun w s => okWr (s.put (R.CAN_TXREQ i) (s.reg (R.CAN_TXREQ i) &&& ~~~w)))

/-- CAN_TXABORT (R417). -/
def execCanTxabort (dt : Nat) (a : Access) (i : Fin 4) (w : Word) (s : State) : Out :=
  run dt s (fun s => settle a (R.CAN_TXABORT i) (writeCanAbort a i w s))

/-- Show how many frames the FIFO holds. -/
def State.canFill (s : State) (i : Nat) : State :=
  let n := (s.can i).fifo.length
  (s.setF (R.CAN_RXFILL i) CAN_RXFILL.FILL n).setF (R.CAN_STAT i) CAN_STAT.RX_NE (decide (n ≠ 0)).toNat

/-- A write to CAN_RXPOP discards the FIFO head. -/
def writeCanPop (a : Access) (i : Nat) (w : Word) (s : State) : Wr :=
  wordWrite a (R.CAN_RXPOP i) w s (fun _ s => okWr ((s.updCan i (fun c => { c with fifo := c.fifo.drop 1 })).canFill i))

/-- CAN_RXPOP (R417). -/
def execCanRxpop (dt : Nat) (a : Access) (i : Fin 4) (w : Word) (s : State) : Out :=
  run dt s (fun s => settle a (R.CAN_RXPOP i) (writeCanPop a i w s))

/-- The identifier as a slot holds it: an 11-bit one sits in bits [28:18]. -/
def canSlotId (f : CanFrame) : Nat := if f.ide then f.id % 0x20000000 else f.id % 0x800 * 0x40000

/-- Word `k` of a slot: the frame with its TIME (R417). -/
def canSlotWord (f : CanFrame) (t : Time) (k : Nat) : Word :=
  match k with
  | 0 => BitVec.ofNat 32 (f.ide.toNat * 0x80000000 + f.rtr.toNat * 0x40000000 + f.fdf.toNat * 0x20000000 + canSlotId f)
  | 1 => BitVec.ofNat 32 (f.brs.toNat * 0x80 + f.esi.toNat * 0x40 + f.dlc % 16)
  | 2 => t.truncate 32
  | 3 => (t >>> 32).truncate 32
  | k + 4 => wordAt f.data (4 * k)

/-- Word `k` of the FIFO head as it reads; an empty FIFO reads zero. -/
def State.canHead (s : State) (i k : Nat) : Word :=
  match (s.can i).fifo with
  | [] => 0
  | (f, t) :: _ => canSlotWord f t k

/-- An enabled filter passes the frame: same format, and equal identifier bits where the mask compares. -/
def State.canPasses (s : State) (i : Nat) (f : CanFrame) (k : Nat) : Bool :=
  let w := s.reg (R.CAN_FLT_ID i k)
  let m := s.reg (R.CAN_FLT_MASK i k)
  (CAN_FLT_ID.IDE.get w == f.ide.toNat) && ((w ^^^ BitVec.ofNat 32 (canSlotId f)) &&& m &&& 0x1FFFFFFF == 0)

/-- A frame is accepted into the FIFO of controller `i`, or meets it full (R417, R425). -/
def State.canAccept (s : State) (i : Nat) (f : CanFrame) (t : Time) : State :=
  let en := (List.range 32).filter (fun k => s.flag (R.CAN_FLT_ID i k) CAN_FLT_ID.EN)
  if en = [] ∨ en.any (s.canPasses i f) = true then
    if (s.can i).fifo.length < 64 then
      ((s.updCan i (fun c => { c with fifo := c.fifo ++ [(f, t)] })).canFill i).intEvent (704 + 4 * i)
    else s.raise (R.CAN_STAT i) CAN_STAT.RX_OVF
  else s

/-- The controller takes part in the bus. -/
def State.canOn (s : State) (i : Nat) : Bool :=
  s.flag (R.CAN_CTL i) CAN_CTL.EN && !s.flag (R.CAN_STAT i) CAN_STAT.BUS_OFF && s.mode != mPark

/-- CAN_FRAME_RECEIVE: a frame has been received whose SOF bit began `age` tq ago (R417). A CAN FD frame needs FD. -/
def execCanFrameReceive (dt : Nat) (i : Fin 4) (fr : CanFrame) (age : Nat) (s : State) : Out :=
  run dt s (fun s =>
    if s.canOn i && (!fr.fdf || s.flag (R.CAN_CTL i) CAN_CTL.FD) then s.canAccept i fr (s.now - BitVec.ofNat 64 age) else s)

/-- The frame in transmit buffer `b`. -/
def State.canBuffer (s : State) (i b : Nat) : CanFrame :=
  let w0 := (s.reg (R.CAN_TXBUF i b 0)).toNat
  let w1 := (s.reg (R.CAN_TXBUF i b 1)).toNat
  let ide := w0 / 0x80000000 % 2 == 1
  { ide := ide, rtr := w0 / 0x40000000 % 2 == 1, fdf := w0 / 0x20000000 % 2 == 1
    id := if ide then w0 % 0x20000000 else w0 / 0x40000 % 0x800
    brs := w1 / 0x80 % 2 == 1, esi := w1 / 0x40 % 2 == 1, dlc := w1 % 16
    data := (List.range 16).flatMap (fun j => bytesOf (s.reg (R.CAN_TXBUF i b (4 + j)))) }

/-- Rank of a frame in the bus's arbitration: the base identifier, an 11-bit frame before a 29-bit one, then the rest. -/
def canRank (f : CanFrame) : Nat :=
  let x := canSlotId f
  x / 0x40000 * 0x80000 + f.ide.toNat * 0x40000 + (if f.ide then x % 0x40000 else 0)

/-- The requested buffer that goes next: the first in identifier priority, the lowest among equals (R417). -/
def State.canNext (s : State) (i : Nat) : Option Nat :=
  let l := (List.range 32).filter (fun b => (s.reg (R.CAN_TXREQ i)).getLsbD b &&
    (!(s.canBuffer i b).fdf || s.flag (R.CAN_CTL i) CAN_CTL.FD))
  l.foldl (fun best b =>
    match best with
    | none => some b
    | some x => if canRank (s.canBuffer i b) < canRank (s.canBuffer i x) then some b else some x) none

/-- CAN_FRAME_SENT: the next buffer has been sent; with internal loop-back it is also received, with the instant its SOF bit began. How long
ago that was the rules do not say, as they leave the frame's length to ISO 11898-1: a free number of tq (log entry 114). -/
def execCanFrameSent (dt : Nat) (i : Fin 4) (s : State) : Out :=
  run dt s (fun s =>
    if s.canOn i && !s.flag (R.CAN_CTL i) CAN_CTL.LISTEN then
      match s.canNext i with
      | none => s
      | some b =>
        let f := s.canBuffer i b
        let m : Word := BitVec.ofNat 32 (2 ^ b)
        let s := ((s.canDone i m).raiseBits (R.CAN_TXSENT i) m).raise (R.CAN_STAT i) CAN_STAT.TXDONE
        if s.flag (R.CAN_CTL i) CAN_CTL.LOOP then
          let (age, s) := s.freshWord
          s.canAccept i f (s.now - age.zeroExtend 64)
        else s
    else s)

/-- BUS_OFF and PASSIVE take values; a change sets ERR_CHG, and going bus-off reports (R417, R426). -/
def State.canErr (s : State) (i : Nat) (off passive : Bool) : State :=
  let k := R.CAN_STAT i
  let wasOff := s.flag k CAN_STAT.BUS_OFF
  let chg := wasOff != off || s.flag k CAN_STAT.PASSIVE != passive
  let s := (s.setF k CAN_STAT.BUS_OFF off.toNat).setF k CAN_STAT.PASSIVE passive.toNat
  let s := s.raiseIf chg k CAN_STAT.ERR_CHG
  if off && !wasOff then s.info (0x17C + i) 0x00D0 0 else s

/-- CAN_BUS_OFF (R417). -/
def execCanBusOff (dt : Nat) (i : Fin 4) (s : State) : Out :=
  run dt s (fun s => if s.canOn i then s.canErr i true (s.flag (R.CAN_STAT i) CAN_STAT.PASSIVE) else s)

/-- CAN_BUS_ERROR: the error counters have changed, to values the bus decides; from 128 on the controller is error-passive
(R416). -/
def execCanBusError (dt : Nat) (i : Fin 4) (rec tec : Fin 256) (s : State) : Out :=
  run dt s (fun s =>
    if s.canOn i then
      let k := R.CAN_STAT i
      let s := (s.setF k CAN_STAT.REC rec).setF k CAN_STAT.TEC tec
      s.canErr i false (decide (128 ≤ rec.val) || decide (128 ≤ tec.val))
    else s)

/-- CAN_BUS_OFF_RECOVERY: with AUTO_REC the controller recovers as the standard allows, with its error counters at zero
(R417); in PARK it keeps only its wake detection (R342). -/
def execCanBusOffRecovery (dt : Nat) (i : Fin 4) (s : State) : Out :=
  run dt s (fun s =>
    let k := R.CAN_STAT i
    if s.mode != mPark && s.flag (R.CAN_CTL i) CAN_CTL.EN && s.flag (R.CAN_CTL i) CAN_CTL.AUTO_REC && s.flag k CAN_STAT.BUS_OFF then
      ((s.setF k CAN_STAT.REC 0).setF k CAN_STAT.TEC 0).canErr i false false
    else s)

/-! ## xSPI (R418, R419, R426) -/

/-- LOAD reads the flash (R358, R418): from its start until the last codeword has been read. -/
def State.loadReadsFlash (s : State) : Bool := s.md.loadStep == 1 || s.md.loadStep == 2

/-- A flash address lies in the slot that LIVE_SLOT names (R366, R419). -/
def State.inLiveSlot (s : State) (x : Nat) : Bool :=
  let b := s.slotBBase
  if s.fld R.LOAD_STAT LOAD_STAT.LIVE_SLOT = 0 then decide (x < b) else decide (b ≤ x) && decide (x < 2 * b)

/-- A program or erase command is refused (R419). -/
def State.slotRefuses (s : State) (addrEn : Bool) : Bool :=
  (addrEn && s.inLiveSlot (s.reg R.XSPI_ADDR).toNat) ||
  (!s.flag R.LOAD_STAT LOAD_STAT.NOIMG && !s.flag R.LOAD_STAT LOAD_STAT.DONE)

/-- The first `n` bytes of the window. -/
def State.windowBytes (s : State) (n : Nat) : List Byte := ((List.range 64).flatMap (fun i => bytesOf (s.reg (R.XSPI_WIN i)))).take n

/-- The command that a write to XSPI_CMD issues, of `len` data bytes: those of the window go out unless it is a read (R419). -/
def State.xspiOp (s : State) (w : Word) (len : Nat) : XspiOp :=
  let kind := XSPI_CMD.KIND.get w
  { kind := kind
    code := XSPI_CMD.CODE.get w
    addr := if XSPI_CMD.ADDR_EN.get w = 1 then some (s.reg R.XSPI_ADDR).toNat else none
    dummy := XSPI_CMD.DUMMY.get w
    len := len
    out := if kind = 0 then [] else s.windowBytes len }

/-- The act of a write to XSPI_CMD; in PARK, where the port is powered down, none starts (R342). -/
def State.xspiCommand (s : State) (w : Word) : State :=
  let kind := XSPI_CMD.KIND.get w
  let en := XSPI_CMD.ADDR_EN.get w == 1
  if s.flag R.XSPI_STAT XSPI_STAT.BUSY ∨ s.mode = mPark then s
  else if 2 ≤ kind ∧ s.slotRefuses en = true then
    (s.raise R.XSPI_STAT XSPI_STAT.SLOT_REJ).info 0x180 0x00D8 (s.reg R.XSPI_ADDR)
  else
    let len := Nat.min 256 (s.fld R.XSPI_LEN XSPI_LEN.VAL)
    { (s.setF R.XSPI_STAT XSPI_STAT.BUSY 1) with io := { s.io with xspi := some (s.xspiOp w len) } }

/-- A write to XSPI_CMD. -/
def writeXspiCmd (a : Access) (w : Word) (s : State) : Wr :=
  wordWrite a R.XSPI_CMD w s (fun w s => okWr (s.xspiCommand w))

/-- A write to XSPI_CMD of one kind. -/
def State.xspiRow (s : State) (a : Access) (kind : Nat) (w : Word) : State :=
  settle a R.XSPI_CMD (writeXspiCmd a (XSPI_CMD.KIND.put w kind) s)

/-- XSPI_READ (R419). -/
def execXspiRead (dt : Nat) (a : Access) (w : Word) (s : State) : Out := run dt s (fun s => s.xspiRow a 0 w)

/-- XSPI_WRITE (R419). -/
def execXspiWrite (dt : Nat) (a : Access) (w : Word) (s : State) : Out := run dt s (fun s => s.xspiRow a 1 w)

/-- XSPI_PROGRAM (R419). -/
def execXspiProgram (dt : Nat) (a : Access) (w : Word) (s : State) : Out := run dt s (fun s => s.xspiRow a 2 w)

/-- XSPI_ERASE (R419). -/
def execXspiErase (dt : Nat) (a : Access) (w : Word) (s : State) : Out := run dt s (fun s => s.xspiRow a 3 w)

/-- The first `n` bytes of the window take the bytes a read brought. -/
def State.fillWindow (s : State) (n : Nat) (bytes : List Byte) : State :=
  forAll (List.range n) s (fun s i =>
    let k := R.XSPI_WIN (i / 4)
    s.setReg k ((⟨8 * (i % 4), 8⟩ : Fld).put (s.reg k) (bytes.getD i 0).toNat))

/-- XSPI_COMMAND_DONE: the command that runs completes; a read has brought its bytes into the window (R419). -/
def execXspiCommandDone (dt : Nat) (bytes : List Byte) (s : State) : Out :=
  run dt s (fun s =>
    match s.io.xspi with
    | some o =>
      let s := { s with io := { s.io with xspi := none } }
      let s := if o.kind = 0 then s.fillWindow o.len bytes else s
      (s.setF R.XSPI_STAT XSPI_STAT.BUSY 0).raise R.XSPI_STAT XSPI_STAT.DONE
    | none => s)

/-! ## Gate-driver SPI (R420 to R422) -/

/-- Show the fill levels. -/
def State.spiFill (s : State) (f : Nat) : State :=
  let q := s.spi f
  let k := R.GSPI_STAT f
  ((s.setF k GSPI_STAT.TX_FILL q.tx.length).setF k GSPI_STAT.RX_FILL q.rx.length).setF k GSPI_STAT.BUSY
    (decide (q.tx ≠ [])).toNat

/-- The low `n + 1` bits of a word, `n` as a BITS field gives it: values below 7 act as 7. -/
def spiBits (n : Nat) (w : Word) : Word := BitVec.ofNat 32 (w.toNat % 2 ^ (Nat.max 7 n + 1))

/-- The act of a write to GSPI_TXD: a frame with the chip select, length and HOLD of GSPI_TXH. -/
def State.spiPush (s : State) (f : Nat) (w : Word) : State :=
  let h := s.reg (R.GSPI_TXH f)
  if (s.spi f).tx.length < 16 then
    let bits := GSPI_TXH.BITS.get h
    let fr : SpiFrame := { cs := GSPI_TXH.CS.get h, bits := Nat.max 7 bits + 1, hold := GSPI_TXH.HOLD.get h == 1, data := spiBits bits w }
    (s.updSpi f (fun q => { q with tx := q.tx ++ [fr] })).spiFill f
  else s.raise (R.GSPI_STAT f) GSPI_STAT.TX_REJ

/-- A write to GSPI_TXD. -/
def writeSpiTxd (a : Access) (f : Nat) (w : Word) (s : State) : Wr :=
  let k := R.GSPI_TXD f
  pitOnly a k s (fun s => wordWrite a k w s (fun w s => okWr (s.spiPush f w)))

/-- GSPI_TXD (R421). -/
def execGspiTxd (dt : Nat) (a : Access) (f : Fin 8) (w : Word) (s : State) : Out :=
  run dt s (fun s => settle a (R.GSPI_TXD f) (writeSpiTxd a f w s))

/-- A read of GSPI_RX pops the oldest response; an empty queue returns a value the manual does not state. -/
def State.spiPop (s : State) (f : Nat) : Word × State :=
  match (s.spi f).rx with
  | w :: rest => (w, (s.updSpi f (fun q => { q with rx := rest })).spiFill f)
  | [] => s.freshWord

/-- GSPI_RX (R421). -/
def execGspiRx (dt : Nat) (a : Access) (f : Fin 8) (s : State) : Out :=
  run dt s (fun s => readAct a (R.GSPI_RX f) s (fun s => s.spiPop f))

/-- GSPI_FRAME_DONE: the frame being sent completes, and its response is queued (R421). -/
def execGspiFrameDone (dt : Nat) (f : Fin 8) (resp : Word) (s : State) : Out :=
  run dt s (fun s =>
    match (s.spi f).tx with
    | [] => s
    | fr :: rest =>
      let s := s.updSpi f (fun q => { q with tx := rest, held := if fr.hold then some fr.cs else none })
      let r := spiBits (fr.bits - 1) resp
      let s :=
        if (s.spi f).rx.length < 16 then s.updSpi f (fun q => { q with rx := q.rx ++ [r] })
        else s.raise (R.GSPI_STAT f) GSPI_STAT.RX_OVF
      s.spiFill f)

/-- INT of a poll in tq (R422). -/
def State.pollTq (s : State) (f c : Nat) : Nat := Nat.max 1 (s.fld (R.GSPI_POLL f c) GSPI_POLL.INT) * 200000

/-- A write to GSPI_POLL: enabling starts the interval. -/
def writeSpiPoll (a : Access) (f c : Nat) (w : Word) (s : State) : Wr :=
  let k := R.GSPI_POLL f c
  pitOnly a k s (fun s => wordWrite a k w s (fun w s =>
    let was := s.flag k GSPI_POLL.EN
    let s := s.fieldWrite k w
    okWr (if !was && s.flag k GSPI_POLL.EN then
        s.updSpi f (fun q => { q with nextPoll := AMap.set none q.nextPoll c (some (s.now + BitVec.ofNat 64 (s.pollTq f c))) })
      else s)))

/-- GSPI_POLL: the interval has run out, PWORD has been sent, and the response is checked; it does not enter the receive queue
(R422). -/
def execGspiPoll (dt : Nat) (f : Fin 8) (c : Fin 4) (resp : Word) (s : State) : Out :=
  run dt s (fun s =>
    match AMap.get none (s.spi f).nextPoll c with
    | some t =>
      if s.flag (R.GSPI_POLL f c) GSPI_POLL.EN && Time.reached s.now t then
        let s := s.updSpi f (fun q => { q with nextPoll := AMap.set none q.nextPoll c (some (t + BitVec.ofNat 64 (s.pollTq f c))) })
        let r := spiBits (s.fld (R.GSPI_POLL f c) GSPI_POLL.BITS) resp
        if (r ^^^ s.reg (R.GSPI_PEXP f c)) &&& s.reg (R.GSPI_PMASK f c) = 0 then s
        else (s.raiseBits (R.GSPI_STAT f) (BitVec.ofNat 32 (2 ^ (4 + c.val)))).info (0x80 + f.val) 0x00E0 r
      else s
    | none => s)

/-! ## Levels of pins (R418, R421, R440)

A level is given where the rules give it: from power-on until LOAD changes it, and from the commands that run. -/

/-- CAN_TX of a controller that takes no part in the bus: high, recessive. -/
def State.canTx (s : State) (i : Nat) : Option Bool := if s.canOn i then none else some true

/-- XSPI_CS_N: low while a command runs; LOAD moves it as it reads the flash. -/
def State.xspiCsN (s : State) : Option Bool := if s.loadReadsFlash then none else some s.io.xspi.isNone

/-- XSPI_SCK: low until LOAD, after power-on and during a system reset. -/
def State.xspiSck (s : State) : Option Bool := if s.md.loadStep = 0 then some false else none

/-- FSPI_CS_N[f][c]: low while its frame goes out, and after it with HOLD. -/
def State.fspiCsN (s : State) (f c : Nat) : Bool :=
  match (s.spi f).tx with
  | fr :: _ => fr.cs != c
  | [] => (s.spi f).held != some c

/-- FSPI_SCK[f]: low between frames until the settings of LOAD, or a write after it, change the mode of a chip select; what it rests at in
another mode no rule says. -/
def State.fspiSck (s : State) (f : Nat) : Option Bool :=
  if (s.spi f).tx = [] ∧ (List.range 4).all (fun c => s.fld (R.GSPI_CFG f c) GSPI_CFG.MODE == 0) = true then some false else none

/-! ## The test access port (R385, R423) -/

/-- The data registers of the test access port (R423). -/
inductive TapReg where
  | identity | boundary | dap | scan | bypass
  deriving DecidableEq, Repr

/-- The data register an instruction selects. HIGHZ and CLAMP select bypass, as IEEE 1149.1 has them (PRESUMED, log entry 113). -/
def tapReg (ir : Nat) : TapReg :=
  if ir = 0x01 then .identity
  else if ir = 0x02 ∨ ir = 0x03 then .boundary
  else if ir = 0x10 then .dap
  else if ir = 0x20 then .scan
  else .bypass

/-- IDCODE (R423). -/
def tapIdcode : Word := 0x45128163

/-- The 72 bits of the DAP register (R424). -/
def State.dapReg (s : State) : Nat :=
  ((s.io.dapOp % 4 * 16 + s.io.dapWorld.bit * 8 + s.io.dapProc % 8) * 4) * 0x10000000000000000 +
  s.io.dapAddr.toNat * 0x100000000 + s.io.dapData.toNat

/-- The selected data register as it is captured: its length and its bits. For the boundary and the internal scan chains the rules give neither
a length nor an order. -/
def State.tapCapture (s : State) : Option (Nat × Nat) :=
  match tapReg s.io.ir with
  | .identity => some (32, tapIdcode.toNat)
  | .dap => some (72, s.dapReg)
  | .bypass => some (1, 0)
  | .boundary | .scan => none

/-- Select an instruction: the controller has left its reset, so TRST_N is driven high. -/
def State.selectIr (s : State) (code : Nat) : State := { s with io := { s.io with ir := code, tapReset := false } }

/-- An instruction that acts only under the scan conditions, and as BYPASS at other times. -/
def State.scanIr (s : State) (code : Nat) : State := s.selectIr (if s.flag R.TS_SEC TS_SEC.SCAN then code else 0xFF)

/-- IDCODE (R423). -/
def execJtagIdcode (dt : Nat) (s : State) : Out := run dt s (fun s => s.selectIr 0x01)

/-- SAMPLE_PRELOAD (R423). -/
def execJtagSamplePreload (dt : Nat) (s : State) : Out := run dt s (fun s => s.selectIr 0x02)

/-- EXTEST (R423). -/
def execJtagExtest (dt : Nat) (s : State) : Out := run dt s (fun s => s.scanIr 0x03)

/-- HIGHZ (R423). -/
def execJtagHighz (dt : Nat) (s : State) : Out := run dt s (fun s => s.scanIr 0x04)

/-- CLAMP (R423). -/
def execJtagClamp (dt : Nat) (s : State) : Out := run dt s (fun s => s.scanIr 0x05)

/-- SCAN (R423). -/
def execJtagScan (dt : Nat) (s : State) : Out := run dt s (fun s => s.scanIr 0x20)

/-- BYPASS (R423). -/
def execJtagBypass (dt : Nat) (s : State) : Out := run dt s (fun s => s.selectIr 0xFF)

/-- TEST_LOGIC_RESET: IDCODE is selected (R423). -/
def execTestLogicReset (dt : Nat) (s : State) : Out :=
  run dt s (fun s => { s with io := { s.io with ir := 0x01, tapReset := true } })

end Sys2Proof.Machine
end

