-- ==== Sys2Proof/Machine/Frames.lean ====
section
/-! DEFINITION. The fields of a shaft-link frame (R392, R393): header bytes, CRC, payload words. -/

namespace Sys2Proof

open Sys2Proof.Machine

/-- The 16 header bytes of a frame (R392). -/
def Frame.header (f : Frame) : List Byte :=
  let b := fun (n : Nat) => BitVec.ofNat 8 n
  let len := 4 * f.payload.length
  [b (f.express.toNat * 128 + f.type % 128),
   b (f.src % 8 * 32 + f.world.bit * 16 + f.odir.toNat * 8 + f.dst % 8),
   b (f.bcast.toNat * 128 + f.turned.toNat * 64 + f.ttl % 16), 0,
   b f.seq, b (f.seq / 256), b len, b (len / 256)] ++ bytesOf f.addr ++
  [b f.tag, b (f.tag / 256), b f.status, 0]

/-- The CRC-32 over header and payload (R392). -/
def Frame.crcOf (f : Frame) : Word := crc32 (f.header ++ f.payload.flatMap bytesOf)

/-- The count of R397 a frame belongs to at its receiver: its originator, class and destination. -/
def Frame.lane (f : Frame) : Nat := 64 * (f.src % 8) + f.express.toNat * 16 + (if f.bcast then 8 else f.dst % 8)

/-- A frame of a row: its class and type are the row's. -/
def Frame.ofType (f : Frame) (express : Bool) (type : Nat) : Frame := { f with express := express, type := type }

/-- A CTRL frame of a row: its subtype is the row's. -/
def Frame.ofSub (f : Frame) (sub : Nat) : Frame :=
  { f with express := true, type := 3, payload := BitVec.ofNat 32 sub :: f.payload.drop 1 }

/-- Word `i` of a frame's payload. -/
def Frame.word (f : Frame) (i : Nat) : Word := f.payload.getD i 0

/-- The instant in words 2 and 3. -/
def Frame.inst (f : Frame) : Time := wordsTime (f.word 2) (f.word 3)

/-- The frame types of R393. -/
def Frame.known (f : Frame) : Bool :=
  if f.express then [1, 2, 3].contains f.type else [0x10, 0x11, 0x12, 0x13].contains f.type

end Sys2Proof
end

