-- ==== Sys2Proof/Machine/Staging.lean ====
section
/-! DEFINITION. The commands of staging and shift change (R196 to R207): staged writes, CHECK, ARM, CANCEL and DISCARD, and the
messages of a cascade-wide shift change. Log entry 60 gives how the messages are used. -/

namespace Sys2Proof.Machine

open Sys2Proof

/-! ## Staged writes (R196) -/

/-- A check or an arm is running. -/
def State.stgBusy (s : State) : Bool := s.flag R.STG_STATUS STG_STATUS.BUSY

/-- A shift change is armed. -/
def State.stgArmed (s : State) : Bool := s.flag R.STG_STATUS STG_STATUS.ARMED

/-- An ST write of fields `v` of the word at `k`. -/
def State.stage (s : State) (k : Nat) (v : Word) : State :=
  let st := R.STG_STATUS
  if s.stgBusy || s.stgArmed then s.raise st STG_STATUS.WR_REJ
  else if s.locked k then s
  else if (s.stagedAt k).isSome || decide (s.stg.words.length < 65536) then
    let ws := putStaged s.stg.words k (v &&& stMask k)
    let order := if (s.stagedAt k).isSome then s.stg.order else s.stg.order ++ [k]
    let s := { s with stg := { s.stg with words := ws, order := order } }.stageClean k true
    -- the entry is written with check bits, and an injection may name it (R272, R287)
    let s := (s.eccWrite (s.entryAddr k)).eccWrite (s.entryAddr k + 4)
    (s.setF R.STG_ENTRIES STG_ENTRIES.COUNT ws.length).setF st STG_STATUS.PASS 0
  else s.setF st STG_STATUS.OVF 1

/-- A write to a register with ST fields: those go to the staging copy, the others act by their types (R4). -/
def writeStReg (a : Access) (k : Nat) (w : Word) (s : State) : Wr :=
  pitOnly a k s (fun s => wordWrite a k w s (fun w s => okWr ((s.stage k w).fieldWrite k w)))

/-- A write to a step word; a narrower one stages an undefined word (log entry 57). -/
def writeStep (a : Access) (k : Nat) (w : Word) (s : State) : Wr :=
  pitOnly a k s (fun s =>
    if a.size = 4 then okWr (s.stage k w)
    else
      let (v, s) := s.freshWord
      okWr (s.stage k v))

/-- A write to an ST-typed word. -/
def writeSt (a : Access) (k : Nat) (w : Word) (s : State) : Wr :=
  if (stepWordAt k).isSome then writeStep a k w s
  else if tyMask k .st = 0 then okWr s
  else writeStReg a k w s

/-! ## Check (R198, R205) -/

/-- Devices other than this one that are present (R401). -/
def State.peersPresent (s : State) : List Nat :=
  (List.range 8).filter (fun d => d != s.ownId && s.fld R.SHL_STAT SHL_STAT.PRESENT / 2 ^ d % 2 == 1)

/-- Target T (R199). -/
def State.stgTarget (s : State) : Time := wordsTime (s.reg R.STG_TARGET_LO) (s.reg R.STG_TARGET_HI)

/-- A check starts: its outcome is that of the state as it stands (R198). -/
def State.startCheck (s : State) (casc : Bool) : State :=
  let k := R.STG_STATUS
  let (o, s) := s.checkOutcome casc
  let s := { s with stg := { s.stg with checking := some o, cascade := casc, results := [], groups := [], sentAt := s.now } }
  let s := ((s.setF k STG_STATUS.BUSY 1).setF k STG_STATUS.PASS 0).setF k STG_STATUS.FAIL 0
  (s.setF k STG_STATUS.RULE 0).setF k STG_STATUS.FAIL_DEV 0

/-- CASC as it acts: in the master only (R205). -/
def State.cascWide (s : State) : Bool := s.isMaster && s.flag R.STG_CTL STG_CTL.CASC

/-- An accepted CHECK. -/
def State.stgCheck (s : State) : State :=
  let casc := s.cascWide
  let s := s.startCheck casc
  if casc then s.sendCtrl 0x03 true 0 (0 :: timeWords s.stgTarget) else s

/-- The check or arm fails with rule `r` at address `addr`, in the devices `devs` of a cascade-wide one. -/
def State.stgFail (s : State) (r addr : Nat) (devs : List Nat) : State :=
  let k := R.STG_STATUS
  let s := ((s.setF k STG_STATUS.FAIL 1).setF k STG_STATUS.RULE r).setReg R.STG_FAIL_ADDR (BitVec.ofNat 32 addr)
  match devs with
  | [] => s
  | d :: ds => s.setF k STG_STATUS.FAIL_DEV (ds.foldl Nat.min d)

/-- The position of the device that masters the cascade, as a subordinate hears it (R388). -/
def State.masterId (s : State) : Nat := s.io.link.master.getD 0

/-- The STG_GROUP frames of a device: one for each running group of H (R206). -/
def State.sendGroups (s : State) : State :=
  forAll s.touchedRunning s (fun s g =>
    s.sendCtrl 0x05 false s.masterId (BitVec.ofNat 32 g :: timeWords (s.nextBoundary g) ++ [s.reg (R.FACE_CG_PERIOD g)]))

/-- The check completes (R198, R205). -/
def State.checkDone (s : State) (r addr : Nat) : State :=
  let k := R.STG_STATUS
  let casc := s.stg.cascade
  let s := { s with stg := { s.stg with checking := none, cascade := false } }
  let s := s.setF k STG_STATUS.BUSY 0
  if casc && s.isMaster then
    -- rule 16: a device that fails its check, does not answer, or is marked lost
    let bad := (s.peersPresent.filter (fun d => AMap.get none s.stg.results d != some 0)) ++
      (List.range 8).filter (fun d => s.fld R.SHL_STAT SHL_STAT.LOST / 2 ^ d % 2 == 1)
    if r ≠ 0 then s.stgFail r addr (s.ownId :: bad)
    else if bad ≠ [] then s.stgFail 16 0 bad
    else s.setF k STG_STATUS.PASS 1
  else
    let s := if r ≠ 0 then s.stgFail r addr [] else s.setF k STG_STATUS.PASS 1
    if casc then
      let s := s.sendCtrl 0x04 false s.masterId [BitVec.ofNat 32 r]
      if r = 0 then s.sendGroups else s
    else s

/-- CHECK_DONE (R198, R205): a cascade-wide check of the master ends when every present device has answered, or after 10 µs. -/
def execStgCheckDone (dt : Nat) (s : State) : Out :=
  run dt s (fun s =>
    match s.stg.checking with
    | none => s
    | some (r, addr) =>
      let wait := s.stg.cascade && s.isMaster && decide (Time.since s.stg.sentAt s.now < 2000000) &&
        s.peersPresent.any (fun d => AMap.get none s.stg.results d == none)
      if wait then s else s.checkDone r addr)

/-! ## Arm (R199, R201, R206) -/

/-- The first boundary at or after `x` of a group whose next boundary is `nb` and whose nominal period is `p`; all as tq from
now (R201). -/
def boundaryFrom (nb : Int) (p : Nat) (x : Int) : Int :=
  if x ≤ nb then nb else nb + ceilDiv (x - nb) (Nat.max 1 p) * (Nat.max 1 p : Nat)

/-- The loop of R201 over groups (next boundary, period). -/
def applySearch (h : List (Int × Nat)) (limit : Int) : Nat → Int → Option Int
  | 0, _ => none
  | k + 1, a =>
    let bs := h.map (fun x => boundaryFrom x.1 x.2 a)
    if bs.all (fun b => b == a) then some a
    else
      let a' := bs.foldl (fun m b => if m < b then b else m) a
      if limit < a' then none else applySearch h limit k a'

/-- The apply instant found by R201, as tq from now; none where rule 14 fails. -/
def applyInstant (h : List (Int × Nat)) (from_ : Int) : Option Int :=
  match h with
  | [] => some from_
  | _ =>
    let big := h.foldl (fun m x => Nat.max m x.2) 0
    let limit := from_ + (2 ^ 20 * big : Nat)
    let a := h.foldl (fun m x => let b := boundaryFrom x.1 x.2 from_; if m < b then b else m) from_
    applySearch h limit (2 ^ 20 * big + big + 2) a

/-- A signed distance in device time. -/
def Time.diff (a b : Time) : Int := (a - b).toInt

/-- An accepted ARM (R199): the apply instant is found, or rule 14 or 15 fails. Every group of H runs at its nominal period
from now on (R202). -/
def State.stgArm (s : State) : State :=
  let k := R.STG_STATUS
  let casc := s.cascWide
  let hs := s.touchedRunning
  let own := hs.map (fun g => (Time.diff (s.nextBoundary g) s.now, s.period g))
  let others := if casc then s.stg.groups.map (fun x => (Time.diff x.2.1 s.now, x.2.2)) else []
  let t := Time.diff s.stgTarget s.now
  let lead : Int := if casc then 10000000 else 400000
  let found := applyInstant (own ++ others) (if t < lead then lead else t)
  let r : Nat := match found with
    | none => 14
    | some _ => if 2 ^ 36 < t then 15 else 0
  let x := s.now + BitVec.ofInt 64 (found.getD 0)
  let s := { s with stg := { s.stg with
    arming := some r, hset := hs, applyAt := x, cascade := casc, confirmed := [], sentAt := s.now } }
  let s := ((s.setF k STG_STATUS.BUSY 1).setF k STG_STATUS.FROZEN 1).setF k STG_STATUS.FAIL 0
  let s := (s.setF k STG_STATUS.RULE 0).setF k STG_STATUS.FAIL_DEV 0
  let s := s.setReg R.STG_CASC_ARM 0
  if casc ∧ r = 0 then s.sendCtrl 0x06 true 0 (0 :: timeWords x) else s

/-- ARMED sets with apply instant `x`. -/
def State.setArmed (s : State) (x : Time) : State :=
  let k := R.STG_STATUS
  let s := { s with stg := { s.stg with applyAt := x, offered := none } }
  let s := (s.setF k STG_STATUS.ARMED 1).setF k STG_STATUS.FROZEN 1
  (s.setReg R.STG_APPLY_LO (x.truncate 32)).setReg R.STG_APPLY_HI ((x >>> 32).truncate 32)

/-- An arm fails with rule `r`: nothing arms, and corrections resume. -/
def State.armFailed (s : State) (r : Nat) (devs : List Nat) : State :=
  let k := R.STG_STATUS
  let s := { s with stg := { s.stg with arming := none, cascade := false, hset := [] } }
  let s := (s.setF k STG_STATUS.BUSY 0).setF k STG_STATUS.FROZEN 0
  s.stgFail r 0 devs

/-- The devices whose confirmation is missing, and those marked lost. -/
def State.unconfirmed (s : State) : List Nat :=
  (s.peersPresent.filter (fun d => !AMap.get false s.stg.confirmed d)) ++
    (List.range 8).filter (fun d => s.fld R.SHL_STAT SHL_STAT.LOST / 2 ^ d % 2 == 1)

/-- The arm evaluation ends (R199): it fails, or ARMED sets; a cascade-wide one is committed to every device (R206). -/
def State.armDone (s : State) (r : Nat) : State :=
  if r ≠ 0 then s.armFailed r (if s.stg.cascade then [s.ownId] else [])
  else
    let casc := s.stg.cascade
    let s := { s with stg := { s.stg with arming := none, cascade := false } }
    let s := (s.setF R.STG_STATUS STG_STATUS.BUSY 0).setArmed s.stg.applyAt
    if casc then
      (s.setReg R.STG_CASC_ARM (BitVec.ofNat 32 (2 ^ s.ownId))).sendCtrl 0x08 true 0 []
    else s

/-- ARM_DONE (R199): a cascade-wide arm waits for every device's confirmation (R206). -/
def execStgArmDone (dt : Nat) (s : State) : Out :=
  run dt s (fun s =>
    match s.stg.arming with
    | none => s
    | some r => if r = 0 ∧ s.stg.cascade = true ∧ s.unconfirmed ≠ [] then s else s.armDone r)

/-- CASC_CONFIRM_TIMEOUT: 20 µs after STG_APPLY a device has not confirmed, so rule 16 fails and no device arms (R206). -/
def execCascConfirmTimeout (dt : Nat) (s : State) : Out :=
  run dt s (fun s =>
    if s.stg.arming = some 0 ∧ s.stg.cascade = true ∧ s.unconfirmed ≠ [] ∧ 4000000 ≤ Time.since s.stg.sentAt s.now then
      s.armFailed 16 s.unconfirmed
    else s)

/-! ## STG_CTL (R198, R199, R203, R207) -/

/-- DISCARD (R203). -/
def State.stgDiscard (s : State) : State :=
  let s := { s with stg := { s.stg with words := [], order := [] } }
  let s := s.setF R.STG_ENTRIES STG_ENTRIES.COUNT 0
  (s.setF R.STG_STATUS STG_STATUS.OVF 0).setF R.STG_STATUS STG_STATUS.PASS 0

/-- CANCEL (R203, R207). -/
def State.stgCancel (s : State) : State :=
  let casc := s.cascWide
  let s :=
    if s.stgArmed && !Time.reached s.now s.stg.applyAt then
      let s := s.cancelArm
      if casc then s.setReg R.STG_CASC_ARM (s.reg R.STG_CASC_ARM &&& ~~~(BitVec.ofNat 32 (2 ^ s.ownId))) else s
    else s
  if casc then s.sendCtrl 0x09 true 0 [] else s

/-- The act of a write to STG_CTL: one command at most; a refused one changes nothing. -/
def State.stgCtl (s : State) (w : Word) : State :=
  let cmds := [STG_CTL.CHECK, STG_CTL.ARM, STG_CTL.CANCEL, STG_CTL.DISCARD].map (fun f => f.get w)
  let rej := s.raise R.STG_STATUS STG_STATUS.CMD_REJ
  let set := s.setF R.STG_CTL STG_CTL.CASC (STG_CTL.CASC.get w)
  match cmds with
  | [0, 0, 0, 0] => set
  | [1, 0, 0, 0] => if s.stgBusy || s.stgArmed then rej else set.stgCheck
  | [0, 1, 0, 0] => if s.flag R.STG_STATUS STG_STATUS.PASS && !s.stgArmed then set.stgArm else rej
  | [0, 0, 1, 0] => set.stgCancel
  | [0, 0, 0, 1] => if s.stgBusy || s.stgArmed then rej else set.stgDiscard
  | _ => rej

/-- A write to STG_CTL (R18). -/
def writeStgCtl (a : Access) (w : Word) (s : State) : Wr :=
  pitOnly a R.STG_CTL s (fun s => wordWrite a R.STG_CTL w s (fun w s => okWr (s.stgCtl w)))

/-- A write to STG_CTL that carries the command of field `f`. -/
def State.stgRow (s : State) (a : Access) (f : Fld) (w : Word) : State :=
  settle a R.STG_CTL (writeStgCtl a (f.put w 1) s)

/-- CHECK (R198): CHECK = 1. -/
def execStgCheckCmd (dt : Nat) (a : Access) (w : Word) (s : State) : Out := run dt s (fun s => s.stgRow a STG_CTL.CHECK w)

/-- ARM (R199): ARM = 1. -/
def execStgArmCmd (dt : Nat) (a : Access) (w : Word) (s : State) : Out := run dt s (fun s => s.stgRow a STG_CTL.ARM w)

/-- CANCEL (R203): CANCEL = 1. -/
def execStgCancelCmd (dt : Nat) (a : Access) (w : Word) (s : State) : Out := run dt s (fun s => s.stgRow a STG_CTL.CANCEL w)

/-- DISCARD (R203): DISCARD = 1. -/
def execStgDiscardCmd (dt : Nat) (a : Access) (w : Word) (s : State) : Out := run dt s (fun s => s.stgRow a STG_CTL.DISCARD w)

/-! ## Messages of a cascade-wide shift change (R205 to R207) -/

/-- STG_CHECK arrives at a subordinate: it checks its own staging copy; one that is busy or armed answers that rule 16 fails. -/
def State.cascCheck (s : State) : State :=
  if s.stgBusy || s.stgArmed then s.sendCtrl 0x04 false s.masterId [16] else s.startCheck true

/-- STG_RESULT arrives at the master. -/
def State.cascResult (s : State) (d r : Nat) : State :=
  { s with stg := { s.stg with results := AMap.set none s.stg.results d (some r) } }

/-- STG_GROUP arrives at the master: the latest frame of group `g` of device `d` stands. -/
def State.cascGroup (s : State) (d g : Nat) (b : Time) (p : Nat) : State :=
  let k := 32 * d + g
  { s with stg := { s.stg with groups := s.stg.groups.filter (fun x => x.1 != k) ++ [(k, b, p)] } }

/-- STG_APPLY arrives at a subordinate: it confirms unless it has not passed its check or is already armed. -/
def State.cascOffer (s : State) (x : Time) : State :=
  if s.flag R.STG_STATUS STG_STATUS.PASS && !s.stgBusy && !s.stgArmed then
    { s with stg := { s.stg with offered := some x } }.sendCtrl 0x07 false s.masterId []
  else s

/-- STG_CONFIRM arrives at the master: during the arm a confirmation, afterwards the report that the device has armed. -/
def State.cascConfirm (s : State) (d : Nat) : State :=
  if s.stg.arming.isSome then { s with stg := { s.stg with confirmed := AMap.set false s.stg.confirmed d true } }
  else if s.stgArmed then s.setReg R.STG_CASC_ARM (s.reg R.STG_CASC_ARM ||| BitVec.ofNat 32 (2 ^ d))
  else s

/-- STG_COMMIT arrives at a subordinate that has confirmed: it arms, and reports so. -/
def State.cascCommit (s : State) : State :=
  match s.stg.offered with
  | some x =>
    if Time.reached s.now x then
      { s with stg := { s.stg with offered := none } }.raise R.STG_STATUS STG_STATUS.CANCELLED
    else
      let s := { s with stg := { s.stg with hset := s.touchedRunning } }
      (s.setArmed x).sendCtrl 0x07 false s.masterId []
  | none => s

/-- STG_CANCEL arrives: at a subordinate it cancels an arm whose instant has not been reached, and is answered; at the master
it is such an answer (R207). -/
def State.cascCancel (s : State) (d : Nat) : State :=
  if s.isMaster then s.setReg R.STG_CASC_ARM (s.reg R.STG_CASC_ARM &&& ~~~(BitVec.ofNat 32 (2 ^ d)))
  else
    let s := { s with stg := { s.stg with offered := none } }
    if s.stgArmed && !Time.reached s.now s.stg.applyAt then s.cancelArm.sendCtrl 0x09 false s.masterId [] else s

/-- STAGING_WRITE: a write to an ST-typed word (R196). -/
def execStagingWrite (dt : Nat) (a : Access) (addr : Word) (w : Word) (s : State) : Out :=
  let k := addr.toNat - addr.toNat % 4
  runChan dt s a k (fun s =>
    settle a addr.toNat (writeSt a k w s))

end Sys2Proof.Machine
end

