-- ==== Sys2Proof/Machine/ShaftLink.lean ====
section
/-! DEFINITION. The shaft link (R387 to R406): lanes and ports, control blocks, the reception, delivery, forwarding and sending of
frames, presence, isolation, path calibration, time and group marks. Frames are presented whole, at their EOF block (log
entry 89). The frames of remote access are in Remote.lean. -/

namespace Sys2Proof.Machine

open Sys2Proof

/-- The SRC of the shaft link's reports (R294). -/
def srcLink : Nat := 0x178

/-! ## Ports (R390, R396) -/

/-- The link works: not in a standalone device, and not in PARK (R342, R387). -/
def State.linkOn (s : State) : Bool := s.inCascade && s.mode != mPark

/-- Both receive lanes of port `u` are locked. -/
def State.lanesLocked (s : State) (u : Nat) : Bool :=
  AMap.get false (s.lport u).lanes 0 && AMap.get false (s.lport u).lanes 1

/-- The ring is whole as this device sees it, and no peer is marked lost: LINK_LOST clears (R335). -/
def State.linkWholeCheck (s : State) : State :=
  if s.portUp 0 && s.portUp 1 && !s.flag R.SHL_STAT SHL_STAT.LOST && !s.flag R.SHL_STAT SHL_STAT.ISOLATED then s.limpClear 3
  else s

/-- Wrapping begins when one port is DOWN and ends when both are UP again (R396). -/
def State.wrapCheck (s : State) : State :=
  let one := s.portUp 0 != s.portUp 1
  let both := s.portUp 0 && s.portUp 1
  if one && !s.flag R.SHL_STAT SHL_STAT.WRAPPED then
    (s.setF R.SHL_STAT SHL_STAT.WRAPPED 1).info srcLink 0x00B1 1
  else if both && s.flag R.SHL_STAT SHL_STAT.WRAPPED then
    (s.setF R.SHL_STAT SHL_STAT.WRAPPED 0).info srcLink 0x00B1 0
  else s

/-- The frames that can leave by the other port once this one is DOWN: those not yet turned back, marked TURNED (R396). -/
def turnAll (l : List Frame) : List Frame := (l.filter (fun (f : Frame) => !f.turned)).map (fun (f : Frame) => { f with turned := true })

/-- Frames waiting at a port that is DOWN leave by the other one, or are discarded (R396). -/
def State.turnQueues (s : State) (u : Nat) : State :=
  let p := s.lport u
  let s := s.setLport u { p with fwd := [], own := [], bulk := [] }
  if s.portUp (1 - u) then
    s.updLport (1 - u) (fun q => { q with
      fwd := q.fwd ++ turnAll p.fwd, own := q.own ++ turnAll p.own, bulk := q.bulk ++ turnAll p.bulk })
  else s

/-! ## Time source (R404) -/

/-- Port `u` can give the time: UP, calibrated, and its TIME blocks are locked. -/
def State.timeHops (s : State) (u : Nat) : Option Nat :=
  if s.portUp u && s.flag (R.SHL_PORT u) SHL_PORT.PCAL_OK then (s.lport u).timeHops else none

/-- The port time is taken from: the fewest hops, SHU on a tie. An isolated subordinate runs free (R402). -/
def State.timeSource (s : State) : Option Nat :=
  if s.flag R.SHL_STAT SHL_STAT.ISOLATED then none
  else match s.timeHops 0, s.timeHops 1 with
  | none, none => none
  | some _, none => some 0
  | none, some _ => some 1
  | some a, some b => if a ≤ b then some 0 else some 1

/-- Show the source of time of a subordinate; without one it runs free at its last rate, and CASC_LOCK clears (R161, R404). -/
def State.timeSourceCheck (s : State) : State :=
  if s.subordinate then
    let src := s.timeSource
    let s := forAll [0, 1] s (fun s u => s.setF (R.SHL_PORT u) SHL_PORT.TIME_SRC (decide (src = some u)).toNat)
    match src with
    | some u => s.setF R.SHL_STAT SHL_STAT.HOPS (((s.lport u).timeHops.getD 0 + 1) % 8)
    | none => { (s.setF R.TB_STAT TB_STAT.CASC_LOCK 0) with tb := { s.tb with cascErr := 0, cascKnown := false } }.showRate
  else s

/-- Port `u` comes UP or goes DOWN (R390, R396, R403). -/
def State.setPort (s : State) (u : Nat) (up : Bool) : State :=
  if s.portUp u = up then s
  else
    let k := R.SHL_PORT u
    let s := (s.setF k SHL_PORT.UP up.toNat).raise k SHL_PORT.CHG
    let s :=
      if up then s
      else
        let s := s.setF k SHL_PORT.PCAL_OK 0
        let s := s.updLport u (fun p => { p with nbrSeen := false, exchanges := 0, timeHops := none })
        s.turnQueues u
    s.wrapCheck.timeSourceCheck.linkWholeCheck

/-- Port `u` is UP while both lanes are locked and the neighbour has announced itself (R390). -/
def State.portCheck (s : State) (u : Nat) : State := s.setPort u (s.lanesLocked u && (s.lport u).nbrSeen)

/-- LANE_LOCK: a receive lane has locked. -/
def execLaneLock (dt : Nat) (u lane : Fin 2) (s : State) : Out :=
  run dt s (fun s =>
    if s.linkOn then
      (s.updLport u (fun p => { p with lanes := AMap.set false p.lanes lane true })).portCheck u
    else s)

/-- LANE_UNLOCK: a receive lane has unlocked, and the port goes DOWN. -/
def execLaneUnlock (dt : Nat) (u lane : Fin 2) (s : State) : Out :=
  run dt s (fun s => (s.updLport u (fun p => { p with lanes := AMap.set false p.lanes lane false, nbrSeen := false })).setPort u false)

/-- PORT_TIMEOUT: no valid block has arrived for 1 µs, and the port goes DOWN until an IDLE block announces the neighbour again. -/
def execPortTimeout (dt : Nat) (u : Fin 2) (s : State) : Out :=
  run dt s (fun s => (s.updLport u (fun p => { p with nbrSeen := false })).setPort u false)

/-- SHL_STAT.DUP_ID or CONFLICT sets, with its report (R388, R426). -/
def State.linkFault (s : State) (dup : Bool) : State :=
  let f := if dup then SHL_STAT.DUP_ID else SHL_STAT.CONFLICT
  let was := s.flag R.SHL_STAT f
  let s := s.raise R.SHL_STAT f
  if was then s else s.report srcLink 0x00B6 clsSafety (BitVec.ofNat 32 dup.toNat)

/-- IDLE: the neighbour announces its position; its own position keeps the port DOWN (R388, R390, R391). -/
def execShlIdle (dt : Nat) (u : Fin 2) (b1 : Byte) (s : State) : Out :=
  run dt s (fun s =>
    if s.linkOn && s.lanesLocked u then
      let pos := b1.toNat % 8
      if pos = s.ownId then
        ((s.updLport u (fun p => { p with nbrSeen := false })).setPort u false).linkFault true
      else
        ((s.setF (R.SHL_PORT u) SHL_PORT.NBR pos).updLport u (fun p => { p with nbrSeen := true })).portCheck u
    else s)

/-! ## Control blocks (R391) -/

/-- Port `u` sends a control block: its type and bytes 1 to 7. -/
def State.sendBlock (s : State) (u : Nat) (bytes : List Byte) : State := s.updLport u (fun p => { p with ctl := some bytes })

/-- The bytes of a 48-bit time, low byte first. -/
def time48 (t : BitVec 48) : List Byte := (List.range 6).map (fun i => (t >>> (8 * i)).truncate 8)

/-- An ABORT block. -/
def abortBlock (express : Bool) : List Byte := [0x99, if express then 1 else 0, 0, 0, 0, 0, 0, 0]

/-- The copy of a frame being forwarded from port `u` ends with ABORT (R397, R399); like the frame it leaves by the other port, or, while
that is DOWN, turned back by the port of its arrival (R396). -/
def State.abortCopy (s : State) (u : Nat) (express : Bool) : State :=
  if s.portUp (1 - u) then s.sendBlock (1 - u) (abortBlock express)
  else if s.portUp u then s.sendBlock u (abortBlock express)
  else s

/-- The device time's low 48 bits. -/
def State.now48 (s : State) : BitVec 48 := s.now.truncate 48

/-- The device's report of the path delay and PCAL_OK of its SHU link to its neighbour there; what block carries it is the model's
choice (R403; log entry 108). -/
def State.pathReport (s : State) : List Byte :=
  [0x55, 2] ++ bytesOf (s.reg (R.SHL_PDLY 0)) ++ [BitVec.ofNat 8 (s.flag (R.SHL_PORT 0) SHL_PORT.PCAL_OK).toNat, 0]

/-- CAL: a request is echoed at once; an echo gives the path delay of SHU, and 16 of them PCAL_OK, which the device reports; the
neighbour's report gives those of SHD (R403). -/
def execShlCal (dt : Nat) (u : Fin 2) (c : CalBlock) (s : State) : Out :=
  run dt s (fun s =>
    if s.linkOn && s.portUp u then
      match c with
      | .request t => s.sendBlock u ([0x55, 1] ++ time48 t)
      | .echo t turn =>
        if u.val = 0 then
          let trip := (s.now48 - t).toNat
          let n := Nat.min 16 ((s.lport 0).exchanges + 1)
          let s := s.setReg (R.SHL_PDLY 0) (BitVec.ofNat 32 ((trip - turn) / 2))
          let s := s.updLport 0 (fun p => { p with exchanges := n })
          let s := if n = 16 then (s.setF (R.SHL_PORT 0) SHL_PORT.PCAL_OK 1).timeSourceCheck else s
          s.sendBlock 0 s.pathReport
        else s
      | .report dly ok =>
        if u.val = 1 then
          ((s.setReg (R.SHL_PDLY 1) dly).setF (R.SHL_PORT 1) SHL_PORT.PCAL_OK ok.toNat).timeSourceCheck
        else s
    else s)

/-- An interval of `n` tq since the latest sending of kind `i` has passed. -/
def State.sendDue (s : State) (i n : Nat) : Bool :=
  match AMap.get none s.io.link.lastSent i with
  | some t => Time.reached s.now (t + BitVec.ofNat 64 n)
  | none => true

/-- Note a sending of kind `i`, at the instant it was due. -/
def State.noteSent (s : State) (i n : Nat) : State :=
  let t :=
    match AMap.get none s.io.link.lastSent i with
    | some t => t + BitVec.ofNat 64 n
    | none => s.now
  { s with io := { s.io with link := { s.io.link with lastSent := AMap.set none s.io.link.lastSent i (some t) } } }

/-- CAL_REQUEST_SEND: every 1 ms on an UP link, on SHU (R403). -/
def execCalRequestSend (dt : Nat) (s : State) : Out :=
  run dt s (fun s =>
    if s.linkOn && s.portUp 0 && s.sendDue 2 200000000 then
      (s.noteSent 2 200000000).sendBlock 0 ([0x55, 0] ++ time48 s.now48)
    else s)

/-- A TIME block of this device (R391, R404). -/
def State.timeBlock (s : State) (hops : Nat) : List Byte :=
  [0x4B] ++ time48 s.now48 ++ [BitVec.ofNat 8 (128 + hops % 8)]

/-- TIME_BLOCK_SEND: every 1 µs on both ports; the master's carry 0 hops, a subordinate's those of its source and one more, once
CASC_LOCK has set (R404). -/
def execTimeBlockSend (dt : Nat) (s : State) : Out :=
  run dt s (fun s =>
    let may := s.isMaster || (s.subordinate && s.flag R.TB_STAT TB_STAT.CASC_LOCK)
    if s.linkOn && may && s.sendDue 1 200000 then
      let b := s.timeBlock (if s.isMaster then 0 else s.fld R.SHL_STAT SHL_STAT.HOPS)
      forAll ([0, 1].filter s.portUp) (s.noteSent 1 200000) (fun s u => s.sendBlock u b)
    else s)

/-- The offset of device time to a carried time of port `u`, the nearest that fits the 48 bits (R404). -/
def State.timeError (s : State) (u : Nat) (t : BitVec 48) : Int :=
  (t + (s.reg (R.SHL_PDLY u)).zeroExtend 48 - s.now48).toInt

/-- The rate the hardware of a subordinate tracks, limited as RATE is (R156, R160, R161). -/
def State.trackRate (s : State) : State :=
  let (w, s) := s.freshWord
  { s with tb := { s.tb with cascRate := clampInt (-2147484) 2147484 w.toInt } }

/-- TIME: a subordinate steers to the time the chosen port carries; when the link first locks it steps if no group runs (R160,
R404). -/
def execShlTime (dt : Nat) (u : Fin 2) (t48 : BitVec 48) (hops : Fin 8) (locked : Bool) (s : State) : Out :=
  run dt s (fun s =>
    if s.linkOn && s.subordinate && s.portUp u then
      let s := s.updLport u (fun p => { p with timeHops := if locked then some hops.val else none })
      let s := s.timeSourceCheck
      if s.timeSource = some u.val then
        let e := s.timeError u t48
        let first := !s.tb.cascSeen
        let s := { s with tb := { s.tb with cascSeen := true, cascKnown := true } }
        let s := s.trackRate
        if first && (List.range 32).all (fun g => !s.groupRuns g) then s.stepTo (s.now + BitVec.ofInt 64 e)
        else { s with tb := { s.tb with cascErr := e } }.showRate
      else s
    else s)

/-- WAKE blocks leave by a port for 100 µs (R406). -/
def State.sendWake (s : State) (us : List Nat) : State :=
  let s := forAll us s (fun s u => s.sendBlock u [0x66, 0, 0, 0, 0, 0, 0, 0])
  { s with io := { s.io with link := { s.io.link with wakeUntil := some (s.now + 20000000) } } }

/-- WAKE_BLOCK: a parked subordinate wakes and repeats the block on its other port (R342, R406). -/
def execWakeBlock (dt : Nat) (u : Fin 2) (s : State) : Out :=
  run dt s (fun s =>
    if s.subordinate = true ∧ s.mode = mPark then (s.sendWake [1 - u.val]).wakeBy 2 else s)

/-- ABORT: the open frame of its class is discarded, and a copy being forwarded ends with ABORT too (R399). -/
def execShlAbort (dt : Nat) (u : Fin 2) (express copied : Bool) (s : State) : Out :=
  run dt s (fun s => if s.linkOn && s.portUp u && copied then s.abortCopy u express else s)

/-- The types of control block (R391). -/
def knownBlocks : List Nat := [0x1E, 0x33, 0x87, 0x99, 0x4B, 0x55, 0x66]

/-- UNKNOWN_CONTROL_BLOCK (R391). -/
def execUnknownControlBlock (dt : Nat) (u : Fin 2) (b0 : Byte) (s : State) : Out :=
  run dt s (fun s =>
    if s.linkOn && s.lanesLocked u && !knownBlocks.contains b0.toNat then s.raise (R.SHL_PORT u) SHL_PORT.BAD_BLK else s)

/-- PARTIAL_FRAME_TIMEOUT: a partial frame has been held for 2 µs (R399). -/
def execPartialFrameTimeout (dt : Nat) (u : Fin 2) (express copied : Bool) (s : State) : Out :=
  run dt s (fun s =>
    if s.linkOn then
      let k := R.SHL_PORT u
      let s := ((s.raise k SHL_PORT.PART).count k SHL_PORT.PART_CNT).info srcLink 0x00B4 (BitVec.ofNat 32 u.val)
      if copied then s.abortCopy u express else s
    else s)

/-! ## Frames (R392 to R398) -/

/-- A frame goes on to the next device (R395, R396): it leaves by the port opposite to its arrival, one hop older; by the port
of its arrival, turned back, while that one is DOWN. -/
def State.forward (s : State) (u : Nat) (f : Frame) : State :=
  if f.ttl ≤ 1 then s.raise (R.SHL_PORT u) SHL_PORT.TTL_DROP
  else
    let f := { f with ttl := f.ttl - 1 }
    let put := fun (f : Frame) (p : LinkPort) =>
      if f.express then { p with fwd := p.fwd ++ [f] } else { p with bulk := p.bulk ++ [f] }
    if s.portUp (1 - u) then s.updLport (1 - u) (put f)
    else if f.turned then s
    else s.updLport u (put { f with turned := true })

/-- A delivered frame is checked against the last one accepted from its originator (R397): whether it is accepted. -/
def State.acceptSeq (s : State) (f : Frame) : Bool × State :=
  let k := R.SHL_GAP (f.src % 8)
  let keep := fun (s : State) => { s with io := { s.io with link := { s.io.link with
    last := AMap.set none s.io.link.last f.lane (some (f.seq % 65536)) } } }
  match AMap.get none s.io.link.last f.lane with
  | none => (true, keep s)
  | some x =>
    let d := (f.seq % 65536 + 65536 - x) % 65536
    if 1 ≤ d ∧ d ≤ 32767 then
      let s := keep s
      if 1 < d then
        let n := Nat.min 65535 (s.fld k SHL_GAP.GAP + (d - 1))
        (true, (s.setF k SHL_GAP.GAP n).info srcLink 0x00B5 (BitVec.ofNat 32 (f.src % 8 * 65536 + (d - 1))))
      else (true, s)
    else (false, s.count k SHL_GAP.DUP)

/-- A frame arrives at port `u` (R395 to R397): checked by its CRC, removed by its originator, forwarded, and delivered here if it
is for this device and is not a duplicate: whether it is delivered. -/
def State.arrive (s : State) (u : Nat) (f : Frame) : Bool × State :=
  if !(s.linkOn && s.portUp u) then (false, s)
  else
    let own := f.src % 8 == s.ownId
    let mine := f.bcast || f.dst % 8 == s.ownId
    let removed := own && f.odir == (u == 1)
    let goesOn := !removed && (f.bcast || !mine)
    if f.crc ≠ f.crcOf then
      let s := s.raise (R.SHL_PORT u) SHL_PORT.CRC_ERR
      (false, if goesOn && decide (1 < f.ttl) && (s.portUp (1 - u) || !f.turned) then s.abortCopy u f.express else s)
    else
      let s := if goesOn then s.forward u f else s
      if mine && !own then s.acceptSeq f else (false, s)

/-- A frame arrives at port `u`; one that is delivered goes to `act`. -/
def State.receiveFrame (s : State) (u : Nat) (f : Frame) (act : State → State) : State :=
  let (ok, s) := s.arrive u f
  if ok then act s else s

/-- The entries of a SIG frame (R393). -/
def sigEntries : List Word → List (Nat × Nat × Word)
  | a :: v :: rest => (a.toNat % 0x20000, a.toNat / 0x1000000, v) :: sigEntries rest
  | _ => []

/-- SIG: updates of signals arrive (R181). -/
def execFrameSig (dt : Nat) (u : Fin 2) (fr : Frame) (s : State) : Out :=
  runMem dt s (fun s =>
    let f := fr.ofType true 1
    s.receiveFrame u f (fun s => forAll (sigEntries f.payload) s (fun s e => s.receiveSignal e.1 e.2.2 e.2.1)))

/-- GEV: GEVs the sender drives fire here (R191, R195). -/
def execFrameGev (dt : Nat) (u : Fin 2) (fr : Frame) (s : State) : Out :=
  run dt s (fun s =>
    let f := fr.ofType true 2
    s.receiveFrame u f (fun s =>
      if s.md.gevLive then
        forAll ((f.payload.map (fun w => w.toNat % 256)).filter (fun j => j / 32 == f.src % 8)) s
          (fun s j => s.passGev j true)
      else s))

/-! ## Presence (R401, R402) -/

/-- LOST_HB heartbeat intervals, in tq. -/
def State.lostTq (s : State) : Nat := Nat.max 1 (s.fld R.SHL_CFG SHL_CFG.LOST_HB) * 2000000

/-- A master heartbeat reaches a subordinate: isolation ends (R402). -/
def State.masterBeat (s : State) (d : Nat) (lost : Nat) : State :=
  let m := match s.io.link.master with | some x => Nat.min x d | none => d
  let s := { s with
    io := { s.io with link := { s.io.link with master := some m, masterAt := s.now, isoFrom := none } }
    md := { s.md with isol := false } }
  let s := s.setF R.SHL_STAT SHL_STAT.ISOLATED 0
  let s :=
    if d = m then
      let old := s.fld R.SHL_STAT SHL_STAT.LOST
      let s := s.setF R.SHL_STAT SHL_STAT.LOST lost
      if lost &&& (255 ^^^ old) ≠ 0 then s.limpCause 3 else s
    else s
  s.timeSourceCheck.linkWholeCheck

/-- A heartbeat arrives from device `d` (R401): the third in a row marks it present. -/
def State.beat (s : State) (d : Nat) : State :=
  let late := match AMap.get none s.io.link.lastBeat d with | some t => decide (s.lostTq ≤ Time.since t s.now) | none => true
  let n := if late then 1 else Nat.min 3 (AMap.get 0 s.io.link.beats d + 1)
  let s := { s with io := { s.io with link := { s.io.link with
    beats := AMap.set 0 s.io.link.beats d n, lastBeat := AMap.set none s.io.link.lastBeat d (some s.now) } } }
  let p := s.fld R.SHL_STAT SHL_STAT.PRESENT
  if n = 3 ∧ p / 2 ^ d % 2 = 0 then
    let s := s.setF R.SHL_STAT SHL_STAT.PRESENT (p ||| 2 ^ d)
    (s.setF R.SHL_STAT SHL_STAT.LOST (s.fld R.SHL_STAT SHL_STAT.LOST &&& (255 ^^^ 2 ^ d))).linkWholeCheck
  else s

/-- HEARTBEAT: presence, LOST and the master (R388, R401, R402). `master` says that the sender is a master, which the manual does
not show in the frame (log entry 90). -/
def execFrameHeartbeat (dt : Nat) (u : Fin 2) (fr : Frame) (master : Bool) (s : State) : Out :=
  run dt s (fun s =>
    let f := fr.ofSub 0x01
    s.receiveFrame u f (fun s =>
      let d := f.src % 8
      let s := s.beat d
      if master then
        if s.isMaster then s.linkFault false else s.masterBeat d ((f.word 1).toNat % 256)
      else s))

/-- HEARTBEAT_SEND: every 10 µs, to all (R401). -/
def execHeartbeatSend (dt : Nat) (s : State) : Out :=
  run dt s (fun s =>
    if s.linkOn && s.sendDue 0 2000000 then
      let present := s.fld R.SHL_STAT SHL_STAT.PRESENT ||| 2 ^ s.ownId
      (s.noteSent 0 2000000).sendCtrl 0x01 true 0
        [BitVec.ofNat 32 (s.fld R.SHL_STAT SHL_STAT.LOST + 256 * present)]
    else s)

/-- PRESENCE_TIMEOUT: LOST_HB intervals have passed without a heartbeat from device `d`; the master marks it lost (R335, R401). -/
def execPresenceTimeout (dt : Nat) (d : Fin 8) (s : State) : Out :=
  run dt s (fun s =>
    let p := s.fld R.SHL_STAT SHL_STAT.PRESENT
    match AMap.get none s.io.link.lastBeat d with
    | some t =>
      if s.linkOn = true ∧ p / 2 ^ d.val % 2 = 1 ∧ s.lostTq ≤ Time.since t s.now then
        let s := s.setF R.SHL_STAT SHL_STAT.PRESENT (p &&& (255 ^^^ 2 ^ d.val))
        let s := { s with io := { s.io with link := { s.io.link with
          beats := AMap.set 0 s.io.link.beats d 0
          master := if s.io.link.master = some d.val then none else s.io.link.master } } }
        if s.isMaster then
          let s := s.setF R.SHL_STAT SHL_STAT.LOST (s.fld R.SHL_STAT SHL_STAT.LOST ||| 2 ^ d.val)
          (s.report srcLink 0x00B2 clsUncorr (BitVec.ofNat 32 d.val)).limpCause 3
        else s
      else s
    | none => s)

/-- The isolation hold timer has run out on an isolated device: the ISOL trigger of R334. -/
def State.isolHold (s : State) : State :=
  { s with md := { s.md with isol := true }, io := { s.io with link := { s.io.link with isoFrom := none } } }.holdTrigger 5

/-- ISO_HOLD in tq. -/
def State.isoHoldTq (s : State) : Nat := s.fld R.SHL_CFG SHL_CFG.ISO_HOLD * 200000000

/-- ISOLATION: no master heartbeat for LOST_HB intervals (R402). -/
def execIsolation (dt : Nat) (s : State) : Out :=
  run dt s (fun s =>
    let t := s.io.link.masterAt
    if s.linkOn = true ∧ s.subordinate = true ∧ s.flag R.SHL_STAT SHL_STAT.ISOLATED = false ∧
        s.lostTq ≤ Time.since t s.now then
      let due := t + BitVec.ofNat 64 s.lostTq
      let s := (s.setF R.SHL_STAT SHL_STAT.ISOLATED 1).limpCause 3
      let s := s.report srcLink 0x00B3 clsUncorr 0
      -- device time runs free (R161)
      let s := s.timeSourceCheck
      if s.isoHoldTq = 0 then s.isolHold
      else { s with io := { s.io with link := { s.io.link with isoFrom := some due } } }
    else s)

/-- ISOLATION_HOLD_EXPIRY: the hold timer of an isolated subordinate expires (R402). -/
def execIsolationHoldExpiry (dt : Nat) (s : State) : Out :=
  run dt s (fun s =>
    match s.io.link.isoFrom with
    | some t => if s.linkOn = true ∧ s.isoHoldTq ≤ Time.since t s.now then s.isolHold else s
    | none => s)

/-! ## The other control frames -/

/-- Device `d` is the master this device follows, or may be before a heartbeat has named one: of two masters the one with the lower
position (R388). -/
def State.follows (s : State) (d : Nat) : Bool := match s.io.link.master with | some m => m == d | none => true

/-- GMARK: a boundary instant of the master's group reaches the groups tied to it (R123, R405). -/
def execFrameGmark (dt : Nat) (u : Fin 2) (fr : Frame) (s : State) : Out :=
  run dt s (fun s =>
    let f := fr.ofSub 0x02
    s.receiveFrame u f (fun s =>
      let g := (f.word 1).toNat % 32
      if s.follows (f.src % 8) = false then s else forAll ((List.range 32).filter (fun h =>
        s.syncOf h == 2 && s.fld (R.FACE_CG_CFG h) FACE_CG_CFG.SYNC_GRP == g)) s (fun s h => s.syncInstant h f.inst)))

/-- A control frame that only a subordinate acts on, from the master it follows (R388). -/
def State.subFrame (s : State) (u : Nat) (f : Frame) (act : State → State) : State :=
  s.receiveFrame u f (fun s => if s.subordinate && s.follows (f.src % 8) then act s else s)

/-- A control frame that only the master acts on. -/
def State.masterFrame (s : State) (u : Nat) (f : Frame) (act : State → State) : State :=
  s.receiveFrame u f (fun s => if s.isMaster then act s else s)

/-- STG_CHECK (R205). -/
def execFrameStgCheck (dt : Nat) (u : Fin 2) (fr : Frame) (s : State) : Out :=
  run dt s (fun s => s.subFrame u (fr.ofSub 0x03) State.cascCheck)

/-- STG_RESULT (R205). -/
def execFrameStgResult (dt : Nat) (u : Fin 2) (fr : Frame) (s : State) : Out :=
  run dt s (fun s =>
    let f := fr.ofSub 0x04
    s.masterFrame u f (fun s => s.cascResult (f.src % 8) ((f.word 1).toNat % 256)))

/-- STG_GROUP (R206). -/
def execFrameStgGroup (dt : Nat) (u : Fin 2) (fr : Frame) (s : State) : Out :=
  run dt s (fun s =>
    let f := fr.ofSub 0x05
    s.masterFrame u f (fun s => s.cascGroup (f.src % 8) ((f.word 1).toNat % 32) f.inst (f.word 4).toNat))

/-- STG_APPLY (R206). -/
def execFrameStgApply (dt : Nat) (u : Fin 2) (fr : Frame) (s : State) : Out :=
  run dt s (fun s =>
    let f := fr.ofSub 0x06
    s.subFrame u f (fun s => s.cascOffer f.inst))

/-- STG_CONFIRM (R206). -/
def execFrameStgConfirm (dt : Nat) (u : Fin 2) (fr : Frame) (s : State) : Out :=
  run dt s (fun s =>
    let f := fr.ofSub 0x07
    s.masterFrame u f (fun s => s.cascConfirm (f.src % 8)))

/-- STG_COMMIT (R206). -/
def execFrameStgCommit (dt : Nat) (u : Fin 2) (fr : Frame) (s : State) : Out :=
  run dt s (fun s => s.subFrame u (fr.ofSub 0x08) State.cascCommit)

/-- STG_CANCEL (R207). -/
def execFrameStgCancel (dt : Nat) (u : Fin 2) (fr : Frame) (s : State) : Out :=
  run dt s (fun s =>
    let f := fr.ofSub 0x09
    s.receiveFrame u f (fun s => if s.isMaster || s.follows (f.src % 8) then s.cascCancel (f.src % 8) else s))

/-- TS_REQ: the master answers with a grant or a refusal (R380). -/
def execFrameTsReq (dt : Nat) (u : Fin 2) (fr : Frame) (s : State) : Out :=
  run dt s (fun s =>
    let f := fr.ofSub 0x0A
    s.masterFrame u f (fun s =>
      let (ok, s) := s.grant (f.src % 8) (f.word 1).toNat
      s.sendCtrl 0x0B false (f.src % 8) [BitVec.ofNat 32 ok.toNat]))

/-- Requests to which an answer can still come: the slice of an older one has been skipped (R372; log entry 116). -/
def State.askedNow (s : State) : List (Nat × Nat × Time) :=
  s.ts.asked.filter (fun x => decide (Time.since x.2.2 s.now < 200000000))

/-- TS_GRANT: the answer to the oldest request; granted, the slice it was made for starts, if it still waits (R380). -/
def execFrameTsGrant (dt : Nat) (u : Fin 2) (fr : Frame) (s : State) : Out :=
  run dt s (fun s =>
    let f := fr.ofSub 0x0B
    s.subFrame u f (fun s =>
      match s.askedNow with
      | [] => s
      | (y, target, _) :: rest =>
        let s := { s with ts := { s.ts with asked := rest } }
        match s.ts.slices.find? (fun (x : Slice) => x.stage == 0 && x.y == y && x.target == target) with
        | some sl => if (f.word 1).toNat % 2 = 1 ∧ s.budget = true then s.startSlice sl else s
        | none => s))

/-- UNKNOWN_FRAME_TYPE: a frame of an unlisted type is discarded (R393). A CTRL frame of an unlisted subtype is taken as any other
frame and does nothing here. -/
def execUnknownFrameType (dt : Nat) (u : Fin 2) (fr : Frame) (s : State) : Out :=
  run dt s (fun s =>
    if !(s.linkOn && s.portUp u) then s
    else if !fr.known then s.raise (R.SHL_PORT u) SHL_PORT.BAD_BLK
    else if fr.express && fr.type == 3 && (let x := (fr.word 0).toNat % 256; decide (x = 0 ∨ 0x0B < x)) then
      s.receiveFrame u fr id
    else s)

/-- The device's IDLE block: its position, whether it is a master, and whether it is wrapped (R391). -/
def State.idleBlock (s : State) : List Byte :=
  [0x1E, BitVec.ofNat 8 (s.ownId % 8 + 8 * s.isMaster.toNat + 16 * (s.flag R.SHL_STAT SHL_STAT.WRAPPED).toNat), 0, 0, 0, 0, 0, 0]

/-- FRAME_TRANSMIT: port `u` sends its next frame: forwarded express, own express, then bulk (R398); with nothing to send, or DOWN, an
IDLE block (R390). -/
def execFrameTransmit (dt : Nat) (u : Fin 2) (s : State) : Out :=
  run dt s (fun s =>
    if s.linkOn && !s.portUp u then s.sendBlock u s.idleBlock
    else if s.linkOn then
      let p := s.lport u
      match p.fwd, p.own, p.bulk with
      | f :: rest, _, _ => s.setLport u { p with fwd := rest, out := some { f with crc := f.crcOf } }
      | [], f :: rest, _ => s.setLport u { p with own := rest, out := some { f with crc := f.crcOf } }
      | [], [], f :: rest => s.setLport u { p with bulk := rest, out := some { f with crc := f.crcOf } }
      | [], [], [] => s.sendBlock u s.idleBlock
    else s)

/-! ## Register writes (R18, R406) -/

/-- A write to SHL_CFG. -/
def writeShlCfg (a : Access) (w : Word) (s : State) : Wr :=
  let k := R.SHL_CFG
  pitOnly a k s (fun s => wordWrite a k w s (fun w s =>
    let s := s.fieldWrite k w
    okWr (if SHL_CFG.WAKE.get w = 1 ∧ s.isMaster = true ∧ s.mode ≠ mPark then s.sendWake [0, 1] else s)))

/-- SHL_WAKE (R406): a write with WAKE set. -/
def execShlWake (dt : Nat) (a : Access) (w : Word) (s : State) : Out :=
  run dt s (fun s => settle a R.SHL_CFG (writeShlCfg a (SHL_CFG.WAKE.put w 1) s))

end Sys2Proof.Machine
end

