-- ==== Sys2Proof/Machine/Ports.lean ====
section
/-! DEFINITION. The Ethernet MACs' rings and links (R407, R410), the PCIe link and MSI-X (R412 to R415). -/

namespace Sys2Proof.Machine

open Sys2Proof

/-! ## Ethernet (R407, R410, R426) -/

/-- The control register of a ring. -/
def ringCtl (m : Nat) (rx : Bool) (q : Nat) : Nat := if rx then R.MAC_RXR_CTL m q else R.MAC_TXR_CTL m q

/-- Descriptors of a ring in work outside the device are dropped. -/
def State.dropJobs (s : State) (m : Nat) (rx : Bool) (q : Nat) : State :=
  s.updMac m (fun x => { x with jobs := x.jobs.filter (fun (j : MacJob) => !(j.rx == rx && j.q == q)) })

/-- A write to a ring's control register: enabling restarts the ring at index 0. -/
def writeRing (a : Access) (m : Nat) (rx : Bool) (q : Nat) (w : Word) (s : State) : Wr :=
  let k := ringCtl m rx q
  wordWrite a k w s (fun w s =>
    let was := s.flag k MAC_TXR_CTL.EN
    let s := s.fieldWrite k w
    okWr (if !was && s.flag k MAC_TXR_CTL.EN then (s.setF k MAC_TXR_CTL.NEXT 0).dropJobs m rx q else s))

/-- RING_ENABLE: a write with EN set (R410). -/
def execRingEnable (dt : Nat) (a : Access) (m : Fin 2) (rx : Bool) (q : Fin 8) (w : Word) (s : State) : Out :=
  run dt s (fun s => settle a (ringCtl m rx q) (writeRing a m rx q (MAC_TXR_CTL.EN.put w 1) s))

/-- The link of MAC `m` is up or down; a change is reported (R407, R426). -/
def State.setMacLink (s : State) (m : Nat) (up : Bool) : State :=
  let k := R.MAC_STAT m
  if s.flag k MAC_STAT.LINK = up then s
  else ((s.setF k MAC_STAT.LINK up.toNat).raise k MAC_STAT.LINK_CHG).info (0x179 + m) 0x00C0 (BitVec.ofNat 32 up.toNat)

/-- MAC_LINK_CHANGE: the link status of MAC `m` (R407); in PARK it is powered down (R342). -/
def execMacLinkChange (dt : Nat) (m : Fin 2) (up : Bool) (s : State) : Out :=
  run dt s (fun s => if s.mode = mPark then s else s.setMacLink m up)

/-! ## PCIe (R412 to R415, R426) -/

/-- The PCIe link is up at a rate and a width, or down, which resets the function's configuration (log entry 82); a change is reported
(R426). -/
def State.setPcieLink (s : State) (up : Bool) (gen width : Nat) : State :=
  let k := R.PCIE_STAT
  let chg := s.flag k PCIE_STAT.LINK != up
  let s := (s.setF k PCIE_STAT.GEN (if up then gen else 0)).setF k PCIE_STAT.WIDTH (if up then width else 0)
  let s := s.setF k PCIE_STAT.LINK up.toNat
  let s := if up then s else { s with io := { s.io with busMaster := false, msixCtl := 0, d3hot := false, bars := [] } }
  if chg then (s.raise k PCIE_STAT.LINK_CHG).info 0x17B 0x00C8 (BitVec.ofNat 32 up.toNat) else s

/-- A rate and a width the port can train: rates 1 to 4, one lane or two (R412). -/
def pcieTrains (gen width : Nat) : Bool := decide (1 ≤ gen) && decide (gen ≤ 4) && (width == 1 || width == 2)

/-- PCIE_LINK_CHANGE: the link comes up, after LOAD and not in PARK, or goes down. -/
def execPcieLinkChange (dt : Nat) (up : Bool) (gen : Fin 8) (width : Fin 4) (s : State) : Out :=
  run dt s (fun s =>
    if up && (s.mode == mPark || s.md.loadStep != 4 || !pcieTrains gen width) then s else s.setPcieLink up gen width)

/-- MSI-X messages may leave: enabled, not masked as a function, and the function is a bus master. -/
def State.msixOn (s : State) : Bool := s.pcieOut && s.io.msixCtl / 0x8000 % 2 == 1 && s.io.msixCtl / 0x4000 % 2 == 0

/-- Word `i` of the table entry of vector `v`; every vector is masked until the host unmasks it. -/
def State.msixWord (s : State) (v i : Nat) : Word :=
  AMap.get 0 s.io.msixTable (4 * v + i) ^^^ (if i = 3 then 1 else 0)

/-- The message of vector `v` leaves for the host if nothing masks it, else it stays pending (R415). -/
def State.msixSend (s : State) (v : Nat) : State :=
  if s.msixOn && !(s.msixWord v 3).getLsbD 0 then
    let host := (s.msixWord v 0).toNat + 0x100000000 * (s.msixWord v 1).toNat
    { s with io := { s.io with
      msixOut := some (host, s.msixWord v 2), msixPend := AMap.set false s.io.msixPend v false } }
  else { s with io := { s.io with msixPend := AMap.set false s.io.msixPend v true } }

/-- Pending messages leave as their masks open. -/
def State.msixRetry (s : State) : State :=
  forAll ((List.range 64).filter (fun v => AMap.get false s.io.msixPend v)) s State.msixSend

/-- The host writes word `i` of the MSI-X table. -/
def State.msixWrite (s : State) (i : Nat) (w : Word) : State :=
  let w := if i % 4 = 3 then (w &&& 1) ^^^ 1 else w
  { s with io := { s.io with msixTable := AMap.set 0 s.io.msixTable i w } }.msixRetry

/-- Word `i` of the pending-bit array. -/
def State.msixPba (s : State) (i : Nat) : Word :=
  BitVec.ofNat 32 (((List.range 32).filter (fun b => AMap.get false s.io.msixPend (32 * i + b))).foldl (fun x b => x + 2 ^ b) 0)

/-- A write to PCIE_MSIX_SEND, by any master. -/
def writeMsixSend (a : Access) (w : Word) (s : State) : Wr :=
  wordWrite a R.PCIE_MSIX_SEND w s (fun w s => okWr (s.msixSend (PCIE_MSIX_SEND.VAL.get w)))

/-- PCIE_MSIX_SEND (R415). -/
def execPcieMsixSend (dt : Nat) (a : Access) (w : Word) (s : State) : Out :=
  run dt s (fun s => settle a R.PCIE_MSIX_SEND (writeMsixSend a w s))

end Sys2Proof.Machine
end

