-- ==== Sys2Proof/Machine/Tally.lean ====
section
/-! DEFINITION. Tally (R288 to R293): the held reports, the log, its pointers, and TALLY_SAFE. The arrival of a report is
State.report. -/

namespace Sys2Proof.Machine

open Sys2Proof

/-- HEAD and TAIL, modulo 512 (R290). -/
def State.tallyHead (s : State) : Nat := s.fld R.TALLY_HEAD TALLY_HEAD.HEAD
def State.tallyTail (s : State) : Nat := s.fld R.TALLY_TAIL TALLY_TAIL.TAIL

/-- The number of unread entries (R290). -/
def State.tallyUnread (s : State) : Nat := (s.tallyHead + 512 - s.tallyTail) % 512

/-- The log entry at place `e`, modulo 256. -/
def State.logAt (s : State) (e : Nat) : Option LogEntry := AMap.get none s.lg.entries (e % 256)

/-- Write a log entry. -/
def State.setLog (s : State) (e : Nat) (x : LogEntry) : State :=
  { s with lg := { s.lg with entries := AMap.set none s.lg.entries (e % 256) (some x) } }

/-- The youngest unread entry with the SRC and CODE of a report (R289). -/
def State.youngest (s : State) (r : Report) : Option Nat :=
  ((List.range s.tallyUnread).map (fun i => s.tallyHead + 511 - i)).find? (fun e =>
    match s.logAt e with
    | some x => x.src == r.src && x.code == r.code
    | none => false)

/-- A report merges into an entry: its repeats plus one count, and the entry's latest report is this one (R289). -/
def LogEntry.merge (x : LogEntry) (r : Report) : LogEntry :=
  { x with repeats := Nat.min 65535 (x.repeats + r.repeats + 1), latest := r.inst }

/-- SPAN: µs from the first report to the latest, saturating (R291). -/
def LogEntry.span (x : LogEntry) : Nat := Nat.min 65535 (Time.since x.first x.latest / 200000)

/-- The words of an entry (R291). -/
def LogEntry.word (x : LogEntry) (i : Nat) : Word :=
  match i with
  | 0 => BitVec.ofNat 32 (x.cls * 0x40000000 + x.src * 0x10000 + x.code)
  | 1 => x.detail
  | 2 => x.first.truncate 32
  | _ => BitVec.ofNat 32 (x.repeats * 0x10000 + x.span)

/-- Tally takes a report (R289, R290, R292). -/
def State.tallyReport (s : State) (r : Report) : State :=
  let merged : Option State :=
    match s.youngest r with
    | some e =>
      match s.logAt e with
      | some x => if Time.since x.latest r.inst ≤ 200000 then some (s.setLog e (x.merge r)) else none
      | none => none
    | none => none
  let s :=
    match merged with
    | some s => s
    | none =>
      if s.tallyUnread = 256 then s.tallyLost r.src
      else
        (s.setLog s.tallyHead { cls := r.cls, src := r.src, code := r.code, detail := r.detail, first := r.inst,
                                latest := r.inst, repeats := Nat.min 65535 r.repeats }).countMod R.TALLY_HEAD TALLY_HEAD.HEAD
  s.raiseBits R.TALLY_STAT (BitVec.ofNat 32 (2 ^ r.cls))

/-- TALLY_TAKE: Tally takes the oldest report of its input queue (R288, R289). -/
def execTallyTake (dt : Nat) (s : State) : Out :=
  run dt s (fun s =>
    match s.lg.queue with
    | [] => s
    | r :: rest => { s with lg := { s.lg with queue := rest } }.tallyReport r)

/-- TALLY_HELD_REPORT: the oldest held report enters the input queue once it has room (R288). -/
def execTallyHeldReport (dt : Nat) (s : State) : Out :=
  run dt s (fun s =>
    match s.lg.held with
    | [] => s
    | r :: rest =>
      if s.lg.queue.length < 16 then { s with lg := { s.lg with held := rest, queue := s.lg.queue ++ [r] } } else s)

/-- A TAIL write frees entries, or is ignored when the unread count would leave 0 to 256 (R290). -/
def State.setTail (s : State) (w : Word) : State :=
  let v := TALLY_TAIL.TAIL.get w
  if (s.tallyHead + 512 - v) % 512 ≤ 256 then s.fieldWrite R.TALLY_TAIL w else s.raise R.TALLY_STAT TALLY_STAT.TAIL_REJ

/-- A write to TALLY_TAIL. -/
def writeTallyTail (a : Access) (w : Word) (s : State) : Wr :=
  wordWrite a R.TALLY_TAIL w s (fun w s => okWr (s.setTail w))

/-- TALLY_TAIL (R290). -/
def execTallyTail (dt : Nat) (a : Access) (w : Word) (s : State) : Out :=
  run dt s (fun s => settle a R.TALLY_TAIL (writeTallyTail a w s))

/-- A write to TALLY_SAFE is judged bit by bit (R293). -/
def State.clearSafe (s : State) (w : Word) : State :=
  let m := s.reg R.TALLY_SAFE &&& w &&& TALLY_SAFE.GROUP.mask
  if m = 0 then s
  else if s.mode = mHold ∧ s.flag R.MODE_REL MODE_REL.OPEN = true then s.clearFlags R.TALLY_SAFE m
  else s.raise R.TALLY_STAT TALLY_STAT.SAFE_CLR_REJ

/-- A write to TALLY_SAFE, which lies in the channel domain (R18, R293). -/
def writeTallySafe (a : Access) (w : Word) (s : State) : Wr :=
  pitOnly a R.TALLY_SAFE s (fun s => wordWrite a R.TALLY_SAFE w s (fun w s => okWr (s.clearSafe w)))

/-- TALLY_SAFE_WRITE (R293). -/
def execTallySafeWrite (dt : Nat) (a : Access) (w : Word) (s : State) : Out :=
  run dt s (fun s => settle a R.TALLY_SAFE (writeTallySafe a w s))

end Sys2Proof.Machine
end

