-- ==== Sys2Proof/Machine/Tub.lean ====
section
/-! DEFINITION. The Tub pool (R296 to R300). Freeing on core reset is State.freeTubOf. -/

namespace Sys2Proof.Machine

open Sys2Proof

/-- The address of buffer position `b` (R296). -/
def tubAddr (b : Nat) : Word := BitVec.ofNat 32 (0x20000000 + b * 0x800)

/-- The owner tag of buffer `b` while it is allocated. -/
def State.tubOwner (s : State) (b : Nat) : Option Nat := AMap.get none s.lg.tubTag b

/-- The pool buffer whose base address is `w` (R296, R299). -/
def State.tubBase (s : State) (w : Word) : Option Nat :=
  let b := (w.toNat - 0x20000000) / 0x800
  if w = tubAddr b ∧ (s.lg.tubFree.contains b ∨ (s.tubOwner b).isSome) then some b else none

/-- Put `f` as the free list. -/
def State.setTubFree (s : State) (f : List Nat) : State := ({ s with lg := { s.lg with tubFree := f } }).sample 613

/-- Tag or untag buffer `b`. -/
def State.setTubTag (s : State) (b : Nat) (t : Option Nat) : State :=
  { s with lg := { s.lg with tubTag := AMap.set none s.lg.tubTag b t } }

/-- The act of a write to TUB_CFG (R296): positions beyond 2,047 do not exist. -/
def State.tubConfigure (s : State) (w : Word) : State :=
  if s.lg.tubTag ≠ [] then s.raise R.TUB_STAT TUB_STAT.CFG_REJ
  else
    let first := TUB_CFG.FIRST.get w
    let n := TUB_CFG.COUNT.get w
    (s.fieldWrite R.TUB_CFG w).setTubFree (((List.range n).map (fun i => first + i)).filter (fun b => b < 2048))

/-- A write to TUB_CFG. -/
def writeTubCfg (a : Access) (w : Word) (s : State) : Wr :=
  wordWrite a R.TUB_CFG w s (fun w s => okWr (s.tubConfigure w))

/-- TUB_CFG (R296). -/
def execTubCfg (dt : Nat) (a : Access) (w : Word) (s : State) : Out :=
  run dt s (fun s => settle a R.TUB_CFG (writeTubCfg a w s))

/-- The act of a read of TUB_ALLOC by an access with tag `t` (R298). -/
def State.tubAllocate (s : State) (t : Nat) : Word × State :=
  match s.lg.tubFree with
  | [] => (0, s.raise R.TUB_STAT TUB_STAT.EMPTY)
  | b :: rest => (tubAddr b, (s.setTubTag b (some t)).setTubFree rest)

/-- TUB_ALLOC (R298). -/
def execTubAlloc (dt : Nat) (a : Access) (s : State) : Out :=
  run dt s (fun s => readAct a R.TUB_ALLOC s (fun s => s.tubAllocate a.tag))

/-- A free or give by another tag than the owner's is rejected (R299); the report names the master by its tag (R294). -/
def State.tubNonOwner (s : State) (b t : Nat) : State :=
  let s := s.raise R.TUB_STAT TUB_STAT.NONOWNER
  let s := s.count R.TUB_STAT TUB_STAT.NONOWNER_CNT
  s.info 0xC8 0x0060 (tubAddr b ||| BitVec.ofNat 32 t)

/-- A free or give of an address that is no buffer is rejected (R299); the report, whose DETAIL
is the address, names the master by its SRC (R294; log entry 117). -/
def State.tubBadAddr (s : State) (a : Access) (w : Word) : State :=
  (s.raise R.TUB_STAT TUB_STAT.BADADDR).info a.src 0x0061 w

/-- The write of `w` to TUB_FREE frees a buffer that is free, which the manual leaves undefined (R14, R299): its position. -/
def State.tubTwice (s : State) (w : Word) : Option Nat :=
  match s.tubBase w with
  | some b => if (s.tubOwner b).isNone then some b else none
  | none => none

/-- The act of a write to TUB_FREE by access `a` (R299). The undefined case never reaches it by a command: the
command stops with a fault. -/
def State.tubRelease (s : State) (a : Access) (w : Word) : State :=
  let t := a.tag
  match s.tubBase w with
  | none => s.tubBadAddr a w
  | some b =>
    match s.tubOwner b with
    | some o => if o = t then (s.setTubTag b none).setTubFree (b :: s.lg.tubFree) else s.tubNonOwner b t
    | none => s

/-- A write to TUB_FREE. -/
def writeTubFree (a : Access) (w : Word) (s : State) : Wr :=
  wordWrite a R.TUB_FREE w s (fun w s => okWr (s.tubRelease a w))

/-- TUB_FREE (R299). -/
def execTubFree (dt : Nat) (a : Access) (w : Word) (s : State) : Out :=
  match (if a.size = 4 then s.tubTwice w else none) with
  | some b => .fault (.tubDoubleFree b)
  | none => run dt s (fun s => settle a R.TUB_FREE (writeTubFree a w s))

/-- The act of a write to TUB_GIVE by access `a` (R300). -/
def State.tubRetag (s : State) (a : Access) (w : Word) : State :=
  let t := a.tag
  let addr := w &&& 0xFFFFF800
  match s.tubBase addr with
  | none => s.tubBadAddr a addr
  | some b =>
    match s.tubOwner b with
    | none => s.tubBadAddr a addr
    | some o => if o = t then s.setTubTag b (some (TUB_GIVE.TAG.get w)) else s.tubNonOwner b t

/-- A write to TUB_GIVE. -/
def writeTubGive (a : Access) (w : Word) (s : State) : Wr :=
  wordWrite a R.TUB_GIVE w s (fun w s => okWr (s.tubRetag a w))

/-- TUB_GIVE (R300). -/
def execTubGive (dt : Nat) (a : Access) (w : Word) (s : State) : Out :=
  run dt s (fun s => settle a R.TUB_GIVE (writeTubGive a w s))

end Sys2Proof.Machine
end

