-- ==== Sys2Proof/Machine/Update.lean ====
section
/-! DEFINITION. Live update (R362 to R366): the update area and its window, and the commands of the update unit. -/

namespace Sys2Proof.Machine

open Sys2Proof

/-! ## The update area (R362) -/

/-- The system address of byte 0 of the update area, and its size. -/
def updBase : Nat := 0x80080000
def updSize : Nat := 0x180000

/-- Read `n` bytes of memory from `a`, with the counts of what the code finds (R276, R278). -/
def State.readBytes (s : State) (a n : Nat) : List Byte × State :=
  let first := a / 4
  let words := (a + n + 3) / 4 - first
  let (bs, s) := (List.range words).foldl (fun (x : List (List Byte) × State) i =>
    match x.2.deliverMem (4 * (first + i)) with
    | (w, _, s) => (bytesOf w :: x.1, s)) ([], s)
  (slice (bs.reverse.flatMap id) (a % 4) n, s)

/-- The first `n` bytes of the update area. -/
def State.updBytes (s : State) (o n : Nat) : List Byte × State := s.readBytes (updBase + o) n

/-- The bytes of the update area that hold the header and the table. -/
def State.updHeaderEnd (s : State) : Nat :=
  256 + 64 * ((s.byte (updBase + 6)).toNat + 256 * (s.byte (updBase + 7)).toNat)

/-- A write to the update area clears SECT_OK, and one within the header and table bytes HDR_OK. -/
def writeUpdArea (a : Access) (o : Nat) (w : Word) (s : State) : Wr :=
  let hdr := decide (o < s.updHeaderEnd)
  let s := { s with up := { s.up with sectOk := none } }
  let s := if hdr then s.setF R.UPD_STAT UPD_STAT.HDR_OK 0 else s
  s.writeMem (updBase + o) a.size w

/-- The place in the update area of byte `o` of the window; none above page 47. -/
def State.windowAt (s : State) (o : Nat) : Option Nat :=
  let p := s.fld R.UPD_PAGE UPD_PAGE.PAGE
  if p ≤ 47 then some (p * 32768 + o) else none

/-- A write to the window, by either world. -/
def writeUpdWindow (a : Access) (o : Nat) (w : Word) (s : State) : Wr :=
  match s.windowAt o with
  | some x => writeUpdArea a x w s
  | none => okWr s

/-- UPDATE_WINDOW_WRITE (R362). -/
def execUpdateWindowWrite (dt : Nat) (a : Access) (ofs : Fin 32768) (w : Word) (s : State) : Out :=
  runMem dt s (fun s => settle a (0x60078000 + ofs) (writeUpdWindow a ofs w s))

/-! ## Commands (R363 to R365) -/

/-- UPD_STAT.SECT_OK: the section UPD_CTL.SECT names is verified. -/
def State.sectOk (s : State) : Bool :=
  match s.up.sectOk with
  | some (i, _) => i == s.fld R.UPD_CTL UPD_CTL.SECT
  | none => false

/-- A command is refused: ERR sets, and a report. -/
def State.updRefuse (s : State) (err : Nat) : State :=
  ({ s with up := { s.up with cmd := 0 } }.setF R.UPD_STAT UPD_STAT.BUSY 0).setF R.UPD_STAT UPD_STAT.ERR err
    |>.info 0x188 0x0085 (BitVec.ofNat 32 err)

/-- A command begins to run. -/
def State.updRun (s : State) (cmd sect : Nat) : State :=
  ({ s with up := { s.up with cmd := cmd, sect := sect, lost := false, ofs := s.fld R.UPD_SECT_OFS UPD_SECT_OFS.OFS } }).setF
    R.UPD_STAT UPD_STAT.BUSY 1

/-- A command of the update unit has run. -/
def State.updEnd (s : State) : State := ({ s with up := { s.up with cmd := 0 } }).setF R.UPD_STAT UPD_STAT.BUSY 0

/-- The table entry `i` of the header in the update area. -/
def State.updSection (s : State) (i : Nat) : Section × State :=
  let (b, s) := s.updBytes (256 + 64 * i) 64
  (imgSection (List.replicate 256 (0 : Byte) ++ b) 0, s)

/-- Sections of the update area that STAGE can act on (R365). -/
def Section.stageable (x : Section) : Bool := x.typ == 0x10 || (x.typ == 1 && decide (x.target ≤ 3))

/-- A reason to refuse STAGE of section `i`, or 0. -/
def State.stageError (s : State) (i : Nat) (x : Section) : Nat :=
  if s.flag R.UPD_STAT UPD_STAT.HDR_OK = false ∨ s.up.sectOk.map (fun y => y.1) ≠ some i then 16
  else if x.stageable = false then 15
  else if x.typ = 0x10 ∧ (s.stgBusy || s.stgArmed) = true then 17
  else 0

/-- The act of a write to UPD_CTL. -/
def State.updCtl (s : State) (w : Word) : State :=
  let k := R.UPD_CTL
  let sect := UPD_CTL.SECT.get w
  let s := s.setF k UPD_CTL.SECT sect
  if s.flag R.UPD_STAT UPD_STAT.BUSY then s
  else
    match UPD_CTL.CMD.get w with
    | 1 => s.updRun 1 sect
    | 2 => s.updRun 2 sect
    | 3 =>
      let (x, s) := s.updSection sect
      let e := s.stageError sect x
      if e = 0 then (s.setF R.UPD_STAT UPD_STAT.SKIP 0).updRun 3 sect else s.updRefuse e
    | 4 =>
      let s := { s with up := { s.up with sectOk := none } }
      (s.setF R.UPD_STAT UPD_STAT.HDR_OK 0).setF R.UPD_STAT UPD_STAT.PEND 0
    | _ => s

/-- A write to UPD_CTL; only Pit world issues STAGE and CLEAR (R362). -/
def writeUpdCtl (a : Access) (w : Word) (s : State) : Wr :=
  let act := fun s => wordWrite a R.UPD_CTL w s (fun w s => okWr (s.updCtl w))
  let c := UPD_CTL.CMD.get w
  if c = 3 ∨ c = 4 then pitOnly a R.UPD_CTL s act else act s

/-- A write to UPD_SECT_OFS, UPD_PAGE or another update register, by either world. -/
def writeUpdReg (a : Access) (k : Nat) (w : Word) (s : State) : Wr :=
  wordWrite a k w s (fun w s => okWr (s.fieldWrite k w))

/-- A write to UPD_CTL with command `c`. -/
def State.updRow (s : State) (a : Access) (c : Nat) (w : Word) : State :=
  settle a R.UPD_CTL (writeUpdCtl a (UPD_CTL.CMD.put w c) s)

/-- VERIFY_HDR (R363): CMD = 1. -/
def execVerifyHdr (dt : Nat) (a : Access) (w : Word) (s : State) : Out := run dt s (fun s => s.updRow a 1 w)

/-- VERIFY_SECT (R364): CMD = 2. -/
def execVerifySect (dt : Nat) (a : Access) (w : Word) (s : State) : Out := run dt s (fun s => s.updRow a 2 w)

/-- STAGE (R365): CMD = 3. -/
def execUpdStage (dt : Nat) (a : Access) (w : Word) (s : State) : Out := run dt s (fun s => s.updRow a 3 w)

/-- CLEAR (R365): CMD = 4. -/
def execUpdClear (dt : Nat) (a : Access) (w : Word) (s : State) : Out := run dt s (fun s => s.updRow a 4 w)

/-- VERIFY_HDR_DONE: the header and the table are checked (R363). -/
def execVerifyHdrDone (dt : Nat) (s : State) : Out :=
  run dt s (fun s =>
    if s.up.cmd = 1 then
      let k := R.UPD_STAT
      let (h, s) := s.updBytes 0 256
      let fits := decide (imgTableEnd h ≤ updSize)
      let (tbl, s) := if fits then s.updBytes 256 (64 * imgSections h) else ([], s)
      let img := h ++ tbl
      -- a signature or digest that R385 has cleared does not verify
      let e := if s.headerError img = 0 ∧ s.up.lost = true then 6 else s.headerError img
      if e ≠ 0 then (s.setF k UPD_STAT.HDR_OK 0).updRefuse e
      else if newer (imgSeq img) (s.reg R.LIVE_SEQ).toNat = false then (s.setF k UPD_STAT.HDR_OK 0).updRefuse 13
      else if fits = false then (s.setF k UPD_STAT.HDR_OK 0).updRefuse 14
      else ((s.setReg R.UPD_SEQ (BitVec.ofNat 32 (imgSeq img))).setF k UPD_STAT.HDR_OK 1).updEnd
    else s)

/-- VERIFY_SECT_DONE: the section's bytes lie within the area and have its digest (R364). An entry the header does not count is refused
as not verified (log entry 109). -/
def execVerifySectDone (dt : Nat) (s : State) : Out :=
  run dt s (fun s =>
    if s.up.cmd = 2 then
      let i := s.up.sect
      let o := 1024 * s.up.ofs
      let s := { s with up := { s.up with sectOk := none } }
      let (h, s) := s.updBytes 0 256
      if imgSections h ≤ i then s.updRefuse 16
      else
        let (x, s) := s.updSection i
        if updSize < o + x.len then s.updRefuse 14
        else
          let (b, s) := s.updBytes o x.len
          if sha256 b = x.digest ∧ s.up.lost = false then ({ s with up := { s.up with sectOk := some (i, o) } }).updEnd else s.updRefuse 9
    else s)

/-- The access by which LOAD and the update unit write settings: Pit world, Supervisor level (R358). -/
def loadAccess : Access := { master := 0x60, world := .pit, sup := true, size := 4 }

/-- A SETTINGS word for the ST-typed word at `k` goes to the staging copy (R196, R365); one with a reserved bit set is a bad write, as
it is from software (R7). -/
def stageSetting (k : Nat) (v : Word) (s : State) : State :=
  if (stepWordAt k).isSome then s.stage k v else (wordWrite loadAccess k v s (fun v s => okWr (s.stage k v))).1

/-- Stage the SETTINGS entries of a list of bytes; entries that are no ST-typed word are counted (R365). -/
def stageSettings : Nat → List Byte → State → State
  | 0, _, s => s
  | n + 1, b, s =>
    let addr := leNat b 0 4
    let v := BitVec.ofNat 32 (leNat b 4 4)
    let st := addr % 4 == 0 && ((stepWordAt addr).isSome || tyMask addr .st != 0)
    stageSettings n (b.drop 8) (if st then stageSetting addr v s else s.count R.UPD_STAT UPD_STAT.SKIP)

/-- Write bytes to code-protected memory from `a` on, word by word. -/
def writeBytes : Nat → Nat → List Byte → State → State
  | 0, _, _, s => s
  | n + 1, a, b, s =>
    match b with
    | [] => s
    | _ :: _ =>
      if a % 4 = 0 ∧ 4 ≤ b.length then writeBytes n (a + 4) (b.drop 4) (s.writeMemWord a (wordAt b 0))
      else writeBytes n (a + 1) (b.drop 1) (s.writeMem a 1 (wordAt b 0)).1

/-- STAGE_DONE: SETTINGS go to the staging copy, CODE to the Hewer's inactive bank, which is then verified (R365). -/
def execUpdStageDone (dt : Nat) (s : State) : Out :=
  runMem dt s (fun s =>
    if s.up.cmd = 3 then
      let i := s.up.sect
      let (x, s) := s.updSection i
      let e := s.stageError i x
      match s.up.sectOk with
      | some (_, o) =>
        if e ≠ 0 then s.updRefuse e
        else
          let (b, s) := s.updBytes o x.len
          if x.typ = 0x10 then ((stageSettings (x.len / 8) b s).setF R.UPD_STAT UPD_STAT.PEND 1).updEnd
          else
            let a := privBase x.target + 0x20000 + x.dest
            let s := (writeBytes x.len a b s).setF (R.HW_BANK x.target) HW_BANK.VERIFIED 0
            let (back, s) := s.readBytes a x.len
            if sha256 back = x.digest ∧ s.up.lost = false then
              ((s.setF (R.HW_BANK x.target) HW_BANK.VERIFIED 1).setF R.UPD_STAT UPD_STAT.PEND 1).updEnd
            else s.updRefuse 9
      | none => s.updRefuse 16
    else s)

end Sys2Proof.Machine
end

