-- ==== Sys2Proof/Machine/Views.lean ====
section
/-! DEFINITION. What a whole-word read of a register returns (R4): the word it holds, with the fields that show other state
computed, and the acts of the registers that act when they are read (R149, R298, R421, R446). -/

namespace Sys2Proof

/-- Put a one-bit field. -/
def Fld.bit (f : Fld) (w : Word) (b : Bool) : Word := f.put w b.toNat

end Sys2Proof

namespace Sys2Proof.Machine

open Sys2Proof

/-- A bit of each of 32 sources from number 32 × i. -/
def State.srcBits (s : State) (i : Nat) (p : IntSource → Bool) : Word :=
  (List.range 32).foldl (fun w b => if p (s.src (32 * i + b)) then w ||| (1#32 <<< b) else w) 0

/-- The commands of channel `n` after R145. -/
def State.commandsOf (s : State) (n : Nat) : Bool × Bool :=
  match s.rowOf n with
  | 1 => s.patternOf n
  | 5 => ((s.chan n).wave, (s.chan n).cmdL)
  | _ => (false, false)

/-- The slice that runs. -/
def State.liveSlice (s : State) : Option Slice := s.ts.slices.find? (fun (x : Slice) => x.live)

/-- A port the Corer has selected has no link (R321). -/
def State.corerLinkDown (s : State) : Bool :=
  match s.fld R.CORER_CTL CORER_CTL.PATH with
  | 0 => !s.flag R.PCIE_STAT PCIE_STAT.LINK
  | 1 => !s.flag (R.MAC_STAT 0) MAC_STAT.LINK
  | 2 => !s.flag (R.MAC_STAT 1) MAC_STAT.LINK
  | _ => !s.flag (R.MAC_STAT 0) MAC_STAT.LINK || !s.flag (R.MAC_STAT 1) MAC_STAT.LINK

/-- The device watchdog counts (R242, R348). -/
def State.wdogRuns (s : State) : Bool :=
  s.md.wdFrom.isSome && s.mode != mPark && (match s.md.wdSuspend with | some x => decide (40000000 ≤ Time.since x s.now) | none => true)

/-- The word at key `k` of the register `r` with indexes `idx` as a read by master `m` returns it. -/
def State.view (s : State) (m k : Nat) (r : RegSpec) (idx : List Nat) : Word :=
  let w := s.reg k
  match r.name, idx with
  | .CH_ADC_STAT, [f, c] =>
    CH_ADC_STAT.INSEL_IGN.bit (CH_ADC_STAT.BUSY.bit w (s.adcBusy (16 * f + c))) (s.inselIgn (16 * f + c))
  | .LE_STAT, [f, c] => LE_STAT.RUN.bit w (s.eng (s.effEngine (16 * f + c))).run.isSome
  | .LE_INFO, [f, c] => LE_INFO.WEIGHT.put w (programWeight (s.programOf (16 * f + c)))
  | .CH_PWM_STAT, [f, c] =>
    let (h, l) := s.commandsOf (16 * f + c)
    CH_PWM_STAT.GH_ON.bit (CH_PWM_STAT.GL_ON.bit w l) h
  | .CH_PROT_STAT, [f, c] =>
    let n := 16 * f + c
    CH_PROT_STAT.FLT_IN.bit (CH_PROT_STAT.BLANK.bit w (s.blankOpen n)) (s.chan n).fltLow
  | .FACE_CG_COUNT, [f, j] => BitVec.ofNat 32 (s.countAt (4 * f + j) s.now)
  | .FACE_CG_RESID, [f, j] => wordOf (s.group (4 * f + j)).resid
  | .TB_TIME_LO, _ => s.now.truncate 32
  | .TB_VTIME_LO, _ => s.vtime.truncate 32
  | .TB_TIME_HI, _ => AMap.get 0 s.tb.timeHi m
  | .TB_VTIME_HI, _ => AMap.get 0 s.tb.vtimeHi m
  | .TB_ADJ_REM, _ => wordOf s.tb.adjRem
  | .TB_STAT, _ => TB_STAT.ADJ_BUSY.bit w (decide (s.tb.adjRem ≠ 0))
  | .ANG_POS, [t] => ANG_POS.ANGLE.put w (s.theta t)
  | .ANG_TP_LO, [t] => BitVec.ofNat 32 (s.trk t).tp
  | .ANG_TP_HI, [t] => AMap.get 0 s.tb.angHi (16 * m + t)
  | .ENC_STAT, [e] => ENC_STAT.HELD.bit w (s.encHeld e)
  | .GEV_STAT, [j] => GEV_STAT.REMOTE.bit w (!s.drivesGev j)
  | .SRC_CFG, [i] => SRC_CFG.LEVEL.bit w (isLevelSource i)
  | .SRC_COAL, [i] => SRC_COAL.GATHER.put w (s.src i).gather
  | .INT_PEND, [i] => s.srcBits i (fun (q : IntSource) => q.pending)
  | .INT_ACT, [i] => s.srcBits i (fun (q : IntSource) => q.active)
  | .TGT_STAT, [t] => TGT_STAT.ANY.bit w (s.tgtAny t)
  | .TGT_TOP, [t] => s.tgtTop t
  | .DMA_STAT, [c] => DMA_STAT.BUSY.bit (DMA_STAT.IRQ.bit w (s.dmaIrq c)) (s.dmaBusy c)
  | .DMA_GSTAT, _ => s.dmaGstat
  | .TALLY_STAT, _ =>
    TALLY_STAT.FILL.put (TALLY_STAT.FULL.bit w (decide (s.tallyUnread = 256))) s.tallyUnread
  | .CORER_STAT, _ =>
    CORER_STAT.LINK_DOWN.bit (CORER_STAT.BUSY.bit w (s.path.writes.any (fun (x : StoreWrite) => !x.confirmed))) s.corerLinkDown
  | .STG_PEEK_ADDR, _ => STG_PEEK_ADDR.HIT.bit w (s.peek (4 * STG_PEEK_ADDR.ADDR.get w)).2
  | .STG_PEEK_DATA, _ => (s.peek (4 * s.fld R.STG_PEEK_ADDR STG_PEEK_ADDR.ADDR)).1
  | .UPD_STAT, _ => UPD_STAT.SECT_OK.bit w s.sectOk
  | .TS_STAT, _ =>
    let w := TS_STAT.BUDGET.bit w s.budget
    match s.liveSlice with
    | some x => TS_STAT.BUSY.bit (TS_STAT.TYPE.put (TS_STAT.TARGET.put w x.target) x.y) true
    | none => w
  | .TUB_STAT, _ => TUB_STAT.LOW.bit (TUB_STAT.FREE.put w s.lg.tubFree.length) s.tubLow
  | .TUB_TAG, [b] =>
    match s.tubOwner b with
    | some t => TUB_TAG.ALLOC.bit (TUB_TAG.TAG.put 0 t) true
    | none => 0
  | .SIG_AGEQ, _ =>
    let i := s.fld R.SIG_AGEQ_SEL SIG_AGEQ_SEL.SIG
    SIG_AGEQ.STALE.bit (SIG_AGEQ.OWNED.bit (SIG_AGEQ.AGE.put 0 (s.ageQuery i)) (s.ownsSig i)) (s.sigStale i)
  | .SIG_PUBQ, _ => SIG_PUBQ.FILL.put w s.rt.pubq.length
  | .SHL_STAT, _ =>
    let w := SHL_STAT.PRESENT.put w (SHL_STAT.PRESENT.get w ||| 2 ^ s.ownId)
    SHL_STAT.STRAP_ERR.bit (SHL_STAT.ID.put (SHL_STAT.ROLE.put w s.io.link.role) s.ownId) s.io.link.strapErr
  | .WDOG_STAT, _ => WDOG_STAT.RUN.bit (WDOG_STAT.REMAIN.put w s.wdogRemain) s.wdogRuns
  | .CAN_FIFO, [c, j] => s.canHead c j
  | _, _ => w

/-- A whole-word read of a register: its word, and the state after the act of a register that acts when it is read. -/
def State.readReg (s : State) (a : Access) (k : Nat) (r : RegSpec) (idx : List Nat) : Word × State :=
  match r.name, idx with
  | .TB_TIME_LO, _ => s.captureTime a.master s.now
  | .TB_VTIME_LO, _ => s.captureVtime a.master s.vtime
  | .ANG_TP_LO, [t] => s.captureTp a.master t
  | .TUB_ALLOC, _ => s.tubAllocate a.tag
  | .GSPI_RX, [f] => s.spiPop f
  | .STG_PEEK_DATA, _ =>
    let p := 4 * s.fld R.STG_PEEK_ADDR STG_PEEK_ADDR.ADDR
    match s.stagedAt p with
    | some v =>
      let (v, ok, s) := s.readEntry p v
      let (v, s) := if ok then (v, s) else s.freshWord
      (s.overlay p v, s)
    | none =>
      if (stepWordAt p).isSome then
        match s.deliver p (s.reg p) with
        | (v, true, s) => (v, s)
        | (_, false, s) => s.freshWord
      else (s.view a.master k r idx, s)
  | _, _ => (s.view a.master k r idx, s)

/-- A core-local register of processor `p` as it reads (R35, R245); the stack pointers and the status stand in the core. -/
def State.coreRegRead (s : State) (p k : Nat) (r : RegSpec) : Word :=
  let c := s.core p
  match r.name with
  | .CORE_ID => CORE_ID.SPLIT.bit (CORE_ID.P.put 0 p) (decide (p = 4 ∨ p = 5) && !s.lockstep)
  | .CORE_STATUS =>
    CORE_STATUS.ENEST.put (CORE_STATUS.EMG.bit (CORE_STATUS.LEVEL.bit (CORE_STATUS.WORLD.put
      (CORE_STATUS.CPL.put 0 c.cpl) c.world.bit) c.sup) c.emg) c.enest
  -- reserved bits read zero (R7), whatever x2 holds
  | .SP_PU => c.spPU &&& ~~~r.reserved
  | .SP_PS => c.spPS &&& ~~~r.reserved
  | .SP_BU => c.spBU &&& ~~~r.reserved
  | .SP_BS => c.spBS &&& ~~~r.reserved
  | .ESP => c.esp &&& ~~~r.reserved
  | .HW_BANK => if p < 4 then s.reg k else 0
  | .HW_RESUME => if p < 4 then s.reg k else 0
  | _ => s.reg k

end Sys2Proof.Machine
end

