-- ==== Sys2Proof/Machine/Bus.lean ====
section
/-! DEFINITION. The buses: what a read or a write of a target does, with the checks of R18, R19, R31, R34, R36 and R245. -/

namespace Sys2Proof.Machine

open Sys2Proof

/-! ## Refusals at issue -/

/-- A User-level write that is refused at issue: APWIN, the core-local block, and the registers of R331 (R36, R245). -/
def supervisorOnly (x : Nat) : Bool :=
  (0x60080010 ≤ x && x < 0x60080014) || (0x60081000 ≤ x && x < 0x60082000) ||
  (0x60080040 ≤ x && x < 0x600800A0 && !(0x60080084 ≤ x && x < 0x60080088))

/-- The system address an access by a master names: a core's address is local. -/
def State.systemOf (s : State) (a : Access) (v : Nat) : Nat :=
  match a.core? with
  | some p => s.localToSystem p v
  | none => v

/-! ## Reads -/

/-- How a read ends. -/
inductive ReadEnd where
  | ok
  /-- The address is unmapped (R31, R33). -/
  | unmapped
  /-- An error response from a remote target (R400, R414). -/
  | refused
  /-- An uncorrectable error in the data (R278). -/
  | bad
  deriving DecidableEq, Repr

/-- What a read answers. -/
abbrev Rd := Word × ReadEnd × State

/-- Core-local addresses: APWIN and the block of R245. -/
def coreLocal (k : Nat) : Bool := k == 0x60080010 || (0x60081000 ≤ k && k < 0x60082000)

/-- An undefined word, as a narrower read of a word-only register returns it (R446). -/
def State.freeRead (s : State) : Rd :=
  let (v, s) := s.freshWord
  (v, .ok, s)

/-- The answer of a word whose code has been checked. -/
def codeRead (o n : Nat) (r : Word × Bool × State) : Rd := (pick r.1 o n, if r.2.1 then .ok else .bad, r.2.2)

/-- The word of loop memory at `k` is one R108 lists; any other reads zero (R31). -/
def loopWord (k : Nat) : Bool :=
  let o := k % 0x100000
  (stepWordAt k).isSome || (0x82000 ≤ o && o < 0x82440 && o % 0x40 < 0x28) || (0xC0000 ≤ o && o % 0x1000 ≤ 0x800)

/-- A word of loop memory (R108). -/
def State.readLoop (s : State) (k : Nat) : Rd :=
  let f := (k - 0x50000000) / 0x100000
  let o := k % 0x100000
  if (stepWordAt k).isSome then codeRead 0 4 (s.deliver k (s.reg k))
  else if 0x82000 ≤ o ∧ o < 0x82440 ∧ o % 0x40 < 0x28 then
    let e := (o - 0x82000) / 0x40
    let q := if e < 16 then s.stateEngine (16 * f + e) else 128 + f
    codeRead 0 4 (s.deliver (engineKey q (o % 0x40)) ((s.eng q).stateWord (o % 0x40)))
  else if 0xC0000 ≤ o ∧ o % 0x1000 ≤ 0x800 then codeRead 0 4 (s.deliver k (s.reg k))
  else (0, .ok, s)

/-- Words read through a window that is word-only: the Tally log and the Corer's read window (R6). -/
def wordWindow (k : Nat) : Bool := (0x60051000 ≤ k && k < 0x60052000) || (0x60060400 ≤ k && k < 0x60060800)

/-- A read in the register blocks, of the word at `k`; `o` is the byte in it and `a.size` the width. -/
def State.readBlock (s : State) (a : Access) (k o : Nat) : Rd :=
  if 0x60078000 ≤ k ∧ k < 0x60080000 then
    match s.windowAt (k - 0x60078000) with
    | some x => codeRead o a.size (s.deliverMem (updBase + x))
    | none => (0, .ok, s)
  else if a.size ≠ 4 then
    match regAt k with
    | none => if wordWindow k then s.freeRead else (0, .ok, s)
    | some (r, idx) =>
      let (b, s) := s.freshBit
      if b && !coreLocal k then (s.readReg a k r idx).2.freeRead else s.freeRead
  else if 0x60051000 ≤ k ∧ k < 0x60052000 then
    match s.logAt ((k - 0x60051000) / 16) with
    | some x => (x.word (k % 16 / 4), .ok, s)
    | none => (0, .ok, s)
  else if 0x60060400 ≤ k ∧ k < 0x60060800 then (wordAt s.path.window (k - 0x60060400), .ok, s)
  else
    match regAt k with
    | none => (0, .ok, s)
    | some (r, idx) =>
      if coreLocal k then
        match a.core? with
        | some p =>
          let (w, s) := s.shown (coreKey p k) r (s.coreRegRead p (coreKey p k) r)
          (w, .ok, s)
        | none => (0, .ok, s)
      else
        let (w, s) := s.readReg a k r idx
        let (w, s) := s.shown k r w
        (w, .ok, s)

/-- A read of `a.size` bytes at system address `x` of this device. -/
def State.deviceRead (s : State) (a : Access) (x : Nat) : Rd :=
  let o := x % 4
  let k := x - o
  match regionOf x with
  | some 8 =>
    let c := (x - 0x24000000) / 1024
    let beyond := pageBeyond (AMap.get 0 s.pageErr c)
    let (ok, s) := s.deliverPage c
    -- what a codeword with more than 16 errors delivers is not known
    let (w, s) := if beyond then s.freshWord else (s.word k, s)
    codeRead o a.size (w, ok, s)
  | some 9 => codeRead o a.size (s.deliver k (s.sig ((x - 0x40000000) / 4)).value)
  | some 10 =>
    -- undefined fields read as a free value (R446)
    let (w, s) := if AMap.get false s.undef k then s.freshWord else (s.statusWord ((x - 0x40080000) / 4), s)
    codeRead o a.size (s.deliver k w)
  | some r =>
    if 11 ≤ r ∧ r ≤ 18 then (if a.size = 4 ∨ loopWord k = false then s.readLoop k else s.freeRead)
    else codeRead o a.size (s.deliverMem k)
  | none => s.readBlock a k o

/-! ## Writes -/

/-- The name of a core-local register ends in BANK or begins with SP_B (R245). -/
def bankNamed (r : RegName) : Bool :=
  match r with
  | .VBASE_BANK | .SLIM_BANK | .SYSENT_BANK | .SRET_BANK | .XRET_BANK | .ENTRY_BANK | .SP_BU | .SP_BS | .APWIN => true
  | _ => false

/-- A whole-word write to a stack pointer of a core-local block (R217). A narrower one, or one with a reserved bit set, leaves an
undefined value (R446). -/
def writeStackReg (a : Access) (p k : Nat) (put : Core → Word → Core) (w : Word) (s : State) : Wr :=
  let reserved := match regAt (k % 0x100000000) with | some (r, _) => r.reserved | none => 0
  let (v, s) := if a.size = 4 ∧ w &&& reserved = 0 then (w, s) else s.freshWord
  okWr (s.updCore p (fun c => put c v))

/-- A write to a core-local register of processor `p`, at key `k` (R36, R217, R245, R349). -/
def writeCoreReg (a : Access) (p k : Nat) (r : RegName) (w : Word) (s : State) : Wr :=
  let act := fun (s : State) => supOnly a s (fun s =>
    match r with
    | .SP_PU => writeStackReg a p k (fun c v => { c with spPU := v }) w s
    | .SP_PS => writeStackReg a p k (fun c v => { c with spPS := v }) w s
    | .SP_BU => writeStackReg a p k (fun c v => { c with spBU := v }) w s
    | .SP_BS => writeStackReg a p k (fun c v => { c with spBS := v }) w s
    | .ESP => writeStackReg a p k (fun c v => { c with esp := v }) w s
    | .CWDOG => writeCwdog a p w s
    | .CWDOG_KICK => writeCwdogKick a p w s
    | .HW_BANK => if p < 4 then writePlain a k w s else okWr s
    | .HW_RESUME => if p < 4 then writePlain a k w s else okWr s
    | _ => writePlain a k w s)
  if bankNamed r then act s else pitOnly a k s act

/-- A write to the register `r` with indexes `idx` at key `k`. -/
def writeReg (a : Access) (k : Nat) (r : RegName) (idx : List Nat) (w : Word) (s : State) : Wr :=
  match r, idx with
  | .CH_ADC_SWTRIG, [f, c] => writeAdcSwtrig a (16 * f + c) w s
  | .CH_PROT_CLR, [f, c] => writeProtClr a (16 * f + c) w s
  | .BR_SAFE_CLR, [f, c] => writeBrSafeClr a (16 * f + c) w s
  | .FACE_SBY_CTL, [f] => writeSbyCtl a f w s
  | .FACE_SPR_CTL, [f] => writeSprCtl a f w s
  | .FACE_TBL_CTL, [f, t] => writeTblCtl a f t w s
  | .FACE_FEV_FIRE, [f, i] => writeFevFire a f i w s
  | .FEV_CFG, [f, j] => writeStReg a k w (s.noteFevCfg f j)
  | .TB_RATE, _ => writeTbRate a w s
  | .TB_SLEW, _ => writeTbSlew a w s
  | .TB_ADJ, _ => writeTbAdj a w s
  | .TB_CTL, _ => writeTbCtl a w s
  | .TB_VT_OFS_LO, _ => writeVtLo a w s
  | .TB_VT_OFS_HI, _ => writeVtHi a w s
  | .TA_LO, [i] => writeTaLo a i w s
  | .TA_HI, [i] => writeTaHi a i w s
  | .TA_CTL, [i] => writeTaCtl a i w s
  | .GEV_FIRE, [i] => writeGevFire a i w s
  | .INT_DOORBELL, _ => writeDoorbell a w s
  | .INT_PEND, [i] => writeIntPend a i w s
  | .SRC_CFG, [i] => writeSrcCfg a i w s
  | .SRC_COAL, [i] => writeSrcCoal a i w s
  | .TGT_CTL, [t] => writeTgtCtl a t w s
  | .TGT_COMPLETE, [t] => writeTgtComplete a t w s
  | .DMA_CFG, [c] => writeDmaCfg a c w s
  | .DMA_SRC_LO, [c] => writeDmaSetting a c k w s
  | .DMA_SRC_HI, [c] => writeDmaSetting a c k w s
  | .DMA_DST_LO, [c] => writeDmaSetting a c k w s
  | .DMA_DST_HI, [c] => writeDmaSetting a c k w s
  | .DMA_RING, [c] => writeDmaSetting a c k w s
  | .DMA_WM_HIGH, [c] => writeDmaSetting a c k w s
  | .DMA_WM_LOW, [c] => writeDmaSetting a c k w s
  | .DMA_COUNT, [c] => writeDmaSetting a c k w s
  | .DMA_PUT, [c] => writeDmaPointer a c true w s
  | .DMA_TAKE, [c] => writeDmaPointer a c false w s
  | .DMA_CTL, [c] => writeDmaCtl a c w s
  | .DMA_STAT, [c] => writeDmaStat a c w s
  | .DMA_DONE_BYTES, [c] => dmaGuard a c k s (writePlain a k w)
  | .DMA_DESC_LO, [c] => dmaGuard a c k s (writePlain a k w)
  | .DMA_DESC_HI, [c] => dmaGuard a c k s (writePlain a k w)
  | .TALLY_TAIL, _ => writeTallyTail a w s
  | .TALLY_SAFE, _ => writeTallySafe a w s
  | .CORER_CTL, _ => writeCorerCtl a w s
  | .CORER_STAT, _ => writeCorerStat a w s
  | .CORER_RD_CTL, _ => writeCorerRd a w s
  | .LANE_CFG, [l] => writeLaneCfg a l w s
  | .LANE_QUOTA, [l] => writeLaneQuota a l w s
  | .LANE_CTL, [l] => writeLaneCtl a l w s
  | .LANE_BUF, [l] => writeLaneSetting a l k w s
  | .LANE_PRE, [l] => writeLaneSetting a l k w s
  | .LANE_POST, [l] => writeLaneSetting a l k w s
  | .LANE_REARM, [l] => writeLaneSetting a l k w s
  | .LANE_COND, [l, _] => writeLaneSetting a l k w s
  | .LANE_CVAL, [l, _] => writeLaneSetting a l k w s
  | .LANE_SEG_BASE, [l] => writeLaneSetting a l k w s
  | .LANE_SEG_COUNT, [l] => writeLaneSetting a l k w s
  | .LANE_STAT, [l] => writeLaneSetting a l k w s
  | .LANE_USE, [l] => writeLaneSetting a l k w s
  | .LANE_TAIL, [l] => writeLaneSetting a l k w s
  | .LANE_CNT, [l] => writeLaneSetting a l k w s
  | .LANE_SEQ, [l] => writeLaneSetting a l k w s
  | .STG_CTL, _ => writeStgCtl a w s
  | .UPD_CTL, _ => writeUpdCtl a w s
  | .UPD_SECT_OFS, _ => writeUpdReg a k w s
  | .UPD_PAGE, _ => writeUpdReg a k w s
  | .UPD_STAT, _ => writeUpdReg a k w s
  | .UPD_SEQ, _ => writeUpdReg a k w s
  | .IDREV, _ => writePlain a k w s
  | .DEP_STAT, _ => writePlain a k w s
  | .DEP_MIS_ADDR, _ => writePlain a k w s
  | .MODE_CTL, _ => writeModeCtl a w s
  | .MODE_REL, _ => writeModeRel a w s
  | .MODE_PERMIT, [i] => writeModePermit a i w s
  | .RST_REQ, _ => writeRstReq a w s
  | .WDOG_KICK, _ => writeWdogKick a w s
  | .TS_CFG, [y] => writeTsCfg a y w s
  | .TS_REQ, _ => writeTsReq a w s
  | .TS_SVC, _ => writeTsSvc a w s
  | .MI_INJ_LO, _ => writePit a k w s
  | .MI_INJ_HI, _ => writePit a k w s
  | .MI_INJ_CTL, _ => writePit a k w s
  | .MI_SCRUB_CFG, [i] => writeScrubCfg a i w s
  | .TUB_CFG, _ => writeTubCfg a w s
  | .TUB_FREE, _ => writeTubFree a w s
  | .TUB_GIVE, _ => writeTubGive a w s
  | .CNY_CFG, _ => writeCanary a k w s
  | .CNY_STAT, _ => writeCanary a k w s
  | .SHL_CFG, _ => writeShlCfg a w s
  | .SIG_REFRESH, _ => pitOnly a k s (fun s => wordWrite a k w s (fun w s => okWr (s.fieldWrite k w).restartRefresh))
  | .MAC_TXR_CTL, [m, q] => writeRing a m false q w s
  | .MAC_RXR_CTL, [m, q] => writeRing a m true q w s
  | .PCIE_MSIX_SEND, _ => writeMsixSend a w s
  | .CAN_CTL, [c] => writeCanCtl a c w s
  | .CAN_TXABORT, [c] => writeCanAbort a c w s
  | .CAN_RXPOP, [c] => writeCanPop a c w s
  | .XSPI_CMD, _ => writeXspiCmd a w s
  | .GSPI_TXD, [f] => writeSpiTxd a f w s
  | .GSPI_POLL, [f, c] => writeSpiPoll a f c w s
  | _, _ =>
    if tyMask k .st ≠ 0 then writeStReg a k w s
    else if 0x60080000 ≤ k ∧ k < 0x60090000 then writeModeReg a k w s
    else if 0x60090000 ≤ k ∧ k < 0x600A0000 then writeTsReg a k w s
    else if channelDomain k || stagingBlock k then writePit a k w s
    else writePlain a k w s

/-- A write to a word of loop memory; offsets R108 does not list ignore it. -/
def writeLoop (a : Access) (k : Nat) (w : Word) (s : State) : Wr :=
  let f := (k - 0x50000000) / 0x100000
  let o := k % 0x100000
  if (stepWordAt k).isSome then writeStep a k w s
  else if 0x82000 ≤ o ∧ o < 0x82400 ∧ o % 0x40 < 0x28 then writeEngine a (16 * f + (o - 0x82000) / 0x40) (o % 0x40) w s
  else if 0xC0000 ≤ o ∧ o % 0x1000 ≤ 0x800 then
    writeTable a f ((o - 0xC0000) / 0x2000) (o / 0x1000 % 2) (o % 0x1000 / 4) w s
  else pitOnly a k s okWr

/-- A write in the register blocks at address `x`; a register write stores no byte of memory. -/
def writeBlock (a : Access) (x : Nat) (w : Word) (s : State) : Wr :=
  let k := x - x % 4
  if 0x60078000 ≤ k ∧ k < 0x60080000 then writeUpdWindow a (x - 0x60078000) w s
  else
    match regAt k with
    | none => okWr s
    | some (r, idx) =>
      if coreLocal k then
        match a.core? with
        | some p => keepsBytes s (writeCoreReg a p (coreKey p k) r.name w s)
        | none => okWr s
      else keepsBytes s (writeReg a k r.name idx w s)

/-- A write to a private memory of processor `p` (R34, R235). In split operation either copy of the Deputy writes the private ranges
of both (log entry 103). -/
def writePrivate (a : Access) (p x : Nat) (w : Word) (s : State) : Wr :=
  if (p = 4 ∨ p = 5) ∧ a.master ≠ 4 ∧ a.master ≠ 5 then (s.refuse19 a x, false)
  else
    let inactive : Bool := decide (p < 4) && 0x20000 ≤ x % 0x01000000 && x % 0x01000000 < 0x40000
    let s := if inactive then s.setF (R.HW_BANK p) HW_BANK.VERIFIED 0 else s
    s.writeMem x a.size w

/-- A write of `a.size` bytes at system address `x` of this device. -/
def deviceWrite (a : Access) (x : Nat) (w : Word) (s : State) : Wr :=
  match regionOf x with
  | some 7 => s.writeMem x a.size w
  | some 8 => (s, false)
  | some 9 => writeSigValue a ((x - 0x40000000) / 4) w s
  | some 10 => writeSigStatus a ((x - 0x40080000) / 4) w s
  | some 19 => if updBase ≤ x then writeUpdArea a (x - updBase) w s else (s, false)
  | some r => if r < 7 then writePrivate a r x w s else keepsBytes s (writeLoop a (x - x % 4) w s)
  | none => writeBlock a x w s

/-- The case of R14 that a write to this device meets, if it meets one. -/
def State.writeFault (s : State) (a : Access) (x : Nat) (w : Word) : Option Fault :=
  let k := x - x % 4
  if k = R.XSPI_CFG then (if s.loadReadsFlash then some .xspiDuringLoad else none)
  else if k = R.TUB_FREE then (if a.size = 4 then (s.tubTwice w).map Fault.tubDoubleFree else none)
  else s.faceFault a k

/-- A write to this device, or the case of R14 it meets. -/
def State.busWrite (s : State) (a : Access) (x : Nat) (w : Word) : Except Fault Wr :=
  match s.writeFault a x w with
  | some e => .error e
  | none => .ok (deviceWrite a x w s)

/-- Aligned words written one after the other from `x` until one is refused. -/
def State.busWriteWords (a : Access) : List Word → Nat → State → Except Fault Wr
  | [], _, s => .ok (s, true)
  | w :: ws, x, s =>
    match s.route x with
    | .device y =>
      match s.busWrite a y w with
      | .ok (s, true) => State.busWriteWords a ws (x + 4) s
      | r => r
    | _ => .ok (s, false)

/-- Aligned words read one after the other from `x`; the end is that of the first that fails. -/
def State.busReadWords (a : Access) : Nat → Nat → State → List Word × ReadEnd × State
  | 0, _, s => ([], .ok, s)
  | n + 1, x, s =>
    match s.route x with
    | .device y =>
      match s.deviceRead a y with
      | (w, .ok, s) =>
        let (ws, e, s) := State.busReadWords a n (x + 4) s
        (w :: ws, e, s)
      | (_, e, s) => ([], e, s)
    | _ => ([], .unmapped, s)

end Sys2Proof.Machine
end

