-- ==== Sys2Proof/Machine/Remote.lean ====
section
/-! DEFINITION. Accesses that leave the device: RD and WR frames of the cascade with their responses and time limit (R400), and
outbound reads and posted writes on PCIe (R414); and the accesses of peers and of the host that reach this device. -/

namespace Sys2Proof.Machine

open Sys2Proof

/-! ## Requests -/

/-- An access to the cascade range becomes a RD or WR frame (R400): its tag, and the state that waits for the response. -/
def State.linkRequest (s : State) (write : Bool) (wd : World) (d x : Nat) (payload : List Word) : Nat × State :=
  let t := s.io.link.nextTag
  let s := s.sendFrame false (if write then 0x10 else 0x11) wd false d (BitVec.ofNat 32 x) t 0 payload
  (t, { s with io := { s.io with link := { s.io.link with
    nextTag := (t + 1) % 65536, remotes := s.io.link.remotes ++ [{ tag := t, write := write, since := s.now }] } } })

/-- The tag by which a core or a DMA channel waits for an outbound PCIe request: apart from those of the cascade. -/
def pcieWait (t : Nat) : Nat := 65536 + t

/-- The host address of offset `x` of the outbound range (R414). -/
def State.outboundHost (s : State) (x : Nat) : Nat :=
  ((s.reg R.PCIE_OBASE_LO).toNat + 0x100000000 * (s.reg R.PCIE_OBASE_HI).toNat + x) % 2 ^ 64

/-- An outbound request can be issued now: at most 32 are outstanding (R412). -/
def State.pcieRoom (s : State) : Bool := decide (s.io.outbound.length < 32)

/-- A posted write leaves, and the zero-length read that will answer it (R414): the tag of that read. -/
def State.pciePost (s : State) (x : Nat) (bytes : List Byte) : Nat × State :=
  let h := s.outboundHost x
  let (t, s) := s.pcieRequest h 0 .confirm
  (t, { s with io := { s.io with posted := s.io.posted ++ [{ host := h, bytes := bytes, tag := t }] } })

/-- An outbound access has failed (R414). -/
def State.pcieError (s : State) (host : Nat) : State :=
  (s.raise R.PCIE_STAT PCIE_STAT.OB_ERR).info 0x17B 0x00C9 (BitVec.ofNat 32 host)

/-! ## Answers -/

/-- A burst takes the answer to its tag. -/
def Burst.answer (t : Nat) (r : PathReply) (b : Burst) : Burst :=
  if b.tag = some t then
    match r with
    | .data bytes => { b with tag := none, data := if b.data = [] then bytes else b.data }
    | .failed => { b with tag := none, err := true }
  else b

/-- The store at the head of a core's buffer that waits for tag `t` is answered: accepted, or refused (R234, R400). -/
def State.storeAnswered (s : State) (p t : Nat) (ok : Bool) : State :=
  match (s.flow p).stores with
  | b :: rest =>
    if b.tag = some t then
      let s := s.updFlow p (fun q => { q with stores := rest })
      if ok then s else s.storeErrorTo p b.va.toNat
    else s
  | [] => s

/-- A read of the host is answered: the data goes to it, or its request ends in an error (R400, R413). -/
def State.hostAnswered (s : State) (t : Nat) (ok : Bool) (w : Word) : State :=
  if s.io.hostTags.contains t then
    let s := { s with io := { s.io with hostTags := s.io.hostTags.erase t, hostBad := !ok } }
    if ok then s.returned 0x50 w else s
  else s

/-- A MAC's descriptor in work takes the answer to its request (R410). -/
def MacJob.answer (t : Nat) (r : PathReply) (j : MacJob) : MacJob :=
  if j.tag = some t then { j with tag := none, got := some r } else j

/-- The DAP register answers `w`. -/
def State.dapGives (s : State) (w : Word) : State := { s with io := { s.io with dapData := w } }

/-- No value is given for the data of a read that fails. -/
def State.dapFails (s : State) : State :=
  let (v, s) := s.freshWord
  s.dapGives v

/-- The DAP register receives the answer it waits for; no value is given for one that fails. -/
def State.dapAnswered (s : State) (t : Nat) (ok : Bool) (w : Word) : State :=
  if s.io.dapTag = some t then
    let (v, s) := if ok then (w, s) else s.freshWord
    { s with io := { s.io with dapData := v, dapTag := none } }
  else s

/-- What waits for tag `t` is answered: a core's load, a store, the DAP register, the host, the MACs, the bursts of the DMA channels. -/
def State.answered (s : State) (t : Nat) (r : PathReply) : State :=
  let ok : Bool := match r with | .data _ => true | .failed => false
  let word : Word := match r with | .data bytes => wordAt bytes 0 | .failed => 0
  let s := (s.dapAnswered t ok word).hostAnswered t ok word
  let s := { s with io := { s.io with
    macs := s.io.macs.map (fun (m, x) => (m, { x with jobs := x.jobs.map (MacJob.answer t r) })) } }
  let s := forAll (List.range 7) s (fun s p =>
    let s := s.updFlow p (fun q => { q with load := q.load.map (fun (l : PendLoad) =>
      if l.tag = some t then { l with tag := none, data := some word, err := !ok } else l) })
    s.storeAnswered p t ok)
  { s with mv := { s.mv with dma := s.mv.dma.map (fun (c, d) => (c, { d with
    reads := d.reads.map (Burst.answer t r), writes := d.writes.map (Burst.answer t r)
    descRead := d.descRead.map (Burst.answer t r) })) } }

/-- A remote access of the cascade has been answered, or has not been within its time. -/
def State.remoteEnds (s : State) (t : Nat) (write : Bool) (r : PathReply) : State :=
  if s.io.link.remotes.any (fun (x : Remote) => x.tag == t && x.write == write) then
    let s := { s with io := { s.io with link := { s.io.link with
      remotes := s.io.link.remotes.filter (fun (x : Remote) => x.tag != t) } } }
    s.answered t r
  else s

/-! ## Accesses of cascade peers (R400) -/

/-- The access of a peer: in the world its frame states, at User level (log entry 91). -/
def peerAccess (f : Frame) : Access := { master := 0x58 + f.src % 8, world := f.world, sup := false, size := 4 }

/-- During a system reset the S-domain blocks answer with STATUS 2. -/
def State.inSysReset (s : State) (x : Nat) : Bool := s.md.inReset && !channelDomain x

/-- A local address a peer can name. -/
def peerRange (x : Nat) : Bool := 0x20000000 ≤ x && x < 0x80000000

/-- WR (R400): a peer writes from ADDR; the answer is a WR_RSP. -/
def execFrameWr (dt : Nat) (u : Fin 2) (fr : Frame) (s : State) : Out :=
  runMemE dt s (fun s =>
    let f := fr.ofType false 0x10
    let x := f.addr.toNat
    let reply := fun (s : State) (status : Nat) => s.sendFrame false 0x13 f.world false (f.src % 8) 0 f.tag status []
    match s.arrive u f with
    | (false, s) => .ok s
    | (true, s) =>
      if s.inSysReset x then .ok (reply s 2)
      else if peerRange x ∧ x % 4 = 0 ∧ f.payload ≠ [] ∧ f.payload.length ≤ 64 then
        match State.busWriteWords (peerAccess f) f.payload x s with
        | .ok (s, ok) => .ok (reply s (if ok then 0 else 1))
        | .error e => .error e
      else .ok (reply s 1))

/-- RD (R400): a peer reads from ADDR; the answer is a RD_RSP with the bytes read. -/
def execFrameRd (dt : Nat) (u : Fin 2) (fr : Frame) (s : State) : Out :=
  run dt s (fun s =>
    let f := fr.ofType false 0x11
    let x := f.addr.toNat
    let n := (f.word 0).toNat
    let reply := fun (s : State) (status : Nat) (ws : List Word) =>
      s.sendFrame false 0x12 f.world false (f.src % 8) 0 f.tag status ws
    s.receiveFrame u f (fun s =>
      if s.inSysReset x then reply s 2 []
      else if peerRange x ∧ x % 4 = 0 ∧ 4 ≤ n ∧ n ≤ 256 ∧ n % 4 = 0 then
        match State.busReadWords (peerAccess f) (n / 4) x s with
        | (ws, .ok, s) => reply s 0 ws
        | (_, _, s) => reply s 1 []
      else reply s 1 []))

/-! ## Outbound PCIe (R414) -/

/-- The posted writes that the zero-length read of tag `t` answers: every one issued before it. -/
def postedUpTo (t : Nat) : List Posted → List Posted
  | [] => []
  | x :: xs => if x.tag = t then [x] else x :: postedUpTo t xs

/-- An outbound request ends (R321, R326, R414). -/
def State.outboundEnds (s : State) (o : Outbound) (r : PathReply) : State :=
  let s := { s with io := { s.io with outbound := s.io.outbound.erase o } }
  let ok : Bool := match r with | .data _ => true | .failed => false
  let s := if ok then s else s.pcieError o.host
  match o.for_ with
  | .read => s.answered (pcieWait o.tag) r
  | .confirm =>
    if s.io.posted.any (fun (x : Posted) => x.tag == o.tag) then
      let done := postedUpTo o.tag s.io.posted
      let s := { s with io := { s.io with posted := s.io.posted.drop done.length } }
      forAll done s (fun s (x : Posted) => s.answered (pcieWait x.tag) (if ok then .data [] else .failed))
    else s
  | .corerWrite l =>
    match s.path.writes.find? (fun (w : StoreWrite) => w.port == 2 && w.tag == o.tag && !w.confirmed) with
    | none => s
    | some w =>
      let put := fun (s : State) (v : StoreWrite) =>
        { s with path := { s.path with writes := s.path.writes.map (fun (x : StoreWrite) => if x = w then v else x) } }
      if ok then
        put { s with io := { s.io with posted := s.io.posted.filter (fun (x : Posted) => x.tag != o.tag) } } { w with confirmed := true }
      else
        let (t, s) := s.pcieRequest o.host 4 (.corerWrite l)
        let s := { s with io := { s.io with
          posted := s.io.posted.map (fun (x : Posted) => if x.tag = o.tag then { x with tag := t } else x) } }
        put s { w with tag := t }
  | .corerRead => s.readPartDone o.tag r

/-- The host receives the data of a read, or its read ends in an error (R413). -/
def State.hostGets (s : State) (w : Word) : State := ({ s with io := { s.io with hostBad := false } }).returned 0x50 w
def State.hostFails (s : State) : State := { s with io := { s.io with hostBad := true } }

/-- An access of the host or of the debug access port to the outbound range leaves (R413, R414, R424). -/
def State.outStart (s : State) (w : OutWait) : State :=
  match w.bytes with
  | some bytes => if s.pcieOut then (s.pciePost w.ofs bytes).2 else s.pcieError (s.outboundHost w.ofs)
  | none =>
    if s.pcieOut then
      let (t, s) := s.pcieRequest (s.outboundHost w.ofs) w.size .read
      { s with io := (if w.host then { s.io with hostTags := s.io.hostTags ++ [pcieWait t] } else { s.io with dapTag := some (pcieWait t) }) }
    else
      let s := s.pcieError (s.outboundHost w.ofs)
      if w.host then s.hostFails else s.dapFails

/-- It leaves now, or waits for room (R412). -/
def State.outAsk (s : State) (w : OutWait) : State :=
  if s.pcieOut && !s.pcieRoom then { s with io := { s.io with outWait := s.io.outWait ++ [w] } } else s.outStart w

/-- Accesses that wait for room ask again, in order. -/
def State.outRetry (s : State) : State := forAll s.io.outWait { s with io := { s.io with outWait := [] } } State.outAsk

/-! ## The host (R412, R413) -/

/-- The access of the host: Bank world, User level (R20, R413; log entry 91). -/
def hostAccess (size : Nat) : Access := { master := 0x50, world := .bank, sup := false, size := size }

/-- The system address that offset `o` of a base address region reaches. -/
def State.barAddr (s : State) (bar2 : Bool) (o : Nat) : Option Nat :=
  if bar2 then (if o < 0x80000000 then some (s.fld R.PCIE_B2WIN PCIE_B2WIN.BASE * 0x80000000 + o) else none)
  else if o < 0xA0000 then some (0x40000000 + o)
  else if 0x100000 ≤ o ∧ o < 0x300000 then some (0x60000000 + (o - 0x100000))
  else none

/-- The bits of word `i` of the base address registers that the host sets: BAR0 spans 16 MiB, BAR2 2 GiB, both of 64 bits (R413). -/
def barMask (i : Nat) : Word := if i = 0 then 0xFF000000 else if i = 2 then 0x80000000 else 0xFFFFFFFF

/-- A word of the configuration space (R412, R413; log entry 82): identity, command, class, the base address registers, and the
capabilities: power management at 0x40, PCI Express at 0x70, MSI-X at 0xB0, AER at 0x100. -/
def State.configWord (s : State) (o : Nat) : Word :=
  match o with
  | 0x10 | 0x14 | 0x18 | 0x1C =>
    let i := (o - 0x10) / 4
    AMap.get 0 s.io.bars i ||| (if i = 0 then 0x4 else if i = 2 then 0xC else 0)
  | 0x34 => 0x40
  | 0x40 => 0x00037001
  | 0x44 => BitVec.ofNat 32 (8 + (if s.io.d3hot then 3 else 0))
  | 0x70 => 0x0002B010
  | 0x74 => 0x00000001
  | 0x78 => 0x00002000
  | 0x7C => 0x00000824
  | 0x80 => BitVec.ofNat 32 (s.fld R.PCIE_STAT PCIE_STAT.GEN * 0x10000 + s.fld R.PCIE_STAT PCIE_STAT.WIDTH * 0x100000)
  | 0xB4 => 0x00F00000
  | 0xB8 => 0x00F01000
  | 0x100 => 0x00020001
  | 0 => 0x51281E0B
  | 4 => BitVec.ofNat 32 (if s.io.busMaster then 0x00100004 else 0x00100000)
  | 8 => 0x11800000
  | 0xB0 => BitVec.ofNat 32 ((s.io.msixCtl + 63) * 65536 + 0x0011)
  | _ => 0

/-- A write to the configuration space: Bus Master Enable, the base address registers, the power state D0 or D3hot, and the MSI-X enable
and function-mask bits. -/
def State.configWrite (s : State) (o : Nat) (w : Word) : State :=
  match o with
  | 4 => ({ s with io := { s.io with busMaster := w.getLsbD 2 } }).msixRetry
  | 0x10 | 0x14 | 0x18 | 0x1C =>
    let i := (o - 0x10) / 4
    { s with io := { s.io with bars := AMap.set 0 s.io.bars i (w &&& barMask i) } }
  | 0x44 =>
    if w.toNat % 4 = 0 ∨ w.toNat % 4 = 3 then ({ s with io := { s.io with d3hot := decide (w.toNat % 4 = 3) } }).msixRetry else s
  | 0xB0 => ({ s with io := { s.io with msixCtl := w.toNat / 0x40000000 * 0x4000 } }).msixRetry
  | _ => s

/-- An access of the host to system address `x` of the map (R413). A read gets its data or ends in an error, from the cascade and the outbound
range once its request has been answered (R400, R414); a write that is refused is lost, as a posted write gets no answer. -/
def State.hostReach (s : State) (x : Nat) (write : Bool) (size : Nat) (w : Word) : Except Fault State :=
  let a := hostAccess size
  match s.route x with
  | .device y =>
    if write then
      match s.busWrite a y w with
      | .ok r => .ok r.1
      | .error e => .error e
    else
      match s.deviceRead a y with
      | (v, .ok, s) => .ok (s.hostGets v)
      | (_, _, s) => .ok s.hostFails
  | .cascade d y =>
    -- a narrower access than a word ends in an error (R400)
    .ok (if write then (if size = 4 then (s.linkRequest true .bank d y [w]).2 else s)
      else if size = 4 then
        let (t, s) := s.linkRequest false .bank d y [4]
        { s with io := { s.io with hostTags := s.io.hostTags ++ [t] } }
      else s.hostFails)
  | .host y => .ok (s.outAsk { host := true, ofs := y, size := size, bytes := if write then some ((bytesOf w).take size) else none })
  | .unmapped => .ok (if write then s else s.hostFails)

/-- PCIE_INBOUND_ACCESS (R412, R413): the host reads or writes through a base address region or the configuration space. In D3hot only
the configuration space answers (log entry 82). -/
def execPcieInboundAccess (dt : Nat) (sp : PcieSpace) (write : Bool) (ofs : Word) (size : Nat) (w : Word) (s : State) : Out :=
  runMemE dt s (fun s =>
    let o := ofs.toNat
    if s.flag R.PCIE_STAT PCIE_STAT.LINK = false then .ok s
    else if sp = .config then
      .ok (if write then s.configWrite o w else s.hostGets (s.configWord o))
    else if s.io.d3hot then .ok (if write then s else s.hostFails)
    else if sp = .bar0 ∧ 0xF00000 ≤ o ∧ o < 0xF00400 then
      .ok (if write then s.msixWrite ((o - 0xF00000) / 4) w
        else s.hostGets (s.msixWord ((o - 0xF00000) / 16) (o % 16 / 4)))
    else if sp = .bar0 ∧ 0xF01000 ≤ o ∧ o < 0xF01008 then
      .ok (if write then s else s.hostGets (s.msixPba ((o - 0xF01000) / 4)))
    else
      match s.barAddr (sp == .bar2) o with
      | none => .ok (if write then s else s.hostGets 0)
      | some x => s.hostReach x write size w)

end Sys2Proof.Machine
end

