-- ==== Sys2Proof/Machine/Float.lean ====
section
/-! DEFINITION. Single-precision arithmetic of the F extension (R210): exact results by integers, rounded once, with the accrued
flags. Subnormal numbers are supported; tininess is detected after rounding (log entry 96). -/

namespace Sys2Proof.Machine

open Sys2Proof

/-! ## Numbers -/

/-- A single-precision value: a finite one is ±m × 2^e. -/
inductive Fp where
  | nan (signaling : Bool)
  | inf (neg : Bool)
  | fin (neg : Bool) (m : Nat) (e : Int)
  deriving DecidableEq, Repr

/-- The accrued exception flags. -/
def fNX : Nat := 1
def fUF : Nat := 2
def fOF : Nat := 4
def fDZ : Nat := 8
def fNV : Nat := 16

/-- A result with the flags it raises. -/
abbrev FRes := Word × Nat

/-- The canonical NaN. -/
def canonNan : Word := 0x7FC00000

/-- The value a word encodes. -/
def Fp.of (w : Word) : Fp :=
  let v := w.toNat
  let neg := decide (2 ^ 31 ≤ v)
  let ex : Nat := v / 2 ^ 23 % 256
  let fr : Nat := v % 2 ^ 23
  if ex = 255 then (if fr = 0 then .inf neg else .nan (decide (fr < 2 ^ 22)))
  else if ex = 0 then .fin neg fr (-149)
  else .fin neg (2 ^ 23 + fr) ((ex : Int) - 150)

/-- Any NaN. -/
def Fp.isNan : Fp → Bool
  | .nan _ => true
  | _ => false

/-- A signalling NaN. -/
def Fp.isSnan : Fp → Bool
  | .nan s => s
  | _ => false

/-- The sign. -/
def Fp.neg : Fp → Bool
  | .nan _ => false
  | .inf n => n
  | .fin n _ _ => n

/-- Zero of either sign. -/
def Fp.isZero : Fp → Bool
  | .fin _ 0 _ => true
  | _ => false

/-- The sign bit. -/
def signBit (neg : Bool) : Word := if neg then 0x80000000 else 0

def infWord (neg : Bool) : Word := signBit neg ||| 0x7F800000
def zeroWord (neg : Bool) : Word := signBit neg

/-! ## Rounding -/

/-- The number of bits of `m`. -/
def bitLen (m : Nat) : Nat := if m = 0 then 0 else Nat.log2 m + 1

/-- Drop the low `sh` bits of `m` and round the magnitude by mode `rm`: the rounded magnitude, and whether it is inexact. -/
def roundBits (rm : Nat) (neg : Bool) (m sh : Nat) : Nat × Bool :=
  let q := m / 2 ^ sh
  let r := m % 2 ^ sh
  let h := 2 ^ sh / 2
  let up : Bool :=
    match rm with
    | 0 => decide (h < r) || (decide (r = h) && decide (sh ≠ 0) && q % 2 == 1)
    | 1 => false
    | 2 => neg && r != 0
    | 3 => !neg && r != 0
    | _ => decide (h ≤ r) && decide (sh ≠ 0)
  (if up then q + 1 else q, r != 0)

/-- An overflowing result by mode `rm`. -/
def overflowWord (rm : Nat) (neg : Bool) : Word :=
  let toInf : Bool := match rm with
    | 1 => false
    | 2 => neg
    | 3 => !neg
    | _ => true
  if toInf then infWord neg else signBit neg ||| 0x7F7FFFFF

/-- ±m × 2^e, not zero, rounded to single precision by mode `rm`. -/
def f32Round (rm : Nat) (neg : Bool) (m : Nat) (e : Int) : FRes :=
  let top := e + bitLen m - 24
  let ex : Int := if top < -149 then -149 else top
  let cut := fun (x : Int) => if x ≤ e then (m * 2 ^ (e - x).toNat, false) else roundBits rm neg m (x - e).toNat
  let (sig, inexact) := cut ex
  let (sig, ex) := if sig = 2 ^ 24 then (2 ^ 23, ex + 1) else (sig, ex)
  if 105 ≤ ex ∧ 2 ^ 23 ≤ sig then (overflowWord rm neg, fOF + fNX)
  else
    let tiny : Bool := decide (top < -149) && !(decide (top = -150) && (cut top).1 == 2 ^ 24)
    let bits := if sig < 2 ^ 23 then sig else (ex + 150).toNat * 2 ^ 23 + (sig - 2 ^ 23)
    (signBit neg ||| BitVec.ofNat 32 bits, if inexact then fNX + (if tiny then fUF else 0) else 0)

/-- An exact sum as a result: zero takes sign `zneg`. -/
def f32Exact (rm : Nat) (zneg : Bool) (v : Int) (e : Int) : FRes :=
  if v = 0 then (zeroWord zneg, 0) else f32Round rm (decide (v < 0)) v.natAbs e

/-- The flag of NaN operands. -/
def nanFlag (l : List Fp) : Nat := if l.any Fp.isSnan then fNV else 0

/-! ## Arithmetic -/

/-- Signed significands of two numbers on their common exponent. -/
def align (n1 : Bool) (m1 : Nat) (e1 : Int) (n2 : Bool) (m2 : Nat) (e2 : Int) : Int × Int × Int :=
  let e := if e1 < e2 then e1 else e2
  let f := fun (n : Bool) (m : Nat) (x : Int) =>
    let v : Int := (m * 2 ^ (x - e).toNat : Nat)
    if n then -v else v
  (f n1 m1 e1, f n2 m2 e2, e)

/-- FADD.S. -/
def f32Add (rm : Nat) (a b : Word) : FRes :=
  match Fp.of a, Fp.of b with
  | .inf x, .inf y => if x = y then (infWord x, 0) else (canonNan, fNV)
  | .inf x, .fin _ _ _ => (infWord x, 0)
  | .fin _ _ _, .inf y => (infWord y, 0)
  | .fin x m1 e1, .fin y m2 e2 =>
    let (v1, v2, e) := align x m1 e1 y m2 e2
    let zneg : Bool := if m1 = 0 ∧ m2 = 0 ∧ x = y then x else rm == 2
    f32Exact rm zneg (v1 + v2) e
  | x, y => (canonNan, nanFlag [x, y])

/-- FSUB.S. -/
def f32Sub (rm : Nat) (a b : Word) : FRes :=
  match Fp.of b with
  | .nan s => (canonNan, if s then fNV else nanFlag [Fp.of a])
  | _ => f32Add rm a (b ^^^ 0x80000000)

/-- FMUL.S. -/
def f32Mul (rm : Nat) (a b : Word) : FRes :=
  match Fp.of a, Fp.of b with
  | .inf x, .inf y => (infWord (x != y), 0)
  | .inf x, .fin y m _ => if m = 0 then (canonNan, fNV) else (infWord (x != y), 0)
  | .fin x m _, .inf y => if m = 0 then (canonNan, fNV) else (infWord (x != y), 0)
  | .fin x m1 e1, .fin y m2 e2 =>
    if m1 = 0 ∨ m2 = 0 then (zeroWord (x != y), 0) else f32Round rm (x != y) (m1 * m2) (e1 + e2)
  | x, y => (canonNan, nanFlag [x, y])

/-- The quotient of two significands with a sticky bit: its magnitude and exponent. -/
def quotient (m1 : Nat) (e1 : Int) (m2 : Nat) (e2 : Int) : Nat × Int :=
  let k := 26 + bitLen m2
  let n := m1 * 2 ^ k
  (2 * (n / m2) + (if n % m2 = 0 then 0 else 1), e1 - e2 - (k : Int) - 1)

/-- FDIV.S. -/
def f32Div (rm : Nat) (a b : Word) : FRes :=
  match Fp.of a, Fp.of b with
  | .inf _, .inf _ => (canonNan, fNV)
  | .inf x, .fin y _ _ => (infWord (x != y), 0)
  | .fin x _ _, .inf y => (zeroWord (x != y), 0)
  | .fin x m1 e1, .fin y m2 e2 =>
    if m2 = 0 then (if m1 = 0 then (canonNan, fNV) else (infWord (x != y), fDZ))
    else if m1 = 0 then (zeroWord (x != y), 0)
    else
      let (q, e) := quotient m1 e1 m2 e2
      f32Round rm (x != y) q e
  | x, y => (canonNan, nanFlag [x, y])

/-- The integer square root of `m`, its bits from bit `n` - 1 downwards added to `r`. -/
def isqrtFrom (m : Nat) : Nat → Nat → Nat
  | 0, r => r
  | n + 1, r => isqrtFrom m n (if (r + 2 ^ n) * (r + 2 ^ n) ≤ m then r + 2 ^ n else r)

/-- The integer square root of `m`. -/
def isqrt (m : Nat) : Nat := isqrtFrom m (bitLen m / 2 + 1) 0

/-- The square root of a significand with a sticky bit. -/
def rootOf (m : Nat) (e : Int) : Nat × Int :=
  let k : Nat := if (e % 2 = 0) then 60 else 61
  let n := m * 2 ^ k
  let r := isqrt n
  (2 * r + (if r * r = n then 0 else 1), (e - k) / 2 - 1)

/-- FSQRT.S. -/
def f32Sqrt (rm : Nat) (a : Word) : FRes :=
  match Fp.of a with
  | .nan s => (canonNan, if s then fNV else 0)
  | .inf n => if n then (canonNan, fNV) else (a, 0)
  | .fin n m e =>
    if m = 0 then (a, 0)
    else if n then (canonNan, fNV)
    else
      let (q, x) := rootOf m e
      f32Round rm false q x

/-- a × b + c, rounded once; `np` negates the product and `nc` the addend: FMADD.S, FMSUB.S, FNMSUB.S, FNMADD.S. -/
def f32Fma (rm : Nat) (np nc : Bool) (a b c : Word) : FRes :=
  let x := Fp.of a
  let y := Fp.of b
  let z := Fp.of c
  let pn := (x.neg != y.neg) != np
  let cn := z.neg != nc
  let invalid : Bool := match x, y with
    | .inf _, .fin _ m _ => m == 0
    | .fin _ m _, .inf _ => m == 0
    | _, _ => false
  if invalid then (canonNan, fNV)
  else if x.isNan || y.isNan || z.isNan then (canonNan, nanFlag [x, y, z])
  else
    match x, y, z with
    | .fin _ m1 e1, .fin _ m2 e2, .fin _ m3 e3 =>
      let (v1, v2, e) := align pn (m1 * m2) (e1 + e2) cn m3 e3
      let zneg : Bool := if v1 = 0 ∧ v2 = 0 ∧ pn = cn then pn else rm == 2
      f32Exact rm zneg (v1 + v2) e
    | .fin _ _ _, .fin _ _ _, _ => (infWord cn, 0)
    | _, _, .inf _ => if pn = cn then (infWord pn, 0) else (canonNan, fNV)
    | _, _, _ => (infWord pn, 0)

/-! ## Comparison, classification, conversion -/

/-- A finite value as a whole number of 2^-149. -/
def Fp.scaled : Fp → Int
  | .fin n m e =>
    let v : Int := (m * 2 ^ (e + 149).toNat : Nat)
    if n then -v else v
  | .inf n => if n then -(2 ^ 300) else 2 ^ 300
  | .nan _ => 0

/-- FLE.S, FLT.S, FEQ.S by funct3 0, 1, 2: the comparison's result. -/
def f32Compare (f : Nat) (a b : Word) : Word × Nat :=
  let x := Fp.of a
  let y := Fp.of b
  if x.isNan || y.isNan then (0, if f = 2 then nanFlag [x, y] else fNV)
  else
    let r : Bool := match f with
      | 0 => decide (x.scaled ≤ y.scaled)
      | 1 => decide (x.scaled < y.scaled)
      | _ => decide (x.scaled = y.scaled)
    (if r then 1 else 0, 0)

/-- FMIN.S and FMAX.S: -0 counts as less than +0, and a NaN gives way to a number. -/
def f32MinMax (max : Bool) (a b : Word) : FRes :=
  let x := Fp.of a
  let y := Fp.of b
  let fl := nanFlag [x, y]
  if x.isNan && y.isNan then (canonNan, fl)
  else if x.isNan then (b, fl)
  else if y.isNan then (a, fl)
  else
    let less : Bool := decide (x.scaled < y.scaled) || (decide (x.scaled = y.scaled) && x.neg)
    (if less != max then a else b, fl)

/-- FSGNJ.S, FSGNJN.S, FSGNJX.S by funct3. -/
def f32Sign (f : Nat) (a b : Word) : Word :=
  let s := b &&& 0x80000000
  let body := a &&& 0x7FFFFFFF
  match f with
  | 0 => body ||| s
  | 1 => body ||| (s ^^^ 0x80000000)
  | _ => a ^^^ s

/-- FCLASS.S. -/
def f32Class (a : Word) : Word :=
  let bit : Nat := match Fp.of a with
    | .nan s => if s then 8 else 9
    | .inf n => if n then 0 else 7
    | .fin n m e =>
      if m = 0 then (if n then 3 else 4)
      else if e = -149 ∧ m < 2 ^ 23 then (if n then 2 else 5)
      else (if n then 1 else 6)
  BitVec.ofNat 32 (2 ^ bit)

/-- A finite value rounded to a whole number by mode `rm`, and whether that is inexact. -/
def toWhole (rm : Nat) (n : Bool) (m : Nat) (e : Int) : Int × Bool :=
  let (q, x) := if 0 ≤ e then (m * 2 ^ e.toNat, false) else roundBits rm n m (-e).toNat
  (if n then -(q : Int) else q, x)

/-- FCVT.W.S (signed) and FCVT.WU.S. -/
def f32ToInt (rm : Nat) (signed : Bool) (a : Word) : Word × Nat :=
  let hi : Int := if signed then 2 ^ 31 - 1 else 2 ^ 32 - 1
  let lo : Int := if signed then -(2 ^ 31) else 0
  match Fp.of a with
  | .nan _ => (BitVec.ofInt 32 hi, fNV)
  | .inf n => (BitVec.ofInt 32 (if n then lo else hi), fNV)
  | .fin n m e =>
    let (v, x) := toWhole rm n m e
    if v < lo then (BitVec.ofInt 32 lo, fNV)
    else if hi < v then (BitVec.ofInt 32 hi, fNV)
    else (BitVec.ofInt 32 v, if x then fNX else 0)

/-- FCVT.S.W (signed) and FCVT.S.WU. -/
def f32OfInt (rm : Nat) (signed : Bool) (w : Word) : FRes :=
  let v : Int := if signed then w.toInt else w.toNat
  f32Exact rm false v 0

end Sys2Proof.Machine
end

