-- ==== Sys2Proof/Machine/RiscV.lean ====
section
/-! DEFINITION. The instructions of a processor (R210 to R214): RV32IMFC with Zifencei, the CSRs of the F extension, the system
instructions and the coprocessor's, decoded from memory; integer arithmetic; and the single-precision operations by mnemonic. The
encodings of the standard are those of the ratified RISC-V ISA that R210 names (log entry 96). -/

namespace Sys2Proof.Machine

open Sys2Proof

/-- The single-precision operations beside loads and stores. -/
inductive FpOp where
  | madd | msub | nmsub | nmadd | add | sub | mul | div | sqrt | sgnj (f : Nat) | minMax (max : Bool)
  | toInt (signed : Bool) | ofInt (signed : Bool) | moveX | moveF | compare (f : Nat) | classify
  deriving DecidableEq, Repr

/-- A decoded instruction. `f` is funct3. -/
inductive Rv where
  | lui (rd : Nat) (imm : Word)
  | auipc (rd : Nat) (imm : Word)
  | jal (rd : Nat) (off : Word)
  | jalr (rd rs1 : Nat) (off : Word)
  | branch (f rs1 rs2 : Nat) (off : Word)
  | load (f rd rs1 : Nat) (off : Word)
  | flw (rd rs1 : Nat) (off : Word)
  | store (f rs1 rs2 : Nat) (off : Word)
  | fsw (rs1 rs2 : Nat) (off : Word)
  | aluI (f : Nat) (alt : Bool) (rd rs1 : Nat) (imm : Word)
  | alu (f : Nat) (alt : Bool) (rd rs1 rs2 : Nat)
  | mulDiv (f rd rs1 rs2 : Nat)
  | fence
  | fenceI
  | ecall
  | ebreak
  | csr (f rd csr src : Nat)
  | fp (op : FpOp) (rd rs1 rs2 rs3 rm : Nat)
  | ertn
  | srtn
  | xrtn
  | quiesce (rd : Nat)
  | wait
  | xcall (i : Nat)
  | cp (op rd rs1 rs2 : Nat)
  | illegal
  deriving DecidableEq, Repr

/-! ## 32-bit encodings -/

/-- Bits `hi` to `lo` of a number. -/
def bitField (v hi lo : Nat) : Nat := v / 2 ^ lo % 2 ^ (hi + 1 - lo)

/-- The low `n` bits of a number as a two's-complement word. -/
def signed (n v : Nat) : Word :=
  if 2 ^ (n - 1) ≤ v % 2 ^ n then BitVec.ofInt 32 ((v % 2 ^ n : Nat) - (2 ^ n : Nat)) else BitVec.ofNat 32 (v % 2 ^ n)

/-- Immediates of the I, S, B, U and J layouts. -/
def immI (v : Nat) : Word := signed 12 (bitField v 31 20)
def immS (v : Nat) : Word := signed 12 (bitField v 31 25 * 32 + bitField v 11 7)
def immB (v : Nat) : Word :=
  signed 13 (bitField v 31 31 * 4096 + bitField v 7 7 * 2048 + bitField v 30 25 * 32 + bitField v 11 8 * 2)
def immU (v : Nat) : Word := BitVec.ofNat 32 (bitField v 31 12 * 4096)
def immJ (v : Nat) : Word :=
  signed 21 (bitField v 31 31 * 1048576 + bitField v 19 12 * 4096 + bitField v 20 20 * 2048 + bitField v 30 21 * 2)

/-- A rounding mode the encoding may carry: 0 to 4, or 7 for frm. -/
def rmLegal (rm : Nat) : Bool := decide (rm ≤ 4) || rm == 7

/-- OP-FP by funct7, rs2 and rm. -/
def decodeFp (f7 rs2 rm : Nat) : Option FpOp :=
  let arith := fun (o : FpOp) => if rmLegal rm then some o else none
  match f7 with
  | 0x00 => arith .add
  | 0x04 => arith .sub
  | 0x08 => arith .mul
  | 0x0C => arith .div
  | 0x2C => if rs2 = 0 then arith .sqrt else none
  | 0x10 => if rm ≤ 2 then some (.sgnj rm) else none
  | 0x14 => if rm ≤ 1 then some (.minMax (rm == 1)) else none
  | 0x50 => if rm ≤ 2 then some (.compare rm) else none
  | 0x60 => if rs2 ≤ 1 then arith (.toInt (rs2 == 0)) else none
  | 0x68 => if rs2 ≤ 1 then arith (.ofInt (rs2 == 0)) else none
  | 0x70 => if rs2 = 0 then (if rm = 0 then some .moveX else if rm = 1 then some .classify else none) else none
  | 0x78 => if rs2 = 0 ∧ rm = 0 then some .moveF else none
  | _ => none

/-- The system instructions (R213). -/
def decodeSystem (imm f rs1 rd : Nat) : Rv :=
  if f ≠ 0 ∨ rs1 ≠ 0 ∨ (rd ≠ 0 ∧ imm ≠ 3) then .illegal
  else if imm = 0 then .ertn
  else if imm = 1 then .srtn
  else if imm = 2 then .xrtn
  else if imm = 3 then .quiesce rd
  else if imm = 4 then .wait
  else if 0x10 ≤ imm ∧ imm < 0x18 then .xcall (imm - 0x10)
  else .illegal

/-- The registers a coprocessor operation reads from fs1 on, from fs2 on, and writes from fd on (R214). -/
def cpShape (op : Nat) : Nat × Nat × Nat :=
  match op with
  | 0 => (1, 0, 2)
  | 1 => (1, 1, 1)
  | 2 => (1, 0, 1)
  | 3 => (1, 0, 1)
  | 4 => (3, 0, 3)
  | 5 => (2, 0, 3)
  | _ => (2, 1, 2)

/-- The coprocessor instructions (R214): no register group passes f31. -/
def decodeCp (f7 f rs2 rs1 rd : Nat) : Rv :=
  let (a, _, o) := cpShape f7
  if f ≠ 0 ∨ 7 < f7 ∨ 32 < rs1 + a ∨ 32 < rd + o then .illegal else .cp f7 rd rs1 rs2

/-- A 32-bit instruction. -/
def decode32 (w : Word) : Rv :=
  let v := w.toNat
  let rd := bitField v 11 7
  let f := bitField v 14 12
  let rs1 := bitField v 19 15
  let rs2 := bitField v 24 20
  let f7 := bitField v 31 25
  match bitField v 6 0 with
  | 0x37 => .lui rd (immU v)
  | 0x17 => .auipc rd (immU v)
  | 0x6F => .jal rd (immJ v)
  | 0x67 => if f = 0 then .jalr rd rs1 (immI v) else .illegal
  | 0x63 => if f = 2 ∨ f = 3 then .illegal else .branch f rs1 rs2 (immB v)
  | 0x03 => if f ≤ 2 ∨ f = 4 ∨ f = 5 then .load f rd rs1 (immI v) else .illegal
  | 0x23 => if f ≤ 2 then .store f rs1 rs2 (immS v) else .illegal
  | 0x13 =>
    if f = 1 then (if f7 = 0 then .aluI 1 false rd rs1 (BitVec.ofNat 32 rs2) else .illegal)
    else if f = 5 then
      (if f7 = 0 ∨ f7 = 0x20 then .aluI 5 (f7 == 0x20) rd rs1 (BitVec.ofNat 32 rs2) else .illegal)
    else .aluI f false rd rs1 (immI v)
  | 0x33 =>
    if f7 = 0 then .alu f false rd rs1 rs2
    else if f7 = 0x20 ∧ (f = 0 ∨ f = 5) then .alu f true rd rs1 rs2
    else if f7 = 1 then .mulDiv f rd rs1 rs2
    else .illegal
  | 0x0F => if f = 0 then .fence else if f = 1 then .fenceI else .illegal
  | 0x73 =>
    if v = 0x00000073 then .ecall
    else if v = 0x00100073 then .ebreak
    else
      let c := bitField v 31 20
      if f ≠ 0 ∧ f ≠ 4 ∧ 1 ≤ c ∧ c ≤ 3 then .csr f rd c rs1 else .illegal
  | 0x07 => if f = 2 then .flw rd rs1 (immI v) else .illegal
  | 0x27 => if f = 2 then .fsw rs1 rs2 (immS v) else .illegal
  | 0x43 => if f7 % 4 = 0 ∧ rmLegal f = true then .fp .madd rd rs1 rs2 (f7 / 4) f else .illegal
  | 0x47 => if f7 % 4 = 0 ∧ rmLegal f = true then .fp .msub rd rs1 rs2 (f7 / 4) f else .illegal
  | 0x4B => if f7 % 4 = 0 ∧ rmLegal f = true then .fp .nmsub rd rs1 rs2 (f7 / 4) f else .illegal
  | 0x4F => if f7 % 4 = 0 ∧ rmLegal f = true then .fp .nmadd rd rs1 rs2 (f7 / 4) f else .illegal
  | 0x53 => match decodeFp f7 rs2 f with | some o => .fp o rd rs1 rs2 0 f | none => .illegal
  | 0x0B => decodeSystem (bitField v 31 20) f rs1 rd
  | 0x2B => decodeCp f7 f rs2 rs1 rd
  | _ => .illegal

/-! ## 16-bit encodings -/

/-- Offsets of the compressed loads and stores. -/
def cLwOff (v : Nat) : Word := BitVec.ofNat 32 (bitField v 5 5 * 64 + bitField v 12 10 * 8 + bitField v 6 6 * 4)
def cLwspOff (v : Nat) : Word := BitVec.ofNat 32 (bitField v 3 2 * 64 + bitField v 12 12 * 32 + bitField v 6 4 * 4)
def cSwspOff (v : Nat) : Word := BitVec.ofNat 32 (bitField v 8 7 * 64 + bitField v 12 9 * 4)

/-- The 6-bit immediate of the CI layout. -/
def cImm (v : Nat) : Word := signed 6 (bitField v 12 12 * 32 + bitField v 6 2)

/-- The offset of C.J and C.JAL. -/
def cJOff (v : Nat) : Word :=
  signed 12 (bitField v 12 12 * 2048 + bitField v 8 8 * 1024 + bitField v 10 9 * 256 + bitField v 6 6 * 128 + bitField v 7 7 * 64 +
    bitField v 2 2 * 32 + bitField v 11 11 * 16 + bitField v 5 3 * 2)

/-- The offset of C.BEQZ and C.BNEZ. -/
def cBOff (v : Nat) : Word :=
  signed 9 (bitField v 12 12 * 256 + bitField v 6 5 * 64 + bitField v 2 2 * 32 + bitField v 11 10 * 8 + bitField v 4 3 * 2)

/-- Quadrant 0. -/
def decodeC0 (v : Nat) : Rv :=
  let rd := 8 + bitField v 4 2
  let rs1 := 8 + bitField v 9 7
  match bitField v 15 13 with
  | 0 =>
    let n := bitField v 10 7 * 64 + bitField v 12 11 * 16 + bitField v 5 5 * 8 + bitField v 6 6 * 4
    if n = 0 then .illegal else .aluI 0 false rd 2 (BitVec.ofNat 32 n)
  | 2 => .load 2 rd rs1 (cLwOff v)
  | 3 => .flw rd rs1 (cLwOff v)
  | 6 => .store 2 rs1 rd (cLwOff v)
  | 7 => .fsw rs1 rd (cLwOff v)
  | _ => .illegal

/-- Quadrant 1, funct3 4: shifts and register arithmetic. -/
def decodeC1Alu (v : Nat) : Rv :=
  let rd := 8 + bitField v 9 7
  let rs2 := 8 + bitField v 4 2
  match bitField v 11 10 with
  | 0 => if bitField v 12 12 = 1 then .illegal else .aluI 5 false rd rd (BitVec.ofNat 32 (bitField v 6 2))
  | 1 => if bitField v 12 12 = 1 then .illegal else .aluI 5 true rd rd (BitVec.ofNat 32 (bitField v 6 2))
  | 2 => .aluI 7 false rd rd (cImm v)
  | _ =>
    if bitField v 12 12 = 1 then .illegal
    else match bitField v 6 5 with
      | 0 => .alu 0 true rd rd rs2
      | 1 => .alu 4 false rd rd rs2
      | 2 => .alu 6 false rd rd rs2
      | _ => .alu 7 false rd rd rs2

/-- Quadrant 1. -/
def decodeC1 (v : Nat) : Rv :=
  let rd := bitField v 11 7
  let rs1 := 8 + bitField v 9 7
  match bitField v 15 13 with
  | 0 => .aluI 0 false rd rd (cImm v)
  | 1 => .jal 1 (cJOff v)
  | 2 => .aluI 0 false rd 0 (cImm v)
  | 3 =>
    if bitField v 12 12 = 0 ∧ bitField v 6 2 = 0 then .illegal
    else if rd = 2 then
      .aluI 0 false 2 2 (signed 10 (bitField v 12 12 * 512 + bitField v 4 3 * 128 + bitField v 5 5 * 64 + bitField v 2 2 * 32 +
        bitField v 6 6 * 16))
    else .lui rd (cImm v <<< 12)
  | 4 => decodeC1Alu v
  | 5 => .jal 0 (cJOff v)
  | 6 => .branch 0 rs1 0 (cBOff v)
  | _ => .branch 1 rs1 0 (cBOff v)

/-- Quadrant 2. -/
def decodeC2 (v : Nat) : Rv :=
  let rd := bitField v 11 7
  let rs2 := bitField v 6 2
  match bitField v 15 13 with
  | 0 => if bitField v 12 12 = 1 then .illegal else .aluI 1 false rd rd (BitVec.ofNat 32 rs2)
  | 2 => if rd = 0 then .illegal else .load 2 rd 2 (cLwspOff v)
  | 3 => .flw rd 2 (cLwspOff v)
  | 4 =>
    if bitField v 12 12 = 0 then
      if rs2 = 0 then (if rd = 0 then .illegal else .jalr 0 rd 0)
      else .alu 0 false rd 0 rs2
    else if rs2 = 0 then (if rd = 0 then .ebreak else .jalr 1 rd 0)
    else .alu 0 false rd rd rs2
  | 6 => .store 2 2 rs2 (cSwspOff v)
  | 7 => .fsw 2 rs2 (cSwspOff v)
  | _ => .illegal

/-- A 16-bit instruction. -/
def decode16 (v : Nat) : Rv :=
  match v % 4 with
  | 0 => decodeC0 v
  | 1 => decodeC1 v
  | _ => decodeC2 v

/-! ## Integer arithmetic -/

/-- The operations of OP and OP-IMM. -/
def aluOp (f : Nat) (alt : Bool) (a b : Word) : Word :=
  match f with
  | 0 => if alt then a - b else a + b
  | 1 => a <<< (b.toNat % 32)
  | 2 => if a.toInt < b.toInt then 1 else 0
  | 3 => if a.toNat < b.toNat then 1 else 0
  | 4 => a ^^^ b
  | 5 => if alt then a.sshiftRight (b.toNat % 32) else a >>> (b.toNat % 32)
  | 6 => a ||| b
  | _ => a &&& b

/-- The operations of the M extension. -/
def mulOp (f : Nat) (a b : Word) : Word :=
  match f with
  | 0 => a * b
  | 1 => BitVec.ofInt 32 (a.toInt * b.toInt / 2 ^ 32)
  | 2 => BitVec.ofInt 32 (a.toInt * (b.toNat : Int) / 2 ^ 32)
  | 3 => BitVec.ofNat 32 (a.toNat * b.toNat / 2 ^ 32)
  | 4 => if b = 0 then 0xFFFFFFFF else BitVec.ofInt 32 (Int.tdiv a.toInt b.toInt)
  | 5 => if b = 0 then 0xFFFFFFFF else BitVec.ofNat 32 (a.toNat / b.toNat)
  | 6 => if b = 0 then a else BitVec.ofInt 32 (Int.tmod a.toInt b.toInt)
  | _ => if b = 0 then a else BitVec.ofNat 32 (a.toNat % b.toNat)

/-- A branch is taken. -/
def branchTaken (f : Nat) (a b : Word) : Bool :=
  match f with
  | 0 => a == b
  | 1 => a != b
  | 4 => decide (a.toInt < b.toInt)
  | 5 => decide (b.toInt ≤ a.toInt)
  | 6 => decide (a.toNat < b.toNat)
  | _ => decide (b.toNat ≤ a.toNat)

/-! ## Single-precision operations -/

/-- An operation on F registers `a`, `b`, `c` and integer register `x`: the result and its flags. -/
def f32Run (op : FpOp) (rm : Nat) (a b c x : Word) : Word × Nat :=
  match op with
  | .madd => f32Fma rm false false a b c
  | .msub => f32Fma rm false true a b c
  | .nmsub => f32Fma rm true false a b c
  | .nmadd => f32Fma rm true true a b c
  | .add => f32Add rm a b
  | .sub => f32Sub rm a b
  | .mul => f32Mul rm a b
  | .div => f32Div rm a b
  | .sqrt => f32Sqrt rm a
  | .sgnj f => (f32Sign f a b, 0)
  | .minMax m => f32MinMax m a b
  | .toInt s => f32ToInt rm s a
  | .ofInt s => f32OfInt rm s x
  | .moveX => (a, 0)
  | .moveF => (x, 0)
  | .compare f => f32Compare f a b
  | .classify => (f32Class a, 0)

/-- The operation writes an integer register. -/
def FpOp.toX : FpOp → Bool
  | .toInt _ => true
  | .moveX => true
  | .compare _ => true
  | .classify => true
  | _ => false

/-- The operation rounds, so its rounding mode must be a legal one. -/
def FpOp.rounds : FpOp → Bool
  | .sgnj _ => false
  | .minMax _ => false
  | .moveX => false
  | .moveF => false
  | .compare _ => false
  | .classify => false
  | _ => true

/-! ## Registers an instruction names -/

/-- The F registers an instruction reads or writes, and whether it reads or writes a CSR (R216). -/
def Rv.fRegs : Rv → List Nat
  | .flw rd _ _ => [rd]
  | .fsw _ rs2 _ => [rs2]
  | .fp op rd rs1 rs2 rs3 _ =>
    let d := if op.toX then [] else [rd]
    match op with
    | .madd => d ++ [rs1, rs2, rs3]
    | .msub => d ++ [rs1, rs2, rs3]
    | .nmsub => d ++ [rs1, rs2, rs3]
    | .nmadd => d ++ [rs1, rs2, rs3]
    | .sqrt => d ++ [rs1]
    | .toInt _ => d ++ [rs1]
    | .moveX => d ++ [rs1]
    | .classify => d ++ [rs1]
    | .ofInt _ => d
    | .moveF => d
    | _ => d ++ [rs1, rs2]
  | _ => []

/-- The instruction reads or writes a CSR. -/
def Rv.isCsr : Rv → Bool
  | .csr _ _ _ _ => true
  | _ => false

end Sys2Proof.Machine
end

