-- ==== Sys2Proof/Machine/Exceptions.lean ====
section
/-! DEFINITION. A processor between instructions: what it may access (R212, R219), instruction fetch, the entry of an exception
as one operation for every vector (R224 to R231), and the return from one (R228, R230). Log entry 97 gives what the manual leaves to
the model. -/

namespace Sys2Proof.Machine

open Sys2Proof

/-! ## Accesses -/

/-- An access of processor `p` in its present world and level. -/
def State.coreAccess (s : State) (p n : Nat) : Access :=
  { master := p, world := (s.core p).world, sup := (s.core p).sup, size := n }

/-- User region `r` of a world: its base and configuration words (R219). -/
def State.userRegion (s : State) (p : Nat) (w : World) (r : Nat) : Word × Word :=
  match w with
  | .pit => (s.reg (R.UREG_PIT_BASE p r), s.reg (R.UREG_PIT_CFG p r))
  | .bank => (s.reg (R.UREG_BANK_BASE p r), s.reg (R.UREG_BANK_CFG p r))

/-- Some enabled user region grants the access type `f` and covers all `n` bytes at `va` (R219). -/
def State.userMay (s : State) (p : Nat) (f : Fld) (va n : Nat) : Bool :=
  (List.range 8).any (fun r =>
    let (b, c) := s.userRegion p (s.core p).world r
    let size := 2 ^ Nat.max 6 (UREG_PIT_CFG.SIZE.get c)
    let base := b.toNat / size * size
    UREG_PIT_CFG.EN.get c == 1 && f.get c == 1 && decide (base ≤ va) && decide (va + n ≤ base + size))

/-- The check of R219: Supervisor level is not checked against regions. -/
def State.levelMay (s : State) (p : Nat) (f : Fld) (va n : Nat) : Bool := (s.core p).sup || s.userMay p f va n

/-! ## Instruction fetch (R211, R212) -/

/-- The instruction memory of processor `p` that it may execute from: of a Hewer the active bank. -/
def fetchSize (p : Nat) : Nat := if p < 4 then 0x20000 else if p < 6 then 0x40000 else 0x80000

/-- How a fetch ends: the instruction's bits and length, or the address that faults. -/
inductive Fetch where
  | ok (bits : Word) (len : Nat)
  | fault (a : Word)
  deriving DecidableEq, Repr

/-- Processor `p` may fetch two bytes at `a`. -/
def State.mayFetch (s : State) (p a : Nat) : Bool := decide (a + 2 ≤ fetchSize p) && s.levelMay p UREG_PIT_CFG.X a 2

/-- Fetch the instruction at the program counter: its words are checked by their code, and an uncorrectable one faults (R224). -/
def State.fetch (s : State) (p : Nat) : Fetch × State :=
  let a := (s.core p).pc.toNat
  let here := BitVec.ofNat 32 a
  let more := BitVec.ofNat 32 (a + 2)
  if s.mayFetch p a then
    match s.deliverMem (privBase p + (a - a % 4)) with
    | (_, false, t) => (.fault here, t)
    | (w, true, t) =>
      if a % 4 = 0 then
        if w.toNat % 4 ≠ 3 then (.ok (w &&& 0xFFFF) 2, t)
        else if s.mayFetch p (a + 2) then (.ok w 4, t)
        else (.fault more, t)
      else
        let h := w >>> 16
        if h.toNat % 4 ≠ 3 then (.ok h 2, t)
        else if s.mayFetch p (a + 2) then
          match t.deliverMem (privBase p + (a + 2)) with
          | (_, false, t) => (.fault more, t)
          | (w2, true, t) => (.ok ((w2 <<< 16) ||| h) 4, t)
        else (.fault more, t)
  else (.fault here, s)

/-- The instruction fetched. -/
def decodeBits (bits : Word) (len : Nat) : Rv := if len = 4 then decode32 bits else decode16 bits.toNat

/-! ## Frames (R226, R229) -/

/-- The Supervisor stack pointer of a world. -/
def Core.supSp (c : Core) (w : World) : Word :=
  match w with
  | .pit => c.spPS
  | .bank => c.spBS

/-- Write it. -/
def Core.setSupSp (c : Core) (w : World) (v : Word) : Core :=
  match w with
  | .pit => { c with spPS := v }
  | .bank => { c with spBS := v }

/-- The stack limit of a world. -/
def State.stackLimit (s : State) (p : Nat) (w : World) : Word :=
  match w with
  | .pit => s.reg (R.SLIM_PIT p)
  | .bank => s.reg (R.SLIM_BANK p)

/-- The vector table of a world. -/
def State.vectorBase (s : State) (p : Nat) (w : World) : Word :=
  match w with
  | .pit => s.reg (R.VBASE_PIT p)
  | .bank => s.reg (R.VBASE_BANK p)

/-- An exception to enter: vector, CAUSE, TVAL, world of the handler, the priority state it sets (none leaves it), and EPC. -/
structure Exc where
  vec : Nat
  cause : Word
  tval : Word
  world : World
  cpl : Option Nat
  epc : Word
  deriving DecidableEq, Repr

/-- STATUS of a frame: the interrupted priority state, world and level (R226). -/
def Core.statusWord (c : Core) : Word :=
  BitVec.ofNat 32 (c.cpl + 256 * c.world.bit + (if c.sup then 512 else 0))

/-- The eight words of a frame (R226). -/
def Core.frameWords (c : Core) (x : Exc) : List Word :=
  [x.epc, c.statusWord, x.cause, x.tval, c.get 1, c.get 5, c.get 10, c.get 11]

/-- The local addresses of the words of a frame at `sp`. -/
def frameAddrs (sp : Word) : List Nat := (List.range 8).map (fun i => (sp + BitVec.ofNat 32 (4 * i)).toNat)

/-- A word access of processor `p` at Supervisor level of world `w`. -/
def supAccess (p : Nat) (w : World) : Access := { master := p, world := w, sup := true, size := 4 }

/-- A local address is that of a memory word that Supervisor level of world `w` may write (R229): a memory of the device that
accepts the write, one of another device of the cascade, host memory while the outbound range is open. -/
def State.frameWordOk (s : State) (p : Nat) (w : World) (va : Nat) : Bool :=
  match s.route (s.localToSystem p va) with
  | .device y => (regionOf y).isSome && (deviceWrite (supAccess p w) y 0 s).2
  | .cascade _ y =>
    match regionOf y with
    | some 7 => true
    | some r => r != 8 && w == .pit
    | none => false
  | .host _ => s.pcieOut
  | .unmapped => false

/-- The push of a frame below `sp` with limit `lim` in world `w` succeeds (R229). -/
def State.pushOk (s : State) (p : Nat) (w : World) (sp lim : Word) : Bool :=
  sp.toNat % 4 == 0 && decide (lim.toNat ≤ (sp - 32).toNat) && (frameAddrs (sp - 32)).all (s.frameWordOk p w)

/-- Write a frame at `sp`; words for remote memory leave as posted writes. -/
def State.writeFrame (s : State) (p : Nat) (w : World) (sp : Word) (ws : List Word) : State :=
  forAll ((frameAddrs sp).zip ws) s (fun s x =>
    match s.route (s.localToSystem p x.1) with
    | .device y => (deviceWrite (supAccess p w) y x.2 s).1
    | .cascade d y => (s.linkRequest true w d y [x.2]).2
    | .host y => (s.pciePost y (bytesOf x.2)).2
    | .unmapped => s)

/-! ## Loads and buffered stores (R23, R232, R233) -/

/-- A buffered store and `n` bytes at `x` overlap. -/
def BufStore.overlaps (b : BufStore) (x n : Nat) : Bool := decide (b.addr < x + n) && decide (x < b.addr + b.size)

/-- Private memory and system SRAM, from which loads are forwarded (R232). -/
def forwardable (x : Nat) : Bool :=
  match regionOf x with
  | some r => decide (r ≤ 7)
  | none => false

/-- A store to the block of the bytes at local address `va` waits in the buffer: a store to it comes after (R23). -/
def State.storeBehind (s : State) (p va : Nat) : Bool :=
  let x := s.localToSystem p va
  (s.flow p).stores.any (fun (b : BufStore) => blockOf b.addr == blockOf x)

/-- A load of the word at local address `va` waits for a buffered store: one that overlaps it where loads may pass stores (R232), one to
its block elsewhere (R233). -/
def State.loadBehind (s : State) (p va : Nat) : Bool :=
  let x := s.localToSystem p va
  if forwardable x then (s.flow p).stores.any (fun (b : BufStore) => b.overlaps x 4) else s.storeBehind p va

/-- A load is pending. -/
def State.pend (s : State) (p : Nat) (l : PendLoad) : State := s.updFlow p (fun q => { q with load := some l })

/-- A load leaves for its target: a remote one sends its request, or waits for room at the outbound port (R400, R414). -/
def State.sendLoad (s : State) (p : Nat) (l : PendLoad) : State :=
  match s.route l.addr with
  | .cascade dev y =>
    if l.size = 4 then
      let (t, s) := s.linkRequest false l.world dev y [4]
      s.pend p { l with tag := some t }
    else s.pend p { l with err := true }
  | .host y =>
    if s.pcieOut = false then (s.pcieError (s.outboundHost y)).pend p { l with err := true }
    else if s.pcieRoom then
      let (t, s) := s.pcieRequest (s.outboundHost y) l.size .read
      s.pend p { l with tag := some (pcieWait t) }
    else s
  | _ => s.pend p l

/-- What the pair's copies present for a load (R237). -/
def PendLoad.access (l : PendLoad) : DepAccess := { write := false, world := l.world, addr := l.va, size := l.size, data := 0 }

/-- Processor `p` issues a load. That of the pair is presented for the comparison first, and leaves at LOAD_DATA_RETURN (R237). -/
def State.startLoad (s : State) (p : Nat) (l : PendLoad) : State :=
  if p = 4 ∧ s.paired = true then (s.presentBoth p l.addr l.access).pend p l else s.sendLoad p l

/-! ## Handlers (R224) -/

/-- The local address of the table word of vector `v` of a world. -/
def State.vectorAt (s : State) (p : Nat) (w : World) (v : Nat) : Nat := (s.vectorBase p w).toNat + 4 * v

/-- The core continues at an undefined address: the table word of its handler cannot be read. -/
def State.freshPc (s : State) (p : Nat) : State :=
  let (h, s) := s.freshWord
  s.updCore p (fun c => { c with pc := h })

/-- The core continues at the handler of vector `v`: at the word of the table, which is loaded where it lies in remote memory. -/
def State.toHandler (s : State) (p : Nat) (w : World) (v : Nat) : State :=
  let va := s.vectorAt p w v
  let x := s.localToSystem p va
  match s.route x with
  | .device y =>
    match s.deviceRead (supAccess p w) y with
    | (h, .ok, s) => s.updCore p (fun c => { c with pc := h &&& ~~~1 })
    | (_, _, s) => s.freshPc p
  | .unmapped => s.freshPc p
  | _ => s.sendLoad p { addr := x, va := BitVec.ofNat 32 va, size := 4, signed := false, float := false, rd := 0, world := w,
                        sup := true, vector := true }

/-! ## Entry (R224 to R231) -/

/-- A coprocessor instruction begun ahead of the exception or the interrupt is squashed (R216). -/
def CoreFlow.squashAhead (q : CoreFlow) : CoreFlow :=
  { q with cp := q.cp.map (fun (c : CoprocOp) => if c.ahead.isSome then { c with squashed := true, ahead := none } else c) }

/-- The core continues at the handler in Supervisor level of the handler's world. -/
def State.atHandler (s : State) (p : Nat) (w : World) (v : Nat) (f : Core → Core) : State :=
  let s := s.updCore p (fun c => { f c with world := w, sup := true })
  let s := s.updFlow p (fun q => { q.squashAhead with waiting := false, stepping := false, frame := [] })
  s.toHandler p w v

/-- A push has failed with the shadow bank free: the stack fault (R229). -/
def State.stackFault (s : State) (p : Nat) (x : Exc) (sp : Word) : State :=
  let c := s.core p
  let s := forAll ((List.range 8).zip (c.frameWords x)) s (fun s e => s.setReg (R.SHF p e.1) e.2)
  let s := s.setReg (R.SHF p 8) sp
  let s := s.setReg (R.SHF p 9) (BitVec.ofNat 32 (2 * x.world.bit + 1))
  let s := s.setReg (R.SHF p 10) (sp - 32)
  s.atHandler p .pit 8 (fun c => { c with emg := true, enest := 0 })

/-- The entry into an exception while EMG is 0 (R226, R229). The Bool says that the frame was pushed. -/
def State.enterNormal (s : State) (p : Nat) (x : Exc) : Bool × State :=
  let c := s.core p
  let sp := c.supSp x.world
  if s.pushOk p x.world sp (s.stackLimit p x.world) then
    let s := s.writeFrame p x.world (sp - 32) (c.frameWords x)
    (true, s.atHandler p x.world x.vec (fun c => { c.setSupSp x.world (sp - 32) with cpl := x.cpl.getD c.cpl }))
  else (false, s.stackFault p x sp)

/-- The entry while EMG is 1: onto the emergency stack, or lock-up (R230, R231). -/
def State.enterEmergency (s : State) (p : Nat) (x : Exc) : State :=
  let c := s.core p
  if s.pushOk p .pit c.esp (s.reg (R.ESLIM p)) ∧ c.enest < 255 then
    let s := s.writeFrame p .pit (c.esp - 32) (c.frameWords x)
    s.atHandler p .pit x.vec (fun c => { c with esp := c.esp - 32, enest := c.enest + 1 })
  else s.lockUp p x.epc

/-- The stack pointer an entry pushes below. -/
def State.entrySp (s : State) (p : Nat) (w : World) : Word := if (s.core p).emg then (s.core p).esp else (s.core p).supSp w

/-- A coprocessor instruction that stands before the present one still runs (R225). -/
def CoreFlow.coprocAhead (q : CoreFlow) : Bool :=
  match q.cp with
  | some o => !o.squashed && o.ahead.isNone
  | none => false

/-- A local address lies in host memory. -/
def State.hostAt (s : State) (p va : Nat) : Bool :=
  match s.route (s.localToSystem p va) with
  | .host _ => true
  | _ => false

/-- The outbound port has room for accesses to those of the local addresses that lie in host memory. -/
def State.hostRoom (s : State) (p : Nat) (l : List Nat) : Bool :=
  let n := (l.filter (s.hostAt p)).length
  n == 0 || decide (s.io.outbound.length + n ≤ 32)

/-- The words an entry writes, and the one it reads: none of a frame whose push fails, and then the vector of the stack fault (R229). -/
def State.entryWords (s : State) (p : Nat) (x : Exc) : List Nat × Nat :=
  let c := s.core p
  let sp := s.entrySp p x.world
  if s.pushOk p x.world sp (if c.emg then s.reg (R.ESLIM p) else s.stackLimit p x.world) then
    (frameAddrs (sp - 32), s.vectorAt p x.world x.vec)
  else ([], s.vectorAt p .pit 8)

/-- An entry waits while a coprocessor instruction before it runs (R225), for a buffered store of the core that its frame or its vector
comes behind (R23, R232, R233), and for room at the outbound port. -/
def State.entryWaits (s : State) (p : Nat) (x : Exc) : Bool :=
  let (frame, vector) := s.entryWords p x
  (s.flow p).coprocAhead || !s.hostRoom p (vector :: frame) || frame.any (s.storeBehind p) || s.loadBehind p vector

/-- Take a synchronous exception of processor `p` (R224 to R231), in the world of the instruction. -/
def State.enter (s : State) (p : Nat) (x : Exc) : State :=
  if (s.core p).emg then s.enterEmergency p x else (s.enterNormal p x).2

/-- A synchronous exception of vector `v` at the present instruction of processor `p`. -/
def State.syncExc (s : State) (p v : Nat) (tval : Word) : Exc :=
  let c := s.core p
  { vec := v, cause := BitVec.ofNat 32 v, tval := tval, world := c.world, cpl := none, epc := c.pc }

/-- An exception of vector `v` at the present instruction of processor `p`. -/
def State.trap (s : State) (p v : Nat) (tval : Word) : State :=
  let x := s.syncExc p v tval
  if s.entryWaits p x then s else s.enter p x

/-- The store error, vector 9: imprecise, at the instruction boundary (R225, R234). -/
def State.storeTrap (s : State) (p : Nat) (a : Word) : State :=
  let c := s.core p
  let x : Exc := { vec := 9, cause := 0x80000009, tval := a, world := c.world, cpl := none, epc := c.pc }
  if s.entryWaits p x then s else (s.updFlow p (fun q => { q with storeErr := none })).enter p x

/-- Interrupt source `i` of priority `q` is taken by processor `p`; one whose push fails has not been taken (R224, R226, R229). -/
def State.interrupt (s : State) (p i q : Nat) : State :=
  let c := s.core p
  let w := World.ofBit (s.fld (R.SRC_CFG i) SRC_CFG.WORLD)
  let x : Exc := { vec := 16 + q, cause := BitVec.ofNat 32 (16 + q + 65536 * i), tval := 0, world := w, cpl := some (q + 1),
                   epc := c.pc }
  if s.entryWaits p x then s
  else
    match s.enterNormal p x with
    | (true, s) => s.taken p i
    | (false, s) => s

/-! ## Return (R228, R230) -/

/-- What ERTN restores from the eight words of a frame; under EMG the core stays in Pit Supervisor. -/
def Core.restore (c : Core) (ws : List Word) : Core :=
  let st := (ws.getD 1 0).toNat
  let c := { c with
    pc := ws.getD 0 0 &&& ~~~1
    cpl := st % 32
    world := if c.emg then .pit else World.ofBit (st / 256 % 2)
    sup := c.emg || st / 512 % 2 == 1 }
  (((c.set 1 (ws.getD 4 0)).set 5 (ws.getD 5 0)).set 10 (ws.getD 6 0)).set 11 (ws.getD 7 0)

/-- ERTN with EMG = 1 and ENEST = 0: everything comes back from the shadow bank, and EMG clears. -/
def State.leaveEmergency (s : State) (p : Nat) : State :=
  let ws := (List.range 8).map (fun j => s.reg (R.SHF p j))
  (s.updCore p (fun c => { c with emg := false }.restore ws)).updFlow p (fun q => { q with stepping := false })

/-- Read the words of a frame; the vector of the load that fails, and its address, if one does. -/
def State.readFrame (s : State) (p : Nat) : List Nat → State → Option (Nat × Nat) × List Word × State
  | [], t => (none, [], t)
  | va :: rest, t =>
    match t.route (t.localToSystem p va) with
    | .device y =>
      match t.deviceRead (s.coreAccess p 4) y with
      | (w, .ok, t) =>
        let (e, ws, t) := State.readFrame s p rest t
        (e, w :: ws, t)
      | (_, .bad, t) => (some (10, va), [], t)
      | (_, _, t) => (some (3, va), [], t)
    | _ => (some (3, va), [], t)

/-- What ERTN restores from the words of the frame at `sp`. -/
def State.framePopped (s : State) (p : Nat) (sp : Word) (ws : List Word) : State :=
  (s.updCore p (fun c =>
    let c := c.setSp (sp + 32)
    { c with enest := if c.emg then c.enest - 1 else c.enest }.restore ws)).updFlow p (fun q => { q with
      stepping := false, frame := [] })

/-- The load of a word, at local address `va`, of a frame that reaches into remote memory. -/
def State.frameLoad (s : State) (p : Nat) (va : Nat) : State :=
  let c := s.core p
  let x := s.localToSystem p va
  if s.route x = .unmapped then s.trap p 3 (BitVec.ofNat 32 va)
  else s.startLoad p { addr := x, va := BitVec.ofNat 32 va, size := 4, signed := false, float := false, rd := 0, world := c.world,
                       sup := c.sup, next := c.pc, frame := true }

/-- A local address lies in remote memory: that of the host or of another device of the cascade. -/
def State.remoteAt (s : State) (p va : Nat) : Bool :=
  match s.route (s.localToSystem p va) with
  | .cascade _ _ => true
  | .host _ => true
  | _ => false

/-- ERTN pops the frame at x2: the loads of a misaligned or unreadable frame fault. The words of a frame that reaches into remote
memory are loaded one after the other, and ERTN completes with the eighth. -/
def State.popFrame (s : State) (p : Nat) : State :=
  let c := s.core p
  let sp := c.sp
  if sp.toNat % 4 ≠ 0 then s.trap p 5 sp
  else if (frameAddrs sp).any (s.loadBehind p) then s
  else if (frameAddrs sp).any (s.remoteAt p) then
    let ws := (s.flow p).frame
    match (frameAddrs sp)[ws.length]? with
    | some va => s.frameLoad p va
    | none => s.framePopped p sp ws
  else
    match s.readFrame p (frameAddrs sp) s with
    | (some (v, a), _, t) => t.trap p v (BitVec.ofNat 32 a)
    | (none, ws, t) => t.framePopped p sp ws

/-! ## Register commands of a core that are refused at issue (R31, R36, R224, R245, R331) -/

/-- The processor that meets a store access fault with a write to local address `v`: one to an unmapped address, or from User level to
a register that only Supervisor level writes. -/
def State.faultsAtIssue (s : State) (a : Access) (v : Nat) : Option Nat :=
  match a.core? with
  | some p =>
    let x := s.localToSystem p v
    if s.route x = .unmapped ∨ (a.sup = false ∧ supervisorOnly x = true) then some p else none
  | none => none

/-- A register command of master `a` at local address `v`: a core takes vector 4 where the write is refused at issue, and otherwise
the register acts, which stores no byte of memory. -/
def runRow (dt : Nat) (a : Access) (v : Nat) (s : State) (f : State → State) : Out :=
  runMem dt s (fun s =>
    match s.faultsAtIssue a v with
    | some p => s.trap p 4 (BitVec.ofNat 32 v)
    | none => (f s).memoryOf s)

/-- REGISTER_WRITE: a write to a register of this device that has no row of its own (R4). A core's address is local. -/
def execRegisterWrite (dt : Nat) (a : Access) (addr : Word) (w : Word) (s : State) : Out :=
  runMemE dt s (fun s =>
    match s.faultsAtIssue a addr.toNat with
    | some p => .ok (s.trap p 4 addr)
    | none =>
      match s.route (s.systemOf a addr.toNat) with
      | .device x =>
        match s.busWrite a x w with
        | .ok r => .ok (settle a addr.toNat r)
        | .error e => .error e
      | _ => .ok (s.writeError a addr.toNat))

/-- MODE_REQUEST_RUN (R332): REQ = 2. -/
def execModeRequestRun (dt : Nat) (a : Access) (w : Word) (s : State) : Out :=
  runRow dt a R.MODE_CTL s (fun s => s.requestRow a mRun w)

/-- MODE_REQUEST_LIMP (R332): REQ = 3. -/
def execModeRequestLimp (dt : Nat) (a : Access) (w : Word) (s : State) : Out :=
  runRow dt a R.MODE_CTL s (fun s => s.requestRow a mLimp w)

/-- MODE_REQUEST_HOLD (R332): REQ = 4. -/
def execModeRequestHold (dt : Nat) (a : Access) (w : Word) (s : State) : Out :=
  runRow dt a R.MODE_CTL s (fun s => s.requestRow a mHold w)

/-- MODE_REQUEST_PARK (R341): REQ = 5. -/
def execModeRequestPark (dt : Nat) (a : Access) (w : Word) (s : State) : Out :=
  runRow dt a R.MODE_CTL s (fun s => s.requestRow a mPark w)

/-- RELEASE_OPEN (R338): KEY = 0x52. -/
def execReleaseOpen (dt : Nat) (a : Access) (w : Word) (s : State) : Out :=
  runRow dt a R.MODE_REL s (fun s => settle a R.MODE_REL (writeModeRel a (MODE_REL.KEY.put w 0x52) s))

/-- RELEASE_COMPLETE (R339): KEY = 0x53. -/
def execReleaseComplete (dt : Nat) (a : Access) (w : Word) (s : State) : Out :=
  runRow dt a R.MODE_REL s (fun s => settle a R.MODE_REL (writeModeRel a (MODE_REL.KEY.put w 0x53) s))

/-- SOFTWARE_SYSTEM_RESET (R344): RST_REQ with SYS = 1. -/
def execSoftwareSystemReset (dt : Nat) (a : Access) (w : Word) (s : State) : Out :=
  runRow dt a R.RST_REQ s (fun s => settle a R.RST_REQ (writeRstReq a (RST_REQ.SYS.put w 1) s))

/-- SOFTWARE_CORE_RESET (R344): RST_REQ with the core bits it carries. -/
def execSoftwareCoreReset (dt : Nat) (a : Access) (w : Word) (s : State) : Out :=
  runRow dt a R.RST_REQ s (fun s => settle a R.RST_REQ (writeRstReq a (RST_REQ.SYS.put w 0) s))

/-- The local address of the register of a processor's own block at key `k`. -/
def ownAddr (k : Nat) : Nat := k % 0x100000000

/-- CWDOG_ENABLE (R349): a core's write with EN = 1 to its own block. -/
def execCwdogEnable (dt : Nat) (p : Fin 7) (a : Access) (w : Word) (s : State) : Out :=
  runRow dt a (ownAddr (R.CWDOG p)) s (fun s =>
    if a.master = p then settle a (R.CWDOG p) (writeCwdog a p (CWDOG.EN.put w 1) s) else s)

/-- CWDOG_KICK (R349). -/
def execCwdogKick (dt : Nat) (p : Fin 7) (a : Access) (w : Word) (s : State) : Out :=
  runRow dt a (ownAddr (R.CWDOG_KICK p)) s (fun s =>
    if a.master = p then settle a (R.CWDOG_KICK p) (writeCwdogKick a p w s) else s)

end Sys2Proof.Machine
end

