-- ==== Sys2Proof/Machine/Cores.lean ====
section
/-! DEFINITION. The processors at work (R208 to R236): ordinary instructions, loads, stores and the store buffer, fences, system
calls and crossings, exceptions' returns, QUIESCE, WAIT and interrupts. A command of a processor acts when the instruction at its
program counter is of the command's kind and may execute now; it changes nothing otherwise. -/

namespace Sys2Proof.Machine

open Sys2Proof

/-! ## When an instruction may execute -/

/-- Processor `p` stands at an instruction boundary with nothing ahead of the next instruction to take. A Deputy's store is
accepted before its next instruction (R234). -/
def State.atBoundary (s : State) (p : Nat) : Bool :=
  let q := s.flow p
  (s.core p).running && s.hasCore p && !s.depStopped p && !q.parked && q.held.isNone && q.load.isNone && q.storeErr.isNone &&
  (!q.halted || q.stepping) && ((p != 4 && p != 5) || q.stores == [])

/-- Processor `p` may execute its next instruction. -/
def State.ready (s : State) (p : Nat) : Bool := s.atBoundary p && !(s.flow p).waiting

/-- The F registers a coprocessor operation writes. -/
def CoprocOp.outs (o : CoprocOp) : List Nat := (List.range (cpShape o.op).2.2).map (fun i => o.fd + i)

/-- An instruction waits for the results of the coprocessor operation that runs before it (R216). -/
def CoreFlow.interlocked (q : CoreFlow) (i : Rv) : Bool :=
  match q.cp with
  | some o => !o.squashed && o.ahead.isNone && (i.isCsr || o.outs.any (fun r => i.fRegs.contains r))
  | none => false

/-- The running coprocessor instruction had begun ahead and stands at `next`, where the instruction before it goes on; a core that halts
there does not execute it. -/
def CoreFlow.predicted (q : CoreFlow) (next : Word) : Bool :=
  match q.cp with
  | some o => o.ahead == some (next + 4) && !q.stepping
  | none => false

/-- The instruction before a coprocessor instruction begun ahead has gone on: the latter is met, or it lies on a path that was predicted
wrongly and is squashed (R216). -/
def CoprocOp.met (o : CoprocOp) (here : Bool) : CoprocOp :=
  if o.ahead.isSome then { o with ahead := none, squashed := o.squashed || !here } else o

/-- The instruction completes, and the core goes on at `next`. The Deputy counts the instructions it retires (R238). -/
def State.retire (s : State) (p : Nat) (next : Word) : State :=
  let here := (s.flow p).predicted next
  (s.updCore p (fun c => { c with pc := if here then next + 4 else next })).updFlow p (fun q => { q with
    stepping := false, retired := if p = 4 then q.retired + 1 else 0, cp := q.cp.map (fun o => o.met here) })

/-- What executes: the instruction, its bits, and the address of the one after it. -/
structure Fetched where
  instr : Rv
  bits : Word
  next : Word
  deriving DecidableEq, Repr

/-- The next instruction of processor `p`, if it may execute now, with the state after its fetch. -/
def State.nextInstr (s : State) (p : Nat) : Option (Fetched × State) :=
  if s.ready p then
    match s.fetch p with
    | (.ok bits len, t) =>
      let i := decodeBits bits len
      if (s.flow p).interlocked i then none
      else some ({ instr := i, bits := bits, next := (s.core p).pc + BitVec.ofNat 32 len }, t)
    | _ => none
  else none

/-! ## Ordinary instructions (R210) -/

/-- Write integer register `rd` and go on. -/
def State.writeX (s : State) (p rd : Nat) (v next : Word) : State := (s.updCore p (fun c => c.set rd v)).retire p next

/-- The CSRs fflags, frm and fcsr (1, 2, 3): the bits of fcsr each shows. -/
def csrRead (fcsr n : Nat) : Nat :=
  match n with
  | 1 => fcsr % 32
  | 2 => fcsr / 32 % 8
  | _ => fcsr % 256

/-- fcsr after a write of `v` to one of them. -/
def csrWrite (fcsr n v : Nat) : Nat :=
  match n with
  | 1 => fcsr / 32 * 32 + v % 32
  | 2 => v % 8 * 32 + fcsr % 32
  | _ => v % 256

/-- The value a CSR instruction writes: CSRRW, CSRRS, CSRRC by the low bits of funct3; none where it only reads. -/
def csrValue (f src old : Nat) (a : Word) : Option Nat :=
  let o := BitVec.ofNat 32 old
  match f % 4 with
  | 1 => some a.toNat
  | 2 => if src = 0 then none else some (o ||| a).toNat
  | _ => if src = 0 then none else some (o &&& ~~~a).toNat

/-- A CSR instruction. -/
def State.runCsr (s : State) (p f rd n src : Nat) (next : Word) : State :=
  let c := s.core p
  let a := if 4 ≤ f then BitVec.ofNat 32 src else c.get src
  let old := csrRead c.fcsr n
  let fcsr := match csrValue f src old a with
    | some v => csrWrite c.fcsr n v
    | none => c.fcsr
  (s.updCore p (fun c => { c with fcsr := fcsr })).writeX p rd (BitVec.ofNat 32 old) next

/-- A single-precision operation; a reserved rounding mode in frm makes it illegal. -/
def State.runFp (s : State) (p : Nat) (op : FpOp) (rd rs1 rs2 rs3 rm : Nat) (x : Fetched) : State :=
  let c := s.core p
  let mode := if rm = 7 then csrRead c.fcsr 2 else rm
  if op.rounds = true ∧ 4 < mode then s.trap p 1 x.bits
  else
    let (v, fl) := f32Run op mode (c.getF rs1) (c.getF rs2) (c.getF rs3) (c.get rs1)
    let s := s.updCore p (fun c => { c with fcsr := c.fcsr ||| fl })
    if op.toX then s.writeX p rd v x.next else (s.updCore p (fun c => c.setFr rd v)).retire p x.next

/-- The instruction has no command of its own. -/
def Rv.ordinary : Rv → Bool
  | .lui _ _ => true
  | .auipc _ _ => true
  | .jal _ _ => true
  | .jalr _ _ _ => true
  | .branch _ _ _ _ => true
  | .aluI _ _ _ _ _ => true
  | .alu _ _ _ _ _ => true
  | .mulDiv _ _ _ _ => true
  | .csr _ _ _ _ => true
  | .fp _ _ _ _ _ _ => true
  | .illegal => true
  | _ => false

/-- The effect of an ordinary instruction (R210). -/
def State.runOrdinary (s : State) (p : Nat) (x : Fetched) : State :=
  let c := s.core p
  match x.instr with
  | .lui rd imm => s.writeX p rd imm x.next
  | .auipc rd imm => s.writeX p rd (c.pc + imm) x.next
  | .jal rd off => s.writeX p rd x.next (c.pc + off)
  | .jalr rd rs1 off => s.writeX p rd x.next ((c.get rs1 + off) &&& ~~~1)
  | .branch f rs1 rs2 off => s.retire p (if branchTaken f (c.get rs1) (c.get rs2) then c.pc + off else x.next)
  | .aluI f alt rd rs1 imm => s.writeX p rd (aluOp f alt (c.get rs1) imm) x.next
  | .alu f alt rd rs1 rs2 => s.writeX p rd (aluOp f alt (c.get rs1) (c.get rs2)) x.next
  | .mulDiv f rd rs1 rs2 => s.writeX p rd (mulOp f (c.get rs1) (c.get rs2)) x.next
  | .csr f rd n src => s.runCsr p f rd n src x.next
  | .fp op rd rs1 rs2 rs3 rm => s.runFp p op rd rs1 rs2 rs3 rm x
  | _ => s.trap p 1 x.bits

/-- EXECUTE_INSTRUCTION (R210): an ordinary instruction executes, or its fetch faults (R212). -/
def execExecuteInstruction (dt : Nat) (p : Fin 7) (s : State) : Out :=
  runMem dt s (fun s =>
    match s.nextInstr p with
    | some (x, t) => if x.instr.ordinary then t.runOrdinary p x else s
    | none =>
      if s.ready p then
        match s.fetch p with
        | (.fault a, t) => t.trap p 2 a
        | _ => s
      else s)

/-- Execute the next instruction of processor `p` if it is one that `act` answers for. -/
def onInstr (dt p : Nat) (s : State) (act : State → Fetched → Option State) : Out :=
  runMem dt s (fun s =>
    match s.nextInstr p with
    | some (x, t) => (act t x).getD s
    | none => s)

/-! ## Loads (R209, R212, R232, R233) -/

/-- What a load of `n` bytes at `x` finds in the store buffer: it must wait, or it goes on, with forwarded data or without. -/
def forwarded (stores : List BufStore) (x n : Nat) (memory : Bool) : Option (Option Word) :=
  if memory then
    match (stores.filter (fun b => b.overlaps x n)).getLast? with
    | none => some none
    | some b =>
      if b.addr ≤ x ∧ x + n ≤ b.addr + b.size then some (some (pick (b.data >>> (8 * (x - b.addr))) 0 n)) else none
  else if stores.any (fun b => blockOf b.addr == blockOf x) then none
  else some none

/-- A load of `n` bytes at local address `va` is issued, waits, or faults (R209, R212, R219, R232, R233, R400, R414). -/
def State.issueLoad (s : State) (p n rd : Nat) (sgn float : Bool) (va next : Word) : State :=
  let c := s.core p
  let x := s.localToSystem p va.toNat
  let l : PendLoad := { addr := x, va := va, size := n, signed := sgn, float := float, rd := rd, world := c.world, sup := c.sup,
                        next := next }
  if va.toNat % n ≠ 0 then s.trap p 5 va
  else if s.levelMay p UREG_PIT_CFG.R va.toNat n = false then s.trap p 3 va
  else if s.route x = .unmapped then s.trap p 3 va
  else
    match forwarded (s.flow p).stores x n (forwardable x) with
    | none => s
    | some none => s.startLoad p l
    | some d => s.pend p { l with data := d }

/-- The width of a load or store by funct3. -/
def accessSize (f : Nat) : Nat :=
  match f % 4 with
  | 0 => 1
  | 1 => 2
  | _ => 4

/-- CORE_LOAD (R232): a load is issued. -/
def execCoreLoad (dt : Nat) (p : Fin 7) (s : State) : Out :=
  onInstr dt p s (fun s x =>
    match x.instr with
    | .load f rd rs1 off => some (s.issueLoad p (accessSize f) rd (decide (f < 4)) false ((s.core p).get rs1 + off) x.next)
    | .flw rd rs1 off => some (s.issueLoad p 4 rd false true ((s.core p).get rs1 + off) x.next)
    | _ => none)

/-- `n` loaded bytes extended to a word. -/
def extend (w : Word) (n : Nat) (sgn : Bool) : Word :=
  if sgn then signed (8 * n) w.toNat else pick w 0 n

/-- The load of processor `p` completes with data, which joins the frame ERTN reads or is the address of a handler where the load is of
either. -/
def State.loadDone (s : State) (p : Nat) (l : PendLoad) (w : Word) : State :=
  let s := s.updFlow p (fun q => { q with load := none })
  if l.frame then s.updFlow p (fun q => { q with frame := q.frame ++ [w] })
  else if l.vector then s.updCore p (fun c => { c with pc := w &&& ~~~1 })
  else (s.updCore p (fun c => if l.float then c.setFr l.rd w else c.set l.rd (extend w l.size l.signed))).retire p l.next

/-- The load faults. An entry that has to wait leaves the load, of state `o`, as it was; a handler's address that cannot be read is
undefined. -/
def State.loadFault (s o : State) (p : Nat) (l : PendLoad) (v : Nat) : State :=
  let s := s.updFlow p (fun q => { q with load := none })
  if l.vector then s.freshPc p
  else
    let x := s.syncExc p v l.va
    if s.entryWaits p x then o else s.enter p x

/-- LOAD_DATA_RETURN (R209): the data returns from the store buffer, the target or the remote device, or an error does
(R224, R278, R400, R414). The load of the pair that its copies have presented alike leaves now (R237). -/
def execLoadDataReturn (dt : Nat) (p : Fin 7) (s : State) : Out :=
  runMem dt s (fun s =>
    if (s.core p).running = true ∧ s.depStopped p = false then
      match (s.flow p).load with
      | none => s
      | some l =>
        if l.err then s.loadFault s p l 3
        else if l.tag.isSome then s
        else
          match l.data with
          | some w => s.loadDone p l w
          | none =>
            let o := s
            let s := s.accessIssued p
            match s.route l.addr with
            | .device y =>
              let a : Access := { master := p, world := l.world, sup := l.sup, size := l.size }
              match s.deviceRead a y with
              | (w, .ok, t) => t.loadDone p l w
              | (_, .bad, t) => t.loadFault o p l 10
              | (_, _, t) => t.loadFault o p l 3
            | .unmapped => s.loadFault o p l 3
            | _ => s.sendLoad p l
    else s)

/-! ## Stores (R23, R35, R212, R219, R234) -/

/-- The entries of the store buffer of processor `p` (R208); a Deputy's one store is accepted before its next instruction. -/
def bufferSize (p : Nat) : Nat := if p = 4 ∨ p = 5 then 1 else 4

/-- A store of `n` bytes at local address `va` retires into the store buffer, waits for room, or faults. -/
def State.issueStore (s : State) (p n : Nat) (va data next : Word) : State :=
  let c := s.core p
  let x := s.localToSystem p va.toNat
  if va.toNat % n ≠ 0 then s.trap p 5 va
  else if s.levelMay p UREG_PIT_CFG.W va.toNat n = false then s.trap p 4 va
  else if s.route x = .unmapped ∨ (c.sup = false ∧ supervisorOnly x = true) then s.trap p 4 va
  else if (s.flow p).stores.length < bufferSize p then
    let b : BufStore := { addr := x, va := va, size := n, data := pick data 0 n, world := c.world, sup := c.sup }
    ((s.updFlow p (fun q => { q with stores := q.stores ++ [b] })).retire p next).presentBoth p x
      { write := true, world := c.world, addr := va, size := n, data := b.data }
  else s

/-- CORE_STORE (R23): a store retires into the store buffer. -/
def execCoreStore (dt : Nat) (p : Fin 7) (s : State) : Out :=
  onInstr dt p s (fun s x =>
    let c := s.core p
    match x.instr with
    | .store f rs1 rs2 off => some (s.issueStore p (accessSize f) (c.get rs1 + off) (c.get rs2) x.next)
    | .fsw rs1 rs2 off => some (s.issueStore p 4 (c.get rs1 + off) (c.getF rs2) x.next)
    | _ => none)

/-- The oldest store leaves the buffer. -/
def State.dropStore (s : State) (p : Nat) : State := s.updFlow p (fun q => { q with stores := q.stores.drop 1 })

/-- The oldest store has left for a remote target and waits for its answer. -/
def State.tagStore (s : State) (p t : Nat) : State :=
  s.updFlow p (fun q => { q with stores := match q.stores with | b :: l => { b with tag := some t } :: l | [] => [] })

/-- The oldest store of processor `p` reaches its target (R23, R34, R234, R400, R414). -/
def State.drainStore (s : State) (p : Nat) (b : BufStore) : Except Fault State :=
  let refused := fun (s : State) => (s.dropStore p).storeErrorTo p b.va.toNat
  match s.route b.addr with
  | .device y =>
    let a : Access := { master := p, world := b.world, sup := b.sup, size := b.size }
    match s.busWrite a y b.data with
    | .ok (t, true) => .ok (t.dropStore p)
    | .ok (t, false) => .ok (refused t)
    | .error e => .error e
  | .cascade d y =>
    if b.size = 4 then
      let (t, s) := s.linkRequest true b.world d y [b.data]
      .ok (s.tagStore p t)
    else .ok (refused s)
  | .host y =>
    if s.pcieOut = false then .ok (refused (s.pcieError (s.outboundHost y)))
    else if s.pcieRoom then
      let (t, s) := s.pciePost y ((bytesOf b.data).take b.size)
      .ok (s.tagStore p (pcieWait t))
    else .ok s
  | .unmapped => .ok (refused s)

/-- STORE_BUFFER_DRAIN (R23): the oldest buffered store reaches its target, which accepts or refuses it. The Deputy pair's is withheld while
its copies do not present it alike, and while a mismatch is handled (R237, R240). -/
def execStoreBufferDrain (dt : Nat) (p : Fin 7) (s : State) : Out :=
  runMemE dt s (fun s =>
    match (s.flow p).stores with
    | [] => .ok s
    | b :: _ => if b.tag.isSome ∨ s.depStopped p = true then .ok s else (s.accessIssued p).drainStore p b)

/-- STORE_ERROR (R234): vector 9 is raised at the next instruction boundary. -/
def execStoreError (dt : Nat) (p : Fin 7) (s : State) : Out :=
  runMem dt s (fun s =>
    let q := s.flow p
    match q.storeErr with
    | none => s
    | some a => if (s.setFlow p { q with storeErr := none }).atBoundary p then s.storeTrap p a else s)

/-! ## Fences (R211) -/

/-- A fence completes once the store buffer is empty. -/
def State.fenceDone (s : State) (p : Nat) (x : Fetched) : State := if (s.flow p).stores = [] then s.retire p x.next else s

/-- FENCE (R211). -/
def execFence (dt : Nat) (p : Fin 7) (s : State) : Out :=
  onInstr dt p s (fun s x => if x.instr = .fence then some (s.fenceDone p x) else none)

/-- FENCE.I (R211): fetches read the instruction memory as it stands, so nothing is left to do once the stores have drained. -/
def execFenceI (dt : Nat) (p : Fin 7) (s : State) : Out :=
  onInstr dt p s (fun s x => if x.instr = .fenceI then some (s.fenceDone p x) else none)

/-! ## System calls and crossings (R220 to R223) -/

/-- SYSENT and SRET of a world. -/
def sysentKey (p : Nat) : World → Nat
  | .pit => R.SYSENT_PIT p
  | .bank => R.SYSENT_BANK p
def sretKey (p : Nat) : World → Nat
  | .pit => R.SRET_PIT p
  | .bank => R.SRET_BANK p

/-- XRET and ENTRY of a world. -/
def xretKey (p : Nat) : World → Nat
  | .pit => R.XRET_PIT p
  | .bank => R.XRET_BANK p
def entryKey (p i : Nat) : World → Nat
  | .pit => R.ENTRY_PIT p i
  | .bank => R.ENTRY_BANK p i

/-- The other world. -/
def otherWorld : World → World
  | .pit => .bank
  | .bank => .pit

/-- A return register that holds a return: the address, the level, VALID (R245). -/
def returnWord (pc : Word) (sup : Bool) : Word :=
  SRET_PIT.WL.put (SRET_PIT.PC.put (SRET_PIT.VALID.put 0 1) (pc.toNat / 2)) (if sup then 1 else 0)

/-- The address a return register or an entry holds. -/
def returnPc (w : Word) : Word := BitVec.ofNat 32 (2 * SRET_PIT.PC.get w)
def entryPc (w : Word) : Word := BitVec.ofNat 32 (4 * ENTRY_PIT.ADDR.get w)

/-- A system call (R220). -/
def State.sysCall (s : State) (p : Nat) (x : Fetched) : State :=
  let c := s.core p
  let e := s.reg (sysentKey p c.world)
  let k := sretKey p c.world
  if SYSENT_PIT.EN.get e = 1 ∧ SRET_PIT.VALID.get (s.reg k) = 0 then
    ((s.setReg k (returnWord x.next c.sup)).updCore p (fun c => { c with sup := true })).retire p (entryPc e)
  else s.trap p 6 x.bits

/-- A return from a system call (R220); under EMG the core stays in Supervisor level (R230). -/
def State.sysReturn (s : State) (p : Nat) (x : Fetched) : State :=
  let c := s.core p
  let k := sretKey p c.world
  let w := s.reg k
  let sup := SRET_PIT.WL.get w == 1
  if SRET_PIT.VALID.get w = 1 ∧ (c.emg = false ∨ sup = true) then
    ((s.setReg k (SRET_PIT.VALID.put w 0)).updCore p (fun c => { c with sup := sup })).retire p (returnPc w)
  else s.trap p 6 x.bits

/-- A crossing into the other world (R221); under EMG the core stays in Pit world (R230). -/
def State.cross (s : State) (p i : Nat) (x : Fetched) : State :=
  let c := s.core p
  let t := otherWorld c.world
  let e := s.reg (entryKey p i t)
  let k := xretKey p t
  if ENTRY_PIT.EN.get e = 1 ∧ XRET_PIT.VALID.get (s.reg k) = 0 ∧ (c.sup = true ∨ ENTRY_PIT.UCALL.get e = 1) ∧ c.emg = false then
    ((s.setReg k (returnWord x.next c.sup)).updCore p (fun c => { c with world := t, sup := true })).retire p (entryPc e)
  else s.trap p 6 x.bits

/-- A return from a crossing (R221). -/
def State.crossReturn (s : State) (p : Nat) (x : Fetched) : State :=
  let c := s.core p
  let k := xretKey p c.world
  let w := s.reg k
  if XRET_PIT.VALID.get w = 1 ∧ c.emg = false then
    ((s.setReg k (XRET_PIT.VALID.put w 0)).updCore p (fun c =>
      { c with world := otherWorld c.world, sup := XRET_PIT.WL.get w == 1 })).retire p (returnPc w)
  else s.trap p 6 x.bits

/-- ECALL (R220). -/
def execEcall (dt : Nat) (p : Fin 7) (s : State) : Out :=
  onInstr dt p s (fun s x => if x.instr = .ecall then some (s.sysCall p x) else none)

/-- SRTN (R220). -/
def execSrtn (dt : Nat) (p : Fin 7) (s : State) : Out :=
  onInstr dt p s (fun s x => if x.instr = .srtn then some (s.sysReturn p x) else none)

/-- XCALL (R221). -/
def execXcall (dt : Nat) (p : Fin 7) (s : State) : Out :=
  onInstr dt p s (fun s x => match x.instr with | .xcall i => some (s.cross p i x) | _ => none)

/-- XRTN (R221). -/
def execXrtn (dt : Nat) (p : Fin 7) (s : State) : Out :=
  onInstr dt p s (fun s x => if x.instr = .xrtn then some (s.crossReturn p x) else none)

/-! ## EBREAK, ERTN, WAIT, interrupts (R213, R224, R228, R251) -/

/-- EBREAK (R224): vector 7, or a halt while debug halting is enabled. -/
def execEbreak (dt : Nat) (p : Fin 7) (s : State) : Out :=
  onInstr dt p s (fun s x =>
    if x.instr = .ebreak then
      some (if s.flag R.TS_SEC TS_SEC.DBG then s.updFlow p (fun q => { q with halted := true, stepping := false }) else s.trap p 7 0)
    else none)

/-- ERTN (R213, R228, R230): illegal at User level. -/
def execErtn (dt : Nat) (p : Fin 7) (s : State) : Out :=
  onInstr dt p s (fun s x =>
    if x.instr = .ertn then
      let c := s.core p
      some (if c.sup = false then s.trap p 1 x.bits
        else if c.emg = true ∧ c.enest = 0 then s.leaveEmergency p
        else s.popFrame p)
    else none)

/-- WAIT (R213, R341): the core suspends until an interrupt is deliverable or a debug halt is requested; once a request for PARK
has been accepted it stops for PARK. -/
def execWait (dt : Nat) (p : Fin 7) (s : State) : Out :=
  onInstr dt p s (fun s x =>
    if x.instr = .wait then
      let s := s.retire p x.next
      some (if s.md.parkReq.isSome then s.updFlow p (fun q => { q with parked := true })
        else s.updFlow p (fun q => { q with waiting := true }))
    else none)

/-- The pair has agreed at this instruction boundary to act on an interrupt, and on the wake if it waits (R238); any other
processor acts on its own. -/
def State.agreed (s : State) (p : Nat) : Bool :=
  !(p == 4 && s.paired) || (s.agreedHere && s.pr.deputy.agreedIrq && (!(s.flow p).waiting || s.pr.deputy.agreedWake))

/-- INTERRUPT_ENTRY (R224, R251): the core takes the offered interrupt at an instruction boundary. -/
def execInterruptEntry (dt : Nat) (p : Fin 7) (s : State) : Out :=
  runMem dt s (fun s =>
    if s.atBoundary p && s.agreed p then
      match s.deliverable p with
      | some (i, q) =>
        let s := if p.val = 4 then
            { s with pr := { s.pr with deputy := { s.pr.deputy with agreedIrq := false, agreedWake := false } } }
          else s
        s.interrupt p i q
      | none => s
    else s)

/-! ## QUIESCE (R213, R235, R376, R377, R382) -/

/-- The two banks of `n` keys from `b` exchange places. -/
def exchange {α : Type} (b n : Nat) (m : AMap α) : AMap α :=
  let lo := m.filter (fun e => decide (b ≤ e.1 ∧ e.1 < b + n))
  let hi := m.filter (fun e => decide (b + n ≤ e.1 ∧ e.1 < b + 2 * n))
  m.filter (fun e => decide (e.1 < b)) ++ hi.map (fun e => (e.1 - n, e.2)) ++ lo.map (fun e => (e.1 + n, e.2)) ++
    m.filter (fun e => decide (b + 2 * n ≤ e.1))

/-- No return register holds a return. -/
def State.noReturns (s : State) (p : Nat) : Bool :=
  [R.SRET_PIT p, R.SRET_BANK p, R.XRET_PIT p, R.XRET_BANK p].all (fun k => SRET_PIT.VALID.get (s.reg k) == 0)

/-- A QUIESCE of a Hewer that qualifies: Supervisor level, no handler, EMG 0, no return held (R235, R376). -/
def State.quiet (s : State) (p : Nat) : Bool :=
  let c := s.core p
  decide (p < 4) && c.sup && c.cpl == 0 && !c.emg && s.noReturns p

/-- The bank swap of a Hewer (R235). -/
def State.swapBanks (s : State) (p rd : Nat) : State :=
  let k := R.HW_BANK p
  let s := { s with mem := exchange (privBase p) 0x20000 s.mem, ecc := exchange (privBase p) 0x20000 s.ecc }
  let s := ((s.setF k HW_BANK.ARM 0).setF k HW_BANK.VERIFIED 0).setF k HW_BANK.ACTIVE (1 - s.fld k HW_BANK.ACTIVE)
  let s := s.countMod k HW_BANK.SWAPS
  s.writeX p rd 1 (BitVec.ofNat 32 (2 * HW_RESUME.ADDR.get (s.reg (R.HW_RESUME p))))

/-- The core is held at its QUIESCE. -/
def State.holdCore (s : State) (p rd : Nat) (next : Word) : State :=
  (s.retire p next).updFlow p (fun q => { q with held := some rd, heldAt := s.now })

/-- A processor slice that waits for a QUIESCE of processor `p` (R376, R377). -/
def State.sliceAt (s : State) (p : Nat) : Option Slice :=
  let y := if p < 4 then 3 else 4
  let target := if p < 4 then p else p - 4
  s.ts.slices.find? (fun x => x.y == y && x.stage == 4 && (x.target == target || (y == 4 && s.lockstep)))

/-- A slice begins at the QUIESCE of processor `p`; while a Deputy tests, the device watchdog does not count. -/
def State.beginSlice (s : State) (p rd : Nat) (next : Word) (sl : Slice) : State :=
  let s := (s.putSlice sl { sl with stage := 2, begun := some s.now }).holdCore p rd next
  if 4 ≤ p then
    { s with pr := { s.pr with deputy := { s.pr.deputy with agreedService := false } } }.wdogPause
  else s

/-- QUIESCE of a Hewer: a withdrawal, a slice, or the bank-swap check (R213, R235, R376, R382). -/
def State.quiesceHewer (s : State) (p rd : Nat) (next : Word) : State :=
  let k := R.HW_BANK p
  if s.quiet p = false then s.writeX p rd 0 next
  else if AMap.get false s.ts.heldWait p then
    let s := { s with ts := { s.ts with heldWait := AMap.set false s.ts.heldWait p false } }
    (s.setFieldBit R.TS_WD_UNIT TS_WD_UNIT.HEWER p true).holdCore p rd next
  else
    match s.sliceAt p with
    | some sl => s.beginSlice p rd next sl
    | none => if s.flag k HW_BANK.ARM && s.flag k HW_BANK.VERIFIED then s.swapBanks p rd else s.writeX p rd 0 next

/-- QUIESCE of the Deputy or the Banksman: a Deputy slice begins, in lockstep once the pair has agreed; rd receives 0. -/
def State.quiesceOther (s : State) (p rd : Nat) (next : Word) : State :=
  let may := decide (p = 5) || (decide (p = 4) && (!s.paired || (s.agreedHere && s.pr.deputy.agreedService)))
  match s.sliceAt p with
  | some sl => if may then s.beginSlice p rd next sl else s.writeX p rd 0 next
  | none => s.writeX p rd 0 next

/-- QUIESCE (R213, R235). -/
def execQuiesce (dt : Nat) (p : Fin 7) (s : State) : Out :=
  onInstr dt p s (fun s x =>
    match x.instr with
    | .quiesce rd => some (if p.val < 4 then s.quiesceHewer p rd x.next else s.quiesceOther p rd x.next)
    | _ => none)

end Sys2Proof.Machine
end

