-- ==== Sys2Proof/Machine/Trig.lean ====
section
/-! DEFINITION. Real arithmetic for the transforms (R98, R99) and the coprocessor (R215): numbers in units of 2^-64, sine and cosine
of an angle in turns by their power series, and the free error within the bound a rule gives (log entry 55). -/

namespace Sys2Proof

/-- π/2, 1/√3 and √3/2 in units of 2^-64. -/
def halfPi64 : Int := 28976077832308491370
def invSqrt3 : Int := 10650232656628343401
def halfSqrt3 : Int := 15975348984942515102

/-- The product of two numbers in units of 2^-64. -/
def mul64 (a b : Int) : Int := a * b / 2 ^ 64

/-- The sum of a power series: the first term, and each later one from the one before by `next`. -/
def series (next : Nat → Int → Int) : Nat → Nat → Int → Int
  | 0, _, _ => 0
  | n + 1, k, t => t + series next n (k + 1) (next k t)

/-- sin x, 0 ≤ x ≤ π/2, in units of 2^-64. -/
def sin64 (x : Int) : Int :=
  let x2 := mul64 x x
  series (fun k t => -(mul64 t x2) / ((2 * k + 2) * (2 * k + 3) : Nat)) 16 0 x

/-- cos x, 0 ≤ x ≤ π/2. -/
def cos64 (x : Int) : Int :=
  let x2 := mul64 x x
  series (fun k t => -(mul64 t x2) / ((2 * k + 1) * (2 * k + 2) : Nat)) 16 0 (2 ^ 64)

/-- Cosine and sine of an angle of `th` / 2^32 turns. -/
def cosSin (th : Nat) : Int × Int :=
  let x := (th % 2 ^ 30 : Nat) * halfPi64 / 2 ^ 30
  let c := cos64 x
  let s := sin64 x
  match th / 2 ^ 30 % 4 with
  | 0 => (c, s)
  | 1 => (-s, c)
  | 2 => (-c, -s)
  | _ => (s, -c)

/-- A Q1.31 number in units of 2^-64. -/
def q31 (v : Int) : Int := v * 2 ^ 33

/-- Clarke, Park and their inverses on exact numbers (R98). -/
def clarke (a b c : Int) : Int × Int × Int := ((2 * a - b - c) / 3, mul64 (b - c) invSqrt3, (a + b + c) / 3)
def park (th : Nat) (al be : Int) : Int × Int :=
  let (c, s) := cosSin th
  (mul64 al c + mul64 be s, mul64 be c - mul64 al s)
def ipark (th : Nat) (d q : Int) : Int × Int :=
  let (c, s) := cosSin th
  (mul64 d c - mul64 q s, mul64 d s + mul64 q c)
def iclarke (al be : Int) : Int × Int × Int :=
  let x := mul64 be halfSqrt3
  (al, x - al / 2, -x - al / 2)

/-- A key for the free error of an operation on given operands: equal operands give equal results. -/
def errorKey (l : List Nat) : Nat := l.foldl (fun a x => a * 2 ^ 32 + x % 2 ^ 32) 1

/-- An exact number as a Q1.31 result before saturation: within 2^-22 of full scale of it, then rounded (R99). -/
def nearQ31 (x : Int) (key : Nat) : Int :=
  let e := clampInt (-(2 ^ 18)) (2 ^ 18) (Config.approxError key)
  (x / 2 ^ 24 + e + 2 ^ 8) / 2 ^ 9

end Sys2Proof
end

