-- ==== Sys2Proof/Machine/Coproc.lean ====
section
/-! DEFINITION. The control coprocessor of a Hewer (R214 to R216): exact results, the free result within the bounds of R215, and the
course of one instruction at a time. Log entry 98 gives what the manual leaves open. -/

namespace Sys2Proof.Machine

open Sys2Proof

/-! ## Exact values, in units of 2^-213 -/

/-- The unit of the coprocessor's exact values: 2^-149 of single precision times 2^-64. -/
def unitExp : Int := -213

/-- Cosine and sine of an angle of `t` / 2^64 turns, in units of 2^-64. -/
def cosSinTurns (t : Nat) : Int × Int :=
  let x := (t % 2 ^ 62 : Nat) * halfPi64 / 2 ^ 62
  let c := cos64 x
  let s := sin64 x
  match t / 2 ^ 62 % 4 with
  | 0 => (c, s)
  | 1 => (-s, c)
  | 2 => (-c, -s)
  | _ => (s, -c)

/-- The fraction of a turn of an angle in units of 2^-149 turns. -/
def turnsOf (n : Int) : Nat := (n % 2 ^ 149).toNat / 2 ^ 85

/-- tan of half the angle whose tan is `r`, in units of 2^-64. -/
def halfTan (r : Nat) : Nat := r * 2 ^ 64 / (2 ^ 64 + isqrt (2 ^ 128 + r * r))

/-- The power series of arctan for small `r`: the remaining terms from degree 2k + 1, whose power of `r` is `pw`. -/
def atanSeries (r2 : Int) : Nat → Nat → Int → Int
  | 0, _, _ => 0
  | n + 1, k, pw => pw / (2 * k + 1 : Nat) - atanSeries r2 n (k + 1) (mul64 pw r2)

/-- arctan r, 0 ≤ r ≤ 1, in units of 2^-64. -/
def atan64 (r : Nat) : Int :=
  let h : Int := halfTan (halfTan r)
  4 * atanSeries (mul64 h h) 18 0 h

/-- atan2(y, x) / 2π in [-0.5, 0.5), in units of 2^-64 turns, for y and x not both zero. -/
def atan2Turns (y x : Int) : Int :=
  let ay := y.natAbs
  let ax := x.natAbs
  let a := if ay ≤ ax then atan64 (ay * 2 ^ 64 / ax) else halfPi64 - atan64 (ax * 2 ^ 64 / ay)
  let a := if x < 0 then 2 * halfPi64 - a else a
  let t := a * 2 ^ 62 / halfPi64
  if y < 0 then (if t < 2 ^ 63 then -t else -(2 ^ 63))
  else if y = 0 ∧ x < 0 then -(2 ^ 63)
  else if t < 2 ^ 63 then t
  else 2 ^ 63 - 1

/-- Clarke, Park and their inverses on numbers in units of 2^-149 (R98). -/
def clarkeExact (a b c : Int) : List Int :=
  [(2 * a - b - c) * 2 ^ 64 / 3, (b - c) * invSqrt3, (a + b + c) * 2 ^ 64 / 3]
def iclarkeExact (al be : Int) : List Int :=
  [al * 2 ^ 64, be * halfSqrt3 - al * 2 ^ 63, -(be * halfSqrt3) - al * 2 ^ 63]
def parkExact (al be th : Int) : List Int :=
  let (c, s) := cosSinTurns (turnsOf th)
  [al * c + be * s, be * c - al * s]
def iparkExact (d q th : Int) : List Int :=
  let (c, s) := cosSinTurns (turnsOf th)
  [d * c - q * s, d * s + q * c]

/-! ## Results within their bounds (R215) -/

/-- A key for the free result of output `j` of an operation on given inputs: equal inputs give equal results. -/
def coprocKey (op j : Nat) (ins : List Word) : Nat := errorKey (op :: j :: ins.map BitVec.toNat)

/-- A finite word. -/
def finiteWord (w : Word) : Bool :=
  match Fp.of w with
  | .fin _ _ _ => true
  | _ => false

/-- A free word within `bound` of the exact value, which satisfies `ok`; where the free word lies outside, the exact value rounded by
mode `rm`. -/
def within (exact bound : Int) (rm : Nat) (w : Word) (ok : Word → Bool) : Word :=
  let d := (Fp.of w).scaled * 2 ^ 64 - exact
  if finiteWord w && decide (-bound ≤ d) && decide (d ≤ bound) && ok w then w else (f32Exact rm false exact unitExp).1

/-- A free word within 1 ulp of the exact value that rounds to `dn` downwards and to `up` upwards. -/
def withinUlp (dn up w : Word) : Word :=
  if dn = up then
    match w.toNat % 3 with
    | 0 => dn
    | 1 => dn + 1
    | _ => dn - 1
  else if w.toNat % 2 = 0 then dn
  else up

/-- The bound of R215 in the unit of exact values: 2^-22 times a magnitude in units of 2^-149. -/
def boundOf (mag : Nat) : Int := (mag * 2 ^ 42 : Nat)

/-- The results of an operation and its flags, on inputs none of which is NaN. -/
def coprocFinite (op : Nat) (ins : List Word) : List Word × Nat :=
  let fp := fun (i : Nat) => Fp.of (ins.getD i 0)
  let n := fun (i : Nat) => (fp i).scaled
  let free := fun (j : Nat) => Config.coproc (coprocKey op j ins)
  let outs := (cpShape op).2.2
  let allFree := (List.range outs).map free
  let isInf := fun (i : Nat) => match fp i with | .inf _ => true | _ => false
  let wide := fun (i : Nat) => decide (256 * 2 ^ 149 ≤ (n i).natAbs)
  let invalid := (List.replicate outs canonNan, fNV)
  let anyWord := fun (_ : Word) => true
  let near := fun (l : List Int) =>
    let mag := (List.range ins.length).foldl (fun m i => Nat.max m (n i).natAbs) 0
    ((List.range outs).map (fun j => within (l.getD j 0) (boundOf mag) 0 (free j) anyWord), 0)
  match op with
  | 0 =>
    if isInf 0 then invalid
    else if wide 0 then (allFree, 0)
    else
      let (c, s) := cosSinTurns (turnsOf (n 0))
      ([c, s].zipIdx.map (fun x => within (x.1 * 2 ^ 149) (boundOf (2 ^ 149)) 0 (free x.2) anyWord), 0)
  | 1 =>
    let inRange := fun (w : Word) => finiteWord w && decide (-(2 ^ 148) ≤ (Fp.of w).scaled) && decide ((Fp.of w).scaled < 2 ^ 148)
    if isInf 0 || isInf 1 then ([if inRange (free 0) then free 0 else 0], 0)
    else if n 0 = 0 ∧ n 1 = 0 then ([0], 0)
    else ([within (atan2Turns (n 0) (n 1) * 2 ^ 149) (boundOf (2 ^ 149)) 1 (free 0) inRange], 0)
  | 2 =>
    match fp 0 with
    | .inf neg => if neg then invalid else ([infWord false], 0)
    | .fin neg m _ =>
      if m = 0 then ([ins.getD 0 0], 0)
      else if neg then invalid
      else ([withinUlp (f32Sqrt 2 (ins.getD 0 0)).1 (f32Sqrt 3 (ins.getD 0 0)).1 (free 0)], 0)
    | .nan _ => invalid
  | 3 =>
    let one : Word := 0x3F800000
    match fp 0 with
    | .inf neg => ([zeroWord neg], 0)
    | .fin neg m _ =>
      if m = 0 then ([infWord neg], fDZ)
      else ([withinUlp (f32Div 2 one (ins.getD 0 0)).1 (f32Div 3 one (ins.getD 0 0)).1 (free 0)], 0)
    | .nan _ => invalid
  | 4 => if isInf 0 || isInf 1 || isInf 2 then (allFree, 0) else near (clarkeExact (n 0) (n 1) (n 2))
  | 5 => if isInf 0 || isInf 1 then (allFree, 0) else near (iclarkeExact (n 0) (n 1))
  | 6 =>
    if isInf 2 then invalid
    else if isInf 0 || isInf 1 || wide 2 then (allFree, 0)
    else near (parkExact (n 0) (n 1) (n 2))
  | _ =>
    if isInf 2 then invalid
    else if isInf 0 || isInf 1 || wide 2 then (allFree, 0)
    else near (iparkExact (n 0) (n 1) (n 2))

/-- The operation takes an angle θ, and it is infinite (R215). -/
def thetaInf (op : Nat) (ins : List Word) : Bool :=
  let inf := fun (i : Nat) => match Fp.of (ins.getD i 0) with | .inf _ => true | _ => false
  match op with
  | 0 => inf 0
  | 6 | 7 => inf 2
  | _ => false

/-- The results of a coprocessor operation and its flags (R214, R215): an infinite θ sets NV whatever the other inputs are. -/
def coprocRun (op : Nat) (ins : List Word) : List Word × Nat :=
  if ins.any (fun w => (Fp.of w).isNan) then
    (List.replicate (cpShape op).2.2 canonNan, if thetaInf op ins then fNV else nanFlag (ins.map Fp.of))
  else coprocFinite op ins

/-! ## The course of an instruction (R216) -/

/-- The inputs of an operation as the core reads them. -/
def Core.coprocIns (c : Core) (op rs1 rs2 : Nat) : List Word :=
  let (a, b, _) := cpShape op
  (List.range a).map (fun i => c.getF (rs1 + i)) ++ (List.range b).map (fun i => c.getF (rs2 + i))

/-- A coprocessor instruction in its turn: illegal without a coprocessor, else it waits for the one that runs, or begins. -/
def State.beginCp (s : State) (p op rd rs1 rs2 : Nat) (x : Fetched) : State :=
  if 4 ≤ p then s.trap p 1 x.bits
  else if (s.flow p).cp.isSome then s
  else
    let o : CoprocOp := { op := op, fd := rd, ins := (s.core p).coprocIns op rs1 rs2 }
    (s.updFlow p (fun q => { q with cp := some o })).retire p x.next

/-- A coprocessor instruction at `next` may begin while the instruction before it is not yet known to complete, if it does not depend on
F register `fr`, which that one still has to write. -/
def State.beginAt (s : State) (p op : Nat) (next : Word) (fr : Option Nat) : State :=
  let q := s.flow p
  if 4 ≤ p ∨ q.cp.isSome = true ∨ q.halted = true ∨ (s.core p).running = false ∨ s.hasCore p = false then s
  else
    match (s.updCore p (fun c => { c with pc := next })).fetch p with
    | (.ok bits 4, t) =>
      match decode32 bits with
      | .cp o rd rs1 rs2 =>
        let (a, b, n) := cpShape o
        let named := (List.range a).map (fun i => rs1 + i) ++ (List.range b).map (fun i => rs2 + i) ++
          (List.range n).map (fun i => rd + i)
        if o = op ∧ (match fr with | some r => named.contains r | none => false) = false then
          let cp : CoprocOp := { op := o, fd := rd, ins := (s.core p).coprocIns o rs1 rs2, ahead := some (next + 4) }
          (t.updCore p (fun c => { c with pc := (s.core p).pc })).updFlow p (fun q => { q with cp := some cp })
        else s
      | _ => s
    | _ => s

/-- A coprocessor instruction begins behind a load that is out. -/
def State.beginAhead (s : State) (p op : Nat) : State :=
  match (s.flow p).load with
  | some l => if l.frame || l.vector then s else s.beginAt p op l.next (if l.float then some l.rd else none)
  | none => s

/-- A coprocessor instruction begins on the predicted path of the branch at the program counter; which path is predicted is free. -/
def State.beginPredicted (s : State) (p op : Nat) (off : Word) (x : Fetched) : State :=
  let (taken, s) := s.freshBit
  s.beginAt p op (if taken then (s.core p).pc + off else x.next) none

/-- A command for operation `op`: it begins in its turn, or ahead of a load's or a branch's completion. -/
def State.coproc (s : State) (p op : Nat) : State :=
  match s.nextInstr p with
  | some (x, t) =>
    match x.instr with
    | .cp o rd rs1 rs2 => if o = op then t.beginCp p o rd rs1 rs2 x else s
    | .branch _ _ _ off => t.beginPredicted p op off x
    | _ => s
  | none => s.beginAhead p op

/-- CP_SINCOS (R214). -/
def execCpSincos (dt : Nat) (p : Fin 7) (s : State) : Out := runMem dt s (fun s => s.coproc p 0)

/-- CP_ATAN2 (R214). -/
def execCpAtan2 (dt : Nat) (p : Fin 7) (s : State) : Out := runMem dt s (fun s => s.coproc p 1)

/-- CP_SQRT (R214). -/
def execCpSqrt (dt : Nat) (p : Fin 7) (s : State) : Out := runMem dt s (fun s => s.coproc p 2)

/-- CP_RECIP (R214). -/
def execCpRecip (dt : Nat) (p : Fin 7) (s : State) : Out := runMem dt s (fun s => s.coproc p 3)

/-- CP_CLARKE (R214). -/
def execCpClarke (dt : Nat) (p : Fin 7) (s : State) : Out := runMem dt s (fun s => s.coproc p 4)

/-- CP_ICLARKE (R214). -/
def execCpIclarke (dt : Nat) (p : Fin 7) (s : State) : Out := runMem dt s (fun s => s.coproc p 5)

/-- CP_PARK (R214). -/
def execCpPark (dt : Nat) (p : Fin 7) (s : State) : Out := runMem dt s (fun s => s.coproc p 6)

/-- CP_IPARK (R214). -/
def execCpIpark (dt : Nat) (p : Fin 7) (s : State) : Out := runMem dt s (fun s => s.coproc p 7)

/-- The results of an operation are written. -/
def State.writeResults (s : State) (p : Nat) (o : CoprocOp) : State :=
  let (ws, fl) := coprocRun o.op o.ins
  s.updCore p (fun c =>
    let c := ws.zipIdx.foldl (fun (c : Core) x => c.setFr (o.fd + x.2) x.1) c
    { c with fcsr := c.fcsr ||| fl })

/-- CP_RESULT (R216): the running instruction finishes; a squashed one changes nothing, and one whose earlier load is still out
waits. -/
def execCpResult (dt : Nat) (p : Fin 7) (s : State) : Out :=
  run dt s (fun s =>
    match (s.flow p).cp with
    | none => s
    | some o =>
      let t := s.updFlow p (fun q => { q with cp := none })
      if o.squashed then t
      else if o.ahead.isSome then s
      else t.writeResults p o)

end Sys2Proof.Machine
end

