-- ==== Sys2Proof/Machine/Dap.lean ====
section
/-! DEFINITION. The debug access port (R424): accesses through the local map of a processor, CORE_STATUS, halt, resume, single
step, the wake request and the system reset request. It acts while debug access is enabled (R385; log entry 99). -/

namespace Sys2Proof.Machine

open Sys2Proof

/-- Debug access is enabled (R385). -/
def State.dapOn (s : State) : Bool := s.flag R.TS_SEC TS_SEC.DBG

/-- Debug access acts, through the DAP register: its instruction is selected, and the fields of the operation are shifted in (R423, R424). -/
def State.dapShift (s : State) (op : Nat) (data : Word) : State :=
  { s with io := { s.io with tapReset := false, ir := 0x10, dapOp := op, dapData := data } }

/-- The fields that name a processor, a world and an address. -/
def State.dapAims (s : State) (p : Nat) (wd : World) (addr : Word) : State :=
  { s with io := { s.io with dapProc := p, dapWorld := wd, dapAddr := addr } }

/-- A control operation on processor `p`. -/
def State.dapControl (s : State) (p : Nat) (bit : Nat) : State :=
  let s := s.dapShift 2 (BitVec.ofNat 32 (2 ^ bit))
  { s with io := { s.io with dapProc := p } }

/-- The access of the DAP: Supervisor level, a word (R424). -/
def dapAccess (p : Nat) (wd : World) : Access := { master := p, world := wd, sup := true, size := 4 }

/-- A DAP read of a word of the local map of processor `p`; a remote one waits for its answer. -/
def State.dapRead (s : State) (p : Nat) (wd : World) (addr : Word) : State :=
  let await := fun (r : Nat × State) => { r.2 with io := { r.2.io with dapTag := some r.1 } }
  match s.route (s.localToSystem p (addr.toNat / 4 * 4)) with
  | .device y =>
    match s.deviceRead (dapAccess p wd) y with
    | (w, .ok, s) => s.dapGives w
    | (_, _, s) => s.dapFails
  | .cascade d y => await (s.linkRequest false wd d y [4])
  | .host y =>
    ({ s with io := { s.io with outWait := s.io.outWait.filter (fun w => w.host || w.bytes.isSome) } }).outAsk
      { host := false, ofs := y, size := 4, bytes := none }
  | .unmapped => s.dapFails

/-- DAP_READ (R424): a DAP read through the local map of processor `p`. -/
def execDapRead (dt : Nat) (p : Fin 7) (wd : World) (addr : Word) (s : State) : Out :=
  run dt s (fun s => if s.dapOn then ((s.dapShift 0 s.io.dapData).dapAims p wd addr).dapRead p wd addr else s)

/-- A DAP write; one that is refused has no further effect, as it is no store of the core. -/
def State.dapWrite (s : State) (p : Nat) (wd : World) (addr w : Word) : Except Fault State :=
  match s.route (s.localToSystem p (addr.toNat / 4 * 4)) with
  | .device y =>
    match s.busWrite (dapAccess p wd) y w with
    | .ok r => .ok r.1
    | .error e => .error e
  | .cascade d y => .ok (s.linkRequest true wd d y [w]).2
  | .host y => .ok (s.outAsk { host := false, ofs := y, size := 4, bytes := some (bytesOf w) })
  | .unmapped => .ok s

/-- DAP_WRITE (R424): a DAP write through the local map of processor `p`. -/
def execDapWrite (dt : Nat) (p : Fin 7) (wd : World) (addr : Word) (w : Word) (s : State) : Out :=
  runMemE dt s (fun s => if s.dapOn then ((s.dapShift 1 w).dapAims p wd addr).dapWrite p wd addr w else .ok s)

/-- DAP_STATUS (R424): CORE_STATUS of `p`. -/
def execDapStatus (dt : Nat) (p : Fin 7) (s : State) : Out :=
  run dt s (fun s =>
    let k := R.CORE_STATUS p
    match regAt (k % 0x100000000) with
    | some (r, _) =>
      if s.dapOn then
        let s := s.dapShift 3 (s.coreRegRead p k r)
        { s with io := { s.io with dapProc := p } }
      else s
    | none => s)

/-- DAP_HALT (R213, R238, R424): processor `p` halts, which ends a WAIT; the pair in lockstep halts once it has agreed. -/
def execDapHalt (dt : Nat) (p : Fin 7) (s : State) : Out :=
  run dt s (fun s =>
    let s := if s.dapOn then s.dapControl p 0 else s
    if s.dapOn = true ∧ s.hasCore p = true then
      if p.val = 4 ∧ s.paired = true then { s with pr := { s.pr with deputy := { s.pr.deputy with haltReq := true } } }
      else s.updFlow p (fun q => { q with halted := true, waiting := false })
    else s)

/-- DAP_RESUME (R424). -/
def execDapResume (dt : Nat) (p : Fin 7) (s : State) : Out :=
  run dt s (fun s => if s.dapOn then (s.dapControl p 1).updFlow p (fun q => { q with halted := false, stepping := false }) else s)

/-- DAP_SINGLE_STEP (R424): a halted processor executes its next instruction. -/
def execDapSingleStep (dt : Nat) (p : Fin 7) (s : State) : Out :=
  run dt s (fun s =>
    let s := if s.dapOn then s.dapControl p 2 else s
    if s.dapOn = true ∧ (s.flow p).halted = true then s.updFlow p (fun q => { q with stepping := true }) else s)

/-- DAP_WAKE_REQUEST (R342, R424). -/
def execDapWakeRequest (dt : Nat) (s : State) : Out := run dt s (fun s => if s.dapOn then (s.dapControl s.io.dapProc 3).wakeBy 3 else s)

/-- DAP_SYSTEM_RESET (R350, R424). -/
def execDapSystemReset (dt : Nat) (s : State) : Out := run dt s (fun s => if s.dapOn then (s.dapControl s.io.dapProc 4).sysReset RST_CAUSE.DEBUG else s)

end Sys2Proof.Machine
end

