-- ==== Sys2Proof/Machine/Dma.lean ====
section
/-! DEFINITION. What the DMA engines do (R259, R264 to R269): the choice of the next burst, bursts and their responses, and the
reading of descriptors. -/

namespace Sys2Proof.Machine

open Sys2Proof

/-! ## Accesses of a burst (R259) -/

/-- The accesses of a burst over `n` bytes from `x`: whole words, narrower at its edges. -/
def pieces : Nat → Nat → Nat → List (Nat × Nat)
  | 0, _, _ => []
  | fuel + 1, x, n =>
    if n = 0 then []
    else
      let k := if x % 4 = 0 ∧ 4 ≤ n then 4 else if x % 2 = 0 ∧ 2 ≤ n then 2 else 1
      (x, k) :: pieces fuel (x + k) (n - k)

/-- The accesses of one side of a burst of `len` bytes: one of ESIZE bytes per element on a FIXED side. -/
def sideAccesses (fix : Bool) (x len esize : Nat) : List (Nat × Nat) :=
  if fix then (List.range (len / esize)).flatMap (fun _ => pieces esize x esize) else pieces len x len

/-- The access of channel `c`: in the channel's world (R20, R258), at User level (log entry 91). -/
def State.dmaAccess (s : State) (c size : Nat) : Access :=
  { master := 0x10 + c, world := World.ofBit (s.fld (R.DMA_CFG c) DMA_CFG.WORLD), sup := false, size := size }

/-- Read the accesses of a side from this device; the end and the address of the first that fails. -/
def State.dmaRead (c : Nat) : List (Nat × Nat) → State → List Byte × ReadEnd × Nat × State
  | [], s => ([], .ok, 0, s)
  | (x, n) :: rest, s =>
    match s.route x with
    | .device y =>
      match s.deviceRead (s.dmaAccess c n) y with
      | (w, .ok, s) =>
        let (bs, e, at_, s) := State.dmaRead c rest s
        ((bytesOf w).take n ++ bs, e, at_, s)
      | (_, e, s) => ([], e, x, s)
    | _ => ([], .unmapped, x, s)

/-- Write the accesses of a side to this device: whether all were accepted, the end of a failure, and its address. -/
def State.dmaWrite (c : Nat) : List (Nat × Nat) → List Byte → State → Except Fault (ReadEnd × Nat × State)
  | [], _, s => .ok (.ok, 0, s)
  | (x, n) :: rest, bs, s =>
    match s.route x with
    | .device y =>
      match s.busWrite (s.dmaAccess c n) y (wordAt (bs.take n) 0) with
      | .ok (s, true) => State.dmaWrite c rest (bs.drop n) s
      | .ok (s, false) => .ok (.refused, x, s)
      | .error e => .error e
    | _ => .ok (.unmapped, x, s)

/-- The error code of a failed read, and of a failed write (R268). -/
def ReadEnd.readCode : ReadEnd → Nat
  | .unmapped => 4
  | .bad => 3
  | _ => 1
def ReadEnd.writeCode : ReadEnd → Nat
  | .unmapped => 4
  | _ => 2

/-! ## The next burst (R259, R261, R263, R265, R269) -/

/-- An address leads out of the device. -/
def State.isRemote (s : State) (x : Nat) : Bool :=
  match s.route x with
  | .cascade _ _ => true
  | .host _ => true
  | _ => false

/-- The burst channel `c` reads next, if it has one to read. Towards a FIXED side that lies outside the device each access is a
burst of its own. -/
def State.dmaNext (s : State) (c : Nat) : Option Burst :=
  let d := s.dma c
  if s.dmaState c = 2 then
    let side := fun (mode base k o : Nat) => if mode = 1 then base else if mode = 2 then base + o % 2 ^ k else base + o
    let b : Option Burst :=
      if isSg c then
        match d.desc with
        | some x =>
          let sfix := x.ctl.getLsbD 26
          let dfix := x.ctl.getLsbD 27
          some { src := if sfix then x.src else x.src + d.next, dst := if dfix then x.dst else x.dst + d.next,
                 len := s.dmaNextLen c, sfix := sfix, dfix := dfix, desc := x.addr }
        | none => none
      else
        some { src := side (s.dmaSmode c) (s.dmaSrc c) (s.dmaSk c) d.next, dst := side (s.dmaDmode c) (s.dmaDst c) (s.dmaDk c) d.next,
               len := s.dmaNextLen c, sfix := s.dmaSmode c == 1, dfix := s.dmaDmode c == 1, desc := 0 }
    match b with
    | some b =>
      if b.len = 0 then none
      else if (b.sfix && s.isRemote b.src) || (b.dfix && s.isRemote b.dst) then some { b with len := Nat.min b.len (s.dmaEsize c) }
      else some b
    | none => none
  else none

/-- The bytes of the shared buffer that are reserved. -/
def State.dmaReserved (s : State) : Nat := ((List.range 64).map (fun c => (s.dma c).reserved)).foldl (· + ·) 0

/-- An outbound request to `x` can be issued now, if it is one (R412). -/
def State.outboundOk (s : State) (x : Nat) : Bool :=
  match s.route x with
  | .host _ => s.pcieRoom
  | _ => true

/-- The read engine can issue a burst of channel `c`. -/
def State.dmaCanRead (s : State) (c : Nat) : Bool :=
  match s.dmaNext c with
  | some b => decide ((s.dma c).reserved + b.len ≤ 8192) && decide (s.dmaReserved + b.len ≤ 65536) && s.outboundOk b.src
  | none => false

/-- The write engine can issue a burst of channel `c`: one whose data has arrived. -/
def State.dmaCanWrite (s : State) (c : Nat) : Bool :=
  match (s.dma c).held with
  | b :: _ => s.outboundOk b.dst
  | [] => false

/-- The channel an engine serves next (R269): of the highest level, and within it the first after the one served last. -/
def State.dmaPick (s : State) (can : Nat → Bool) (last : AMap Nat) : Option Nat :=
  let cs := (List.range 64).filter can
  let prio := fun (c : Nat) => s.fld (R.DMA_CFG c) DMA_CFG.PRIO
  let top := cs.foldl (fun m c => Nat.max m (prio c)) 0
  let level := cs.filter (fun c => prio c == top)
  let after := AMap.get 63 last top
  match level.find? (fun c => decide (after < c)) with
  | some c => some c
  | none => level.head?

/-! ## Order within a block (R23) -/

/-- The blocks that `n` bytes from `x` lie in: bursts are no longer than 256 bytes. -/
def State.blocksOf (s : State) (x n : Nat) : List Nat := [blockOf (s.resolve x), blockOf (s.resolve (x + (n - 1)))]

/-- An access of channel `c` to the bytes at `x`, with place `ord`, has one before it to the same block that is still out. Writes leave
their list in their order, so a write waits for reads only. -/
def State.dmaBehind (s : State) (c : Nat) (write : Bool) (x n ord : Nat) : Bool :=
  let d := s.dma c
  let bs := s.blocksOf x n
  let meets := fun (x n o : Nat) => decide (o < ord) && (s.blocksOf x n).any (fun k => bs.contains k)
  (d.reads ++ d.descRead.toList).any (fun b => meets b.src b.len b.ord) ||
    (!write && d.writes.any (fun b => meets b.dst b.len b.ord))

/-- The burst takes the next place in the order of its channel. -/
def State.dmaOrder (s : State) (c : Nat) (b : Burst) : Burst × State :=
  ({ b with ord := (s.dma c).issued }, s.updDma c (fun d => { d with issued := d.issued + 1 }))

/-! ## Issue -/

/-- A read of a burst leaves; one within the device is answered when its response is collected. -/
def State.issueRead (s : State) (c : Nat) (b : Burst) : Burst × State :=
  match s.route b.src with
  | .cascade d x =>
    if b.src % 4 = 0 ∧ b.len % 4 = 0 then
      let (t, s) := s.linkRequest false (s.dmaAccess c 4).world d x [BitVec.ofNat 32 b.len]
      ({ b with tag := some t }, s)
    else ({ b with err := true }, s)
  | .host x =>
    if s.pcieOut then
      let (t, s) := s.pcieRequest (s.outboundHost x) b.len .read
      ({ b with tag := some (pcieWait t) }, s)
    else ({ b with err := true }, s.pcieError (s.outboundHost x))
  | _ => (b, s)

/-- A write of a burst leaves. -/
def State.issueWrite (s : State) (c : Nat) (b : Burst) : Burst × State :=
  match s.route b.dst with
  | .cascade d x =>
    if b.dst % 4 = 0 ∧ b.len % 4 = 0 then
      let ws := (List.range (b.len / 4)).map (fun i => wordAt b.data (4 * i))
      let (t, s) := s.linkRequest true (s.dmaAccess c 4).world d x ws
      ({ b with tag := some t }, s)
    else ({ b with err := true }, s)
  | .host x =>
    if s.pcieOut then
      let (t, s) := s.pciePost x b.data
      ({ b with tag := some (pcieWait t) }, s)
    else ({ b with err := true }, s.pcieError (s.outboundHost x))
  | _ => (b, s)

/-- The read engine issues burst `b` of channel `c`. -/
def State.dmaIssueRead (s : State) (c : Nat) (b : Burst) : State :=
  let prio := s.fld (R.DMA_CFG c) DMA_CFG.PRIO
  let (b, s) := s.dmaOrder c b
  let (b', s) := s.issueRead c b
  let s := { s with mv := { s.mv with lastRead := AMap.set 63 s.mv.lastRead prio c } }
  let s := s.updDma c (fun d =>
    let left := d.left - b.len
    { d with
      reads := d.reads ++ [b'], left := left
      next := (d.next + b.len) % 0x100000000
      desc := if isSg c && left == 0 then none else d.desc })
  (s.dmaAfterBurst c).dmaPacing c

/-- The write engine issues the oldest burst of channel `c` whose data has arrived. -/
def State.dmaIssueWrite (s : State) (c : Nat) (b : Burst) : State :=
  let prio := s.fld (R.DMA_CFG c) DMA_CFG.PRIO
  let (b, s) := s.dmaOrder c b
  let (b', s) := s.issueWrite c b
  let s := { s with mv := { s.mv with lastWrite := AMap.set 63 s.mv.lastWrite prio c } }
  s.updDma c (fun d => { d with held := d.held.drop 1, writes := d.writes ++ [b'] })

/-- DMA_BURST_ISSUE (R269): the read or the write engine issues the next burst. -/
def execDmaBurstIssue (dt : Nat) (write : Bool) (s : State) : Out :=
  run dt s (fun s =>
    if write then
      match s.dmaPick s.dmaCanWrite s.mv.lastWrite with
      | some c => match (s.dma c).held with | b :: _ => s.dmaIssueWrite c b | [] => s
      | none => s
    else
      match s.dmaPick s.dmaCanRead s.mv.lastRead with
      | some c => match s.dmaNext c with | some b => s.dmaIssueRead c b | none => s
      | none => s)

/-! ## Responses (R262, R265, R266, R268) -/

/-- The data of a read burst, or how it ended. -/
def State.burstData (s : State) (c : Nat) (b : Burst) : List Byte × ReadEnd × Nat × State :=
  if b.err then ([], .refused, b.src, s)
  else if s.isRemote b.src then
    if b.data.length = b.len then (b.data, .ok, 0, s) else ([], .refused, b.src, s)
  else State.dmaRead c (sideAccesses b.sfix b.src b.len (s.dmaEsize c)) s

/-- DMA_READ_RESPONSE: the oldest read of channel `c` is answered; an error stops the channel, and a stopped channel discards the
data (R268). It is answered after the writes to its block that the channel issued before it (R23). -/
def execDmaReadResponse (dt : Nat) (c : Fin 64) (s : State) : Out :=
  run dt s (fun s =>
    match (s.dma c).reads with
    | [] => s
    | b :: rest =>
      if b.tag.isSome || s.dmaBehind c false b.src b.len b.ord then s
      else
        let s := s.updDma c (fun d => { d with reads := rest })
        match s.burstData c b with
        | (bytes, .ok, _, s) =>
          if s.dmaState c = 4 then s
          else
            let s := s.updDma c (fun d => { d with held := d.held ++ [{ b with data := bytes, err := false }] })
            if !isSg c && s.dmaPace c == 2 then
              s.setReg (R.DMA_TAKE c) (s.reg (R.DMA_TAKE c) + BitVec.ofNat 32 b.len)
            else s
        | (_, e, x, s) => if s.dmaState c = 4 then s else s.dmaError c e.readCode x)

/-- A descriptor whose reads have all been issued completes when its last write response has returned (R265). -/
def State.descComplete (s : State) (c desc : Nat) : State :=
  let d := s.dma c
  let same := fun (b : Burst) => b.desc == desc
  let working : Bool := match d.desc with | some x => x.addr == desc | none => false
  if working || d.reads.any same || d.held.any same || d.writes.any same then s
  else
    match d.open_.find? (fun (x : Nat × Bool) => x.1 == desc) with
    | some x =>
      let s := s.updDma c (fun d => { d with open_ := d.open_.erase x })
      s.raiseIf x.2 (R.DMA_STAT c) DMA_STAT.DESC_IRQ
    | none => s

/-- DMA_WRITE_RESPONSE: the oldest write of channel `c` is answered: its bytes count as done, its buffer space is released, and
the descriptor and the transfer may complete (R266, R269). It is answered after the reads of its block issued before it (R23). -/
def execDmaWriteResponse (dt : Nat) (c : Fin 64) (s : State) : Out :=
  runMemE dt s (fun s =>
    match (s.dma c).writes with
    | [] => .ok s
    | b :: rest =>
      if b.tag.isSome || s.dmaBehind c true b.dst b.len b.ord then .ok s
      else
        let s := s.updDma c (fun d => { d with writes := rest })
        let r : Except Fault (ReadEnd × Nat × State) :=
          if b.err then .ok (.refused, b.dst, s)
          else if s.isRemote b.dst then .ok (.ok, 0, s)
          else State.dmaWrite c (sideAccesses b.dfix b.dst b.len (s.dmaEsize c)) b.data s
        match r with
        | .error e => .error e
        | .ok (.ok, _, s) =>
          let s := s.setReg (R.DMA_DONE_BYTES c) (s.reg (R.DMA_DONE_BYTES c) + BitVec.ofNat 32 b.len)
          let s :=
            if !isSg c && s.dmaPace c == 3 then
              s.setReg (R.DMA_PUT c) (s.reg (R.DMA_PUT c) + BitVec.ofNat 32 b.len)
            else s
          let s := if isSg c then s.descComplete c b.desc else s
          .ok (if s.dmaState c = 4 then s else s.dmaSettle c)
        | .ok (e, x, s) => .ok (if s.dmaState c = 4 then s else s.dmaError c e.writeCode x))

/-! ## Descriptors (R264, R265) -/

/-- A descriptor from its words. -/
def descOf (a : Nat) (w0 w1 w2 w3 : Word) : Descriptor :=
  { addr := a, src := w0.toNat + w1.toNat % 65536 * 0x100000000, dst := w2.toNat + w1.toNat / 65536 * 0x100000000,
    len := w3.toNat % 0x1000000, ctl := w3 }

/-- A descriptor breaks a condition of R265: reserved bits, LEN, or an address. -/
def Descriptor.bad (x : Descriptor) (esize : Nat) : Bool :=
  x.ctl.toNat / 0x20000000 != 0 || x.addr % 16 != 0 ||
  x.len % esize != 0 ||
  (if x.ctl.getLsbD 28 then x.src % 16 != 0 else x.src % esize != 0 || x.dst % esize != 0)

/-- A descriptor has been read: a LINK leads on, another is worked on, and one that moves no data completes at once, with its IRQ
and LAST bits (R264). -/
def State.takeDesc (s : State) (c : Nat) (x : Descriptor) : State :=
  let s := s.showDesc c x.addr
  if x.bad (s.dmaEsize c) then s.dmaError c 5 x.addr
  else
    let link := x.ctl.getLsbD 28
    let last := x.ctl.getLsbD 24
    let n := if link then 0 else x.len
    let s := s.updDma c (fun d => { d with
      visited := d.visited ++ [x.addr]
      descNext := if last then none else some (if link then x.src else x.addr + 16)
      desc := if n = 0 then none else some x
      left := n, next := 0
      open_ := d.open_ ++ [(x.addr, x.ctl.getLsbD 25)] })
    if n ≠ 0 then s
    else
      let s := s.descComplete c x.addr
      -- a LINK that leads on ends no request
      if link && !last then s else s.dmaSettle c

/-- DMA_DESCRIPTOR_READ: channel `c` reads its next descriptor, which it may once every read of the one before is issued (R265), and after
the writes to that block it has issued (R23); with PACE = 1 only the one its request runs (R261). A list that has come back to a
descriptor it passed is the undefined case of R14. -/
def execDmaDescriptorRead (dt : Nat) (c : Fin 64) (s : State) : Out :=
  runE dt s (fun s =>
    let d := s.dma c
    let ready := isSg c && s.dmaState c == 2 && d.left == 0 && d.desc.isNone && (s.dmaPace c == 0 || d.open_ == [])
    match d.descRead, d.descNext with
    | some b, _ =>
      -- the answer of a descriptor that lies outside the device
      if b.tag.isSome then .ok s
      else
        let s := s.updDma c (fun d => { d with descRead := none })
        if s.dmaState c = 4 ∨ s.dmaState c = 3 then .ok (if s.dmaState c = 3 then s.dmaSettle c else s)
        else if b.err ∨ b.data.length ≠ 16 then .ok (s.dmaError c 1 b.src)
        else .ok (s.takeDesc c (descOf b.src (wordAt b.data 0) (wordAt b.data 4) (wordAt b.data 8) (wordAt b.data 12)))
    | none, none => .ok s
    | none, some a =>
      if !ready || s.dmaBehind c false a 16 d.issued then .ok s
      else if d.visited.contains a then .error (.listLoop c)
      else if a % 16 ≠ 0 then .ok ((s.showDesc c a).dmaError c 5 a)
      else if s.isRemote a then
        if s.outboundOk a then
          let (b, s) := s.dmaOrder c { src := a, dst := 0, len := 16, sfix := false, dfix := false, desc := a }
          let (b, s) := s.issueRead c b
          .ok (s.updDma c (fun d => { d with descRead := some b }))
        else .ok s
      else
        match State.busReadWords (s.dmaAccess c 4) 4 a s with
        | ([w0, w1, w2, w3], .ok, s) => .ok (s.takeDesc c (descOf a w0 w1 w2 w3))
        | (_, e, s) => .ok ((s.showDesc c a).dmaError c e.readCode a))

end Sys2Proof.Machine
end

