-- ==== Sys2Proof/Machine/Load.lean ====
section
/-! DEFINITION. LOAD (R333, R345, R346, R355 to R361): its start, the choice of a slot, the sections and settings, and the mode
entry instant E. Log entries 85, 87, 88 and 94 give what the manual leaves to the model. -/

namespace Sys2Proof.Machine

open Sys2Proof

/-! ## Start and fill (R273, R345, R357, R358) -/

/-- A register word of the loop memories, regions 11 to 18 (R271). -/
def loopKey (k : Nat) : Bool := 0x50000000 ≤ k && k < 0x50800000 && 0x80000 ≤ k % 0x100000

/-- LOAD fills regions 0 to 8 and 19 (R273). -/
def State.fillSystem (s : State) : State :=
  let kept := fun (a : Nat) => match regionOf a with | some r => decide (9 ≤ r ∧ r ≤ 18) | none => true
  { s with
    mem := s.mem.filter (fun e => kept e.1)
    ecc := s.ecc.filter (fun e => kept e.1)
    pageErr := [] }

/-- LOAD fills regions 0 to 19 (R273). -/
def State.fillAll (s : State) : State :=
  { s with
    mem := []
    ecc := []
    pageErr := []
    regs := s.regs.filter (fun e => !loopKey e.1)
    ch := { s.ch with engines := s.ch.engines.map (fun e => (e.1, { e.2 with w := [], acc := 0, accLo := none })) }
    rt := { s.rt with signals := [] } }

/-- The OTP is read: its uncorrectable words set OTP_UE and are reported (R357). -/
def State.readOtp (s : State) (otp : Otp) : State :=
  -- after R385 the shadow stays clear until the next power-on
  let s := if s.flag R.TS_SEC TS_SEC.CLEARED then s else { s with md := { s.md with otp := otp } }
  forAll otp.bad s (fun s i => (s.setF R.LOAD_STAT LOAD_STAT.OTP_UE 1).report 0x188 0x0082 clsUncorr (BitVec.ofNat 32 i))

/-- LOAD's read command from a flash address (R418); the rules give it no length. -/
def State.loadRead (s : State) (x : Nat) : XspiOp := { code := s.md.otp.rdCode, addr := some x, dummy := s.md.otp.rdDummy }

/-- LOAD issues commands to the flash. -/
def State.issueFlash (s : State) (l : List XspiOp) : State := { s with io := { s.io with loadCmds := s.io.loadCmds ++ l } }

/-- The flash address at which slot `b` begins (R350). -/
def State.slotAt (s : State) (b : Nat) : Nat := if b = 0 then 0 else s.slotBBase

/-- Before its first read LOAD issues the enable sequence, if OTP holds one; then it reads both headers (R356, R418). -/
def State.openFlash (s : State) : State :=
  let o := s.md.otp
  let en : List XspiOp := match o.enable with | some bytes => [{ kind := 1, len := bytes.length, out := bytes, single := true }] | none => []
  ({ s with io := { s.io with loadCmds := [] } }).issueFlash (en ++ [s.loadRead (s.slotAt 0), s.loadRead (s.slotAt 1)])

/-- LOAD_START: the reset source has ended and LOAD begins; after a power-on it reads the OTP (R345, R358). -/
def execLoadStart (dt : Nat) (otp : Otp) (s : State) : Out :=
  runMem dt s (fun s =>
    if s.md.inReset = true ∧ s.md.loadStep = 0 ∧ s.md.refBad = false then
      let k := R.LOAD_STAT
      let s := { s with md := { s.md with loadStep := 1, slotA := {}, slotB := {}, chosen := 0 } }
      let s := ((s.setF k LOAD_STAT.DONE 0).setF k LOAD_STAT.SEQ_MISMATCH 0).setF k LOAD_STAT.FALLBACK 0
      (if s.md.powerOn then s.fillAll.readOtp otp else s.fillSystem).openFlash
    else s)

/-! ## The choice of a slot (R355, R356, R361) -/

/-- The slot `b` names: 0 A, 1 B. -/
def State.slotInfo (s : State) (b : Nat) : SlotInfo := if b = 0 then s.md.slotA else s.md.slotB

/-- Slot `b` ends LOAD's checks with an error code, or none: LOAD_STAT shows it, and an invalid slot is reported (R355). -/
def State.slotVerdict (s : State) (b err : Nat) : State :=
  let s := s.setF R.LOAD_STAT (if b = 0 then LOAD_STAT.ERR_A else LOAD_STAT.ERR_B) err
  if err = 0 then s else s.info 0x188 0x0081 (BitVec.ofNat 32 (err * 256 + b))

/-- The slot chosen from those that pass checks 1 to 8, and whether LIVE_SEQ was looked for in vain (R356). -/
def State.chooseSlot (s : State) : Option Nat × Bool :=
  let a := s.md.slotA
  let b := s.md.slotB
  let okA := a.err == 0
  let okB := b.err == 0
  let best : Option Nat :=
    if okA && okB then some (if newer (imgSeq b.bytes) (imgSeq a.bytes) then 1 else 0)
    else if okA then some 0
    else if okB then some 1
    else none
  if s.md.powerOn then (best, false)
  else
    let live := (s.reg R.LIVE_SEQ).toNat
    if okA && imgSeq a.bytes == live then (some 0, false)
    else if okB && imgSeq b.bytes == live then (some 1, false)
    else (best, best.isSome)

/-- The mode R333 chooses if nothing asks for HOLD. -/
def State.entryModeBut (s : State) : Nat :=
  let prev := s.fld R.MODE_STAT MODE_STAT.PREV
  let start := imgStart s.md.header == 1
  if s.md.powerOn = false ∧ prev = mCommission then mCommission
  else if start = true ∧ (s.md.powerOn = true ∨ prev = mLoad ∨ prev = mPark) then mCommission
  else s.runOrLimp

/-- The mode R333 asks for HOLD. -/
def State.entryHold (s : State) : Bool :=
  s.md.holdInLoad || (!s.md.powerOn && s.fld R.MODE_STAT MODE_STAT.PREV == mHold) || s.md.safeLow ||
  ((s.reg R.TALLY_SAFE).toNat &&& s.fld R.MODE_CFG MODE_CFG.HOLD_MASK) != 0

/-- LOAD ends in HOLD (R332, R333): HOLD_FROM takes the mode that would have been chosen, but for a reset in HOLD. -/
def State.loadToHold (s : State) : State :=
  let s := if s.md.powerOn = false ∧ s.fld R.MODE_STAT MODE_STAT.PREV = mHold then s
    else s.setF R.MODE_STAT MODE_STAT.HOLD_FROM s.entryModeBut
  (s.setMode mHold).allModeCause

/-- No slot is valid (R361): after a power-on the mode stays LOAD, after a system reset LOAD ends in HOLD; the cores stay in
reset. -/
def State.noImage (s : State) : State :=
  let s := (s.setF R.LOAD_STAT LOAD_STAT.NOIMG 1)
  if s.md.powerOn then { s with md := { s.md with loadStep := 4 } }
  else
    let s := s.setF R.MODE_STAT MODE_STAT.HOLD_SRC (s.fld R.MODE_STAT MODE_STAT.HOLD_SRC ||| 64)
    let s := s.loadToHold
    { s with md := { s.md with loadStep := 4, firstLoad := false, inReset := false } }.scrubRestart

/-- LOAD_SLOT_CHECK: the header and table of both slots are judged by checks 1 to 8 and a slot is chosen (R355, R356). -/
def execLoadSlotCheck (dt : Nat) (slotA slotB : List (List Byte)) (s : State) : Out :=
  run dt s (fun s =>
    if s.md.loadStep = 1 ∧ (s.md.powerOn = false ∨ s.flag R.TB_STAT TB_STAT.CAL_OK = true) then
      let a := s.judgeSlot slotA
      let b := s.judgeSlot slotB
      let s := { s with md := { s.md with slotA := a, slotB := b } }
      let s := (s.slotVerdict 0 a.err).slotVerdict 1 b.err
      match s.chooseSlot with
      | (none, _) => s.noImage
      | (some n, miss) =>
        let s := if miss then
            (s.setF R.LOAD_STAT LOAD_STAT.SEQ_MISMATCH 1).info 0x188 0x0084 (s.reg R.LIVE_SEQ)
          else s
        ({ s with md := { s.md with loadStep := 2, chosen := n } }).issueFlash [s.loadRead (s.slotAt n)]
    else s)

/-! ## Sections and settings (R354, R358, R359) -/

/-- The system address at which a CODE or DATA section begins. -/
def Section.place (x : Section) : Nat := if x.typ = 2 ∧ x.target = 7 then x.dest else privBase x.target + x.dest

/-- The bytes of a CODE or DATA section are written as they arrive. -/
def State.loadSection (s : State) (x : Section) (bytes : List Byte) : State :=
  if x.typ = 1 ∨ x.typ = 2 then writeBytes bytes.length x.place bytes s else s

/-- The sections are read in table order up to the first codeword that is uncorrectable: whether none is, and what has been written
(R355, R358). -/
def State.loadSections (cws : List (List Byte)) (hdr : List Byte) : List Section → State → Bool × State
  | [], s => (true, s)
  | x :: l, s =>
    let r := sectionRead cws hdr x
    let s := s.loadSection x r.1
    if r.2 then State.loadSections cws hdr l s else (false, s)

/-- An address a SETTINGS entry may carry: word-aligned and inside some range of the local map (R31, R355). -/
def settingOk (addr : Nat) : Bool :=
  addr % 4 == 0 &&
  (addr < 0x80000 || (0x100000 ≤ addr && addr < 0x120000) || sharedMapped addr || 0x80000000 ≤ addr)

/-- The SETTINGS entries of an image in order: address and value. -/
def imgSettings (img : List Byte) : List (Nat × Word) :=
  ((imgTable img).filter (fun x => x.typ == 0x10)).flatMap (fun x =>
    (List.range (x.len / 8)).map (fun i => (leNat img (x.ofs + 8 * i) 4, BitVec.ofNat 32 (leNat img (x.ofs + 8 * i + 4) 4))))

/-- A SETTINGS entry takes effect at an address of this device (R358, R359), unless that lies in the C domain and a system reset has begun
LOAD (R26): an ST-typed word goes into its active copy, unless a lock covers it (R4), and one with a reserved bit set is a bad write (R7);
anything else is a write. -/
def State.applyAt (s : State) (a : Access) (k : Nat) (v : Word) : State :=
  if s.md.powerOn = false ∧ channelDomain k = true then s
  else if (stepWordAt k).isSome then s.activate k v s.now
  else if tyMask k .st ≠ 0 then
    (wordWrite a k v s (fun v s => okWr ((if s.locked k then s else (s.stageClean k true).activate k v s.now).fieldWrite k v))).1
  else (deviceWrite a k v s).1

/-- A SETTINGS entry at an address that each core has for itself (private memory, core-local blocks, the window of R35): a write in
the local map of some core, or of none; the rules name no core (log entry 94). -/
def State.applyLocal (s : State) (k : Nat) (v : Word) : State :=
  match Config.settingsCore k with
  | none => s
  | some p =>
    match s.route (s.localToSystem p k) with
    | .device y => s.applyAt { loadAccess with master := p } y v
    | _ => s

/-- One SETTINGS entry is applied (R358, R359). -/
def State.applySetting (s : State) (k : Nat) (v : Word) : State :=
  if sharedMapped k = false ∨ coreLocal k = true then s.applyLocal k v else s.applyAt loadAccess k v

/-- The factory trims of the OTP become active (R50). -/
def State.applyTrims (s : State) : State :=
  let o := s.md.otp
  let put := fun (key : Nat → Nat → Nat) (s : State) (e : Nat × Option Word) =>
    match e.2 with
    | some v => s.activate (key (e.1 / 8) (e.1 % 8)) v s.now
    | none => s
  let s := forAll o.chOfs s (put R.CH_CAL_OFS)
  let s := forAll o.chGain s (put R.CH_CAL_GAIN)
  let s := forAll o.sbyOfs s (put R.FACE_SBY_CAL_OFS)
  forAll o.sbyGain s (put R.FACE_SBY_CAL_GAIN)

/-- MODE_CFG and MODE_REDIR take the header's fields (R351, R358). -/
def State.loadModeCfg (s : State) : State :=
  let h := s.md.header
  let s := s.setReg R.MODE_CFG (BitVec.ofNat 32
    (leNat h 0x18 1 + 256 * leNat h 0x19 1 + 65536 * (if imgStart h = 1 then 1 else 0)))
  s.setReg R.MODE_REDIR (wordAt h 0x3C &&& 0x7777)

/-- The settings that have become active at once act on every block, as an apply instant lets them (R359). -/
def State.settingsActive (s o : State) : State :=
  let x := s.now
  let staged := fun (k : Nat) =>
    s.reg k != o.reg k && (match regAt k with | some (r, _) => r.name != .CH_PWM_CMP | none => true)
  let s := forAll (List.range 128) s (fun s n => s.channelApplied o n x staged)
  let s := forAll (List.range 128) s (fun s n => s.protApplied o n s.now)
  (s.refreshAll).angleApplied o staged s.now

/-- The settings of the image loaded are applied (R358 step 4). -/
def State.applySettings (s : State) (img : List Byte) : State :=
  let o := s
  let s := { s with md := { s.md with header := slice img 0 256 } }
  let s := if s.md.powerOn then s.applyTrims else s
  let s := forAll (imgSettings img) s (fun s e => s.applySetting e.1 e.2)
  let s := s.loadModeCfg
  if s.md.powerOn then (s.settingsActive o).memoryOf s else s

/-- The chosen slot `b` is loaded: the error code of its later checks, or 0 (R355, R358). Sections are written as they arrive, also those
before an uncorrectable codeword; a bad SETTINGS address is found before any entry is applied. -/
def State.loadSlot (s : State) (b : Nat) (cws : List (List Byte)) : Nat × State :=
  let hdr := (s.slotInfo b).bytes
  let img := imageBytes cws hdr
  match State.loadSections cws hdr (imgTable img) s with
  | (false, s) => (2, s)
  | (true, s) =>
    if (imgTable img).any (fun x => sha256 (slice img x.ofs x.len) != x.digest) then (9, s)
    else if (imgSettings img).any (fun e => !settingOk e.1) then (10, s)
    else
      let s := s.applySettings img
      if s.md.powerOn ∧ (failingRule s s false).1 ≠ 0 then (11, s) else (0, s)

/-- The fields of a C-domain register that present a condition which holds whatever registers hold: that of the time base, the
references of the faces, the level of a fault pin, and what the shaft link has found (log entry 88). -/
def presentedMask (k : Nat) : Word :=
  match regAt (k % 0x100000000) with
  | some (r, _) =>
    match r.name with
    | .TB_STAT => TB_STAT.REF_SRC.mask ||| TB_STAT.CASC_LOCK.mask ||| TB_STAT.HOLDOVER.mask ||| TB_STAT.CAL_OK.mask
    | .CNY_STAT => CNY_STAT.VREF_FAULT.mask
    | .SHL_PORT => tyMask k .ro &&& ~~~SHL_PORT.PART_CNT.mask
    | .FACE_VREF_STAT | .SHL_STAT | .SHL_PDLY => tyMask k .ro
    | .CH_PROT_STAT => CH_PROT_STAT.FLT_IN.mask
    | _ => 0
  | none => 0

/-- What a channel holds of its pins: the recognised level of the fault input, and the input of its comparators. -/
def Channel.pinsOnly (c : Channel) : Channel :=
  { fltLow := c.fltLow, cmpA := { x := c.cmpA.x }, cmpB := { x := c.cmpB.x } }

/-- Every C-domain register returns to its reset value (R356), with everything the channel domain holds beside its registers; what
presents a condition outside the image stays. -/
def State.resetChannelDomain (s : State) : State :=
  let isC := fun (k : Nat) => match regAt (k % 0x100000000) with | some (r, _) => r.dom == .C | none => false
  let o := s
  let s := { s with
    ch := {}
    rt := { gev := s.rt.gev, gevLast := s.rt.gevLast }
    tb := { s.tb with adjRem := 0, vtHeld := none, taHeld := [], timeHi := [], vtimeHi := [], angHi := [] }
    io := { s.io with spis := [] }
    hwSet := s.hwSet.filter (fun e => !isC e.1)
    undef := s.undef.filter (fun e => !isC e.1) }
  let s := forAll channels s (fun s n => s.setChan n (o.chan n).pinsOnly)
  (forAll ((s.regs.filter (fun e => isC e.1)).map (fun e => e.1)) s (fun s k =>
    let rst : Word := match regAt (k % 0x100000000) with | some (r, idx) => r.resetWord idx | none => 0
    s.put k ((rst &&& ~~~(presentedMask k)) ||| (s.reg k &&& presentedMask k)))).showRate

/-- LOAD falls back to the other slot (R356). -/
def State.fallBack (s : State) : State :=
  let s := if s.md.powerOn then s.resetChannelDomain.fillAll else s
  s.setF R.LOAD_STAT LOAD_STAT.FALLBACK 1

/-- DEP_STAT.STATE of a lockstep pair of whose copies some have been fenced: the other one runs alone, or none does (R243). -/
def State.fencedState (s : State) : Nat :=
  match s.flag R.DEP_STAT DEP_STAT.FENCED_A, s.flag R.DEP_STAT DEP_STAT.FENCED_B with
  | true, true => 6
  | true, false => 4
  | false, true => 3
  | false, false => 0

/-- DEP_STAT.MODE and STATE when LOAD has read DEPUTY (R237, R243; log entry 87): a fence and a halt of both copies stay. -/
def State.loadDeputy (s : State) : State :=
  let split := imgSplit s.md.header
  let k := R.DEP_STAT
  let st := s.fld k DEP_STAT.STATE
  let s := s.setF k DEP_STAT.MODE (if split then 1 else 0)
  if st = 6 ∨ (split = true ∧ (st = 3 ∨ st = 4)) then s else s.setF k DEP_STAT.STATE (if split then 5 else s.fencedState)

/-- Slot `b` is loaded in full. -/
def State.slotLoaded (s : State) (b : Nat) : State :=
  let s := s.slotVerdict b 0
  let s := if (s.slotInfo (1 - b)).err = 0 ∧
      s.fld R.LOAD_STAT (if b = 0 then LOAD_STAT.ERR_B else LOAD_STAT.ERR_A) = 0 then s.slotVerdict (1 - b) 12 else s
  let s := (s.setF R.LOAD_STAT LOAD_STAT.NOIMG 0).loadDeputy
  { s with md := { s.md with loadStep := 3, chosen := b, gevLive := true } }

/-- LOAD_SECTIONS_DONE: every section of the chosen slot has been read and checked and its settings applied; a slot that fails
is replaced by the other one (R355 to R359, R361). -/
def execLoadSectionsDone (dt : Nat) (slotA slotB : List (List Byte)) (s : State) : Out :=
  runMem dt s (fun s =>
    if s.md.loadStep = 2 then
      let cws := fun (b : Nat) => if b = 0 then slotA else slotB
      let b := s.md.chosen
      match s.loadSlot b (cws b) with
      | (0, s) => s.slotLoaded b
      | (e, s) =>
        let s := s.slotVerdict b e
        let c := 1 - b
        if (s.slotInfo c).err = 0 then
          match (s.fallBack.issueFlash [s.loadRead (s.slotAt c)]).loadSlot c (cws c) with
          | (0, s) => s.slotLoaded c
          | (e, s) => (s.slotVerdict c e).noImage
        else s.noImage
    else s)

/-! ## The mode entry instant E (R333, R348, R358, R359) -/

/-- Every face's reference is ready. -/
def State.vrefReady (s : State) : Bool := (List.range 8).all (fun f => s.flag (R.FACE_VREF_STAT f) FACE_VREF_STAT.READY)

/-- After a power-on, every group whose EN is 1 has its first boundary at E and every live duty operand is loaded (R359). -/
def State.startGroups (s : State) : State :=
  let s := forAll (List.range 128) s (fun s n => s.setReg (R.CH_DUTY_LIVE n) (s.reg (R.CH_PWM_CMP n)))
  forAll (List.range 32) s (fun s g =>
    if s.flag (R.FACE_CG_CFG g) FACE_CG_CFG.EN then
      ((s.noteGate (runKey g) s.now).setF (R.FACE_CG_STAT g) FACE_CG_STAT.RUN 1).updGroup g (fun q => { q with start := s.now, len := 0, cCur := 0 })
    else s)

/-- After a power-on, free-running conversions of stopped groups begin at E (R44). -/
def State.startConverters (s : State) : State :=
  forAll (List.range 128) s (fun s n => if s.groupRuns (s.cgOf n) then s else s.freeRestart n s.now)

/-- MODE_ENTRY: at E the mode of R333 is entered, groups and cores start, and the watchdog starts (R333, R348, R358, R359). -/
def execModeEntry (dt : Nat) (s : State) : Out :=
  run dt s (fun s =>
    if s.md.loadStep = 3 ∧ s.vrefReady = true then
      let b := s.md.chosen
      let k := R.LOAD_STAT
      let s := if s.md.powerOn then
          (s.startGroups.startConverters).setReg R.LIVE_SEQ (BitVec.ofNat 32 (imgSeq s.md.header))
        else s
      let s := ((s.setF k LOAD_STAT.SLOT b).setF k LOAD_STAT.LIVE_SLOT b).setF k LOAD_STAT.DONE 1
      let s := if s.entryHold then s.loadToHold else s.setMode s.entryModeBut
      let s := forAll ((List.range 7).filter s.hasCore) s (fun s p => s.updCore p (fun c => { c with starting := true }))
      let s := { s with md := { s.md with
        loadStep := 4, powerOn := false, firstLoad := false, inReset := false, holdInLoad := false
        wdFrom := if s.wdogMs = 0 then none else some s.now } }
      s.refreshAll.scrubRestart
    else s)

end Sys2Proof.Machine
end

