-- ==== Sys2Proof/Machine/LoopSteps.lean ====
section
/-! DEFINITION. The steps of a loop program (R86 to R104). A row acts when the run of its engine stands at a step of its operation,
and the run then moves on. -/

namespace Sys2Proof.Machine

open Sys2Proof

/-- The face whose tables and transform units engine `e` uses (R95): that of its channel. -/
def State.engFace (s : State) (e : Nat) : Nat := s.engChan e / 16

/-- The engine owns a transform unit of its face (R95, R97). -/
def State.ownsUnit (s : State) (e : Nat) : Bool :=
  let k := R.FACE_XU_CFG (s.engFace e)
  let c := s.engChan e % 16
  s.fld k FACE_XU_CFG.OWNER0 == c || s.fld k FACE_XU_CFG.OWNER1 == c

/-! ## What a step reads of the engine's own state -/

/-- The engine-state words a source names (R82, R108). -/
def sourceWords (code : Nat) : List Nat :=
  if 16 ≤ code ∧ code < 24 then [4 * (code - 16)] else if code = 33 then [0x20, 0x24] else []

/-- The operations that read source A, source B, the value held in the destination, and ACC (R86). -/
def readsA (op : Nat) : Bool := (0x02 ≤ op && op ≤ 0x12 && op != 0x0F) || (0x14 ≤ op && op ≤ 0x1C)
def readsB (op : Nat) : Bool := [0x03, 0x04, 0x07, 0x08, 0x09, 0x0C, 0x0D, 0x0E, 0x12, 0x19, 0x1A, 0x1B, 0x1C].contains op
def readsAcc (op : Nat) : Bool := [0x0D, 0x0E, 0x10, 0x12, 0x13].contains op

/-- The working registers a transform function reads (R98). -/
def xfmReads (fn : Nat) : Nat :=
  match fn with
  | 0 => 3
  | 4 => 3
  | 7 => 0
  | _ => 2

/-- The words of its own state that engine `e` reads in a step. -/
def State.stepReads (s : State) (e : Nat) (st : LoopStep) : List Nat :=
  let a := if readsA st.op then sourceWords st.sa else []
  let b := if readsB st.op then sourceWords st.sb else []
  let held := if st.op = 0x09 then (if st.dst < 8 then [4 * st.dst] else if st.dst = 9 then [0x20, 0x24] else []) else []
  let acc := if readsAcc st.op then [0x20, 0x24] else []
  if st.op = 0x15 then
    if s.ownsUnit e then a ++ (List.range (xfmReads (st.aux % 8))).map (fun i => 4 * i) else []
  else a ++ b ++ held ++ acc

/-- Engine `e` reads the words of its own state that the step needs (R276, R278). -/
def State.readWords (s : State) (e : Nat) (st : LoopStep) : State :=
  forAll (s.stepReads e st) s (fun s o => s.readWork e o)

/-- Execute the step of engine `e` if the run stands at one that satisfies `is`: its effect, then the move by `k` steps. -/
def State.atStep (s : State) (e : Nat) (is : LoopStep → Bool) (f : State → Run → LoopStep → State × Nat) : State :=
  match (s.eng e).run with
  | some r =>
    if is r.step then
      let (s, k) := f (s.readWords e r.step) r r.step
      s.nextStep e k
    else s
  | none => s

/-- A step of operation `op` whose effect leads to the next step. -/
def State.plainStep (s : State) (e op : Nat) (f : State → Run → LoopStep → State) : State :=
  s.atStep e (fun st => st.op == op) (fun s r st => (f s r st, 1))

/-- A step with source A that writes a result of A and `D` (saturated). -/
def State.unary (s : State) (e op : Nat) (f : LoopStep → Int → Int) : State :=
  s.plainStep e op (fun s r st =>
    let (a, s) := s.srcA e r st
    s.destSat e st (f st (sval a)))

/-- A step with sources A and B that writes a saturated result. -/
def State.binary (s : State) (e op : Nat) (f : LoopStep → Int → Int → Int) : State :=
  s.plainStep e op (fun s r st =>
    let (a, s) := s.srcA e r st
    let (b, s) := s.srcB e r st
    s.destSat e st (f st (sval a) (sval b)))

/-- A bitwise step. -/
def State.bitwise (s : State) (e op : Nat) (f : Word → Word → Word) : State :=
  s.plainStep e op (fun s r st =>
    let (a, s) := s.srcA e r st
    let (b, s) := s.srcB e r st
    s.dest e st (f a b))

/-- NOP. -/
def execStNop (dt : Nat) (e : Fin 136) (s : State) : Out :=
  run dt s (fun s => s.plainStep e 0x00 (fun s _ _ => s))

/-- END: the run ends (R78). -/
def execStEnd (dt : Nat) (e : Fin 136) (s : State) : Out :=
  run dt s (fun s =>
    match (s.eng e).run with
    | some r => if r.step.op = 0x01 then s.endRun e else s
    | none => s)

/-- MOV. -/
def execStMov (dt : Nat) (e : Fin 136) (s : State) : Out :=
  run dt s (fun s => s.unary e 0x02 (fun _ a => a))

/-- ADD. -/
def execStAdd (dt : Nat) (e : Fin 136) (s : State) : Out :=
  run dt s (fun s => s.binary e 0x03 (fun _ a b => a + b))

/-- SUB. -/
def execStSub (dt : Nat) (e : Fin 136) (s : State) : Out :=
  run dt s (fun s => s.binary e 0x04 (fun _ a b => a - b))

/-- NEG. -/
def execStNeg (dt : Nat) (e : Fin 136) (s : State) : Out :=
  run dt s (fun s => s.unary e 0x05 (fun _ a => -a))

/-- ABS. -/
def execStAbs (dt : Nat) (e : Fin 136) (s : State) : Out :=
  run dt s (fun s => s.unary e 0x06 (fun _ a => if a < 0 then -a else a))

/-- MIN. -/
def execStMin (dt : Nat) (e : Fin 136) (s : State) : Out :=
  run dt s (fun s => s.binary e 0x07 (fun _ a b => if a ≤ b then a else b))

/-- MAX. -/
def execStMax (dt : Nat) (e : Fin 136) (s : State) : Out :=
  run dt s (fun s => s.binary e 0x08 (fun _ a b => if a ≤ b then b else a))

/-- min(max(d, a), b). -/
def limitTo (d a b : Int) : Int :=
  let m := if d < a then a else d
  if b < m then b else m

/-- LIM. -/
def execStLim (dt : Nat) (e : Fin 136) (s : State) : Out :=
  run dt s (fun s => s.plainStep e 0x09 (fun s r st =>
    let d := s.destOld e st
    let (a, s) := s.srcA e r st
    let (b, s) := s.srcB e r st
    s.destSat e st (limitTo d (sval a) (sval b))))

/-- SHL. -/
def execStShl (dt : Nat) (e : Fin 136) (s : State) : Out :=
  run dt s (fun s => s.unary e 0x0A (fun st a => a * 2 ^ st.sh))

/-- SHR. -/
def execStShr (dt : Nat) (e : Fin 136) (s : State) : Out :=
  run dt s (fun s => s.unary e 0x0B (fun st a => roundShift a st.sh))

/-- MUL. -/
def execStMul (dt : Nat) (e : Fin 136) (s : State) : Out :=
  run dt s (fun s => s.binary e 0x0C (fun st a b => roundShift (a * b) (31 - st.sh)))

/-- MAC and MSU: the product joins ACC, and the destination, if there is one, takes ACC limited to 32 bits. -/
def State.macStep (s : State) (e op : Nat) (sign : Int) : State :=
  s.plainStep e op (fun s r st =>
    let (a, s) := s.srcA e r st
    let (b, s) := s.srcB e r st
    let s := s.accSat e ((s.eng e).acc + sign * roundShift (sval a * sval b) (31 - st.sh))
    if st.dst ≤ 7 ∨ st.dst = 9 then s.destSat e st (s.eng e).acc else s)

/-- MAC. -/
def execStMac (dt : Nat) (e : Fin 136) (s : State) : Out := run dt s (fun s => s.macStep e 0x0D 1)

/-- MSU. -/
def execStMsu (dt : Nat) (e : Fin 136) (s : State) : Out := run dt s (fun s => s.macStep e 0x0E (-1))

/-- ACLR. -/
def execStAclr (dt : Nat) (e : Fin 136) (s : State) : Out :=
  run dt s (fun s => s.plainStep e 0x0F (fun s _ _ => s.setAcc e 0))

/-- ACCA. -/
def execStAcca (dt : Nat) (e : Fin 136) (s : State) : Out :=
  run dt s (fun s => s.plainStep e 0x10 (fun s r st =>
    let (a, s) := s.srcA e r st
    s.accSat e ((s.eng e).acc + sval a * 2 ^ st.sh)))

/-- ACCL. -/
def execStAccl (dt : Nat) (e : Fin 136) (s : State) : Out :=
  run dt s (fun s => s.plainStep e 0x11 (fun s r st =>
    let (a, s) := s.srcA e r st
    s.accSat e (sval a * 2 ^ st.sh)))

/-- ACLM. -/
def execStAclm (dt : Nat) (e : Fin 136) (s : State) : Out :=
  run dt s (fun s => s.plainStep e 0x12 (fun s r st =>
    let (a, s) := s.srcA e r st
    let (b, s) := s.srcB e r st
    s.setAcc e (limitTo (s.eng e).acc (sval a) (sval b))))

/-- RDA. -/
def execStRda (dt : Nat) (e : Fin 136) (s : State) : Out :=
  run dt s (fun s => s.plainStep e 0x13 (fun s _ st => s.destSat e st (roundShift (s.eng e).acc st.sh)))

/-! ## Tables and transforms -/

/-- TBL: the table read at index A by interpolation (R104). -/
def execStTbl (dt : Nat) (e : Fin 136) (s : State) : Out :=
  run dt s (fun s => s.plainStep e 0x14 (fun s r st =>
    let (a, s) := s.srcA e r st
    let f := s.engFace e
    let bl := AMap.get 2 r.banks st.aux
    let k := 31 - bl / 2
    let u := if sval a < 0 then 0 else a.toNat
    let i := u / 2 ^ k
    let fr := u % 2 ^ k
    let a0 := tableAddr f st.aux (bl % 2) i
    let a1 := tableAddr f st.aux (bl % 2) (i + 1)
    let (t0, ok0, s) := s.deliver a0 (s.reg a0)
    let (t1, ok1, s) := s.deliver a1 (s.reg a1)
    if ok0 && ok1 then s.destSat e st (sval t0 + roundShift ((sval t1 - sval t0) * fr) k)
    else (s.leRaise e LE_STAT.MEMERR).dest e st 0x7FFFFFFF#32))

/-- Results of a transform, exact, in units of 2^-64, to W0 on: rounded within the bound of R99, then saturated (R84, R98). A
duty of SVPWM is limited at 0 without saturation. -/
def State.transformTo (s : State) (e : Nat) (key : Nat) (duty : Bool) : Nat → List Int → State
  | _, [] => s
  | i, x :: rest =>
    let v := nearQ31 x (key * 4 + i)
    let v := if duty ∧ v < 0 then 0 else v
    let (y, c) := sat32 v
    ((s.leRaiseIf c e LE_STAT.SAT).setW e i (wordOf y)).transformTo e key duty (i + 1) rest

/-- In a shadow state the unit serves the engine whose commits take effect first: the other waits while that one has not passed the
step (R97). -/
def State.xfmWaits (s : State) (e : Nat) : Bool :=
  let n := s.engChan e
  let o := s.effEngine n
  (s.sprIn n 1 || s.sprIn n 3) && e != o &&
    (match (s.eng e).run, (s.eng o).run with
     | some r, some r' => r.pair && decide (r'.pc ≤ r.pc)
     | _, _ => false)

/-- An XFM step of function `fn`: refused without a unit, else `f` of the angle and W0 to W2 (R97, R98). -/
def State.xfm (s : State) (e fn : Nat) (f : Nat → Int → Int → Int → List Int) : State :=
  if s.xfmWaits e then s
  else s.atStep e (fun st => st.op == 0x15 && st.aux % 8 == fn) (fun s r st =>
    if s.ownsUnit e then
      let (a, s) := s.srcA e r st
      let w := fun i => s.wreg e i
      let key := errorKey [fn, a.toNat, (w 0).toNat, (w 1).toNat, (w 2).toNat]
      let x := f a.toNat (q31 (sval (w 0))) (q31 (sval (w 1))) (q31 (sval (w 2)))
      (s.transformTo e key (fn == 6) 0 x, 1)
    else (s.leRaise e LE_STAT.XFM_REJ, 1))

/-- CLARKE. -/
def execStClarke (dt : Nat) (e : Fin 136) (s : State) : Out :=
  run dt s (fun s => s.xfm e 0 (fun _ a b c => let (x, y, z) := clarke a b c; [x, y, z]))

/-- PARK. -/
def execStPark (dt : Nat) (e : Fin 136) (s : State) : Out :=
  run dt s (fun s => s.xfm e 1 (fun th a b _ => let (d, q) := park th a b; [d, q]))

/-- IPARK. -/
def execStIpark (dt : Nat) (e : Fin 136) (s : State) : Out :=
  run dt s (fun s => s.xfm e 2 (fun th d q _ => let (a, b) := ipark th d q; [a, b]))

/-- ICLARKE. -/
def execStIclarke (dt : Nat) (e : Fin 136) (s : State) : Out :=
  run dt s (fun s => s.xfm e 3 (fun _ a b _ => let (x, y, z) := iclarke a b; [x, y, z]))

/-- FWD: CLARKE, then PARK. -/
def execStFwd (dt : Nat) (e : Fin 136) (s : State) : Out :=
  run dt s (fun s => s.xfm e 4 (fun th a b c =>
    let (x, y, z) := clarke a b c
    let (d, q) := park th x y
    [d, q, z]))

/-- INV: IPARK, then ICLARKE. -/
def execStInv (dt : Nat) (e : Fin 136) (s : State) : Out :=
  run dt s (fun s => s.xfm e 5 (fun th d q _ =>
    let (x, y) := ipark th d q
    let (a, b, c) := iclarke x y
    [a, b, c]))

/-- The larger and the smaller of two numbers. -/
def maxI (a b : Int) : Int := if a < b then b else a
def minI (a b : Int) : Int := if a < b then a else b

/-- SVPWM: INV with the common part taken off, as duties. -/
def execStSvpwm (dt : Nat) (e : Fin 136) (s : State) : Out :=
  run dt s (fun s => s.xfm e 6 (fun th d q _ =>
    let (x, y) := ipark th d q
    let (a, b, c) := iclarke x y
    let h := (maxI a (maxI b c) + minI a (minI b c)) / 2
    [2 ^ 63 + a - h, 2 ^ 63 + b - h, 2 ^ 63 + c - h]))

/-- SINCOS. -/
def execStSincos (dt : Nat) (e : Fin 136) (s : State) : Out :=
  run dt s (fun s => s.xfm e 7 (fun th _ _ _ => let (c, x) := cosSin th; [c, x]))

/-! ## Commits, publishing, skips -/

/-- Record an output of the run for the comparison of R106. -/
def State.noteOut (s : State) (e : Nat) (o : RunOut) : State :=
  s.updEng e (fun q => { q with run := q.run.map (fun r => { r with outs := r.outs ++ [o] }) })

/-- CMT and CMTT: a commit to a leg, refused from a follower and to a leg the bridge lacks (R87, R94, R105), a bridge of one leg
included; the source is read first, also by a refused one (log entry 107). -/
def State.commitStep (s : State) (e op : Nat) (frac : Bool) : State :=
  s.plainStep e op (fun s r st =>
    let (a, s) := s.srcA e r st
    let n := s.engChan e
    let leg := st.aux % 8
    if s.leaderOf n = n ∧ leg ≤ s.fld (R.CH_BRIDGE n) CH_BRIDGE.LEGS then
      let s := s.noteOut e (.commit leg frac a)
      if s.takesEffect e then
        s.updChan (n + leg) (fun c => { c with commits := c.commits ++ [{ frac := frac, value := a }] })
      else s
    else s.leRaise e LE_STAT.CMT_REJ)

/-- CMT. -/
def execStCmt (dt : Nat) (e : Fin 136) (s : State) : Out := run dt s (fun s => s.commitStep e 0x16 true)

/-- CMTT. -/
def execStCmtt (dt : Nat) (e : Fin 136) (s : State) : Out := run dt s (fun s => s.commitStep e 0x17 false)

/-- PUB: A enters the engine's publish queue of four (R91, R105, R179). -/
def execStPub (dt : Nat) (e : Fin 136) (s : State) : Out :=
  run dt s (fun s => s.plainStep e 0x18 (fun s r st =>
    let (a, s) := s.srcA e r st
    let sig := st.imm.toNat % 2 ^ 17
    let s := s.noteOut e (.pub sig a)
    if s.takesEffect e then
      let qual := if r.flg &&& 7 = 0 then 0 else 1
      if (s.eng e).pubq.length < 4 then
        s.updEng e (fun q => { q with pubq := q.pubq ++ [{ sig := sig, value := a, qual := qual }] })
      else s.leRaise e LE_STAT.PUB_DROP
    else s))

/-- SKC: if its condition holds the next SH steps are skipped; SH = 0 acts as 1. Every condition reads both sources (log entry 107). -/
def execStSkc (dt : Nat) (e : Fin 136) (s : State) : Out :=
  run dt s (fun s => s.atStep e (fun st => st.op == 0x19) (fun s r st =>
    let (a, s) := s.srcA e r st
    let (b, s) := s.srcB e r st
    (s, if skcHolds (st.aux % 8) a b then 1 + Nat.max 1 st.sh else 1)))

/-- AND. -/
def execStAnd (dt : Nat) (e : Fin 136) (s : State) : Out :=
  run dt s (fun s => s.bitwise e 0x1A (fun a b => a &&& b))

/-- OR. -/
def execStOr (dt : Nat) (e : Fin 136) (s : State) : Out :=
  run dt s (fun s => s.bitwise e 0x1B (fun a b => a ||| b))

/-- XOR. -/
def execStXor (dt : Nat) (e : Fin 136) (s : State) : Out :=
  run dt s (fun s => s.bitwise e 0x1C (fun a b => a ^^^ b))

/-- BADOP: a reserved OP executes as NOP and sets BADOP. -/
def execStBadop (dt : Nat) (e : Fin 136) (s : State) : Out :=
  run dt s (fun s => s.atStep e (fun st => decide (0x1D ≤ st.op)) (fun s _ _ => (s.leRaise e LE_STAT.BADOP, 1)))

end Sys2Proof.Machine
end

