-- ==== Sys2Proof/Machine/MacFrames.lean ====
section
/-! DEFINITION. Frames of the Ethernet MACs (R407 to R411): filters and queues, descriptor rings, the credit-based shaper, time
stamps, and the datagrams of the Corer (R324 to R326). Log entry 92 gives what the manual leaves open here. -/

namespace Sys2Proof.Machine

open Sys2Proof

/-! ## Accesses -/

/-- The accesses of MAC `m`: Bank world (R410), User level (log entry 91). -/
def macAccess (m size : Nat) : Access := { master := 0x51 + m, world := .bank, sup := false, size := size }

/-- Read `n` bytes of this device from `x`; none where an access fails. -/
def State.macRead (m : Nat) : Nat → Nat → State → Option (List Byte) × State
  | 0, _, s => (some [], s)
  | n + 1, x, s =>
    match s.route x with
    | .device y =>
      match s.deviceRead (macAccess m 1) y with
      | (w, .ok, s) =>
        match State.macRead m n (x + 1) s with
        | (some bs, s) => (some (byteOf w 0 :: bs), s)
        | r => r
      | (_, _, s) => (none, s)
    | _ => (none, s)

/-- Write bytes to this device from `x`, in whole words where they are aligned; whether every access was accepted. -/
def State.macWrite (m : Nat) : Nat → List Byte → Nat → State → Except Fault Wr
  | 0, _, _, s => .ok (s, true)
  | _ + 1, [], _, s => .ok (s, true)
  | fuel + 1, bs, x, s =>
    let k := if x % 4 = 0 ∧ 4 ≤ bs.length then 4 else 1
    match s.route x with
    | .device y =>
      match s.busWrite (macAccess m k) y (wordAt (bs.take k) 0) with
      | .ok (s, true) => State.macWrite m fuel (bs.drop k) (x + k) s
      | r => r
    | _ => .ok (s, false)

/-! ## Frames -/

/-- The 16-bit number at byte `i`, highest byte first. -/
def be16 (l : List Byte) (i : Nat) : Nat := (l.getD i 0).toNat * 256 + (l.getD (i + 1) 0).toNat

/-- A frame carries an IEEE 802.1Q tag. -/
def tagged (l : List Byte) : Bool := be16 l 12 == 0x8100

/-- Where the EtherType stands, directly or after one tag, and the EtherType. -/
def typeAt (l : List Byte) : Nat := if tagged l then 16 else 12
def etherType (l : List Byte) : Nat := be16 l (typeAt l)

/-- MAXLEN as it acts (R407). -/
def State.maxLen (s : State) (m : Nat) : Nat := Nat.min 9216 (Nat.max 64 (s.fld (R.MAC_CFG m) MAC_CFG.MAXLEN))

/-- A frame is addressed to MAC `m` (R408). -/
def State.macAccepts (s : State) (m : Nat) (l : List Byte) : Bool :=
  let own := beBytes 6 ((s.reg (R.MAC_ADDR_LO m)).toNat + 0x100000000 * ((s.reg (R.MAC_ADDR_HI m)).toNat % 65536))
  let da := l.take 6
  da == own || da == List.replicate 6 0xFF || s.flag (R.MAC_CFG m) MAC_CFG.PROMISC ||
  (s.flag (R.MAC_CFG m) MAC_CFG.MCAST && (l.getD 0 0).getLsbD 0)

/-- The link rate in Mb/s, and the time of one bit in tq (R407). -/
def State.macRate (s : State) (m : Nat) : Nat :=
  match s.fld (R.MAC_CFG m) MAC_CFG.MODE with | 0 => 10000 | 1 => 5000 | 2 => 2500 | _ => 1000
def State.bitTq (s : State) (m : Nat) : Nat := 200000 / s.macRate m

/-- MAC `m` runs and its link is up. -/
def State.macOn (s : State) (m : Nat) : Bool :=
  s.flag (R.MAC_CFG m) MAC_CFG.EN && s.flag (R.MAC_STAT m) MAC_STAT.LINK && s.mode != mPark

/-- A received frame is discarded (R407). -/
def State.macDiscard (s : State) (m : Nat) : State :=
  let k := R.MAC_STAT m
  (s.count k MAC_STAT.FCS_CNT).raise k MAC_STAT.RXERR

/-! ## Rings (R410) -/

/-- A descriptor: its system address and its first two words. -/
structure MacDesc where
  at_ : Nat
  w0 : Word
  w1 : Word
  deriving DecidableEq, Repr

/-- The buffer of a descriptor, and its LEN. -/
def MacDesc.buffer (d : MacDesc) : Nat := d.w0.toNat + d.w1.toNat % 65536 * 0x100000000
def MacDesc.len (d : MacDesc) : Nat := d.w1.toNat / 65536 % 16384

/-- The base of a ring. -/
def State.ringBase (s : State) (m : Nat) (rx : Bool) (q : Nat) : Nat :=
  let lo := if rx then R.MAC_RXR_LO m q else R.MAC_TXR_LO m q
  let hi := if rx then R.MAC_RXR_HI m q else R.MAC_TXR_HI m q
  (s.reg lo).toNat + (s.reg hi).toNat % 65536 * 0x100000000

/-- The next descriptor of a ring that runs, while the MAC owns it. -/
def State.nextDesc (s : State) (m : Nat) (rx : Bool) (q : Nat) : Option MacDesc × State :=
  let k := ringCtl m rx q
  if s.flag k MAC_TXR_CTL.EN then
    let x := s.ringBase m rx q + 16 * s.fld k MAC_TXR_CTL.NEXT
    match State.busReadWords (macAccess m 4) 2 x s with
    | ([w0, w1], .ok, s) => (if w1.getLsbD 31 then some { at_ := x, w0 := w0, w1 := w1 } else none, s)
    | (_, _, s) => (none, s)
  else (none, s)

/-- A descriptor has been finished: the queue's bit sets, and the ring goes on. A size exponent outside 4 to 12 acts as a free one. -/
def State.descDone (s : State) (m : Nat) (rx : Bool) (q : Nat) : State :=
  let k := ringCtl m rx q
  let rk := s.fld k MAC_TXR_CTL.RK
  let (v, s) := if 4 ≤ rk ∧ rk ≤ 12 then (0, s) else s.freshWord
  let rk := if 4 ≤ rk ∧ rk ≤ 12 then rk else 4 + v.toNat % 9
  let s := s.setF k MAC_TXR_CTL.NEXT ((s.fld k MAC_TXR_CTL.NEXT + 1) % 2 ^ rk)
  s.raise (R.MAC_QSTAT m) (⟨(if rx then 8 else 0) + q, 1⟩ : Fld)

/-- A descriptor is finished: LEN, TIME and ERR are written, OWN clears, the queue's bit sets, and the ring goes on. -/
def State.finishDesc (s : State) (m : Nat) (rx : Bool) (q : Nat) (d : MacDesc) (len : Nat) (time : Time) (err : Bool) :
    Except Fault State :=
  let w1 := BitVec.ofNat 32 (d.w1.toNat % 65536 + len % 16384 * 65536 + (if err then 0x40000000 else 0))
  match State.busWriteWords (macAccess m 4) (timeWords time) (d.at_ + 8) s with
  | .error e => .error e
  | .ok (s, _) =>
    match State.busWriteWords (macAccess m 4) [w1] (d.at_ + 4) s with
    | .error e => .error e
    | .ok (s, _) => .ok (s.descDone m rx q)

/-! ## Rings and buffers outside the device (R400, R410, R414; log entry 115) -/

/-- System address `x` leads outside this device. -/
def State.isAway (s : State) (x : Nat) : Bool :=
  match s.route x with
  | .cascade _ _ | .host _ => true
  | _ => false

/-- The next descriptor of a ring. -/
def State.descAt (s : State) (m : Nat) (rx : Bool) (q : Nat) : Nat :=
  s.ringBase m rx q + 16 * s.fld (ringCtl m rx q) MAC_TXR_CTL.NEXT

/-- A descriptor of this ring is in work. -/
def MacJob.of (rx : Bool) (q : Nat) (j : MacJob) : Bool := j.rx == rx && j.q == q
def State.jobOf (s : State) (m : Nat) (rx : Bool) (q : Nat) : Option MacJob := (s.mac m).jobs.find? (MacJob.of rx q)

/-- How an access of a MAC goes: it has ended, it waits for the answer to a request, or it finds no room. -/
inductive MacIo where
  | now (r : PathReply)
  | wait (tag : Nat)
  | later
  deriving DecidableEq, Repr

/-- A MAC reads `n` bytes; of a peer, the aligned words that hold them. -/
def State.macFetch (s : State) (m x n : Nat) : MacIo × State :=
  match s.route x with
  | .device _ =>
    match State.macRead m n x s with
    | (some l, s) => (.now (.data l), s)
    | (none, s) => (.now .failed, s)
  | .cascade d y =>
    let (t, s) := s.linkRequest false .bank d (y - y % 4) [BitVec.ofNat 32 (4 * ((y % 4 + n + 3) / 4))]
    (.wait t, s)
  | .host y =>
    if s.pcieOut = false then (.now .failed, s.pcieError (s.outboundHost y))
    else if s.pcieRoom then
      let (t, s) := s.pcieRequest (s.outboundHost y) n .read
      (.wait (pcieWait t), s)
    else (.later, s)
  | .unmapped => (.now .failed, s)

/-- The `n` bytes at `x` of the answer to a fetch. -/
def State.fetched (s : State) (x n : Nat) (l : List Byte) : List Byte :=
  match s.route x with
  | .cascade _ y => slice l (y % 4) n
  | _ => l.take n

/-- A MAC writes bytes; to a peer only whole aligned words, a narrower access ends in an error (R400). -/
def State.macPut (s : State) (m x : Nat) (bytes : List Byte) : Except Fault (MacIo × State) :=
  match s.route x with
  | .device _ =>
    match State.macWrite m bytes.length bytes x s with
    | .ok (s, ok) => .ok (.now (if ok then .data [] else .failed), s)
    | .error e => .error e
  | .cascade d y =>
    if y % 4 = 0 ∧ bytes.length % 4 = 0 then
      let (t, s) := s.linkRequest true .bank d y ((List.range (bytes.length / 4)).map (fun i => wordAt bytes (4 * i)))
      .ok (.wait t, s)
    else .ok (.now .failed, s)
  | .host y =>
    if s.pcieOut = false then .ok (.now .failed, s.pcieError (s.outboundHost y))
    else if s.pcieRoom then
      let (t, s) := s.pciePost y bytes
      .ok (.wait (pcieWait t), s)
    else .ok (.later, s)
  | .unmapped => .ok (.now .failed, s)

/-- The descriptor of a job. -/
def MacJob.desc (j : MacJob) : MacDesc := { at_ := j.at_, w0 := j.w0, w1 := j.w1 }

/-- How many bytes of the frame a job moves next: at most 252 at once; of the end of a frame that a peer takes, first the whole words. -/
def MacJob.chunk (j : MacJob) (away : Bool) : Nat :=
  let left := (if j.rx then j.frame.length else j.desc.len) - j.pos
  if j.rx && away && decide (4 ≤ left) then Nat.min 252 (left / 4 * 4) else Nat.min 252 left

/-- Bytes of the frame that the next access moves. -/
def State.jobChunk (s : State) (j : MacJob) : Nat := j.chunk (s.isAway (j.desc.buffer + j.pos))

/-- Word 1 of a finished descriptor: LEN and ERR, with OWN clear. -/
def MacJob.last (j : MacJob) : Word :=
  let len := if j.rx then j.frame.length else j.desc.len
  BitVec.ofNat 32 (j.w1.toNat % 65536 + len % 16384 * 65536 + (if j.err then 0x40000000 else 0))

/-- The next access of a job. -/
def State.jobAccess (s : State) (m : Nat) (j : MacJob) : Except Fault (MacIo × State) :=
  match j.stage with
  | 0 => if s.flag (ringCtl m j.rx j.q) MAC_TXR_CTL.EN then .ok (s.macFetch m (s.descAt m j.rx j.q) 8) else .ok (.now .failed, s)
  | 1 =>
    let x := j.desc.buffer + j.pos
    if j.rx then s.macPut m x (slice j.frame j.pos (s.jobChunk j)) else .ok (s.macFetch m x (s.jobChunk j))
  | 2 => s.macPut m (j.at_ + 8) ((timeWords j.time).flatMap bytesOf)
  | 3 => s.macPut m (j.at_ + 4) (bytesOf j.last)
  | _ => .ok (.later, s)

/-- A received frame is discarded that finds no descriptor, and the ring's job ends. -/
def State.jobLost (s : State) (m : Nat) (j : MacJob) : State := if j.rx then s.macDiscard m else s

/-- A job goes on with the answer to its access, or ends. -/
def State.jobGoes (s : State) (m : Nat) (j : MacJob) (r : PathReply) : Option MacJob × State :=
  let l : List Byte := match r with | .data l => l | .failed => []
  let ok : Bool := match r with | .data _ => true | .failed => false
  match j.stage with
  | 0 =>
    let x := s.descAt m j.rx j.q
    let b := s.fetched x 8 l
    let j := { j with at_ := x, w0 := wordAt b 0, w1 := wordAt b 4 }
    if !ok || !j.w1.getLsbD 31 then (none, s.jobLost m j)
    else if j.rx && decide (j.desc.len < j.frame.length) then (some { j with stage := 2, err := true }, s.macDiscard m)
    else if !j.rx && decide (j.desc.len = 0) then (some { j with stage := 4 }, s)
    else (some { j with stage := 1, pos := 0 }, s)
  | 1 =>
    let n := s.jobChunk j
    let pos := j.pos + n
    if !ok then (some { j with stage := 2, time := (if j.rx then j.time else 0), err := true }, s)
    else if j.rx then (some { j with stage := (if j.frame.length ≤ pos then 2 else 1), pos := pos }, s)
    else
      let j := { j with frame := j.frame ++ s.fetched (j.desc.buffer + j.pos) n l, pos := pos }
      (some (if j.desc.len ≤ pos then { j with stage := 4 } else j), s)
  | 2 => (some { j with stage := 3 }, s)
  | _ => (none, s.descDone m j.rx j.q)

/-- A job goes on until it has to wait or ends. -/
def State.jobRun (m : Nat) : Nat → MacJob → State → Except Fault (Option MacJob × State)
  | 0, j, s => .ok (some j, s)
  | n + 1, j, s =>
    match j.got with
    | some r =>
      match s.jobGoes m { j with got := none } r with
      | (none, s) => .ok (none, s)
      | (some j, s) => State.jobRun m n j s
    | none =>
      if j.tag.isSome then .ok (some j, s)
      else
        match s.jobAccess m j with
        | .error e => .error e
        | .ok (.now r, s) => State.jobRun m n { j with got := some r } s
        | .ok (.wait t, s) => .ok (some { j with tag := some t }, s)
        | .ok (.later, s) => .ok (some j, s)

/-- The jobs of a MAC go on; of each ring only the oldest. -/
def State.jobsRun (m : Nat) : List MacJob → List MacJob → State → Except Fault (List MacJob × State)
  | [], kept, s => .ok (kept, s)
  | j :: js, kept, s =>
    if kept.any (MacJob.of j.rx j.q) then State.jobsRun m js (kept ++ [j]) s
    else
      match State.jobRun m 160 j s with
      | .error e => .error e
      | .ok (none, s) => State.jobsRun m js kept s
      | .ok (some j, s) => State.jobsRun m js (kept ++ [j]) s

/-- The jobs of MAC `m` go on. -/
def State.macRun (s : State) (m : Nat) : Except Fault State :=
  if (s.mac m).jobs = [] then .ok s
  else
    match State.jobsRun m (s.mac m).jobs [] s with
    | .error e => .error e
    | .ok (l, s) => .ok (s.updMac m (fun x => { x with jobs := l }))

/-- The jobs of both MACs go on. -/
def State.macsRun (s : State) : Except Fault State :=
  match s.macRun 0 with
  | .error e => .error e
  | .ok s => s.macRun 1

/-- A job begins. -/
def State.jobStart (s : State) (m : Nat) (j : MacJob) : Except Fault State :=
  (s.updMac m (fun x => { x with jobs := x.jobs ++ [j] })).macRun m

/-! ## Receive (R407, R408, R411) -/

/-- The UDP payload of a datagram for the Corer, without the transport header's padding (R324, R408). -/
def State.corerDatagram (s : State) (l : List Byte) : Option (List Byte) :=
  let ip := typeAt l + 2
  let h := 4 * ((l.getD ip 0).toNat % 16)
  let udp := ip + h
  if etherType l = 0x0800 ∧ (l.getD ip 0).toNat / 16 = 4 ∧ 20 ≤ h ∧ (l.getD (ip + 9) 0).toNat = 17 ∧
      slice l (ip + 16) 4 = beBytes 4 (s.reg R.CORER_NET_SIP).toNat ∧
      be16 l (udp + 2) = s.fld R.CORER_NET_PORTS CORER_NET_PORTS.SPORT then
    some (slice l (udp + 8) (be16 l (udp + 4) - 8))
  else none

/-- A datagram for the Corer arrives at MAC `m`: an ACK, or the reply to a READ (R325, R326). -/
def State.corerReceive (s : State) (m : Nat) (d : List Byte) : State :=
  let seq := (wordAt d 4).toNat
  if (d.getD 0 0).toNat ≠ 1 ∨ d.length < 24 then s
  else
    match (d.getD 1 0).toNat with
    | 2 => s.corerAcked m seq
    | 4 =>
      match s.path.reading with
      | some (_, p, tag) => if p = m ∧ tag = seq then s.readBackReply (.data (slice d 24 (leNat d 2 2))) else s
      | none => s
    | _ => s

/-- MAC_FRAME_RECEIVE: a frame, from its destination address to its FCS, has been received whole. -/
def execMacFrameReceive (dt : Nat) (m : Fin 2) (bytes : List Byte) (s : State) : Out :=
  runMemE dt s (fun s =>
    if !s.macOn m then .ok s
    else
      let n := bytes.length - 4
      let l := bytes.take n
      if crc32 l ≠ wordAt bytes n ∨ s.maxLen m < bytes.length ∨ etherType l = 0x8808 then .ok (s.macDiscard m)
      else if !s.macAccepts m l then .ok s
      else
        match s.corerDatagram l with
        | some d => .ok (s.corerReceive m d)
        | none =>
          let q := if tagged l then (l.getD 14 0).toNat / 32 else s.fld (R.MAC_CFG m) MAC_CFG.UQ
          let time : Time := if etherType l = 0x88F7 then s.now - BitVec.ofNat 64 (8 * bytes.length * s.bitTq m) else 0
          let job : MacJob := { rx := true, q := q, frame := l, time := time }
          if (s.jobOf m true q).isSome ∨ s.isAway (s.descAt m true q) = true then s.jobStart m job
          else
          match s.nextDesc m true q with
          | (none, s) => .ok (s.macDiscard m)
          | (some d, s) =>
            if s.isAway d.buffer then s.jobStart m job
            else if d.len < n then (s.macDiscard m).finishDesc m true q d n time true
            else
              match State.macWrite m n l d.buffer s with
              | .error e => .error e
              | .ok (s, ok) => s.finishDesc m true q d n time (!ok))

/-! ## Transmit (R409 to R411) -/

/-- Queue `q` has a frame to send: a Corer datagram, or a descriptor the MAC owns. -/
def State.txWaits (s : State) (m q : Nat) : Bool :=
  (decide (q = s.fld (R.MAC_CFG m) MAC_CFG.CQ) && (s.mac m).corerq != []) ||
  (match s.jobOf m false q with
   | some j => j.stage == 4
   | none => (s.nextDesc m false q).1.isSome)

/-- A transmit ring whose next descriptor or buffer lies outside the device: its frame is gathered ahead (R410). -/
def State.txGather (s : State) (m q : Nat) : Except Fault State :=
  let job : MacJob := { rx := false, q := q }
  if (s.jobOf m false q).isSome then .ok s
  else if s.isAway (s.descAt m false q) then
    (if s.flag (ringCtl m false q) MAC_TXR_CTL.EN then s.jobStart m job else .ok s)
  else
    match s.nextDesc m false q with
    | (some d, t) => if t.isAway d.buffer then t.jobStart m job else .ok s
    | (none, _) => .ok s

/-- Every transmit ring of MAC `m` that needs it gathers its next frame. -/
def State.txGatherAll (m : Nat) : Nat → State → Except Fault State
  | 0, s => .ok s
  | n + 1, s =>
    match State.txGatherAll m n s with
    | .error e => .error e
    | .ok s => s.txGather m n

/-- The MAC notes whether frames wait in its shaped queues (log entry 92). -/
def State.noteWaits (s : State) (m : Nat) : State :=
  s.updMac m (fun x => { x with waits6 := s.txWaits m 6, waits7 := s.txWaits m 7 })

/-- Queue `q` may send: it has a frame, and its credit is not negative. -/
def State.txReady (s : State) (m q : Nat) : Bool :=
  s.txWaits m q &&
  (if q = 6 then decide (0 ≤ (s.mac m).credit6) else if q = 7 then decide (0 ≤ (s.mac m).credit7) else true)

/-- A frame leaves by queue `q`, padded to its least length and with its FCS; a shaped queue pays for it. -/
def State.macSend (s : State) (m q : Nat) (l : List Byte) : State :=
  let l := padTo 60 l
  let out := l ++ bytesOf (crc32 l)
  let cost : Int := if s.idleOf m q = 0 then 0 else (s.macRate m * (8 * out.length * s.bitTq m) : Nat)
  s.updMac m (fun x => { x with
    out := out
    credit6 := if q = 6 then x.credit6 - cost else x.credit6
    credit7 := if q = 7 then x.credit7 - cost else x.credit7 })

/-- The frame that a job has gathered leaves, and its descriptor is finished. -/
def State.sendJob (s : State) (m q : Nat) (j : MacJob) : Except Fault State :=
  let done : MacJob := { j with stage := 2, time := if etherType j.frame = 0x88F7 then s.now else 0 }
  ((s.macSend m q j.frame).updMac m (fun x => { x with
    jobs := x.jobs.map (fun (i : MacJob) => if i = j then done else i) })).macRun m

/-- The frame of the highest queue that may send leaves, its first bit now (R409). -/
def State.transmit (s : State) (m : Nat) : Except Fault State :=
  let s := s.creditsNow m
  match ((List.range 8).reverse).find? (s.txReady m) with
  | none => .ok s
  | some q =>
    match (if q = s.fld (R.MAC_CFG m) MAC_CFG.CQ then (s.mac m).corerq else []) with
    | l :: rest => .ok ((s.updMac m (fun x => { x with corerq := rest })).macSend m q l)
    | [] =>
      match s.jobOf m false q with
      | some j => s.sendJob m q j
      | none =>
        match s.nextDesc m false q with
        | (none, s) => .ok s
        | (some d, s) =>
          match State.macRead m d.len d.buffer s with
          | (some l, s) =>
            let time : Time := if etherType l = 0x88F7 then s.now else 0
            (s.macSend m q l).finishDesc m false q d d.len time false
          | (none, s) => s.finishDesc m false q d d.len 0 true

/-- MAC_FRAME_TRANSMIT: transmit rings outside the device gather their next frames, and a frame leaves (R409, R410). -/
def execMacFrameTransmit (dt : Nat) (m : Fin 2) (s : State) : Out :=
  runMemE dt s (fun s =>
    if !s.macOn m then .ok s
    else
      match State.txGatherAll m 8 s with
      | .error e => .error e
      | .ok s =>
        match s.transmit m with
        | .error e => .error e
        | .ok s => .ok (s.noteWaits m))

/-! ## Answers to remote requests (R400, R414): what waits for them goes on, the MACs' rings too (R410) -/

/-- RD_RSP (R400): the data of a remote read arrives, or its error. -/
def execFrameRdRsp (dt : Nat) (u : Fin 2) (fr : Frame) (s : State) : Out :=
  runMemE dt s (fun s =>
    let f := fr.ofType false 0x12
    (s.receiveFrame u f (fun s =>
      s.remoteEnds f.tag false (if f.status = 0 ∧ f.payload ≠ [] then .data (f.payload.flatMap bytesOf) else .failed))).macsRun)

/-- WR_RSP (R400): a remote write has completed. -/
def execFrameWrRsp (dt : Nat) (u : Fin 2) (fr : Frame) (s : State) : Out :=
  runMemE dt s (fun s =>
    let f := fr.ofType false 0x13
    (s.receiveFrame u f (fun s => s.remoteEnds f.tag true (if f.status = 0 then .data [] else .failed))).macsRun)

/-- REMOTE_ACCESS_TIMEOUT: no response has come within 100 µs (R400). -/
def execRemoteAccessTimeout (dt : Nat) (tag : BitVec 16) (s : State) : Out :=
  runMemE dt s (fun s =>
    match s.io.link.remotes.find? (fun (x : Remote) => x.tag == tag.toNat) with
    | some x => if Time.reached s.now (x.since + 20000000) then (s.remoteEnds x.tag x.write .failed).macsRun else .ok s
    | none => .ok s)

/-- An outbound request has ended: what waits for room asks again (R412). -/
def State.roomMade (s : State) : Except Fault State := s.issueReadBack.outRetry.macsRun

/-- PCIE_OUTBOUND_COMPLETION: an outbound request completes, or ends in an error. -/
def execPcieOutboundCompletion (dt : Nat) (tag : BitVec 16) (reply : PathReply) (s : State) : Out :=
  runMemE dt s (fun s =>
    match s.io.outbound.find? (fun (o : Outbound) => o.tag == tag.toNat) with
    | none => .ok s
    | some o =>
      let good : Bool := match reply with | .data bytes => decide (bytes.length = o.len) | .failed => true
      (s.outboundEnds o (if good then reply else .failed)).roomMade)

/-- CTO as it acts, in tq. -/
def State.pcieCto (s : State) : Nat := Nat.max 1 (s.fld R.PCIE_CFG PCIE_CFG.CTO) * 200000000

/-- PCIE_COMPLETION_TIMEOUT: no completion has come within CTO ms. -/
def execPcieCompletionTimeout (dt : Nat) (tag : BitVec 16) (s : State) : Out :=
  runMemE dt s (fun s =>
    match s.io.outbound.find? (fun (o : Outbound) => o.tag == tag.toNat) with
    | none => .ok s
    | some o =>
      if Time.reached s.now (o.since + BitVec.ofNat 64 s.pcieCto) then (s.outboundEnds o .failed).roomMade else .ok s)

end Sys2Proof.Machine
end

