-- ==== Sys2Proof/Machine/Park.lean ====
section
/-! DEFINITION. The entry into PARK (R256, R327, R341, R342, R381) and the alarms and pulses that end it; log entry 95 gives what of the
powered-down blocks the model keeps. -/

namespace Sys2Proof.Machine

open Sys2Proof

/-- The shaft link powers down: its lanes unlock, its ports go DOWN, and a subordinate has no source of time (R161). -/
def State.linkDown (s : State) : State :=
  (forAll [0, 1] s (fun s u =>
    let k := R.SHL_PORT u
    let s := if s.flag k SHL_PORT.UP then (s.setF k SHL_PORT.UP 0).raise k SHL_PORT.CHG else s
    (s.setF k SHL_PORT.PCAL_OK 0).setLport u {})).timeSourceCheck

/-- The converters power down: what they were converting is lost. -/
def State.convsDown (s : State) : State := { s with ch := { s.ch with convs := [] } }

/-- The xSPI port powers down: a command that runs is lost. -/
def State.xspiDown (s : State) : State :=
  { (s.setF R.XSPI_STAT XSPI_STAT.BUSY 0) with io := { s.io with xspi := none } }

/-- The MACs' and the PCIe links go down, with their reports (R426); the host configures the function again after the wake. -/
def State.portsDown (s : State) : State :=
  (forAll [0, 1] s (fun s m => s.setMacLink m false)).setPcieLink false 0 0

/-- PARK_ENTRY: every running core has stopped, and the device enters PARK (R341, R342). -/
def execParkEntry (dt : Nat) (s : State) : Out :=
  run dt s (fun s =>
    if s.md.parkReq.isSome = true ∧ s.mode = mRun ∧ s.allStopped = true then
      let s := { s with md := { s.md with parkReq := none, parkFrom := s.now } }
      let s := (s.setMode mPark).linkDown.convsDown.portsDown.xspiDown
      let s := forAll (List.range 32) s State.dropLane
      let s := { s with ts := { s.ts with outCnt := [], inCnt := [] } }
      -- the outputs are off (R330)
      s.saveSources.refreshAll
    else s)

/-! ## Events that end PARK (R342) -/

/-- TIMER_ALARM_FIRE: device time has reached the target of an enabled alarm (R162); in PARK it is a wake source (R342). -/
def execTimerAlarmFire (dt : Nat) (i : Fin 16) (s : State) : Out :=
  run dt s (fun s =>
    if s.flag (R.TA_CTL i) TA_CTL.EN && Time.reached s.now (s.taTarget i) then
      (s.fireAlarm i (s.taTarget i) false).wakeBy WakeSource.ta.bit
    else s)

/-- ANG_PULSE: an edge of ANG_IN that its filter passes arrives, with the present instant as its timestamp (R165); one at or after the
instant of a shift change that is due waits for it (R164). In PARK a pulse is a wake source (R342). -/
def execAngPulse (dt : Nat) (k : Fin 16) (level : Bool) (s : State) : Out :=
  run dt s (fun s =>
    let cfg := R.ANG_CFG k
    if s.applyDue then s.updTrk k (fun q => { q with edges := q.edges ++ [(s.now, level)] })
    else if s.flag cfg ANG_CFG.EN && level != s.flag cfg ANG_CFG.EDGE then (s.takeEdge k s.now level).wakeBy WakeSource.ang.bit
    else s)

/-- A wake source is there (R342): an enabled alarm whose target device time has reached, or an enabled tracker; the others come from
outside. -/
def State.wakes (s : State) (src : WakeSource) : Bool :=
  match src with
  | .ta => (List.range 16).any (fun i => s.flag (R.TA_CTL i) TA_CTL.EN && Time.reached s.now (s.taTarget i))
  | .ang => (List.range 16).any (fun a => s.flag (R.ANG_CFG a) ANG_CFG.EN)
  | _ => true

/-- WAKE: a wake source ends PARK and the cores continue (R343). -/
def execWake (dt : Nat) (src : WakeSource) (s : State) : Out :=
  run dt s (fun s =>
    match src with
    | .safeN => if s.mode = mPark then s.safeNLow else s
    | _ => if s.wakes src then s.wakeBy src.bit else s)

end Sys2Proof.Machine
end

