-- ==== Sys2Proof/Machine/Dispatch.lean ====
section
/-! DEFINITION. One arm for each command: a direct call of its meaning. -/

namespace Sys2Proof.Machine

open Sys2Proof

/-- The effect of a command on everything but the queue. -/
def exec (i : Instr) (s : State) : Host.Outcome State Fault Refusal :=
  match i with
  | .registerWrite dt a addr w => Sys2Proof.Machine.execRegisterWrite dt a addr w s
  | .executeInstruction dt p => Sys2Proof.Machine.execExecuteInstruction dt p s
  | .coreLoad dt p => Sys2Proof.Machine.execCoreLoad dt p s
  | .loadDataReturn dt p => Sys2Proof.Machine.execLoadDataReturn dt p s
  | .coreStore dt p => Sys2Proof.Machine.execCoreStore dt p s
  | .storeBufferDrain dt p => Sys2Proof.Machine.execStoreBufferDrain dt p s
  | .storeError dt p => Sys2Proof.Machine.execStoreError dt p s
  | .fence dt p => Sys2Proof.Machine.execFence dt p s
  | .fenceI dt p => Sys2Proof.Machine.execFenceI dt p s
  | .ecall dt p => Sys2Proof.Machine.execEcall dt p s
  | .ebreak dt p => Sys2Proof.Machine.execEbreak dt p s
  | .srtn dt p => Sys2Proof.Machine.execSrtn dt p s
  | .xcall dt p => Sys2Proof.Machine.execXcall dt p s
  | .xrtn dt p => Sys2Proof.Machine.execXrtn dt p s
  | .ertn dt p => Sys2Proof.Machine.execErtn dt p s
  | .quiesce dt p => Sys2Proof.Machine.execQuiesce dt p s
  | .wait dt p => Sys2Proof.Machine.execWait dt p s
  | .interruptEntry dt p => Sys2Proof.Machine.execInterruptEntry dt p s
  | .cpSincos dt p => Sys2Proof.Machine.execCpSincos dt p s
  | .cpAtan2 dt p => Sys2Proof.Machine.execCpAtan2 dt p s
  | .cpSqrt dt p => Sys2Proof.Machine.execCpSqrt dt p s
  | .cpRecip dt p => Sys2Proof.Machine.execCpRecip dt p s
  | .cpClarke dt p => Sys2Proof.Machine.execCpClarke dt p s
  | .cpIclarke dt p => Sys2Proof.Machine.execCpIclarke dt p s
  | .cpPark dt p => Sys2Proof.Machine.execCpPark dt p s
  | .cpIpark dt p => Sys2Proof.Machine.execCpIpark dt p s
  | .cpResult dt p => Sys2Proof.Machine.execCpResult dt p s
  | .deputyAgreement dt idx v => Sys2Proof.Machine.execDeputyAgreement dt idx v s
  | .deputyMismatch dt accA accB proposal => Sys2Proof.Machine.execDeputyMismatch dt accA accB proposal s
  | .deputyTimeout dt accA accB proposal => Sys2Proof.Machine.execDeputyTimeout dt accA accB proposal s
  | .deputySelfTestDone dt passA passB => Sys2Proof.Machine.execDeputySelfTestDone dt passA passB s
  | .deputyResyncDone dt => Sys2Proof.Machine.execDeputyResyncDone dt s
  | .chAdcSwtrig dt a n w => Sys2Proof.Machine.execChAdcSwtrig dt a n w s
  | .freeRunRequest dt n => Sys2Proof.Machine.execFreeRunRequest dt n s
  | .conversionStartRequest dt c => Sys2Proof.Machine.execConversionStartRequest dt c s
  | .samplingInstant dt c => Sys2Proof.Machine.execSamplingInstant dt c s
  | .conversionEnd dt c raw => Sys2Proof.Machine.execConversionEnd dt c raw s
  | .resultDelivery dt n => Sys2Proof.Machine.execResultDelivery dt n s
  | .sbyTakeOver dt a f w => Sys2Proof.Machine.execSbyTakeOver dt a f w s
  | .sbyReturn dt a f w => Sys2Proof.Machine.execSbyReturn dt a f w s
  | .sbyAbandon dt a f w => Sys2Proof.Machine.execSbyAbandon dt a f w s
  | .comparatorInputCrossing dt n k x => Sys2Proof.Machine.execComparatorInputCrossing dt n k x s
  | .comparatorOutputChange dt n k => Sys2Proof.Machine.execComparatorOutputChange dt n k s
  | .commitArrival dt n => Sys2Proof.Machine.execCommitArrival dt n s
  | .loopRunStart dt e => Sys2Proof.Machine.execLoopRunStart dt e s
  | .legWaitTimeout dt e => Sys2Proof.Machine.execLegWaitTimeout dt e s
  | .stNop dt e => Sys2Proof.Machine.execStNop dt e s
  | .stEnd dt e => Sys2Proof.Machine.execStEnd dt e s
  | .stMov dt e => Sys2Proof.Machine.execStMov dt e s
  | .stAdd dt e => Sys2Proof.Machine.execStAdd dt e s
  | .stSub dt e => Sys2Proof.Machine.execStSub dt e s
  | .stNeg dt e => Sys2Proof.Machine.execStNeg dt e s
  | .stAbs dt e => Sys2Proof.Machine.execStAbs dt e s
  | .stMin dt e => Sys2Proof.Machine.execStMin dt e s
  | .stMax dt e => Sys2Proof.Machine.execStMax dt e s
  | .stLim dt e => Sys2Proof.Machine.execStLim dt e s
  | .stShl dt e => Sys2Proof.Machine.execStShl dt e s
  | .stShr dt e => Sys2Proof.Machine.execStShr dt e s
  | .stMul dt e => Sys2Proof.Machine.execStMul dt e s
  | .stMac dt e => Sys2Proof.Machine.execStMac dt e s
  | .stMsu dt e => Sys2Proof.Machine.execStMsu dt e s
  | .stAclr dt e => Sys2Proof.Machine.execStAclr dt e s
  | .stAcca dt e => Sys2Proof.Machine.execStAcca dt e s
  | .stAccl dt e => Sys2Proof.Machine.execStAccl dt e s
  | .stAclm dt e => Sys2Proof.Machine.execStAclm dt e s
  | .stRda dt e => Sys2Proof.Machine.execStRda dt e s
  | .stTbl dt e => Sys2Proof.Machine.execStTbl dt e s
  | .stClarke dt e => Sys2Proof.Machine.execStClarke dt e s
  | .stPark dt e => Sys2Proof.Machine.execStPark dt e s
  | .stIpark dt e => Sys2Proof.Machine.execStIpark dt e s
  | .stIclarke dt e => Sys2Proof.Machine.execStIclarke dt e s
  | .stFwd dt e => Sys2Proof.Machine.execStFwd dt e s
  | .stInv dt e => Sys2Proof.Machine.execStInv dt e s
  | .stSvpwm dt e => Sys2Proof.Machine.execStSvpwm dt e s
  | .stSincos dt e => Sys2Proof.Machine.execStSincos dt e s
  | .stCmt dt e => Sys2Proof.Machine.execStCmt dt e s
  | .stCmtt dt e => Sys2Proof.Machine.execStCmtt dt e s
  | .stPub dt e => Sys2Proof.Machine.execStPub dt e s
  | .stSkc dt e => Sys2Proof.Machine.execStSkc dt e s
  | .stAnd dt e => Sys2Proof.Machine.execStAnd dt e s
  | .stOr dt e => Sys2Proof.Machine.execStOr dt e s
  | .stXor dt e => Sys2Proof.Machine.execStXor dt e s
  | .stBadop dt e => Sys2Proof.Machine.execStBadop dt e s
  | .engineStateWrite dt a e idx w => Sys2Proof.Machine.execEngineStateWrite dt a e idx w s
  | .accLo dt a e w => Sys2Proof.Machine.execAccLo dt a e w s
  | .accHi dt a e w => Sys2Proof.Machine.execAccHi dt a e w s
  | .pubQueueDrain dt e => Sys2Proof.Machine.execPubQueueDrain dt e s
  | .tableWrite dt a f t b j w => Sys2Proof.Machine.execTableWrite dt a f t b j w s
  | .tblOpen dt a f t w => Sys2Proof.Machine.execTblOpen dt a f t w s
  | .tblCommit dt a f t w => Sys2Proof.Machine.execTblCommit dt a f t w s
  | .tblAbandon dt a f t w => Sys2Proof.Machine.execTblAbandon dt a f t w s
  | .tableCheckDone dt f t => Sys2Proof.Machine.execTableCheckDone dt f t s
  | .sprTakeOver dt a f w => Sys2Proof.Machine.execSprTakeOver dt a f w s
  | .sprReturn dt a f w => Sys2Proof.Machine.execSprReturn dt a f w s
  | .sprAbandon dt a f w => Sys2Proof.Machine.execSprAbandon dt a f w s
  | .carrierPeriodBoundary dt g => Sys2Proof.Machine.execCarrierPeriodBoundary dt g s
  | .trailingEdge dt n => Sys2Proof.Machine.execTrailingEdge dt n s
  | .outputEdge dt n o => Sys2Proof.Machine.execOutputEdge dt n o s
  | .eventCompareMatch dt n idx => Sys2Proof.Machine.execEventCompareMatch dt n idx s
  | .fltAssert dt n => Sys2Proof.Machine.execFltAssert dt n s
  | .fltDeassert dt n => Sys2Proof.Machine.execFltDeassert dt n s
  | .blankingWindowEnd dt n => Sys2Proof.Machine.execBlankingWindowEnd dt n s
  | .protClear dt a n w => Sys2Proof.Machine.execProtClear dt a n w s
  | .bridgeClear dt a n w => Sys2Proof.Machine.execBridgeClear dt a n w s
  | .safeDtExpiry dt n => Sys2Proof.Machine.execSafeDtExpiry dt n s
  | .calibrationDone dt => Sys2Proof.Machine.execCalibrationDone dt s
  | .refLoss dt => Sys2Proof.Machine.execRefLoss dt s
  | .refValid dt phase => Sys2Proof.Machine.execRefValid dt phase s
  | .holdoverEnd dt => Sys2Proof.Machine.execHoldoverEnd dt s
  | .tbTimeLoRead dt a => Sys2Proof.Machine.execTbTimeLoRead dt a s
  | .tbVtimeLoRead dt a => Sys2Proof.Machine.execTbVtimeLoRead dt a s
  | .angTpLoRead dt a k => Sys2Proof.Machine.execAngTpLoRead dt a k s
  | .tbRateWrite dt a w => Sys2Proof.Machine.execTbRateWrite dt a w s
  | .tbAdjWrite dt a w => Sys2Proof.Machine.execTbAdjWrite dt a w s
  | .tbStep dt a w => Sys2Proof.Machine.execTbStep dt a w s
  | .tbVtOfsHiWrite dt a w => Sys2Proof.Machine.execTbVtOfsHiWrite dt a w s
  | .adjDrained dt => Sys2Proof.Machine.execAdjDrained dt s
  | .taHiWrite dt a idx w => Sys2Proof.Machine.execTaHiWrite dt a idx w s
  | .taCtlWrite dt a idx w => Sys2Proof.Machine.execTaCtlWrite dt a idx w s
  | .timerAlarmFire dt idx => Sys2Proof.Machine.execTimerAlarmFire dt idx s
  | .cascLockAcquired dt => Sys2Proof.Machine.execCascLockAcquired dt s
  | .angPulse dt k level => Sys2Proof.Machine.execAngPulse dt k level s
  | .angPulseAction dt k => Sys2Proof.Machine.execAngPulseAction dt k s
  | .coast dt k => Sys2Proof.Machine.execCoast dt k s
  | .angStall dt k => Sys2Proof.Machine.execAngStall dt k s
  | .angPublish dt k => Sys2Proof.Machine.execAngPublish dt k s
  | .aevFire dt idx => Sys2Proof.Machine.execAevFire dt idx s
  | .encOutputEdge dt e => Sys2Proof.Machine.execEncOutputEdge dt e s
  | .signalValueWrite dt a idx w => Sys2Proof.Machine.execSignalValueWrite dt a idx w s
  | .signalStatusWrite dt a idx w => Sys2Proof.Machine.execSignalStatusWrite dt a idx w s
  | .boundInputLoad dt e idx => Sys2Proof.Machine.execBoundInputLoad dt e idx s
  | .publishQueueSend dt => Sys2Proof.Machine.execPublishQueueSend dt s
  | .markedResend dt => Sys2Proof.Machine.execMarkedResend dt s
  | .signalRefresh dt => Sys2Proof.Machine.execSignalRefresh dt s
  | .signalAgeExpiry dt idx => Sys2Proof.Machine.execSignalAgeExpiry dt idx s
  | .fevEvent dt f j => Sys2Proof.Machine.execFevEvent dt f j s
  | .gevEvent dt j => Sys2Proof.Machine.execGevEvent dt j s
  | .faceFevFire dt a f idx w => Sys2Proof.Machine.execFaceFevFire dt a f idx w s
  | .gevFire dt a idx w => Sys2Proof.Machine.execGevFire dt a idx w s
  | .stagingWrite dt a addr w => Sys2Proof.Machine.execStagingWrite dt a addr w s
  | .stgCheckCmd dt a w => Sys2Proof.Machine.execStgCheckCmd dt a w s
  | .stgArmCmd dt a w => Sys2Proof.Machine.execStgArmCmd dt a w s
  | .stgCancelCmd dt a w => Sys2Proof.Machine.execStgCancelCmd dt a w s
  | .stgDiscardCmd dt a w => Sys2Proof.Machine.execStgDiscardCmd dt a w s
  | .stgCheckDone dt => Sys2Proof.Machine.execStgCheckDone dt s
  | .stgArmDone dt => Sys2Proof.Machine.execStgArmDone dt s
  | .shiftChangeApply dt => Sys2Proof.Machine.execShiftChangeApply dt s
  | .cascConfirmTimeout dt => Sys2Proof.Machine.execCascConfirmTimeout dt s
  | .intDoorbell dt a w => Sys2Proof.Machine.execIntDoorbell dt a w s
  | .intPendWrite dt a idx w => Sys2Proof.Machine.execIntPendWrite dt a idx w s
  | .srcCfgWrite dt a idx w => Sys2Proof.Machine.execSrcCfgWrite dt a idx w s
  | .coalesceTimeout dt idx => Sys2Proof.Machine.execCoalesceTimeout dt idx s
  | .tgtComplete dt a t w => Sys2Proof.Machine.execTgtComplete dt a t w s
  | .dmaCfgWrite dt a c w => Sys2Proof.Machine.execDmaCfgWrite dt a c w s
  | .dmaStart dt a c w => Sys2Proof.Machine.execDmaStart dt a c w s
  | .dmaStop dt a c w => Sys2Proof.Machine.execDmaStop dt a c w s
  | .dmaFlush dt a c w => Sys2Proof.Machine.execDmaFlush dt a c w s
  | .dmaPointerWrite dt a c put w => Sys2Proof.Machine.execDmaPointerWrite dt a c put w s
  | .dmaRequest dt c => Sys2Proof.Machine.execDmaRequest dt c s
  | .dmaBurstIssue dt write => Sys2Proof.Machine.execDmaBurstIssue dt write s
  | .dmaReadResponse dt c => Sys2Proof.Machine.execDmaReadResponse dt c s
  | .dmaWriteResponse dt c => Sys2Proof.Machine.execDmaWriteResponse dt c s
  | .dmaDescriptorRead dt c => Sys2Proof.Machine.execDmaDescriptorRead dt c s
  | .scrubRead dt idx => Sys2Proof.Machine.execScrubRead dt idx s
  | .tallyHeldReport dt => Sys2Proof.Machine.execTallyHeldReport dt s
  | .tallyTake dt => Sys2Proof.Machine.execTallyTake dt s
  | .tallyTail dt a w => Sys2Proof.Machine.execTallyTail dt a w s
  | .tallySafeWrite dt a w => Sys2Proof.Machine.execTallySafeWrite dt a w s
  | .tubCfg dt a w => Sys2Proof.Machine.execTubCfg dt a w s
  | .tubAlloc dt a => Sys2Proof.Machine.execTubAlloc dt a s
  | .tubFree dt a w => Sys2Proof.Machine.execTubFree dt a w s
  | .tubGive dt a w => Sys2Proof.Machine.execTubGive dt a w s
  | .signalLaneRecord dt l => Sys2Proof.Machine.execSignalLaneRecord dt l s
  | .triggerCondition dt l j => Sys2Proof.Machine.execTriggerCondition dt l j s
  | .swtrig dt a l w => Sys2Proof.Machine.execSwtrig dt a l w s
  | .rel dt a l w => Sys2Proof.Machine.execRel dt a l w s
  | .rearmEnd dt l => Sys2Proof.Machine.execRearmEnd dt l s
  | .laneEnable dt a l w => Sys2Proof.Machine.execLaneEnable dt a l w s
  | .laneDisable dt a l w => Sys2Proof.Machine.execLaneDisable dt a l w s
  | .drainWrite dt l => Sys2Proof.Machine.execDrainWrite dt l s
  | .pathWriteDone dt l => Sys2Proof.Machine.execPathWriteDone dt l s
  | .corerAck dt m seq => Sys2Proof.Machine.execCorerAck dt m seq s
  | .corerRto dt m => Sys2Proof.Machine.execCorerRto dt m s
  | .pathErrClear dt a w => Sys2Proof.Machine.execPathErrClear dt a w s
  | .go dt a w => Sys2Proof.Machine.execGo dt a w s
  | .storeReadDone dt reply => Sys2Proof.Machine.execStoreReadDone dt reply s
  | .modeRequestRun dt a w => Sys2Proof.Machine.execModeRequestRun dt a w s
  | .modeRequestLimp dt a w => Sys2Proof.Machine.execModeRequestLimp dt a w s
  | .modeRequestHold dt a w => Sys2Proof.Machine.execModeRequestHold dt a w s
  | .modeRequestPark dt a w => Sys2Proof.Machine.execModeRequestPark dt a w s
  | .safeNAssert dt low => Sys2Proof.Machine.execSafeNAssert dt low s
  | .releaseOpen dt a w => Sys2Proof.Machine.execReleaseOpen dt a w s
  | .releaseComplete dt a w => Sys2Proof.Machine.execReleaseComplete dt a w s
  | .releaseWindowExpiry dt => Sys2Proof.Machine.execReleaseWindowExpiry dt s
  | .parkEntry dt => Sys2Proof.Machine.execParkEntry dt s
  | .parkTimeout dt => Sys2Proof.Machine.execParkTimeout dt s
  | .wake dt src => Sys2Proof.Machine.execWake dt src s
  | .powerOn dt role id => Sys2Proof.Machine.execPowerOn dt role id s
  | .brownOut dt sup => Sys2Proof.Machine.execBrownOut dt sup s
  | .resetNAssert dt => Sys2Proof.Machine.execResetNAssert dt s
  | .softwareSystemReset dt a w => Sys2Proof.Machine.execSoftwareSystemReset dt a w s
  | .softwareCoreReset dt a w => Sys2Proof.Machine.execSoftwareCoreReset dt a w s
  | .coreStart dt p => Sys2Proof.Machine.execCoreStart dt p s
  | .loadStart dt otp => Sys2Proof.Machine.execLoadStart dt otp s
  | .loadSlotCheck dt slotA slotB => Sys2Proof.Machine.execLoadSlotCheck dt slotA slotB s
  | .loadSectionsDone dt slotA slotB => Sys2Proof.Machine.execLoadSectionsDone dt slotA slotB s
  | .modeEntry dt => Sys2Proof.Machine.execModeEntry dt s
  | .wdogKick dt a w => Sys2Proof.Machine.execWdogKick dt a w s
  | .deviceWatchdogExpiry dt => Sys2Proof.Machine.execDeviceWatchdogExpiry dt s
  | .cwdogEnable dt p a w => Sys2Proof.Machine.execCwdogEnable dt p a w s
  | .cwdogKick dt p a w => Sys2Proof.Machine.execCwdogKick dt p a w s
  | .coreWatchdogExpiry dt p => Sys2Proof.Machine.execCoreWatchdogExpiry dt p s
  | .updateWindowWrite dt a ofs w => Sys2Proof.Machine.execUpdateWindowWrite dt a ofs w s
  | .verifyHdr dt a w => Sys2Proof.Machine.execVerifyHdr dt a w s
  | .verifySect dt a w => Sys2Proof.Machine.execVerifySect dt a w s
  | .updStage dt a w => Sys2Proof.Machine.execUpdStage dt a w s
  | .updClear dt a w => Sys2Proof.Machine.execUpdClear dt a w s
  | .verifyHdrDone dt => Sys2Proof.Machine.execVerifyHdrDone dt s
  | .verifySectDone dt => Sys2Proof.Machine.execVerifySectDone dt s
  | .updStageDone dt => Sys2Proof.Machine.execUpdStageDone dt s
  | .sliceDue dt y => Sys2Proof.Machine.execSliceDue dt y s
  | .tsReqGo dt a w => Sys2Proof.Machine.execTsReqGo dt a w s
  | .sliceEnd dt y passA passB => Sys2Proof.Machine.execSliceEnd dt y passA passB s
  | .sliceQuiesceTimeout dt y => Sys2Proof.Machine.execSliceQuiesceTimeout dt y s
  | .sliceGrantTimeout dt => Sys2Proof.Machine.execSliceGrantTimeout dt s
  | .loopbackMismatch dt n o => Sys2Proof.Machine.execLoopbackMismatch dt n o s
  | .canaryMeasurement dt f q mv code => Sys2Proof.Machine.execCanaryMeasurement dt f q mv code s
  | .serviceWithdraw dt a w => Sys2Proof.Machine.execServiceWithdraw dt a w s
  | .serviceReturn dt a w => Sys2Proof.Machine.execServiceReturn dt a w s
  | .debugAccessEnable dt scan => Sys2Proof.Machine.execDebugAccessEnable dt scan s
  | .laneLock dt u lane => Sys2Proof.Machine.execLaneLock dt u lane s
  | .laneUnlock dt u lane => Sys2Proof.Machine.execLaneUnlock dt u lane s
  | .portTimeout dt u => Sys2Proof.Machine.execPortTimeout dt u s
  | .shlIdle dt u b1 => Sys2Proof.Machine.execShlIdle dt u b1 s
  | .shlTime dt u t48 hops locked => Sys2Proof.Machine.execShlTime dt u t48 hops locked s
  | .shlCal dt u c => Sys2Proof.Machine.execShlCal dt u c s
  | .wakeBlock dt u => Sys2Proof.Machine.execWakeBlock dt u s
  | .shlAbort dt u express copied => Sys2Proof.Machine.execShlAbort dt u express copied s
  | .frameSig dt u fr => Sys2Proof.Machine.execFrameSig dt u fr s
  | .frameGev dt u fr => Sys2Proof.Machine.execFrameGev dt u fr s
  | .frameHeartbeat dt u fr master => Sys2Proof.Machine.execFrameHeartbeat dt u fr master s
  | .frameGmark dt u fr => Sys2Proof.Machine.execFrameGmark dt u fr s
  | .frameStgCheck dt u fr => Sys2Proof.Machine.execFrameStgCheck dt u fr s
  | .frameStgResult dt u fr => Sys2Proof.Machine.execFrameStgResult dt u fr s
  | .frameStgGroup dt u fr => Sys2Proof.Machine.execFrameStgGroup dt u fr s
  | .frameStgApply dt u fr => Sys2Proof.Machine.execFrameStgApply dt u fr s
  | .frameStgConfirm dt u fr => Sys2Proof.Machine.execFrameStgConfirm dt u fr s
  | .frameStgCommit dt u fr => Sys2Proof.Machine.execFrameStgCommit dt u fr s
  | .frameStgCancel dt u fr => Sys2Proof.Machine.execFrameStgCancel dt u fr s
  | .frameTsReq dt u fr => Sys2Proof.Machine.execFrameTsReq dt u fr s
  | .frameTsGrant dt u fr => Sys2Proof.Machine.execFrameTsGrant dt u fr s
  | .frameWr dt u fr => Sys2Proof.Machine.execFrameWr dt u fr s
  | .frameRd dt u fr => Sys2Proof.Machine.execFrameRd dt u fr s
  | .frameRdRsp dt u fr => Sys2Proof.Machine.execFrameRdRsp dt u fr s
  | .frameWrRsp dt u fr => Sys2Proof.Machine.execFrameWrRsp dt u fr s
  | .frameTransmit dt u => Sys2Proof.Machine.execFrameTransmit dt u s
  | .partialFrameTimeout dt u express copied => Sys2Proof.Machine.execPartialFrameTimeout dt u express copied s
  | .remoteAccessTimeout dt tag => Sys2Proof.Machine.execRemoteAccessTimeout dt tag s
  | .heartbeatSend dt => Sys2Proof.Machine.execHeartbeatSend dt s
  | .presenceTimeout dt d => Sys2Proof.Machine.execPresenceTimeout dt d s
  | .isolation dt => Sys2Proof.Machine.execIsolation dt s
  | .isolationHoldExpiry dt => Sys2Proof.Machine.execIsolationHoldExpiry dt s
  | .calRequestSend dt => Sys2Proof.Machine.execCalRequestSend dt s
  | .timeBlockSend dt => Sys2Proof.Machine.execTimeBlockSend dt s
  | .shlWake dt a w => Sys2Proof.Machine.execShlWake dt a w s
  | .macFrameReceive dt m bytes => Sys2Proof.Machine.execMacFrameReceive dt m bytes s
  | .macFrameTransmit dt m => Sys2Proof.Machine.execMacFrameTransmit dt m s
  | .ringEnable dt a m rx q w => Sys2Proof.Machine.execRingEnable dt a m rx q w s
  | .macLinkChange dt m up => Sys2Proof.Machine.execMacLinkChange dt m up s
  | .pcieInboundAccess dt sp write ofs size w => Sys2Proof.Machine.execPcieInboundAccess dt sp write ofs size w s
  | .pcieOutboundCompletion dt tag reply => Sys2Proof.Machine.execPcieOutboundCompletion dt tag reply s
  | .pcieCompletionTimeout dt tag => Sys2Proof.Machine.execPcieCompletionTimeout dt tag s
  | .pcieMsixSend dt a w => Sys2Proof.Machine.execPcieMsixSend dt a w s
  | .pcieLinkChange dt up gen width => Sys2Proof.Machine.execPcieLinkChange dt up gen width s
  | .canCtlEnable dt a idx w => Sys2Proof.Machine.execCanCtlEnable dt a idx w s
  | .canTxreq dt a idx w => Sys2Proof.Machine.execCanTxreq dt a idx w s
  | .canTxabort dt a idx w => Sys2Proof.Machine.execCanTxabort dt a idx w s
  | .canRxpop dt a idx w => Sys2Proof.Machine.execCanRxpop dt a idx w s
  | .canFrameReceive dt idx fr age => Sys2Proof.Machine.execCanFrameReceive dt idx fr age s
  | .canFrameSent dt idx => Sys2Proof.Machine.execCanFrameSent dt idx s
  | .canBusOff dt idx => Sys2Proof.Machine.execCanBusOff dt idx s
  | .xspiRead dt a w => Sys2Proof.Machine.execXspiRead dt a w s
  | .xspiWrite dt a w => Sys2Proof.Machine.execXspiWrite dt a w s
  | .xspiProgram dt a w => Sys2Proof.Machine.execXspiProgram dt a w s
  | .xspiErase dt a w => Sys2Proof.Machine.execXspiErase dt a w s
  | .xspiCommandDone dt bytes => Sys2Proof.Machine.execXspiCommandDone dt bytes s
  | .gspiTxd dt a f w => Sys2Proof.Machine.execGspiTxd dt a f w s
  | .gspiRx dt a f => Sys2Proof.Machine.execGspiRx dt a f s
  | .gspiFrameDone dt f resp => Sys2Proof.Machine.execGspiFrameDone dt f resp s
  | .gspiPoll dt f c resp => Sys2Proof.Machine.execGspiPoll dt f c resp s
  | .dapRead dt p wd addr => Sys2Proof.Machine.execDapRead dt p wd addr s
  | .dapWrite dt p wd addr w => Sys2Proof.Machine.execDapWrite dt p wd addr w s
  | .dapStatus dt p => Sys2Proof.Machine.execDapStatus dt p s
  | .dapHalt dt p => Sys2Proof.Machine.execDapHalt dt p s
  | .dapResume dt p => Sys2Proof.Machine.execDapResume dt p s
  | .dapSingleStep dt p => Sys2Proof.Machine.execDapSingleStep dt p s
  | .dapWakeRequest dt => Sys2Proof.Machine.execDapWakeRequest dt s
  | .dapSystemReset dt => Sys2Proof.Machine.execDapSystemReset dt s
  | .jtagIdcode dt => Sys2Proof.Machine.execJtagIdcode dt s
  | .jtagSamplePreload dt => Sys2Proof.Machine.execJtagSamplePreload dt s
  | .jtagExtest dt => Sys2Proof.Machine.execJtagExtest dt s
  | .jtagHighz dt => Sys2Proof.Machine.execJtagHighz dt s
  | .jtagClamp dt => Sys2Proof.Machine.execJtagClamp dt s
  | .jtagScan dt => Sys2Proof.Machine.execJtagScan dt s
  | .jtagBypass dt => Sys2Proof.Machine.execJtagBypass dt s
  | .referenceSelect dt toggling => Sys2Proof.Machine.execReferenceSelect dt toggling s
  | .firstReferenceValid dt => Sys2Proof.Machine.execFirstReferenceValid dt s
  | .fvrefReady dt f => Sys2Proof.Machine.execFvrefReady dt f s
  | .aevRearm dt idx => Sys2Proof.Machine.execAevRearm dt idx s
  | .scrubPassOverrun dt idx => Sys2Proof.Machine.execScrubPassOverrun dt idx s
  | .unknownControlBlock dt u b0 => Sys2Proof.Machine.execUnknownControlBlock dt u b0 s
  | .unknownFrameType dt u fr => Sys2Proof.Machine.execUnknownFrameType dt u fr s
  | .canBusError dt idx rec tec => Sys2Proof.Machine.execCanBusError dt idx rec tec s
  | .canBusOffRecovery dt idx => Sys2Proof.Machine.execCanBusOffRecovery dt idx s
  | .testLogicReset dt => Sys2Proof.Machine.execTestLogicReset dt s

end Sys2Proof.Machine
end

