-- ==== Sys2Proof/Machine/Step.lean ====
section
/-! DEFINITION. One step of the block: the command at the front of the queue runs on the state with the rest of the queue; on
an empty queue the block idles (log entry 2). -/

namespace Sys2Proof.Machine

open Sys2Proof

/-- The state without the front command of its queue. -/
def State.popped (s : State) : State := { s with pending := s.pending.tail }

/-- The state with `c` put in front of its queue. -/
def State.pushed (s : State) (c : Instr) : State := { s with pending := c :: s.pending }

/-- One step. -/
def step (s : State) : Host.Outcome State Fault Refusal :=
  match s.pending with
  | [] => .next s
  | c :: _ => exec c s.popped

/-- The state with the command a word spells in front of its queue; unchanged where the word spells none. -/
def State.withFetchWord (s : State) (nbits w : Nat) : State :=
  match decodeTableWord nbits w with
  | some c => s.pushed c
  | none => s

end Sys2Proof.Machine
end

