-- ==== Sys2Proof/Safety.lean ====
section
/-! DEFINITION. What claims call safe, and the terms the statements use: a step that ends in a next state, a leg that never has both
outputs on, what a command leaves as it was, a register write of the allowed form, and what a loop step does to its engine. -/

namespace Sys2Proof.Safety

open Sys2Proof Sys2Proof.Machine

/-- A step from `s` ends in a next state. -/
def Completes (s : State) : Prop := ∃ t, step s = .next t

/-- The two gate outputs of channel `n` are never on together (R117). -/
def NoShootThrough (s : State) (n : Nat) : Prop := ¬ ((s.chan n).outH = true ∧ (s.chan n).outL = true)

/-- No bridge leg of the device has both outputs on. -/
def AllLegsSafe (s : State) : Prop := ∀ n, NoShootThrough s n

/-! ## What a command leaves as it was -/

/-- Every byte of memory reads in `t` as in `s`. -/
def SameBytes (s t : State) : Prop := ∀ x, t.byte x = s.byte x

/-- Every register word but those at the keys that satisfy `p` reads in `t` as in `s`. -/
def RegsBut (p : Nat → Prop) (s t : State) : Prop := ∀ k, ¬ p k → t.reg k = s.reg k

/-- The registers in which Tally counts a report that finds no room (R288). -/
def TallyReg (k : Nat) : Prop := k = R.TALLY_STAT ∨ ∃ i, i < 128 ∧ k = R.TALLY_OVF i

/-! ## Register writes -/

/-- A write of a whole word from Pit world (R6, R18). -/
def PitWord (a : Access) : Prop := a.world = .pit ∧ a.size = 4

/-- Word `w` has zero in every reserved field of the register at key `k` (R7). -/
def CleanWord (k : Nat) (w : Word) : Bool :=
  match regAt (k % 0x100000000) with
  | some (r, _) => w &&& r.reserved == 0
  | none => false

/-! ## Loop steps (R77 to R86) -/

/-- An integer limited to a range (R84). -/
def limited (lo hi v : Int) : Int := max lo (min hi v)

/-- A 32-bit result, saturated (R84). -/
def lim32 (v : Int) : Int := limited (-0x80000000) 0x7FFFFFFF v

/-- A value of ACC, saturated (R84). -/
def lim48 (v : Int) : Int := limited (-(2 ^ 47)) (2 ^ 47 - 1) v

/-- A right shift by `k` that rounds half upwards (R84). -/
def shiftRounded (v : Int) (k : Nat) : Int := if k = 0 then v else (v + 2 ^ (k - 1)) / 2 ^ k

/-- The words that source A and source B of the step of run `r` select on engine `e` (R82). -/
def wordA (s : State) (e : Nat) (r : Run) : Word := (s.source e r r.step r.step.sa).1
def wordB (s : State) (e : Nat) (r : Run) : Word := (s.source e r r.step r.step.sb).1

/-- No word of the state of engine `e` itself, W0 to W7 and ACC, holds an error. -/
def WorkClean (s : State) (e : Nat) : Prop := ∀ i, i < 10 → s.eccMask (engineKey e (4 * i)) = 0

/-- Engine `e` runs `r`, nothing waits for the end of that run (R80, R105), and its state holds no error. -/
def Running (s : State) (e : Nat) (r : Run) : Prop :=
  (s.eng e).run = some r ∧ (s.eng e).waiting = [] ∧ (s.eng e).loadAtEnd = false ∧ WorkClean s e

/-- Engine `e` is left with the working registers `w` and the accumulator `a`. -/
def StepLeft (t : State) (e : Nat) (w : Nat → Word) (a : Int) : Prop := (∀ i, i < 8 → t.wreg e i = w i) ∧ (t.eng e).acc = a

/-- The destination of the step of run `r` has taken the 32-bit result `v`: one of W0 to W7, or ACC sign-extended, or none; every
other of them holds what it held (R82). -/
def StepWrote (s t : State) (e : Nat) (r : Run) (v : Int) : Prop :=
  StepLeft t e (fun i => if i = r.step.dst then BitVec.ofInt 32 v else s.wreg e i) (if r.step.dst = 9 then v else (s.eng e).acc)

/-- The run of engine `e` has moved on by `k` steps: it stands at the next step, or it has ended after step 31 (R78) or before a step
whose words are uncorrectable (R104). -/
def StepWent (t : State) (e : Nat) (r : Run) (k : Nat) : Prop :=
  (t.eng e).run = if r.pc + k ≤ 31 ∧ r.badAt (r.pc + k) = false then some { r with pc := r.pc + k } else none

/-- The run of engine `e` goes on by `k` steps: it neither passes step 31 nor meets an uncorrectable step. -/
def GoesOn (r : Run) (k : Nat) : Prop := r.pc + k ≤ 31 ∧ r.badAt (r.pc + k) = false

/-- A result, or a value of ACC, saturates (R84). -/
def Over32 (v : Int) : Prop := lim32 v ≠ v
def Over48 (v : Int) : Prop := lim48 v ≠ v

/-- Source A, or source B, of the step of run `r` is ACCS, and reading it limits ACC (R82, R84). -/
def SatA (s : State) (e : Nat) (r : Run) : Prop := r.step.sa = 33 ∧ Over32 (s.eng e).acc
def SatB (s : State) (e : Nat) (r : Run) : Prop := r.step.sb = 33 ∧ Over32 (s.eng e).acc

/-- SAT is the one flag a step sets, where `c` holds. -/
def Sat (c : Prop) (f : Fld) : Prop := f = LE_STAT.SAT ∧ c

/-- The flags of LE_STAT but MEMERR, which the read of the next step may set too. -/
def stepFlags : List Fld :=
  [LE_STAT.OVR, LE_STAT.SAT, LE_STAT.CMT_REJ, LE_STAT.PUB_DROP, LE_STAT.XFM_REJ, LE_STAT.LEG_MISS, LE_STAT.BADOP, LE_STAT.CMT_BLK]

/-- What a step of engine `e` does to these flags: where its commits take effect those that satisfy `c` are set, and no other changes
(R84, R105). -/
def StepFlags (s t : State) (e : Nat) (c : Fld → Prop) : Prop :=
  ∀ f, f ∈ stepFlags → (t.flag (R.LE_STAT (s.engChan e)) f = true ↔
    s.flag (R.LE_STAT (s.engChan e)) f = true ∨ (s.takesEffect e = true ∧ c f))

/-- Result `v` lies within 2^-22 of full scale of the exact number `x`, which is in units of 2^-64, and is rounded to Q1.31 (R99). -/
def NearExact (v x : Int) : Prop := (v * 2 ^ 33 - x).natAbs ≤ 2 ^ 42 + 2 ^ 33

/-- A transform has written its results to W0 on, the numbers `vs`, each near its exact one and saturated (R84, R98, R99), a duty limited
at 0; every other working register and ACC hold what they held. -/
def XfmWrote (s t : State) (e : Nat) (duty : Bool) (outs vs : List Int) : Prop :=
  vs.length = outs.length ∧
  (∀ (i : Nat) (x v : Int), outs[i]? = some x → vs[i]? = some v →
    NearExact v x ∧ t.wreg e i = BitVec.ofInt 32 (lim32 (if duty then max 0 v else v))) ∧
  (∀ i, outs.length ≤ i → i < 8 → t.wreg e i = s.wreg e i) ∧ (t.eng e).acc = (s.eng e).acc

/-- The exact inputs W0, W1 and W2 of a transform, in units of 2^-64 (R98). -/
def xfmIn (s : State) (e i : Nat) : Int := (s.wreg e i).toInt * 2 ^ 33

/-- The registers a step of an engine that serves channel `n` may change: LE_STAT of the channel; and where the end of a shared run finds
a difference, FACE_SPR_STAT of its face and Tally's counts of a report it cannot hold. -/
def StepReg (n k : Nat) : Prop :=
  k = R.LE_STAT n ∨ k = R.FACE_SPR_STAT (n / 16) ∨ k = R.TALLY_STAT ∨ k = R.TALLY_OVF ((0x80 + n / 16) / 4)

/-- The registers a change of mode may change: the mode's own, those of the bridges' safe pattern, and Tally's counts. -/
def ModeReg (k : Nat) : Prop :=
  k = R.MODE_STAT ∨ k = R.MODE_REL ∨ (∃ n, n < 128 ∧ (k = R.BR_SAFE_STAT n ∨ k = R.CH_PROT_STAT n)) ∨ TallyReg k

/-- The registers in which the delivery of a word with an error shows: the counts of its region, the flags and the address, and where the
report is one of the class SAFETY, its group's bit and the HOLD that may follow (R276, R278, R293). -/
def ErrorReg (k : Nat) : Prop :=
  (∃ r, r < 20 ∧ k = R.MI_ERR_CNT r) ∨ k = R.MI_STAT ∨ k = R.MI_UE_LO ∨ k = R.MI_UE_HI ∨ k = R.TALLY_SAFE ∨ ModeReg k

/-- No word of the program that engine `e` runs holds an error. -/
def ProgramClean (s : State) (e : Nat) : Prop := ∀ r, (s.eng e).run = some r → ∀ i, r.cleanAt i = true

/-- What a step of engine `e` leaves as it was: the working registers, ACC and run of every other engine; every register but those of
`StepReg` and, where a word of the program holds an error, those in which its delivery shows; every byte of memory. -/
def StepFrame (s t : State) (e : Nat) : Prop :=
  (∀ j, j ≠ e → (t.eng j).w = (s.eng j).w ∧ (t.eng j).acc = (s.eng j).acc ∧ (t.eng j).run = (s.eng j).run) ∧
  RegsBut (fun k => StepReg (s.engChan e) k ∨ (¬ ProgramClean s e ∧ ErrorReg k)) s t ∧ SameBytes s t

/-- A report of unit `src` has entered Tally's queue behind those that waited, where it finds room and no report is held (R289, R290); what
the report itself brings about may follow it. -/
def Reported (s t : State) (src code cls : Nat) (detail : Word) : Prop :=
  s.lg.held = [] → s.lg.queue.length < 16 →
    ∃ x more, t.lg.queue = s.lg.queue ++ x :: more ∧ x.src = src ∧ x.code = code ∧ x.cls = cls ∧ x.detail = detail

/-! ## Recorder lanes, frames and the staging copy -/

/-- The registers in which a lane shows what it records, and those in which Tally counts a report it cannot hold (R306, R308, R309). -/
def LaneReg (k : Nat) : Prop := (∃ l, l < 32 ∧ (k = R.LANE_STAT l ∨ k = R.LANE_CNT l)) ∨ TallyReg k

/-- Byte `x` lies in the ring of lane `l` (R305). -/
def InRing (s : State) (l x : Nat) : Prop :=
  let b := 0x24000000 + 1024 * s.fld (R.LANE_BUF l) LANE_BUF.BASE
  b ≤ x ∧ x < b + 1024 * Nat.max 1 (s.fld (R.LANE_BUF l) LANE_BUF.LEN)

/-- Every byte outside the rings of the lanes that record reads in `t` as in `s`. -/
def RingBytesOnly (s t : State) : Prop := ∀ x, (∀ l, l < 32 → s.laneEn l = true → ¬ InRing s l x) → t.byte x = s.byte x

/-- A device that takes part in a cascade sends a frame of this type and payload out of the port R395 names. -/
def SentFrame (s t : State) (express : Bool) (type : Nat) (payload : List Word) : Prop :=
  s.inCascade = true → ∀ u, (u = 1 ∧ s.portUp 1 = true) ∨ (u = 0 ∧ s.portUp 1 = false ∧ s.portUp 0 = true) →
    ∃ fr : Frame, fr.express = express ∧ fr.type = type ∧ fr.src = s.ownId ∧ fr.payload = payload ∧
      (if express then (t.lport u).own = (s.lport u).own ++ [fr] else (t.lport u).bulk = (s.lport u).bulk ++ [fr])

/-- What staging `v` as the fields of the word at `k` leaves (R196, R197). -/
def Staged (s t : State) (k : Nat) (v : Word) : Prop :=
  if s.stgBusy = true ∨ s.stgArmed = true then
    t.stg.words = s.stg.words ∧ t.reg R.STG_STATUS = s.reg R.STG_STATUS ||| STG_STATUS.WR_REJ.mask
  else if s.locked k = true then t.stg.words = s.stg.words ∧ t.reg R.STG_STATUS = s.reg R.STG_STATUS
  else if (s.stagedAt k).isSome = true ∨ s.stg.words.length < 65536 then
    t.stagedAt k = some v ∧ (∀ j, j ≠ k → t.stagedAt j = s.stagedAt j) ∧
    t.fld R.STG_ENTRIES STG_ENTRIES.COUNT = t.stg.words.length % 2 ^ 17 ∧ t.flag R.STG_STATUS STG_STATUS.PASS = false
  else t.stg.words = s.stg.words ∧ t.flag R.STG_STATUS STG_STATUS.OVF = true

/-! ## Register fields and system RAM -/

/-- What a register holds after a whole write of `w` to its RW fields (R4). -/
def stored (s : State) (k : Nat) (w : Word) : Word := (s.reg k &&& ~~~tyMask k .rw) ||| (w &&& tyMask k .rw)

/-- The `n` bytes from `x` lie in the system RAM (R30). -/
def InRam (x n : Nat) : Prop := 0x20000000 ≤ x ∧ x + n ≤ 0x20400000

/-- The `n` bytes of memory from `x`. -/
def bytesFrom (s : State) (x n : Nat) : List Byte := (List.range n).map (fun i => s.byte (x + i))

/-- Memory reads as before but for the bytes `l` from `x`. -/
def BytesWritten (s t : State) (x : Nat) (l : List Byte) : Prop :=
  ∀ y, t.byte y = if x ≤ y ∧ y < x + l.length then l.getD (y - x) 0 else s.byte y

/-- An access that may write the registers of DMA channel `c` (R257, R258). -/
def MayDma (s : State) (a : Access) (c : Nat) : Prop :=
  a.size = 4 ∧ (a.world = .pit ∨ s.fld (R.DMA_CFG c) DMA_CFG.WORLD = 1) ∧ (isSg c = true → a.sup = true)

/-- The registers of lane `l` in which its state, its use of the store and its cores show, and those of the reports it makes. -/
def LaneShown (l k : Nat) : Prop :=
  k = R.LANE_CFG l ∨ k = R.LANE_STAT l ∨ k = R.LANE_CNT l ∨ k = R.LANE_SEQ l ∨ k = R.LANE_USE l ∨ k = R.LANE_TAIL l ∨ TallyReg k

/-! ## Modes and resets -/

/-- A write by Pit-world Supervisor of a whole word (R331). -/
def PitSup (a : Access) : Prop := a.world = .pit ∧ a.size = 4 ∧ a.sup = true

/-- Every bridge holds the MODE cause, and so its safe pattern (R141, R332). -/
def AllHeld (t : State) : Prop := ∀ n, n < 128 → t.leaderOf n = n →
  t.flag (R.BR_SAFE_STAT n) BR_SAFE_STAT.MODE = true ∧ t.flag (R.BR_SAFE_STAT n) BR_SAFE_STAT.SAFE = true

/-- What a system reset with a cause leaves (R26, R28, R346, R347): mode LOAD with PREV the mode it left, the cause recorded, every
register it reaches at its reset value, no core running, nothing queued or moved, memory kept. -/
def SysReset (s t : State) (cause : Fld) : Prop :=
  t.mode = 0 ∧ t.fld R.MODE_STAT MODE_STAT.PREV = s.mode ∧ t.flag R.RST_CAUSE cause = true ∧ t.md.inReset = true ∧
  t.md.powerOn = false ∧ t.md.loadStep = 0 ∧ (∀ k, sysResetKey k = true → t.reg k = regReset k) ∧
  (∀ p, (t.core p).running = false) ∧ t.mv.dma = [] ∧ t.lanes = [] ∧ t.stg = {} ∧ SameBytes s t

/-- A reset may begin, and no armed shift change is due in it (R27). -/
def ResetFree (s : State) (dt : Nat) : Prop :=
  ¬ (s.md.inReset = true ∧ s.md.loadStep = 0) ∧
  (s.flag R.STG_STATUS STG_STATUS.ARMED = false ∨ Time.reached (s.advance dt).now s.stg.applyAt = false)

/-- What a power-on or brown-out leaves (R8, R273, R344, R347): every register at its reset value but the one cause, memory zero. -/
def PowerReset (t : State) (cause : Fld) : Prop :=
  t.reg R.RST_CAUSE = cause.mask ∧ (∀ k, k ≠ R.RST_CAUSE → t.reg k = regReset k) ∧ (∀ x, t.byte x = 0) ∧ t.md = {} ∧ t.ch = {} ∧ t.pr = {}

/-! ## Slices -/

/-- The test of slice `x` of type `y` is over at `now` (R369). -/
def sliceOver (s : State) (y : Nat) (now : Time) (x : Slice) : Bool :=
  match x.begun with
  | some t => x.y == y && x.stage == 2 && decide (sliceUs y s.budget * 200000 ≤ Time.since t now)
  | none => false

/-- A slice of type `y` on `target` has been wanted: it is on the list, or has been skipped (R371, R372). -/
def SliceWanted (t : State) (y target : Nat) : Prop :=
  t.flag R.TS_STAT TS_STAT.SKIP = true ∨ ∃ x, x ∈ t.ts.slices ∧ x.y = y ∧ x.target = target

/-! ## The shaft link -/

/-- The registers in which the arrival of a frame shows (R395 to R397). -/
def LinkReg (k : Nat) : Prop := (∃ u, u < 2 ∧ k = R.SHL_PORT u) ∨ (∃ d, d < 8 ∧ k = R.SHL_GAP d) ∨ TallyReg k

/-- The registers in which a port's coming UP or going DOWN shows (R335, R390, R396, R404). -/
def PortReg (k : Nat) : Prop :=
  (∃ u, u < 2 ∧ k = R.SHL_PORT u) ∨ k = R.SHL_STAT ∨ k = R.TB_STAT ∨ k = R.TB_EFF_RATE ∨ k = R.MODE_STAT ∨ TallyReg k

/-- Frame `f` is delivered when it arrives at port `u`: intact, for this device or for all, not its own, and no duplicate
(R395, R397). -/
def Delivered (s : State) (u : Nat) (f : Frame) : Prop :=
  s.linkOn = true ∧ s.portUp u = true ∧ f.crc = f.crcOf ∧ f.src % 8 ≠ s.ownId ∧ (f.bcast = true ∨ f.dst % 8 = s.ownId) ∧
  ∀ x, AMap.get none s.io.link.last f.lane = some x →
    1 ≤ (f.seq % 65536 + 65536 - x) % 65536 ∧ (f.seq % 65536 + 65536 - x) % 65536 ≤ 32767

/-- Command `c` presents frame `f` at port `u`: `fr` with the class, type and subtype of its row (R393). -/
def Presents (dt : Nat) (u : Fin 2) (fr : Frame) (m : Bool) (c : Instr) (f : Frame) : Prop :=
  (c = .frameSig dt u fr ∧ f = fr.ofType true 1) ∨
  (c = .frameGev dt u fr ∧ f = fr.ofType true 2) ∨
  (c = .frameHeartbeat dt u fr m ∧ f = fr.ofSub 1) ∨
  (c = .frameGmark dt u fr ∧ f = fr.ofSub 2) ∨
  (c = .frameStgCheck dt u fr ∧ f = fr.ofSub 3) ∨
  (c = .frameStgResult dt u fr ∧ f = fr.ofSub 4) ∨
  (c = .frameStgGroup dt u fr ∧ f = fr.ofSub 5) ∨
  (c = .frameStgApply dt u fr ∧ f = fr.ofSub 6) ∨
  (c = .frameStgConfirm dt u fr ∧ f = fr.ofSub 7) ∨
  (c = .frameStgCommit dt u fr ∧ f = fr.ofSub 8) ∨
  (c = .frameStgCancel dt u fr ∧ f = fr.ofSub 9) ∨
  (c = .frameTsReq dt u fr ∧ f = fr.ofSub 10) ∨
  (c = .frameTsGrant dt u fr ∧ f = fr.ofSub 11) ∨
  (c = .frameWr dt u fr ∧ f = fr.ofType false 0x10) ∨
  (c = .frameRd dt u fr ∧ f = fr.ofType false 0x11) ∨
  (c = .frameRdRsp dt u fr ∧ f = fr.ofType false 0x12) ∨
  (c = .frameWrRsp dt u fr ∧ f = fr.ofType false 0x13)

/-- The device has queued its answer to the remote access of frame `f` (R400). -/
def PeerAnswered (s t : State) (f : Frame) (type status : Nat) (payload : List Word) : Prop :=
  ∀ u, (u = 1 ∧ s.portUp 1 = true) ∨ (u = 0 ∧ s.portUp 1 = false ∧ s.portUp 0 = true) →
    ∃ r : Frame, (t.lport u).bulk = (s.lport u).bulk ++ [r] ∧ r.express = false ∧ r.type = type ∧ r.dst = f.src % 8 ∧ r.bcast = false ∧
      r.tag = f.tag ∧ r.status = status ∧ r.payload = payload

/-- What waited for the remote access with tag `g` has its answer: a load of each core that waited for it its word or its error, and the
store at the head of a core's buffer that waited is gone, with a store error if it was refused (R234, R400). -/
def WaitsEnded (s t : State) (g : Nat) (w : Word) (ok : Bool) : Prop :=
  ∀ p, p < 7 →
    (∀ l, (s.flow p).load = some l → l.tag = some g → (t.flow p).load = some { l with tag := none, data := some w, err := !ok }) ∧
    (∀ b rest, (s.flow p).stores = b :: rest → b.tag = some g →
      (t.flow p).stores = rest ∧ if ok then (t.flow p).storeErr = (s.flow p).storeErr else (t.flow p).storeErr ≠ none)

/-! ## Networks -/

/-- Memory reads as before but for the bytes `l` from `x` and the bytes `m` from `y`. -/
def BytesTwice (s t : State) (x : Nat) (l : List Byte) (y : Nat) (m : List Byte) : Prop :=
  ∀ z, t.byte z = if x ≤ z ∧ z < x + l.length then l.getD (z - x) 0
    else if y ≤ z ∧ z < y + m.length then m.getD (z - y) 0 else s.byte z

/-- No descriptor of either MAC is in work outside the device (R410). -/
def NoMacJobs (s : State) : Prop := ∀ m, (s.mac m).jobs = []

/-- The next descriptor of ring `q` of MAC `m` lies in system RAM at `x`, is the MAC's, and has a buffer of at least `n` bytes in system
RAM apart from it, where the ring runs with a size that is allowed (R410). -/
def RingReady (s : State) (m : Nat) (rx : Bool) (q x n : Nat) : Prop :=
  let k := ringCtl m rx q
  let buf := (s.word x).toNat + (s.word (x + 4)).toNat % 65536 * 0x100000000
  s.flag k MAC_TXR_CTL.EN = true ∧ 4 ≤ s.fld k MAC_TXR_CTL.RK ∧ s.fld k MAC_TXR_CTL.RK ≤ 12 ∧
  x = s.ringBase m rx q + 16 * s.fld k MAC_TXR_CTL.NEXT ∧ x % 4 = 0 ∧ InRam x 16 ∧ (s.word (x + 4)).getLsbD 31 = true ∧
  InRam buf n ∧ (buf + n ≤ x ∨ x + 16 ≤ buf) ∧ s.ecc = []

/-- The transmit rings of MAC `m` that run lie in this device, with the buffers of their next descriptors (R410). -/
def RingsHere (s : State) (m : Nat) : Prop :=
  NoMacJobs s ∧ ∀ q, q < 8 → s.flag (ringCtl m false q) MAC_TXR_CTL.EN = true → s.isAway (s.descAt m false q) = false ∧
    ∀ d, (s.nextDesc m false q).1 = some d → s.isAway d.buffer = false

/-- The descriptor at `x` as the MAC leaves it: words 1 to 3, with LEN, no error, no OWN, and the time (R410, R411). -/
def ringDone (s : State) (x len : Nat) (time : Time) : List Byte :=
  bytesOf (BitVec.ofNat 32 ((s.word (x + 4)).toNat % 65536 + len % 16384 * 65536)) ++ bytesOf (time.truncate 32) ++
  bytesOf ((time >>> 32).truncate 32)

/-! ## Processors -/

/-- The 16 bits at local address `a` of the instruction memory of processor `p`. -/
def halfAt (s : State) (p a : Nat) : Nat := (s.byte (privBase p + a)).toNat + 256 * (s.byte (privBase p + a + 1)).toNat

/-- No coprocessor instruction of processor `p` has begun before its turn (R216). -/
def NoneAhead (s : State) (p : Nat) : Prop := (s.flow p).cp.all (fun o => o.ahead.isNone) = true

/-- Processor `p` may execute the instruction `x` that stands at its program counter, 16 or 32 bits long (R210, R212). -/
def MayRun (s : State) (p : Nat) (x : Fetched) : Prop :=
  let a := (s.core p).pc.toNat
  s.ready p = true ∧ s.ecc = [] ∧ a % 2 = 0 ∧ s.mayFetch p a = true ∧ (s.flow p).interlocked x.instr = false ∧
  (if halfAt s p a % 4 ≠ 3 then
     x.bits = BitVec.ofNat 32 (halfAt s p a) ∧ x.instr = decode16 x.bits.toNat ∧ x.next = (s.core p).pc + 2
   else s.mayFetch p (a + 2) = true ∧ x.bits = BitVec.ofNat 32 (halfAt s p a + 65536 * halfAt s p (a + 2)) ∧
     x.instr = decode32 x.bits ∧ x.next = (s.core p).pc + 4)

/-- Processor `p` may execute `x`, and no coprocessor instruction has begun ahead of it. -/
def Standing (s : State) (p : Nat) (x : Fetched) : Prop := MayRun s p x ∧ NoneAhead s p

/-- A command has left processor `p` with the registers `c`, and every other processor, register word and byte of memory as it was. -/
def CoreLeft (s t : State) (p : Nat) (c : Core) : Prop :=
  t.core p = c ∧ (∀ j, j ≠ p → t.core j = s.core j) ∧ RegsBut (fun _ => False) s t ∧ SameBytes s t

/-- The `n` bytes at local address `va` of processor `p` lie in system RAM or in its data memory. -/
def DataAt (p va n : Nat) : Prop :=
  (0x20000000 ≤ va ∧ va + n ≤ 0x20400000) ∨ (p < 6 ∧ 0x100000 ≤ va ∧ va + n ≤ 0x120000) ∨ (p = 6 ∧ va + n ≤ 0x80000)

/-- They lie in memory it may read. -/
def ReadAt (p va n : Nat) : Prop := DataAt p va n ∨ (p < 6 ∧ va + n ≤ 0x40000)

/-- The handler address of vector `v` of world `w` (R224). -/
def handlerOf (s : State) (p : Nat) (w : World) (v : Nat) : Word :=
  s.word (s.localToSystem p ((s.vectorBase p w).toNat + 4 * v)) &&& ~~~1

/-- That word can be read, and lies apart from the 32 bytes below `sp`. -/
def HandlerAt (s : State) (p : Nat) (w : World) (v : Nat) (sp : Word) : Prop :=
  let va := (s.vectorBase p w).toNat + 4 * v
  ReadAt p va 4 ∧ va % 4 = 0 ∧ (va + 4 ≤ sp.toNat - 32 ∨ sp.toNat ≤ va)

/-- A push below `sp` with limit `lim` succeeds (R229). -/
def PushFits (p : Nat) (sp lim : Word) : Prop :=
  sp.toNat % 4 = 0 ∧ 32 ≤ sp.toNat ∧ lim.toNat ≤ sp.toNat - 32 ∧ DataAt p (sp.toNat - 32) 32

/-- The words of the frame of exception `x` (R226). -/
def frameOf (c : Core) (x : Exc) : List Word :=
  [x.epc, BitVec.ofNat 32 (c.cpl + 256 * c.world.bit + (if c.sup then 512 else 0)), x.cause, x.tval, c.get 1, c.get 5, c.get 10, c.get 11]

/-- An entry of vector `v` in world `w` can push its frame and read its handler. -/
def EntryReady (s : State) (p : Nat) (w : World) (v : Nat) : Prop :=
  s.hasCore p = true ∧ (s.core p).emg = false ∧ (s.flow p).stores = [] ∧ (s.flow p).coprocAhead = false ∧ s.ecc = [] ∧
    PushFits p ((s.core p).supSp w) (s.stackLimit p w) ∧
  HandlerAt s p w v ((s.core p).supSp w)

/-- Processor `p` has entered exception `x` (R226): its frame is pushed, and it continues at the handler in Supervisor level. -/
def Entered (s t : State) (p : Nat) (x : Exc) : Prop :=
  let c := s.core p
  let sp := c.supSp x.world
  t.core p = { c.setSupSp x.world (sp - 32) with
    cpl := x.cpl.getD c.cpl, pc := handlerOf s p x.world x.vec, world := x.world, sup := true } ∧
  (t.flow p).waiting = false ∧ (∀ j, j ≠ p → t.core j = s.core j) ∧
  BytesWritten s t (s.localToSystem p (sp.toNat - 32)) ((frameOf c x).flatMap bytesOf)

/-- Command `c` meets the synchronous exception `v` with TVAL `tval` at the present instruction of processor `p` (R213, R219 to R221, R224). -/
def Raises (dt : Nat) (s : State) (p : Fin 7) (c : Instr) (v : Nat) (tval : Word) : Prop :=
  let r := s.core p
  let ret := fun (k : Nat) => SRET_PIT.VALID.get (s.reg k)
  (c = .executeInstruction dt p ∧ s.ready p = true ∧ s.mayFetch p r.pc.toNat = false ∧ v = 2 ∧ tval = r.pc) ∨
  ∃ x, Standing s p x ∧
    ((c = .executeInstruction dt p ∧ x.instr = .illegal ∧ v = 1 ∧ tval = x.bits) ∨
     (c = .ertn dt p ∧ x.instr = .ertn ∧ r.sup = false ∧ v = 1 ∧ tval = x.bits) ∨
     (c = .ebreak dt p ∧ x.instr = .ebreak ∧ s.flag R.TS_SEC TS_SEC.DBG = false ∧ v = 7 ∧ tval = 0) ∨
     (c = .ecall dt p ∧ x.instr = .ecall ∧ v = 6 ∧ tval = x.bits ∧
       (SYSENT_PIT.EN.get (s.reg (sysentKey p r.world)) = 0 ∨ ret (sretKey p r.world) = 1)) ∨
     (c = .srtn dt p ∧ x.instr = .srtn ∧ ret (sretKey p r.world) = 0 ∧ v = 6 ∧ tval = x.bits) ∨
     (c = .xrtn dt p ∧ x.instr = .xrtn ∧ ret (xretKey p r.world) = 0 ∧ v = 6 ∧ tval = x.bits) ∨
     (∃ i, c = .xcall dt p ∧ x.instr = .xcall i ∧ v = 6 ∧ tval = x.bits ∧
       let e := s.reg (entryKey p i r.world.other)
       (ENTRY_PIT.EN.get e = 0 ∨ ret (xretKey p r.world.other) = 1 ∨ (r.sup = false ∧ ENTRY_PIT.UCALL.get e = 0))) ∨
     (∃ f rd rs1 off, c = .coreLoad dt p ∧ x.instr = .load f rd rs1 off ∧ tval = r.get rs1 + off ∧
       if tval.toNat % accessSize f ≠ 0 then v = 5
       else v = 3 ∧ (s.levelMay p UREG_PIT_CFG.R tval.toNat (accessSize f) = false ∨ s.route (s.localToSystem p tval.toNat) = .unmapped)) ∨
     (∃ f rs1 rs2 off, c = .coreStore dt p ∧ x.instr = .store f rs1 rs2 off ∧ tval = r.get rs1 + off ∧
       if tval.toNat % accessSize f ≠ 0 then v = 5
       else v = 4 ∧ (s.levelMay p UREG_PIT_CFG.W tval.toNat (accessSize f) = false ∨ s.route (s.localToSystem p tval.toNat) = .unmapped)))

/-- The commands of the coprocessor and the operation of each (R214). -/
def CoprocCommand (dt : Nat) (p : Fin 7) (c : Instr) (op : Nat) : Prop :=
  (c = .cpSincos dt p ∧ op = 0) ∨ (c = .cpAtan2 dt p ∧ op = 1) ∨ (c = .cpSqrt dt p ∧ op = 2) ∨ (c = .cpRecip dt p ∧ op = 3) ∨
  (c = .cpClarke dt p ∧ op = 4) ∨ (c = .cpIclarke dt p ∧ op = 5) ∨ (c = .cpPark dt p ∧ op = 6) ∨ (c = .cpIpark dt p ∧ op = 7)

/-- The commands that answer a remote request: a ring of a MAC that waits for it goes on and may store (R410). -/
def MayGoOn (c : Instr) : Prop :=
  match c with
  | .frameRdRsp .. | .frameWrRsp .. | .remoteAccessTimeout .. | .pcieOutboundCompletion .. | .pcieCompletionTimeout .. => True
  | _ => False

/-- The commands that may store a byte of memory; every other command keeps every byte. -/
def MayStore (c : Instr) : Prop :=
  match c with
  | .registerWrite .. | .executeInstruction .. | .coreLoad .. | .loadDataReturn .. | .coreStore .. | .storeBufferDrain ..
  | .storeError .. | .ecall .. | .ebreak .. | .srtn .. | .xcall .. | .xrtn .. | .ertn .. | .quiesce .. | .interruptEntry ..
  | .cpSincos .. | .cpAtan2 .. | .cpSqrt .. | .cpRecip .. | .cpClarke .. | .cpIclarke .. | .cpPark .. | .cpIpark ..
  | .resultDelivery .. | .pubQueueDrain .. | .angPulseAction .. | .angPublish .. | .signalValueWrite .. | .signalStatusWrite ..
  | .dmaWriteResponse .. | .scrubRead .. | .signalLaneRecord .. | .powerOn .. | .brownOut .. | .loadStart .. | .loadSectionsDone ..
  | .updateWindowWrite .. | .updStageDone .. | .frameSig .. | .frameWr .. | .macFrameReceive .. | .macFrameTransmit ..
  | .pcieInboundAccess .. | .dapWrite .. | .deputyResyncDone .. => True
  | .modeRequestRun .. | .modeRequestLimp .. | .modeRequestHold .. | .modeRequestPark .. | .releaseOpen .. | .releaseComplete ..
  | .softwareSystemReset .. | .softwareCoreReset .. | .cwdogEnable .. | .cwdogKick .. => True
  | _ => MayGoOn c

/-- A register command of master `a` at address `k` that a core meets as a store access fault where it may not write there, and whose
exception then pushes a frame (R224, R245, R331). -/
def MayTrap (c : Instr) (a : Access) (k : Nat) : Prop :=
  ∃ dt w, ((c = .modeRequestRun dt a w ∨ c = .modeRequestLimp dt a w ∨ c = .modeRequestHold dt a w ∨ c = .modeRequestPark dt a w) ∧
      k = R.MODE_CTL) ∨
    ((c = .releaseOpen dt a w ∨ c = .releaseComplete dt a w) ∧ k = R.MODE_REL) ∨
    ((c = .softwareSystemReset dt a w ∨ c = .softwareCoreReset dt a w) ∧ k = R.RST_REQ) ∨
    (∃ p, c = .cwdogEnable dt p a w ∧ k = ownAddr (R.CWDOG p)) ∨ ∃ p, c = .cwdogKick dt p a w ∧ k = ownAddr (R.CWDOG_KICK p)

/-- The syndrome of inverted positions: the XOR of their numbers (R274). -/
def errorSyndrome (m : BitVec 39) : Nat := (List.range 39).foldl (fun x i => if m.getLsbD i then x ^^^ i else x) 0

/-- The number of inverted positions is odd. -/
def errorOdd (m : BitVec 39) : Bool := (List.range 39).foldl (fun x i => x != m.getLsbD i) false

/-- The data bits of the codeword of `w` with the positions of `m` inverted (R274). -/
def damaged (w : Word) (m : BitVec 39) : Word := secData (secEncode w ^^^ m)

/-- An RW register, of one of several blocks, whose write does nothing but store (R4). -/
def PlainReg (k : Nat) : Prop :=
  k = R.TB_STEP_LO ∨ k = R.MI_INJ_LO ∨ (∃ m, m < 2 ∧ k = R.MAC_ADDR_LO m) ∨ k = R.PCIE_OBASE_LO ∨
  (∃ c i, c < 4 ∧ i < 32 ∧ k = R.CAN_FLT_MASK c i) ∨ (∃ f c, f < 8 ∧ c < 4 ∧ k = R.GSPI_PEXP f c)

end Sys2Proof.Safety
end

