-- ==== Sys2Proof/Certificates/Slice0/Obligations.lean ====
section
/-! DEFINITION. The statements for the provers. Every command carries the time dt that has passed since the step before (log entry 1). A
statement says what the state a command answers holds, and what it leaves as it was; a value that the manual leaves open is free, and a
statement holds whatever it is (log entry 5). The log entries a statement names are choices of the model, not rules of the manual. -/

open Sys2Proof Sys2Proof.Machine Sys2Proof.Safety

/-- A step takes the command at the front of the queue and runs it on the state with the rest of the queue; on an empty queue the block idles,
which is the model's choice (log entry 2). -/
def Obligations.StepRunsTheFrontCommand : Prop :=
  (∀ (s : State) (c : Instr) (rest : List Instr), s.pending = c :: rest → Machine.step s = Machine.exec c { s with pending := rest }) ∧
  ∀ s : State, s.pending = [] → Machine.step s = .next s

/-- No command is refused; a command that answers a next state leaves the queue as it was; and every command but those of `MayStore` leaves
every byte of memory as it was. So does the answer to a remote request while no ring of a MAC waits outside the device, and a register
command of `MayTrap` that is not refused at issue. Where the manual leaves a choice, this follows the model's: log entry 3. -/
def Obligations.CommandsKeepQueueAndBytes : Prop :=
  ∀ (c : Instr) (s : State),
    (∀ r, Machine.exec c s ≠ .refused r) ∧
    ∀ t, Machine.exec c s = .next t → t.pending = s.pending ∧ (¬ MayStore c → SameBytes s t) ∧
      (MayGoOn c → NoMacJobs s → SameBytes s t) ∧ ∀ a k, MayTrap c a k → s.faultsAtIssue a k = none → SameBytes s t

/-- Every step keeps the canonical form of memory: addresses strictly rise, and no byte is listed that reads as an unlisted one does. Where
the manual leaves a choice, this follows the model's: log entry 7. -/
def Obligations.MemoryStaysCanonical : Prop :=
  ∀ s t : State, Memory.wf s.mem = true → Machine.step s = .next t → Memory.wf t.mem = true

/-- R8, R273, R332, R344: right after power-on every register holds its reset value but RST_CAUSE, whose POR is set; every byte of memory
reads zero, and memory is canonical; the mode is LOAD; every processor is in reset; no command waits. Where the manual leaves a choice,
this follows the model's: log entries 6, 7, 83. -/
def Obligations.ResetState : Prop :=
  Memory.wf State.reset.mem = true ∧ State.reset.pending = [] ∧ (∀ x, State.reset.byte x = 0) ∧
  State.reset.reg R.RST_CAUSE = RST_CAUSE.POR.mask ∧ (∀ k, k ≠ R.RST_CAUSE → State.reset.reg k = regReset k) ∧
  State.reset.mode = 0 ∧ ∀ p, p < 7 → (State.reset.core p).running = false

/-- R274, R275: what a read delivers of the codeword of `w` with the positions of `m` inverted, by the syndrome and parity of those positions;
so one inverted position is always corrected, and two always make the word uncorrectable. -/
def Obligations.SecDedOutcomes : Prop :=
  ∀ (w : Word) (m : BitVec 39),
    (errorSyndrome m = 0 → errorOdd m = false → eccRead w m = .clean (damaged w m)) ∧
    (errorSyndrome m = 0 → errorOdd m = true → eccRead w m = .corrected (damaged w m)) ∧
    (1 ≤ errorSyndrome m → errorSyndrome m ≤ 38 → errorOdd m = true →
      eccRead w m = .corrected (damaged w (m ^^^ (1#39 <<< errorSyndrome m)))) ∧
    (39 ≤ errorSyndrome m → errorOdd m = true → eccRead w m = .bad (damaged w m)) ∧
    (errorSyndrome m ≠ 0 → errorOdd m = false → eccRead w m = .bad (damaged w m)) ∧
    damaged w 0 = w ∧
    (∀ i, i < 39 → eccRead w (1#39 <<< i) = .corrected w) ∧
    (∀ i j, i < j → j < 39 → ∃ x, eccRead w (1#39 <<< i ^^^ 1#39 <<< j) = .bad x)

/-- R4, R5, R18, R19, R31: a write of a whole word from Pit world stores RW fields, clears W1C bits that it writes 1 and leaves RO fields;
a Bank-world write to a Pit-owned register changes nothing there and returns an error response; so does a DMA channel's write to an
unmapped address, while a core that writes there meets a store access fault. Where the manual leaves a choice, this follows the model's:
log entries 58, 94. -/
def Obligations.RegisterWrites : Prop :=
  ∀ (dt : Nat) (a : Access) (w : Word) (s : State) (k : Nat),
    (PitWord a → CleanWord k w → PlainReg k →
      ∃ t, Machine.exec (.registerWrite dt a (BitVec.ofNat 32 k) w) s = .next t ∧ t.reg k = stored s k w ∧ RegsBut (· = k) s t ∧
        SameBytes s t) ∧
    (PitWord a → CleanWord k w → (k = R.MI_STAT ∨ k = R.TB_STAT) → AMap.get 0 (s.advance dt).hwSet k = 0 →
      ∃ t, Machine.exec (.registerWrite dt a (BitVec.ofNat 32 k) w) s = .next t ∧ t.reg k = s.reg k &&& ~~~(w &&& tyMask k .w1c) ∧
        RegsBut (· = k) s t ∧ SameBytes s t) ∧
    (PitWord a → CleanWord k w → (k = R.MI_UE_LO ∨ k = R.IDREV) →
      ∃ t, Machine.exec (.registerWrite dt a (BitVec.ofNat 32 k) w) s = .next t ∧ RegsBut (fun _ => False) s t ∧ SameBytes s t) ∧
    (a.world = .bank → a.master < 7 → (k = R.MI_INJ_LO ∨ ∃ f c, f < 8 ∧ c < 4 ∧ k = R.GSPI_PEXP f c) → (s.flow a.master).storeErr = none →
      s.lg.held = [] → s.lg.queue.length < 16 →
      ∃ t, Machine.exec (.registerWrite dt a (BitVec.ofNat 32 k) w) s = .next t ∧ RegsBut (fun _ => False) s t ∧ SameBytes s t ∧
        (t.flow a.master).storeErr = some (BitVec.ofNat 32 k) ∧
        ∃ x, t.lg.queue = s.lg.queue ++ [x] ∧ x.code = 0x0010 ∧ x.cls = 0 ∧ x.detail = BitVec.ofNat 32 k) ∧
    (a.world = .bank → 0x10 ≤ a.master → a.master < 0x50 → k = R.MI_INJ_LO ∨ (0x0A000000 ≤ k ∧ k < 0x20000000) →
      ∃ t, Machine.exec (.registerWrite dt a (BitVec.ofNat 32 k) w) s = .next t ∧
        t.flag (R.DMA_STAT (a.master - 0x10)) DMA_STAT.ERR = true ∧ t.fld (R.DMA_STAT (a.master - 0x10)) DMA_STAT.ERR_CODE = 2 ∧
        RegsBut (fun j => j = R.DMA_STAT (a.master - 0x10) ∨ TallyReg j) s t ∧ SameBytes s t) ∧
    (∀ p : Fin 7, a.master = p.val → 0x0A000000 ≤ k → k < 0x20000000 → EntryReady s p (s.core p).world 4 →
      ∃ t, Machine.exec (.registerWrite dt a (BitVec.ofNat 32 k) w) s = .next t ∧ RegsBut (· = R.MI_INJ_CTL) s t ∧
        Entered s t p { vec := 4, cause := 4, tval := BitVec.ofNat 32 k, world := (s.core p).world, cpl := none, epc := (s.core p).pc })

/-- R82, R84, R86: ADD, SUB, MUL, MIN, MAX, AND, OR and XOR write their result of sources A and B to the destination. R82, R84, R86: MOV,
NEG, ABS, SHL, SHR and RDA, and LIM, which limits the value held in the destination. R84, R86: MAC, MSU, ACLR, ACCA, ACCL and ACLM on the
accumulator; MAC and MSU also write ACC limited to 32 bits to the destination unless it is none. R84: a result or ACC that saturates, and
a read of ACCS that limits ACC, sets LE_STAT.SAT; no other flag is set. Where the manual leaves a choice, this follows the model's: log
entries 50, 51. -/
def Obligations.ArithmeticLoopSteps : Prop :=
  (∀ (dt : Nat) (e : Fin 136) (s : State) (r : Run), Running s e r →
     (r.step.op = 0x03 → ∃ t, Machine.exec (.stAdd dt e) s = .next t ∧
       StepWrote s t e r (lim32 ((wordA s e r).toInt + (wordB s e r).toInt)) ∧ StepWent t e r 1 ∧ StepFrame s t e ∧
       StepFlags s t e (Sat (Over32 ((wordA s e r).toInt + (wordB s e r).toInt) ∨ SatA s e r ∨ SatB s e r))) ∧
     (r.step.op = 0x04 → ∃ t, Machine.exec (.stSub dt e) s = .next t ∧
       StepWrote s t e r (lim32 ((wordA s e r).toInt - (wordB s e r).toInt)) ∧ StepWent t e r 1 ∧ StepFrame s t e ∧
       StepFlags s t e (Sat (Over32 ((wordA s e r).toInt - (wordB s e r).toInt) ∨ SatA s e r ∨ SatB s e r))) ∧
     (r.step.op = 0x0C → ∃ t, Machine.exec (.stMul dt e) s = .next t ∧
       StepWrote s t e r (lim32 (shiftRounded ((wordA s e r).toInt * (wordB s e r).toInt) (31 - r.step.sh))) ∧
       StepWent t e r 1 ∧ StepFrame s t e ∧
       StepFlags s t e (Sat (Over32 (shiftRounded ((wordA s e r).toInt * (wordB s e r).toInt) (31 - r.step.sh)) ∨ SatA s e r ∨ SatB s e r))) ∧
     (r.step.op = 0x07 → ∃ t, Machine.exec (.stMin dt e) s = .next t ∧
       StepWrote s t e r (min (wordA s e r).toInt (wordB s e r).toInt) ∧ StepWent t e r 1 ∧ StepFrame s t e ∧
       StepFlags s t e (Sat (SatA s e r ∨ SatB s e r))) ∧
     (r.step.op = 0x08 → ∃ t, Machine.exec (.stMax dt e) s = .next t ∧
       StepWrote s t e r (max (wordA s e r).toInt (wordB s e r).toInt) ∧ StepWent t e r 1 ∧ StepFrame s t e ∧
       StepFlags s t e (Sat (SatA s e r ∨ SatB s e r))) ∧
     (r.step.op = 0x1A → ∃ t, Machine.exec (.stAnd dt e) s = .next t ∧
       StepWrote s t e r (wordA s e r &&& wordB s e r).toInt ∧ StepWent t e r 1 ∧ StepFrame s t e ∧
       StepFlags s t e (Sat (SatA s e r ∨ SatB s e r))) ∧
     (r.step.op = 0x1B → ∃ t, Machine.exec (.stOr dt e) s = .next t ∧
       StepWrote s t e r (wordA s e r ||| wordB s e r).toInt ∧ StepWent t e r 1 ∧ StepFrame s t e ∧
       StepFlags s t e (Sat (SatA s e r ∨ SatB s e r))) ∧
     (r.step.op = 0x1C → ∃ t, Machine.exec (.stXor dt e) s = .next t ∧
       StepWrote s t e r (wordA s e r ^^^ wordB s e r).toInt ∧ StepWent t e r 1 ∧ StepFrame s t e ∧
       StepFlags s t e (Sat (SatA s e r ∨ SatB s e r)))) ∧
  (∀ (dt : Nat) (e : Fin 136) (s : State) (r : Run), Running s e r →
     (r.step.op = 0x02 → ∃ t, Machine.exec (.stMov dt e) s = .next t ∧
       StepWrote s t e r (wordA s e r).toInt ∧ StepWent t e r 1 ∧ StepFrame s t e ∧
       StepFlags s t e (Sat (SatA s e r))) ∧
     (r.step.op = 0x05 → ∃ t, Machine.exec (.stNeg dt e) s = .next t ∧
       StepWrote s t e r (lim32 (-(wordA s e r).toInt)) ∧ StepWent t e r 1 ∧ StepFrame s t e ∧
       StepFlags s t e (Sat (Over32 (-(wordA s e r).toInt) ∨ SatA s e r))) ∧
     (r.step.op = 0x06 → ∃ t, Machine.exec (.stAbs dt e) s = .next t ∧
       StepWrote s t e r (lim32 (wordA s e r).toInt.natAbs) ∧ StepWent t e r 1 ∧ StepFrame s t e ∧
       StepFlags s t e (Sat (Over32 (wordA s e r).toInt.natAbs ∨ SatA s e r))) ∧
     (r.step.op = 0x0A → ∃ t, Machine.exec (.stShl dt e) s = .next t ∧
       StepWrote s t e r (lim32 ((wordA s e r).toInt * 2 ^ r.step.sh)) ∧ StepWent t e r 1 ∧ StepFrame s t e ∧
       StepFlags s t e (Sat (Over32 ((wordA s e r).toInt * 2 ^ r.step.sh) ∨ SatA s e r))) ∧
     (r.step.op = 0x0B → ∃ t, Machine.exec (.stShr dt e) s = .next t ∧
       StepWrote s t e r (lim32 (shiftRounded (wordA s e r).toInt r.step.sh)) ∧ StepWent t e r 1 ∧ StepFrame s t e ∧
       StepFlags s t e (Sat (Over32 (shiftRounded (wordA s e r).toInt r.step.sh) ∨ SatA s e r))) ∧
     (r.step.op = 0x13 → ∃ t, Machine.exec (.stRda dt e) s = .next t ∧
       StepWrote s t e r (lim32 (shiftRounded (s.eng e).acc r.step.sh)) ∧ StepWent t e r 1 ∧ StepFrame s t e ∧
       StepFlags s t e (Sat (Over32 (shiftRounded (s.eng e).acc r.step.sh)))) ∧
     (r.step.op = 0x09 → ∃ t, Machine.exec (.stLim dt e) s = .next t ∧
       StepWrote s t e r (lim32 (min (max (if r.step.dst = 9 then (s.eng e).acc else (s.wreg e r.step.dst).toInt)
         (wordA s e r).toInt) (wordB s e r).toInt)) ∧ StepWent t e r 1 ∧ StepFrame s t e ∧
       StepFlags s t e (Sat (Over32 (min (max (if r.step.dst = 9 then (s.eng e).acc else (s.wreg e r.step.dst).toInt) (wordA s e r).toInt) (wordB s e r).toInt) ∨ SatA s e r ∨ SatB s e r)))) ∧
  (∀ (dt : Nat) (e : Fin 136) (s : State) (r : Run), Running s e r →
     (r.step.op = 0x0D → ∃ t, Machine.exec (.stMac dt e) s = .next t ∧
       (let a := lim48 ((s.eng e).acc + shiftRounded ((wordA s e r).toInt * (wordB s e r).toInt) (31 - r.step.sh))
        StepLeft t e (fun i => if i = r.step.dst then BitVec.ofInt 32 (lim32 a) else s.wreg e i)
          (if r.step.dst = 9 then lim32 a else a)) ∧ StepWent t e r 1 ∧ StepFrame s t e ∧
       (let x := (s.eng e).acc + shiftRounded ((wordA s e r).toInt * (wordB s e r).toInt) (31 - r.step.sh)
        StepFlags s t e (Sat (Over48 x ∨ ((r.step.dst < 8 ∨ r.step.dst = 9) ∧ Over32 (lim48 x)) ∨ SatA s e r ∨ SatB s e r)))) ∧
     (r.step.op = 0x0E → ∃ t, Machine.exec (.stMsu dt e) s = .next t ∧
       (let a := lim48 ((s.eng e).acc - shiftRounded ((wordA s e r).toInt * (wordB s e r).toInt) (31 - r.step.sh))
        StepLeft t e (fun i => if i = r.step.dst then BitVec.ofInt 32 (lim32 a) else s.wreg e i)
          (if r.step.dst = 9 then lim32 a else a)) ∧ StepWent t e r 1 ∧ StepFrame s t e ∧
       (let x := (s.eng e).acc - shiftRounded ((wordA s e r).toInt * (wordB s e r).toInt) (31 - r.step.sh)
        StepFlags s t e (Sat (Over48 x ∨ ((r.step.dst < 8 ∨ r.step.dst = 9) ∧ Over32 (lim48 x)) ∨ SatA s e r ∨ SatB s e r)))) ∧
     (r.step.op = 0x0F → ∃ t, Machine.exec (.stAclr dt e) s = .next t ∧
       StepLeft t e (s.wreg e) 0 ∧ StepWent t e r 1 ∧ StepFrame s t e ∧
       StepFlags s t e (Sat (False))) ∧
     (r.step.op = 0x10 → ∃ t, Machine.exec (.stAcca dt e) s = .next t ∧
       StepLeft t e (s.wreg e) (lim48 ((s.eng e).acc + (wordA s e r).toInt * 2 ^ r.step.sh)) ∧
       StepWent t e r 1 ∧ StepFrame s t e ∧
       StepFlags s t e (Sat (Over48 ((s.eng e).acc + (wordA s e r).toInt * 2 ^ r.step.sh) ∨ SatA s e r))) ∧
     (r.step.op = 0x11 → ∃ t, Machine.exec (.stAccl dt e) s = .next t ∧
       StepLeft t e (s.wreg e) (lim48 ((wordA s e r).toInt * 2 ^ r.step.sh)) ∧ StepWent t e r 1 ∧ StepFrame s t e ∧
       StepFlags s t e (Sat (Over48 ((wordA s e r).toInt * 2 ^ r.step.sh) ∨ SatA s e r))) ∧
     (r.step.op = 0x12 → ∃ t, Machine.exec (.stAclm dt e) s = .next t ∧
       StepLeft t e (s.wreg e) (min (max (s.eng e).acc (wordA s e r).toInt) (wordB s e r).toInt) ∧
       StepWent t e r 1 ∧ StepFrame s t e ∧
       StepFlags s t e (Sat (SatA s e r ∨ SatB s e r))))

/-- R78, R84, R86: NOP, a reserved operation, SKC and END: no working register changes; the run goes on by one step, skips, or ends and
counts. R87, R91, R94, R105: CMT and CMTT commit A to a leg of the bridge, and PUB puts A into the engine's publish queue; a commit to a
leg the bridge lacks, or from a follower, sets CMT_REJ, and a PUB that finds four entries waiting sets PUB_DROP. R84: a read of ACCS that
limits ACC sets SAT. Where the manual leaves a choice, this follows the model's: log entry 50. -/
def Obligations.SteeringAndSendingLoopSteps : Prop :=
  (∀ (dt : Nat) (e : Fin 136) (s : State) (r : Run), Running s e r →
     (r.step.op = 0x00 → ∃ t, Machine.exec (.stNop dt e) s = .next t ∧
       StepLeft t e (s.wreg e) (s.eng e).acc ∧ StepWent t e r 1 ∧ StepFrame s t e ∧
       StepFlags s t e (fun _ => False)) ∧
     (0x1D ≤ r.step.op → ∃ t, Machine.exec (.stBadop dt e) s = .next t ∧
       StepLeft t e (s.wreg e) (s.eng e).acc ∧ StepWent t e r 1 ∧ StepFrame s t e ∧
       StepFlags s t e (· = LE_STAT.BADOP)) ∧
     (r.step.op = 0x19 → ∃ t, Machine.exec (.stSkc dt e) s = .next t ∧
       StepLeft t e (s.wreg e) (s.eng e).acc ∧ StepFrame s t e ∧
       StepWent t e r (if skcHolds (r.step.aux % 8) (wordA s e r) (wordB s e r) then 1 + max 1 r.step.sh else 1) ∧
       StepFlags s t e (Sat (SatA s e r ∨ SatB s e r))) ∧
     (r.step.op = 0x01 → ∃ t, Machine.exec (.stEnd dt e) s = .next t ∧
       StepLeft t e (s.wreg e) (s.eng e).acc ∧ (t.eng e).run = none ∧ StepFrame s t e ∧
       StepFlags s t e (fun _ => False) ∧
       (s.takesEffect e = true → t.fld (R.LE_STAT (s.engChan e)) LE_STAT.RUN_CNT =
         (s.fld (R.LE_STAT (s.engChan e)) LE_STAT.RUN_CNT + 1) % 256))) ∧
  (∀ (dt : Nat) (e : Fin 136) (s : State) (r : Run), Running s e r → GoesOn r 1 → s.takesEffect e = true →
     (∀ frac : Bool, r.step.op = (if frac then 0x16 else 0x17) →
       ∃ t, Machine.exec (if frac then .stCmt dt e else .stCmtt dt e) s = .next t ∧ StepFrame s t e ∧ StepLeft t e (s.wreg e) (s.eng e).acc ∧
         (let n := s.engChan e
          let leg := r.step.aux % 8
          if s.leaderOf n = n ∧ leg ≤ s.fld (R.CH_BRIDGE n) CH_BRIDGE.LEGS then
            (t.chan (n + leg)).commits = (s.chan (n + leg)).commits ++ [{ frac := frac, value := wordA s e r }] ∧
            (t.eng e).run = some { r with pc := r.pc + 1, outs := r.outs ++ [.commit leg frac (wordA s e r)] } ∧
            StepFlags s t e (Sat (SatA s e r))
          else (∀ j, t.chan j = s.chan j) ∧ StepWent t e r 1 ∧
            StepFlags s t e (fun f => f = LE_STAT.CMT_REJ ∨ Sat (SatA s e r) f))) ∧
     (r.step.op = 0x18 → ∃ t, Machine.exec (.stPub dt e) s = .next t ∧ StepFrame s t e ∧ (∀ j, t.chan j = s.chan j) ∧
       StepLeft t e (s.wreg e) (s.eng e).acc ∧
       (t.eng e).run = some { r with pc := r.pc + 1, outs := r.outs ++ [.pub (r.step.imm.toNat % 2 ^ 17) (wordA s e r)] } ∧
       (if (s.eng e).pubq.length < 4 then
          (t.eng e).pubq = (s.eng e).pubq ++
            [{ sig := r.step.imm.toNat % 2 ^ 17, value := wordA s e r, qual := if r.flg &&& 7 = 0 then 0 else 1 }] ∧
          StepFlags s t e (Sat (SatA s e r))
        else (t.eng e).pubq = (s.eng e).pubq ∧ StepFlags s t e (fun f => f = LE_STAT.PUB_DROP ∨ Sat (SatA s e r) f))))

/-- R84, R97, R98, R99, R104: each transform function, from an engine that owns a unit of its face, writes its results near the exact ones
and sets SAT where one saturates; from any other engine the step changes no working register and sets XFM_REJ; in a shadow state the engine
that takes effect goes first. TBL interpolates between two entries of the bank that is active, A below zero acting as zero, where both
entries are read without error; an uncorrectable entry gives 0x7FFF_FFFF and sets MEMERR. Where the manual leaves a choice, this follows
the model's: log entries 50, 55. -/
def Obligations.StepsOfTransformsAndTables : Prop :=
  ∀ (dt : Nat) (e : Fin 136) (s : State) (r : Run), Running s e r →
    (r.step.op = 0x15 →
    let th := (wordA s e r).toNat
    let a := xfmIn s e 0
    let b := xfmIn s e 1
    let c := xfmIn s e 2
    ∀ cmd duty outs,
      ((r.step.aux % 8 = 0 ∧ cmd = .stClarke dt e ∧ duty = false ∧ outs = [(clarke a b c).1, (clarke a b c).2.1, (clarke a b c).2.2]) ∨
       (r.step.aux % 8 = 1 ∧ cmd = .stPark dt e ∧ duty = false ∧ outs = [(park th a b).1, (park th a b).2]) ∨
       (r.step.aux % 8 = 2 ∧ cmd = .stIpark dt e ∧ duty = false ∧ outs = [(ipark th a b).1, (ipark th a b).2]) ∨
       (r.step.aux % 8 = 3 ∧ cmd = .stIclarke dt e ∧ duty = false ∧ outs = [(iclarke a b).1, (iclarke a b).2.1, (iclarke a b).2.2]) ∨
       (r.step.aux % 8 = 4 ∧ cmd = .stFwd dt e ∧ duty = false ∧
         outs = (let x := clarke a b c; let y := park th x.1 x.2.1; [y.1, y.2, x.2.2])) ∨
       (r.step.aux % 8 = 5 ∧ cmd = .stInv dt e ∧ duty = false ∧
         outs = (let x := ipark th a b; let y := iclarke x.1 x.2; [y.1, y.2.1, y.2.2])) ∨
       (r.step.aux % 8 = 6 ∧ cmd = .stSvpwm dt e ∧ duty = true ∧
         outs = (let x := ipark th a b; let y := iclarke x.1 x.2
                 let h := (max y.1 (max y.2.1 y.2.2) + min y.1 (min y.2.1 y.2.2)) / 2
                 [2 ^ 63 + y.1 - h, 2 ^ 63 + y.2.1 - h, 2 ^ 63 + y.2.2 - h])) ∨
       (r.step.aux % 8 = 7 ∧ cmd = .stSincos dt e ∧ duty = false ∧ outs = [(cosSin th).1, (cosSin th).2])) →
      (s.xfmWaits e = true → ∃ t, Machine.exec cmd s = .next t ∧ (∀ j, t.eng j = s.eng j) ∧ RegsBut (fun _ => False) s t) ∧
      (s.xfmWaits e = false → ∃ t, Machine.exec cmd s = .next t ∧ StepWent t e r 1 ∧ StepFrame s t e ∧
        (if s.ownsUnit e then
           ∃ vs, XfmWrote s t e duty outs vs ∧ StepFlags s t e (Sat ((∃ v, v ∈ vs ∧ Over32 (if duty then max 0 v else v)) ∨ SatA s e r))
         else StepLeft t e (s.wreg e) (s.eng e).acc ∧ StepFlags s t e (· = LE_STAT.XFM_REJ)))) ∧
    (r.step.op = 0x14 →
      let bl := AMap.get 2 r.banks r.step.aux
      let k := 31 - bl / 2
      let u := if (wordA s e r).toInt < 0 then 0 else (wordA s e r).toNat
      let entry := fun i => tableAddr (s.engFace e) r.step.aux (bl % 2) (u / 2 ^ k + i)
      let bad := fun i => ∃ x, eccRead (s.reg (entry i)) (s.eccMask (entry i)) = .bad x
      let y := (s.reg (entry 0)).toInt + shiftRounded (((s.reg (entry 1)).toInt - (s.reg (entry 0)).toInt) * (u % 2 ^ k : Nat)) k
      1 ≤ bl / 2 → bl / 2 ≤ 9 →
      (s.eccMask (entry 0) = 0 → s.eccMask (entry 1) = 0 →
        ∃ t, Machine.exec (.stTbl dt e) s = .next t ∧ StepWent t e r 1 ∧ StepFrame s t e ∧ StepWrote s t e r (lim32 y) ∧
          StepFlags s t e (Sat (Over32 y ∨ SatA s e r))) ∧
      (bad 0 ∨ bad 1 → ∃ t, Machine.exec (.stTbl dt e) s = .next t ∧ StepWent t e r 1 ∧ StepWrote s t e r 0x7FFFFFFF ∧
        StepFlags s t e (Sat (SatA s e r)) ∧ SameBytes s t ∧ RegsBut (fun i => StepReg (s.engChan e) i ∨ ErrorReg i) s t ∧
        (s.takesEffect e = true → t.flag (R.LE_STAT (s.engChan e)) LE_STAT.MEMERR = true)))

/-- R18, R80, R107, R108: a Pit-world write to W0 to W7, to ACC_LO or to ACC_HI of an engine that runs nothing. A W takes the word; ACC_LO
is held; ACC_HI loads all of ACC, its low bits from the held word where there is one. While the engine runs, a W or ACC waits for the end
of the run, and takes effect at its END; of two that wait for one register the later prevails. R75, R77, R79, R82: a start request that
finds the engine busy is discarded, sets OVR and counts; one that finds every engine of the channel free starts a run from the snapshot at
step 0, where the channel's group runs and no step word holds an error. R76: 100 ns after the first leg's result a run is requested
without the legs that miss. Where the manual leaves a choice, this follows the model's: log entries 52, 54, 56. -/
def Obligations.EngineRunsAndState : Prop :=
  (∀ (dt : Nat) (a : Access) (n : Fin 128) (i : Fin 8) (w : Word) (s : State), PitWord a →
     let e := s.stateEngine n
     let q := s.eng e
     let frame := fun (t : State) => (∀ j, j ≠ e → t.eng j = s.eng j) ∧ RegsBut (· = R.MI_INJ_CTL) s t ∧ SameBytes s t
     (∃ t, Machine.exec (.engineStateWrite dt a n i w) s = .next t ∧ frame t ∧ (t.eng e).acc = q.acc ∧
       (if q.run = none then t.wreg e i = w ∧ ∀ j, j ≠ i.val → t.wreg e j = s.wreg e j
        else t.wreg e = s.wreg e ∧ (t.eng e).waiting = q.waiting ++ [.w i w])) ∧
     (∃ t, Machine.exec (.accLo dt a n w) s = .next t ∧ frame t ∧ t.eng e = { q with accLo := some w, accLoMask := (t.eng e).accLoMask }) ∧
     (∃ t, Machine.exec (.accHi dt a n w) s = .next t ∧ frame t ∧ (t.eng e).accLo = none ∧ t.wreg e = s.wreg e ∧
       (if q.run = none then
          (t.eng e).acc = (((w.truncate 16 : BitVec 16) ++ q.accLo.getD (BitVec.ofInt 32 q.acc)) : BitVec 48).toInt
        else (t.eng e).acc = q.acc ∧ (t.eng e).waiting = q.waiting ++ [.acc w q.accLo]))) ∧
  (∀ (dt : Nat) (e : Fin 136) (s : State) (r : Run), (s.eng e).run = some r → r.step.op = 0x01 → (s.eng e).loadAtEnd = false →
     let l := (s.eng e).waiting
     ∃ t, Machine.exec (.stEnd dt e) s = .next t ∧ (t.eng e).run = none ∧ (t.eng e).waiting = [] ∧ SameBytes s t ∧
       (∀ l' i w, l = l' ++ [.w i w] → t.wreg e i = w) ∧
       (∀ l' hi lo, l = l' ++ [.acc hi (some lo)] → (t.eng e).acc = (((hi.truncate 16 : BitVec 16) ++ lo) : BitVec 48).toInt) ∧
       (∀ i, (∀ x, x ∈ l → ∃ j w, x = .w j w ∧ j ≠ i) → t.wreg e i = s.wreg e i) ∧
       ((∀ x, x ∈ l → ∃ j w, x = .w j w) → (t.eng e).acc = (s.eng e).acc)) ∧
  (∀ (dt : Nat) (e : Fin 136) (s : State),
     let n := s.engChan e
     (s.eng n).starts ≠ 0 →
     ((s.eng (s.effEngine n)).run.isSome = true → ∃ t, Machine.exec (.loopRunStart dt e) s = .next t ∧
       t.reg (R.LE_STAT n) = LE_STAT.OVR_CNT.put (s.reg (R.LE_STAT n)) (satInc 255 (s.fld (R.LE_STAT n) LE_STAT.OVR_CNT)) |||
         LE_STAT.OVR.mask ∧ (∀ j, (t.eng j).run = (s.eng j).run) ∧ RegsBut (· = R.LE_STAT n) s t) ∧
     (s.groupRuns (s.cgOf n) = true → (∀ x, x ∈ s.enginesOf n → (s.eng x).run = none) →
       (∀ i h, s.eccMask (stepAddr n i h) = 0) →
       ∃ t r, Machine.exec (.loopRunStart dt e) s = .next t ∧ (∀ x, x ∈ s.enginesOf n → (t.eng x).run = some r) ∧
         r.pc = 0 ∧ (∀ i, r.cleanAt i = true) ∧ r.program = s.programOf n ∧ r.inputs = (s.eng n).inputs ∧ r.duty = s.reg (R.CH_DUTY_LIVE n) ∧
         (∀ j, j ∉ s.enginesOf n → (t.eng j).run = (s.eng j).run) ∧ RegsBut (· = R.LE_STAT n) s t)) ∧
  (∀ (dt : Nat) (e : Fin 136) (s : State) (at_ : Time),
     let n := s.engChan e
     (s.eng n).firstAt = some at_ → Time.reached (s.advance dt).now (at_ + 20000) = true →
     ∃ t, Machine.exec (.legWaitTimeout dt e) s = .next t ∧ (t.eng n).legMiss = true ∧ (t.eng n).firstAt = none ∧
       (t.eng n).starts = (s.eng n).starts + 1 ∧ (∀ j, j ≠ n → t.eng j = s.eng j) ∧ RegsBut (fun _ => False) s t)

/-- R100, R101: what each command of a table does. Where the manual leaves a choice, this follows the model's: log entry 42. -/
def Obligations.TableCommands : Prop :=
  ∀ (dt : Nat) (a : Access) (f : Fin 8) (t : Fin 32) (b : Bool) (j : Fin 513) (w : Word) (s : State), PitWord a →
    let k := R.FACE_TBL_STAT f t
    let open_ := s.flag k FACE_TBL_STAT.OUTSTANDING
    let checking := s.flag k FACE_TBL_STAT.CHECKING
    let one := fun (w : Word) => FACE_TBL_CTL.OPEN.get w + FACE_TBL_CTL.COMMIT.get w + FACE_TBL_CTL.ABANDON.get w ≤ 1
    (∃ u, Machine.exec (.tableWrite dt a f t b j w) s = .next u ∧
      (if s.fld k FACE_TBL_STAT.ACTIVE = b.toNat ∨ open_ = false ∨ checking = true then
         u.reg k = s.reg k ||| FACE_TBL_STAT.WR_REJ.mask ∧ RegsBut (· = k) s u
       else u.reg (tableAddr f t b.toNat j) = w ∧ u.reg k = FACE_TBL_STAT.PASSED.put (s.reg k) 0 ∧
         RegsBut (fun i => i = k ∨ i = tableAddr f t b.toNat j ∨ i = R.MI_INJ_CTL) s u)) ∧
    (CleanWord (R.FACE_TBL_CTL f t) (FACE_TBL_CTL.OPEN.put w 1) →
      ∃ u, Machine.exec (.tblOpen dt a f t w) s = .next u ∧ RegsBut (· = k) s u ∧
        u.reg k = (if one (FACE_TBL_CTL.OPEN.put w 1) ∧ open_ = false then
          FACE_TBL_STAT.STALE.put (FACE_TBL_STAT.OUTSTANDING.put (s.reg k) 1) 0 else s.reg k ||| FACE_TBL_STAT.CMD_REJ.mask)) ∧
    (CleanWord (R.FACE_TBL_CTL f t) (FACE_TBL_CTL.COMMIT.put w 1) →
      ∃ u, Machine.exec (.tblCommit dt a f t w) s = .next u ∧ RegsBut (· = k) s u ∧
        (if one (FACE_TBL_CTL.COMMIT.put w 1) ∧ open_ = true ∧ checking = false then
          u.reg k = FACE_TBL_STAT.CHECKING.put (FACE_TBL_STAT.PASSED.put (s.reg k) 0) 1 ∧
          (u.tblOf (32 * f + t)).captured = s.fld (R.FACE_TBL_CFG f t) FACE_TBL_CFG.L_NEXT
         else u.reg k = s.reg k ||| FACE_TBL_STAT.CMD_REJ.mask)) ∧
    (CleanWord (R.FACE_TBL_CTL f t) (FACE_TBL_CTL.ABANDON.put w 1) →
      ∃ u, Machine.exec (.tblAbandon dt a f t w) s = .next u ∧ RegsBut (· = k) s u ∧
        u.reg k = (if one (FACE_TBL_CTL.ABANDON.put w 1) then
          FACE_TBL_STAT.PASSED.put (FACE_TBL_STAT.CHECKING.put (FACE_TBL_STAT.OUTSTANDING.put (s.reg k) 0) 0) 0
         else s.reg k ||| FACE_TBL_STAT.CMD_REJ.mask)) ∧
    (checking = true → s.ecc = [] →
      let l := (s.tblOf (32 * f + t)).captured
      let bytes := (List.range (2 ^ l + 1)).flatMap (fun i => bytesOf (s.reg (tableAddr f t (1 - s.fld k FACE_TBL_STAT.ACTIVE) i)))
      ∃ u, Machine.exec (.tableCheckDone dt f t) s = .next u ∧ u.flag k FACE_TBL_STAT.CHECKING = false ∧ RegsBut (· = k) s u ∧
        (if 1 ≤ l ∧ l ≤ 9 ∧ crc32 bytes = s.reg (R.FACE_TBL_CRC f t) then
           u.flag k FACE_TBL_STAT.FAIL = s.flag k FACE_TBL_STAT.FAIL ∧
           (s.groupRuns (s.tblGroup f t) = true → u.flag k FACE_TBL_STAT.PASSED = true ∧
             u.fld k FACE_TBL_STAT.ACTIVE = s.fld k FACE_TBL_STAT.ACTIVE) ∧
           (s.groupRuns (s.tblGroup f t) = false → u.fld k FACE_TBL_STAT.ACTIVE = 1 - s.fld k FACE_TBL_STAT.ACTIVE)
         else u.flag k FACE_TBL_STAT.FAIL = true ∧ u.fld k FACE_TBL_STAT.ACTIVE = s.fld k FACE_TBL_STAT.ACTIVE))

/-- R43, R44, R45, R46: a software trigger and a free-running request put a start request on its way; a request that finds its converter busy
is discarded and counted, else it is accepted with its sampling instant, and one that was accepted after it, though scheduled later, gives
way and is counted; at that instant the converter holds its sample. R39, R47, R48, R49, R51:
40 ns after its sampling instant a conversion ends: the raw code, that of the pins unless an internal source was selected, is corrected with
the coefficients of the gain in force and limited, CH_RESULT and CH_SMP_TIME show a result of the channel's own converter, and CLIP sets
where R49 says. A corrected value on its way to the
loop engine arrives as the value times 2^16 where the channel does not decimate. Where the manual leaves a choice, this follows the
model's: log entries 36, 37, 45, 110. -/
def Obligations.Conversions : Prop :=
  (∀ (dt : Nat) (s : State),
     (∀ (a : Access) (n : Fin 128) (w : Word), PitWord a → CleanWord (R.CH_ADC_SWTRIG n) w → CH_ADC_SWTRIG.GO.get w = 1 → s.adcSrc n ≠ 0 →
       ∃ t r, Machine.exec (.chAdcSwtrig dt a n w) s = .next t ∧ RegsBut (fun _ => False) s t ∧
         (t.conv n).reqs = (s.conv n).reqs ++ [r] ∧ r.inst = (s.advance dt).now ∧ r.sched = false) ∧
     (∀ (n : Fin 128) (x : Time), (s.chan n).freeNext = some x → Time.reached (s.advance dt).now x = true → s.adcSrc n = 3 →
       s.inPeriod n (x + s.smpDly n) = true → (s.adcInterval n ≠ 0 ∨ s.groupRuns (s.cgOf n) = true) →
       ∃ t r, Machine.exec (.freeRunRequest dt n) s = .next t ∧ RegsBut (fun _ => False) s t ∧
         (t.conv n).reqs = (s.conv n).reqs ++ [r] ∧ r.inst = x ∧ r.sched = true ∧
         (t.chan n).freeNext = if s.adcInterval n = 0 then none else some (x + BitVec.ofNat 64 (s.adcInterval n))) ∧
     (∀ (c : Conv) (r : StartReq), (s.conv c.key).nextReq (s.advance dt).now = some r → s.mode ≠ mPark →
       let st := R.CH_ADC_STAT (s.convChan c.key)
       let t0 := if r.sched then r.inst else (s.advance dt).now
       ∃ t, Machine.exec (.conversionStartRequest dt c) s = .next t ∧ RegsBut (· = st) s t ∧
         (t.conv c.key).reqs = (s.conv c.key).reqs.erase r ∧
         (if (s.conv c.key).busyAt t0 then
            t.reg st = CH_ADC_STAT.OVR_CNT.put (s.reg st) (satInc 255 (s.fld st CH_ADC_STAT.OVR_CNT)) ||| CH_ADC_STAT.OVR.mask ∧
            (t.conv c.key).accepted = (s.conv c.key).accepted
          else
            ∃ q, (t.conv c.key).accepted = some q ∧ q.inst = (s.samplingInstant c.key t0).1 ∧ q.at_ = t0 ∧
              q.short = (s.samplingInstant c.key t0).2 ∧ (t.conv c.key).sample = none ∧
              (let w := if q.short then s.reg st ||| CH_ADC_STAT.ACQ_SHORT.mask else s.reg st
               t.reg st = if (s.conv c.key).displaced then
                   CH_ADC_STAT.OVR_CNT.put w (satInc 255 (CH_ADC_STAT.OVR_CNT.get w)) ||| CH_ADC_STAT.OVR.mask
                 else w))) ∧
     (∀ (c : Conv) (r : StartReq), (s.conv c.key).accepted = some r → Time.reached (s.advance dt).now r.inst = true →
       let n := s.convChan c.key
       (s.groupRuns (s.cgOf n) = true ∨ s.fld (R.FACE_SBY_STAT (n / 16)) FACE_SBY_STAT.CUR_TARGET ≠ n % 16) →
       ∃ t q, Machine.exec (.samplingInstant dt c) s = .next t ∧ RegsBut (fun _ => False) s t ∧ (t.conv c.key).accepted = none ∧
         (t.conv c.key).sample = some q ∧ q.inst = r.inst ∧ q.chan = n ∧ q.gain = s.gainOf n ∧
         q.insel = if c.key < 128 ∧ s.inselActs n = true then s.fld (R.CH_AFE_CFG n) CH_AFE_CFG.INSEL else 0)) ∧
  (∀ (dt : Nat) (s : State),
     (∀ (c : Conv) (raw : Code) (q : Sample), (s.conv c.key).sample = some q → Time.reached (s.advance dt).now (q.inst + 8000) = true →
       q.chan < 128 →
       let n := q.chan
       let own := decide (c.key < 128)
       let ofs := s.fldInt (if own then R.CH_CAL_OFS n q.gain else R.FACE_SBY_CAL_OFS (n / 16) q.gain) CH_CAL_OFS.OFS
       let gain := s.fld (if own then R.CH_CAL_GAIN n q.gain else R.FACE_SBY_CAL_GAIN (n / 16) q.gain) CH_CAL_GAIN.GAIN
       ∃ code : Code, (q.insel = 0 → code = raw) ∧
       let p := ((16 * code.toInt - ofs) * gain + 2 ^ 20) / 2 ^ 21
       let v := limited (-32768) 32767 p
       let clip := decide (code = 0x8000#16) || decide (code = 0x7FFF#16) || decide (v ≠ p)
       ∃ t, Machine.exec (.conversionEnd dt c raw) s = .next t ∧ (t.conv c.key).sample = none ∧
         t.reg (R.CH_ADC_STAT n) = s.reg (R.CH_ADC_STAT n) ||| (if clip then CH_ADC_STAT.CLIP.mask else 0) |||
           (if q.gsettle then CH_ADC_STAT.GSETTLE.mask else 0) ∧
         (if own then t.fldInt (R.CH_RESULT n) CH_RESULT.DATA = v ∧ t.flag (R.CH_RESULT n) CH_RESULT.CLIP = clip ∧
            t.fld (R.CH_RESULT n) CH_RESULT.SEQ = (s.fld (R.CH_RESULT n) CH_RESULT.SEQ + 1) % 256 ∧
            t.reg (R.CH_SMP_TIME n) = q.inst.truncate 32
          else t.reg (R.CH_RESULT n) = s.reg (R.CH_RESULT n) ∧ t.reg (R.CH_SMP_TIME n) = s.reg (R.CH_SMP_TIME n)) ∧
         (if q.feeds then ∃ x, (t.chan n).results = (s.chan n).results ++ [x] ∧ x.value = v ∧ x.clip = clip ∧ x.sby = !own
          else (t.chan n).results = (s.chan n).results) ∧
         RegsBut (fun i => i = R.CH_ADC_STAT n ∨ i = R.CH_RESULT n ∨ i = R.CH_SMP_TIME n ∨
           q.mark ≠ 0 ∧ (i = R.FACE_SBY_STAT (n / 16) ∨ TallyReg i)) s t) ∧
     (∀ (n : Fin 128) (x : Corrected) (rest : List Corrected), (s.chan n).results = x :: rest → (s.chan n).decCnt = 0 →
       (s.chan n).decSum = 0 → (s.chan n).decFlags = 0 →
       (s.chan n).decFrom = none → s.decOf n = 0 →
       ∃ t, Machine.exec (.resultDelivery dt n) s = .next t ∧ (t.chan n).results = rest ∧
         (t.eng n).result = BitVec.ofInt 32 (x.value * 2 ^ 16) ∧
         (t.eng n).resultFlg = x.clip.toNat + 2 * x.short.toNat + 4 * x.gsettle.toNat + 8 * x.sby.toNat))

/-- R57, R59, R105, R106: a command to the standby converter or the spare engine of a face. Accepted, it is pending and STATE keeps its value;
a take-over captures its target. Refused, it changes nothing but the stored fields and sets CMD_REJECT. Where the manual leaves a choice,
this follows the model's: log entry 42. -/
def Obligations.StandbyAndSpareCommands : Prop :=
  ∀ (dt : Nat) (a : Access) (f : Fin 8) (w : Word) (s : State), PitWord a →
    (∀ (code : Nat) (cmd : Instr), (code = 1 ∧ cmd = .sbyTakeOver dt a f w ∨ code = 2 ∧ cmd = .sbyReturn dt a f w ∨
        code = 3 ∧ cmd = .sbyAbandon dt a f w) →
      CleanWord (R.FACE_SBY_CTL f) (FACE_SBY_CTL.CMD.put w code) →
      let k := R.FACE_SBY_STAT f
      let target := FACE_SBY_CTL.TARGET.get (FACE_SBY_CTL.CMD.put w code)
      let n := 16 * f.val + target
      let st := s.fld k FACE_SBY_STAT.STATE
      let ok := s.flag k FACE_SBY_STAT.PEND = false ∧ s.sliceOn 0 f = none ∧
        (code = 1 → st = 0 ∧ 16 ≤ s.acqNs n ∧ ¬ (s.adcSrc n = 3 ∧ s.adcInterval n < 11600)) ∧ (code = 2 → st = 2) ∧
        (code = 3 → st = 1 ∨ st = 3)
      ∃ t, Machine.exec cmd s = .next t ∧ RegsBut (fun i => i = k ∨ i = R.FACE_SBY_CTL f) s t ∧
        (ok → (t.sbyOf f).pend = code ∧
          t.reg k = FACE_SBY_STAT.PEND.put (if code = 1 then FACE_SBY_STAT.CUR_TARGET.put (s.reg k) target else s.reg k) 1) ∧
        (¬ ok → t.reg k = s.reg k ||| FACE_SBY_STAT.CMD_REJECT.mask ∧ t.sbyOf f = s.sbyOf f)) ∧
    (∀ (code : Nat) (cmd : Instr), (code = 1 ∧ cmd = .sprTakeOver dt a f w ∨ code = 2 ∧ cmd = .sprReturn dt a f w ∨
        code = 3 ∧ cmd = .sprAbandon dt a f w) →
      CleanWord (R.FACE_SPR_CTL f) (FACE_SPR_CTL.CMD.put w code) →
      let k := R.FACE_SPR_STAT f
      let target := FACE_SPR_CTL.TARGET.get (FACE_SPR_CTL.CMD.put w code)
      let st := s.fld k FACE_SPR_STAT.STATE
      let ok := s.flag k FACE_SPR_STAT.PEND = false ∧ s.sliceOn 2 f = none ∧
        (code = 1 → st = 0 ∧ s.leStart (16 * f.val + target) ≠ 0) ∧ (code = 2 → st = 2) ∧ (code = 3 → st = 1 ∨ st = 3)
      ∃ t, Machine.exec cmd s = .next t ∧ RegsBut (fun i => i = k ∨ i = R.FACE_SPR_CTL f) s t ∧
        (ok → (t.sprOf f).pend = code ∧
          t.reg k = FACE_SPR_STAT.PEND.put (if code = 1 then FACE_SPR_STAT.CUR_TARGET.put (s.reg k) target else s.reg k) 1) ∧
        (¬ ok → t.reg k = s.reg k ||| FACE_SPR_STAT.CMD_REJECT.mask ∧ t.sprOf f = s.sprOf f))

/-- R66, R68, R87, R96, R447: a commit at the edge generator of a channel that is permitted. In COMMISSION a commit of a leg without its
output permit is discarded and sets CMT_BLK of the leader. In a running group it comes too late, or is clamped to
2,000 tq from now, or moves the trailing edge of the running period; the live duty operand takes it from the next period on. Where the
manual leaves a choice, this follows the model's: log entry 53. -/
def Obligations.CommitsAtTheEdgeGenerator : Prop :=
  ∀ (dt : Nat) (n : Fin 128) (s : State) (c : Commit) (rest : List Commit), (s.chan n).commits = c :: rest →
    let g := s.cgOf n
    let v := s.commitPos n c
    let k := R.CH_COMMIT_STAT n
    let now := (s.advance dt).now
    let tc := Time.since (s.group g).start now
    let e := (s.chan n).eCur
    let touched := fun (i : Nat) => i = k ∨ i = R.CH_COMMIT_AT n ∨ i = R.CH_DUTY_LIVE n
    (s.mode = mCommission → s.bankBit (R.MODE_PERMIT 0) n = false → (s.groupRuns g = true → Time.reached now (s.nextBoundary g) = false) →
      ∃ t, Machine.exec (.commitArrival dt n) s = .next t ∧ (t.chan n).commits = rest ∧ (t.chan n).eCur = e ∧
        t.reg (R.LE_STAT (s.leaderOf n)) = s.reg (R.LE_STAT (s.leaderOf n)) ||| LE_STAT.CMT_BLK.mask ∧
        RegsBut (· = R.LE_STAT (s.leaderOf n)) s t ∧ (∀ j, j ≠ n → t.chan j = s.chan j)) ∧
    (s.permitted n = true → s.groupRuns g = true → Time.reached now (s.nextBoundary g) = false →
      ∃ t, Machine.exec (.commitArrival dt n) s = .next t ∧ RegsBut touched s t ∧ (t.chan n).commits = rest ∧
        t.reg (R.CH_COMMIT_AT n) = BitVec.ofNat 32 tc ∧ t.reg (R.CH_DUTY_LIVE n) = BitVec.ofNat 32 v ∧
        (∀ j, j ≠ n → t.chan j = s.chan j) ∧
        (if e < tc + 2000 then (t.chan n).eCur = e ∧ t.flag k CH_COMMIT_STAT.LATE = true ∧ t.flag k CH_COMMIT_STAT.SAME = false
         else if s.clampPos g v < tc + 2000 then (t.chan n).eCur = s.clampPos g (tc + 2000) ∧ t.flag k CH_COMMIT_STAT.CLAMP = true
         else (t.chan n).eCur = s.clampPos g v ∧ t.flag k CH_COMMIT_STAT.SAME = true)) ∧
    (s.permitted n = true → s.groupRuns g = false →
      ∃ t, Machine.exec (.commitArrival dt n) s = .next t ∧ RegsBut touched s t ∧ (t.chan n).commits = rest ∧
        t.reg (R.CH_COMMIT_AT n) = 0 ∧ t.reg (R.CH_DUTY_LIVE n) = BitVec.ofNat 32 v ∧ t.flag k CH_COMMIT_STAT.SAME = false ∧
        (∀ j, j ≠ n → t.chan j = s.chan j))

/-- R41, R61, R62, R64: the unfiltered state of a comparator follows its input, which is held so that it keeps its voltage over a change of
GAIN; a change that has lasted FILT reaches the output, and a rising one
sets the hit flag. Where the manual leaves a choice, this follows the model's: log entry 39. -/
def Obligations.ComparatorOutputs : Prop :=
  ∀ (dt : Nat) (n : Fin 128) (k : CmpId) (s : State),
    let isB := k == .b
    let out := if isB then CH_CMP_STAT.B_OUT else CH_CMP_STAT.A_OUT
    (∀ x : Int, s.mode ≠ mPark → ∃ t, Machine.exec (.comparatorInputCrossing dt n k x) s = .next t ∧ RegsBut (fun _ => False) s t ∧
      ((t.chan n).cmp isB).x = x * s.lsbOf n ∧ (∀ j, j ≠ n → t.chan j = s.chan j) ∧
      (s.cmpEn n isB = true → ((t.chan n).cmp isB).raw = s.cmpDecide n isB x ((s.chan n).cmp isB).raw)) ∧
    (∀ x : Time, ((s.chan n).cmp isB).since = some x → s.mode ≠ mPark →
      Time.reached (s.advance dt).now (x + BitVec.ofNat 64 (s.cmpFilt n isB)) = true →
      ∃ t, Machine.exec (.comparatorOutputChange dt n k) s = .next t ∧ t.flag (R.CH_CMP_STAT n) out = ((s.chan n).cmp isB).raw ∧
        (((s.chan n).cmp isB).raw = true → t.flag (R.CH_CMP_STAT n) (if isB then CH_CMP_STAT.B_HIT else CH_CMP_STAT.A_HIT) = true) ∧
        (((s.chan n).cmp isB).raw = false → (s.advance dt).testedCmp n = none → RegsBut (· = R.CH_CMP_STAT n) s t))

/-- R66, R109, R113, R114, R119, R123: at the boundary of a running group its count restarts, the new period has the nominal length less the
correction, and every member takes its trailing edge from its live duty operand. A trailing edge and an event compare fire at their
instants in the period, once. Where the manual leaves a choice, this follows the model's: log entries 68, 100. -/
def Obligations.CarrierPeriods : Prop :=
  ∀ (dt : Nat) (s : State),
    (∀ g : Fin 32, (s.advance dt).boundaryDue g = true → s.corrHeld g (s.nextBoundary g) = false →
      let c := s.correction g
      ∃ t, Machine.exec (.carrierPeriodBoundary dt g) s = .next t ∧ (t.group g).start = s.nextBoundary g ∧
        (t.group g).len = (s.period g - c).toNat ∧ (t.group g).cCur = c ∧
        ∀ n, n < 128 → s.cgOf n = g → (t.chan n).fired = false ∧ (t.chan n).evc0 = false ∧ (t.chan n).evc1 = false ∧
          (t.chan n).eCur = (let d := (s.reg (R.CH_DUTY_LIVE n)).toNat
            if (s.period g - c).toNat ≤ d ∨ s.period g ≤ d then (s.period g - c).toNat else d)) ∧
    (∀ n : Fin 128, s.trailOpen n = true →
      Time.reached (s.advance dt).now ((s.group (s.cgOf n)).start + BitVec.ofNat 64 (s.chan n).eCur) = true →
      ∃ t, Machine.exec (.trailingEdge dt n) s = .next t ∧ RegsBut (fun _ => False) s t ∧ (t.chan n).fired = true ∧
        (t.chan n).wave = false ∧ (t.chan n).cmdL = !s.flag (R.CH_PWM_CFG n) CH_PWM_CFG.LMODE ∧ (∀ j, j ≠ n → t.chan j = s.chan j)) ∧
    (∀ (n : Fin 128) (i : Fin 2), s.evcOpen n i = true →
      Time.reached (s.advance dt).now ((s.group (s.cgOf n)).start + BitVec.ofNat 64 (s.evcOf n i)) = true →
      ∃ t, Machine.exec (.eventCompareMatch dt n i) s = .next t ∧ RegsBut (fun _ => False) s t ∧
        (if i = 0 then (t.chan n).evc0 = true else (t.chan n).evc1 = true) ∧ (∀ j, j ≠ n → t.chan j = s.chan j))

/-- R115, R117, R134, R140: a delayed edge acts on its output when it is due. An on-edge turns the output on, unless it is suppressed, or the
other output is on, when the interlock holds it; an off-edge turns the output off, and a held on-edge of the other side follows. The
output a safe pattern holds on turns on when SAFE_DT has passed, if the other is off. Where the manual leaves a choice, this follows the
model's: log entry 101. -/
def Obligations.OutputEdges : Prop :=
  ∀ (dt : Nat) (n : Fin 128) (s : State),
    let c := s.chan n
    (∀ (d : Side) (e : Edge), c.dueEdge d (s.advance dt).now = some e →
      c.edges.any (fun x => x.side == d.other && !x.on && !x.supp && Time.reached e.due x.due) = false →
      c.edges.any (fun x => x.side == .hi && x.on && !x.supp && x.due == e.due) = false ∨ d = .hi →
      ∃ t, Machine.exec (.outputEdge dt n d) s = .next t ∧ (∀ j, j ≠ n → t.chan j = s.chan j) ∧
        (t.chan n).edges = c.edges.erase e ∧
        (if e.supp then (t.chan n).out d = c.out d ∧ (t.chan n).out d.other = c.out d.other ∧
            t.reg (R.CH_PROT_STAT n) = s.reg (R.CH_PROT_STAT n) ||| CH_PROT_STAT.SUPP.mask ∧ RegsBut (· = R.CH_PROT_STAT n) s t
         else if e.on then
           if c.out d.other then (t.chan n).out d = c.out d ∧ (t.chan n).out d.other = true ∧ (t.chan n).heldOf d = true ∧
             t.reg (R.CH_PWM_STAT n) = s.reg (R.CH_PWM_STAT n) ||| CH_PWM_STAT.INTLK.mask ∧ RegsBut (· = R.CH_PWM_STAT n) s t
           else (t.chan n).out d = true ∧ (t.chan n).out d.other = false ∧ RegsBut (fun _ => False) s t
         else (t.chan n).out d = false ∧ (t.chan n).out d.other = (c.out d.other || c.heldOf d.other) ∧ RegsBut (fun _ => False) s t)) ∧
    (∀ x : Time, c.safeOnAt = some x → Time.reached (s.advance dt).now x = true → c.row = 1 →
      ∃ t, Machine.exec (.safeDtExpiry dt n) s = .next t ∧ (t.chan n).safeOnAt = none ∧ RegsBut (fun _ => False) s t ∧
        (∀ j, j ≠ n → t.chan j = s.chan j) ∧
        (t.chan n).outH = (c.outH || (s.patternOf n).1 && !c.outL) ∧
        ((s.patternOf n).1 = false → (t.chan n).outL = (c.outL || (s.patternOf n).2 && !c.outH)))

/-- R126, R128, R130, R131, R133, R134: a fault input that goes low, outside a blanking window, with a latching action, latches an armed
channel and turns both its outputs off, where its bridge is not in its safe pattern and does not escalate; inside the window it sets
BLANKED_HIT and nothing trips. The end of a window trips what is still active; with no active source it changes nothing else. R133, R135,
R139, R142, R145: a clear of a latched channel whose enabled sources are all inactive leaves it in CYCLE with its window empty; any other
clear is rejected. A clear of an escalated bridge none of whose legs has an active enabled source clears ESC and LEGMASK, and every leg it
held; any other is rejected. Where the manual leaves a choice, this follows the model's: log entries 100, 105. -/
def Obligations.TripsAndClears : Prop :=
  (∀ (dt : Nat) (n : Fin 128) (s : State),
     let k := R.CH_PROT_STAT n
     ((s.chan n).fltLow = false → (s.advance dt).blankOpen n = false → s.srcAction n 0 = 2 → s.flag k CH_PROT_STAT.LATCHED = false →
       s.isSafe n = false → s.escLegs (s.leaderOf n) = 0 → (s.chan n).row ≠ 2 →
       ∃ t, Machine.exec (.fltAssert dt n) s = .next t ∧ (t.chan n).fltLow = true ∧ t.flag k CH_PROT_STAT.LATCHED = true ∧
         t.flag k CH_PROT_STAT.LAT_FLT = true ∧ t.flag k CH_PROT_STAT.TRIP = true ∧ t.flag k CH_PROT_STAT.CYC = false ∧
         (t.chan n).outH = false ∧ (t.chan n).outL = false ∧ RegsBut (fun i => i = k ∨ TallyReg i) s t) ∧
     ((s.chan n).fltLow = false → (s.advance dt).blankOpen n = true →
       ∃ t, Machine.exec (.fltAssert dt n) s = .next t ∧ (t.chan n).fltLow = true ∧ RegsBut (· = k) s t ∧
         t.reg k = s.reg k ||| CH_PROT_STAT.BLANKED_HIT.mask ∧ (t.chan n).outH = (s.chan n).outH ∧ (t.chan n).outL = (s.chan n).outL) ∧
     (∃ t, Machine.exec (.fltDeassert dt n) s = .next t ∧ (t.chan n).fltLow = false ∧ RegsBut (fun _ => False) s t ∧
       (∀ j, j ≠ n → t.chan j = s.chan j)) ∧
     (∀ e : Time, (s.chan n).blankEnd = some e → Time.reached (s.advance dt).now e = true →
       ∃ t, Machine.exec (.blankingWindowEnd dt n) s = .next t ∧ (t.chan n).blankEnd = none ∧
         ((s.enabledActive n).filter (s.srcBlanked n) = [] → RegsBut (fun _ => False) s t) ∧
         ((s.enabledActive n).filter (s.srcBlanked n) ≠ [] → s.flag k CH_PROT_STAT.LATCHED = false →
           s.flag k CH_PROT_STAT.CYC = false → t.flag k CH_PROT_STAT.TRIP = true))) ∧
  (∀ (dt : Nat) (a : Access) (n : Fin 128) (w : Word) (s : State), PitWord a → s.faceOut (n / 16) = false →
     (CleanWord (R.CH_PROT_CLR n) w → CH_PROT_CLR.CLR.get w = 1 →
       let k := R.CH_PROT_STAT n
       ∃ t, Machine.exec (.protClear dt a n w) s = .next t ∧ RegsBut (· = k) s t ∧
         (if s.flag k CH_PROT_STAT.LATCHED = true ∧ s.enabledActive n = [] then
            t.flag k CH_PROT_STAT.LATCHED = false ∧ t.flag k CH_PROT_STAT.CYC = true ∧ t.fld k CH_PROT_STAT.WIN_CNT = 0 ∧
            t.flag k CH_PROT_STAT.LAT_FLT = false ∧ (t.chan n).window = []
          else t.reg k = s.reg k ||| CH_PROT_STAT.CLR_REJECT.mask)) ∧
     (CleanWord (R.BR_SAFE_CLR n) w → BR_SAFE_CLR.CLR.get w = 1 →
       let k := R.BR_SAFE_STAT n
       ∃ t, Machine.exec (.bridgeClear dt a n w) s = .next t ∧
         (if s.flag k BR_SAFE_STAT.ESC = true ∧ ∀ m, m ∈ s.legsOf n → s.enabledActive m = [] then
            t.flag k BR_SAFE_STAT.ESC = false ∧ t.fld k BR_SAFE_STAT.LEGMASK = 0 ∧
            (∀ m, m ∈ s.legsOf n → t.flag (R.CH_PROT_STAT m) CH_PROT_STAT.LATCHED = false) ∧
            RegsBut (fun i => i = k ∨ ∃ m, m ∈ s.legsOf n ∧ i = R.CH_PROT_STAT m) s t
          else t.reg k = s.reg k ||| BR_SAFE_STAT.CLR_REJECT.mask ∧ RegsBut (· = k) s t)))

/-- R147, R156: with the reference valid, calibrated and nothing to correct, device time advances with reference time at the programmed rate:
by dt and the whole tq that RATE, limited to 500 ppm, gathers. Where the manual leaves a choice, this follows the model's: log entry 1. -/
def Obligations.DeviceTimeAdvances : Prop :=
  ∀ (dt : Nat) (s : State), s.tb.counting = true → s.flag R.TB_STAT TB_STAT.CAL_OK = true → s.md.refBad = false →
    s.subordinate = false → s.tb.adjRem = 0 → s.tb.phase = 0 → 0 < dt →
    let gathered := s.tb.rateFrac + limited (-2147484) 2147484 (s.fldInt R.TB_RATE TB_RATE.RATE) * dt
    (s.advance dt).now = s.now + BitVec.ofInt 64 (dt + gathered / 2 ^ 32) ∧ (s.advance dt).tb.rateFrac = gathered % 2 ^ 32 ∧
      RegsBut (fun _ => False) s (s.advance dt) ∧ SameBytes s (s.advance dt)

/-- R147, R150, R151, R153, R155, R160: the start, the loss and the return of the reference. Where the manual leaves a choice, this follows
the model's: log entry 67. -/
def Obligations.ReferenceAndCalibration : Prop :=
  ∀ (dt : Nat) (s : State),
    (∀ toggling : Bool, ∃ t, Machine.exec (.referenceSelect dt toggling) s = .next t ∧
      (s.tb.counting = false → s.tb.refChosen = false → t.tb.refChosen = true ∧
        t.fld R.TB_STAT TB_STAT.REF_SRC = (if toggling then 0 else 1) ∧ RegsBut (· = R.TB_STAT) s t) ∧
      (s.tb.counting = true ∨ s.tb.refChosen = true → RegsBut (fun _ => False) s t)) ∧
    (∃ t, Machine.exec (.firstReferenceValid dt) s = .next t ∧ t.tb.counting = true ∧ t.md.refBad = false ∧
      RegsBut (fun _ => False) s t) ∧
    (s.tb.counting = true → ∃ t, Machine.exec (.calibrationDone dt) s = .next t ∧ t.flag R.TB_STAT TB_STAT.CAL_OK = true ∧
      RegsBut (· = R.TB_STAT) s t) ∧
    (s.tb.counting = true → s.md.refBad = false → ∃ t, Machine.exec (.refLoss dt) s = .next t ∧ t.md.refBad = true ∧
      t.flag R.TB_STAT TB_STAT.HOLDOVER = true ∧ t.flag R.TB_STAT TB_STAT.REF_LOST = true ∧ SameBytes s t) ∧
    (∀ phase : Int, s.md.refBad = true →
      ∃ t, Machine.exec (.refValid dt phase) s = .next t ∧ t.md.refBad = false ∧ t.tb.phase = (s.advance dt).tb.phase ∧
        RegsBut (· = R.TB_STAT) s t ∧ (t.tb.phase = 0 → t.flag R.TB_STAT TB_STAT.HOLDOVER = false)) ∧
    (s.md.refBad = false → (s.advance dt).tb.phase = 0 → ∃ t, Machine.exec (.holdoverEnd dt) s = .next t ∧
      t.flag R.TB_STAT TB_STAT.HOLDOVER = false ∧ RegsBut (· = R.TB_STAT) s t) ∧
    (s.subordinate = true → s.tb.cascSeen = true → s.tb.cascKnown = true → -8 ≤ (s.advance dt).tb.cascErr → (s.advance dt).tb.cascErr ≤ 8 →
      ∃ t, Machine.exec (.cascLockAcquired dt) s = .next t ∧ t.flag R.TB_STAT TB_STAT.CASC_LOCK = true ∧ RegsBut (· = R.TB_STAT) s t)

/-- R149: a whole read of the low word of a 64-bit time returns its low half and captures its high half for the master that reads. R156, R157,
R158, R159, R160: rate and adjustment writes are refused in a subordinate; a step is refused while a group runs or an alarm is enabled,
and in a subordinate, and else sets device time; TB_VT_OFS_HI takes the held LO with it. R162, R163: a timer alarm that device time has
reached fires: FIRED sets and FIRE_CNT counts; without a repeat it is disabled, with one its target moves on. TA_HI loads the target with
the held low word; enabling an alarm whose target lies ahead does not fire it. -/
def Obligations.TimeReadsSteeringAndAlarms : Prop :=
  (∀ (dt : Nat) (a : Access) (k : Fin 16) (s : State), a.size = 4 →
     let u := s.advance dt
     (AMap.get false s.undef R.TB_TIME_LO = false → ∃ t, Machine.exec (.tbTimeLoRead dt a) s = .next t ∧
       AMap.get 0 t.rdata a.master = u.now.truncate 32 ∧ AMap.get 0 t.tb.timeHi a.master = (u.now >>> 32).truncate 32 ∧
       RegsBut (fun _ => False) s t) ∧
     (AMap.get false s.undef R.TB_VTIME_LO = false → ∃ t, Machine.exec (.tbVtimeLoRead dt a) s = .next t ∧
       AMap.get 0 t.rdata a.master = (u.now + s.vtOfs).truncate 32 ∧
       AMap.get 0 t.tb.vtimeHi a.master = ((u.now + s.vtOfs) >>> 32).truncate 32 ∧ RegsBut (fun _ => False) s t) ∧
     (AMap.get false s.undef (R.ANG_TP_LO k) = false → ∃ t, Machine.exec (.angTpLoRead dt a k) s = .next t ∧
       AMap.get 0 t.rdata a.master = BitVec.ofNat 32 (s.trk k).tp ∧
       AMap.get 0 t.tb.angHi (16 * a.master + k) = BitVec.ofNat 32 ((s.trk k).tp / 2 ^ 32) ∧ RegsBut (fun _ => False) s t)) ∧
  (∀ (dt : Nat) (a : Access) (w : Word) (s : State), PitWord a →
     let shown := fun (i : Nat) => i = R.TB_EFF_RATE ∨ i = R.TB_STAT
     (CleanWord R.TB_RATE w → ∃ t, Machine.exec (.tbRateWrite dt a w) s = .next t ∧
       (if s.subordinate then t.reg R.TB_STAT = s.reg R.TB_STAT ||| TB_STAT.ADJ_REJ.mask ∧ RegsBut (· = R.TB_STAT) s t
        else t.reg R.TB_RATE = w ∧ RegsBut (fun i => i = R.TB_RATE ∨ shown i) s t ∧
          ((TB_RATE.RATE.getInt w < -2147484 ∨ 2147484 < TB_RATE.RATE.getInt w) → t.flag R.TB_STAT TB_STAT.RATE_LIM = true))) ∧
     (CleanWord R.TB_ADJ w → ∃ t, Machine.exec (.tbAdjWrite dt a w) s = .next t ∧
       (if s.subordinate then t.reg R.TB_STAT = s.reg R.TB_STAT ||| TB_STAT.ADJ_REJ.mask ∧ RegsBut (· = R.TB_STAT) s t
        else t.tb.adjRem = limited (-(2 ^ 31 - 1)) (2 ^ 31 - 1) ((s.advance dt).tb.adjRem + w.toInt) ∧ RegsBut shown s t ∧
          t.flag R.TB_STAT TB_STAT.ADJ_BUSY = decide (t.tb.adjRem ≠ 0))) ∧
     (CleanWord R.TB_CTL (TB_CTL.STEP.put w 1) → ∃ t, Machine.exec (.tbStep dt a w) s = .next t ∧
       (s.stepAllowed = true ↔
         (∀ g, g < 32 → s.groupRuns g = false) ∧ (∀ i, i < 16 → s.flag (R.TA_CTL i) TA_CTL.EN = false) ∧ s.subordinate = false) ∧
       (if s.stepAllowed then
          t.now = s.reg R.TB_STEP_HI ++ s.reg R.TB_STEP_LO ∧ t.tb.adjRem = 0 ∧
          (∀ k, k < 16 → t.flag (R.ANG_POS k) ANG_POS.VALID = false ∧ t.trkState k = 0 ∧ (t.trk k).pulses = []) ∧
          (s.flag R.STG_STATUS STG_STATUS.ARMED = true →
            t.flag R.STG_STATUS STG_STATUS.ARMED = false ∧ t.flag R.STG_STATUS STG_STATUS.CANCELLED = true)
        else t.reg R.TB_STAT = s.reg R.TB_STAT ||| TB_STAT.STEP_REJ.mask ∧ RegsBut (· = R.TB_STAT) s t)) ∧
     (CleanWord R.TB_VT_OFS_HI w → ∃ t, Machine.exec (.tbVtOfsHiWrite dt a w) s = .next t ∧ t.reg R.TB_VT_OFS_HI = w ∧
       t.reg R.TB_VT_OFS_LO = s.tb.vtHeld.getD (s.reg R.TB_VT_OFS_LO) ∧
       RegsBut (fun i => i = R.TB_VT_OFS_HI ∨ i = R.TB_VT_OFS_LO) s t) ∧
     ((s.advance dt).adjLeft = 0 → s.tb.adjRem = 0 ∨ s.subordinate = false → ∃ t, Machine.exec (.adjDrained dt) s = .next t ∧
       t.flag R.TB_STAT TB_STAT.ADJ_BUSY = false ∧ RegsBut shown s t)) ∧
  (∀ (dt : Nat) (i : Fin 16) (s : State),
     let k := R.TA_CTL i
     (s.flag k TA_CTL.EN = true → Time.reached (s.advance dt).now (s.taTarget i) = true →
       s.mode ≠ mPark → ∃ t, Machine.exec (.timerAlarmFire dt i) s = .next t ∧ t.flag k TA_CTL.FIRED = true ∧
         t.fld k TA_CTL.FIRE_CNT = (s.fld k TA_CTL.FIRE_CNT + 1) % 2 ^ TA_CTL.FIRE_CNT.width ∧
         RegsBut (fun j => j = k ∨ j = R.TA_LO i ∨ j = R.TA_HI i) s t ∧
         (if s.reg (R.TA_REPEAT i) = 0 then t.flag k TA_CTL.EN = false ∧ t.taTarget i = s.taTarget i
          else
            let rep := max 10000 (s.reg (R.TA_REPEAT i)).toNat
            t.flag k TA_CTL.EN = true ∧ Time.reached (s.advance dt).now (t.taTarget i) = false ∧
            ∃ m : Nat, 1 ≤ m ∧ t.taTarget i = s.taTarget i + BitVec.ofNat 64 (m * rep) ∧
              Time.reached (s.advance dt).now (s.taTarget i + BitVec.ofNat 64 ((m - 1) * rep)) = true)) ∧
     (∀ (a : Access) (w : Word), PitWord a → CleanWord (R.TA_HI i) w →
       let lo := (AMap.get none s.tb.taHeld i).getD (s.reg (R.TA_LO i))
       (s.flag k TA_CTL.EN = false ∨ Time.reached (s.advance dt).now (w ++ lo) = false) →
       ∃ t, Machine.exec (.taHiWrite dt a i w) s = .next t ∧ t.taTarget i = w ++ lo ∧ AMap.get none t.tb.taHeld i = none ∧
         RegsBut (fun j => j = R.TA_LO i ∨ j = R.TA_HI i) s t) ∧
     (∀ (a : Access) (w : Word), PitWord a → CleanWord k w → (s.flag k TA_CTL.EN = true ∨ TA_CTL.EN.get w = 0 ∨
         Time.reached (s.advance dt).now (s.taTarget i) = false) →
       ∃ t, Machine.exec (.taCtlWrite dt a i w) s = .next t ∧ t.fld k TA_CTL.EN = TA_CTL.EN.get w ∧
         t.fld k TA_CTL.FIRE_CNT = s.fld k TA_CTL.FIRE_CNT ∧ RegsBut (· = k) s t))

/-- R164, R165, R166: an edge of the chosen polarity at an enabled tracker is a pulse, unless one came less than 100 ns before, when it is
noise; at the instant of a shift change, before its apply, the edge waits to be judged by the new settings; the pulse acts later: the
first starts acquisition, the second gives the tooth period, and in synchronism an ordinary tooth moves
the position on by one. R167, R168: a tracker in synchronism that misses a tooth coasts; one whose interval exceeds COAST_LIM tooth
periods stalls, with VALID clear and a report. R170, R171, R172, R173: the publishing interval of a valid tracker writes its angle to its
signal; a slot fires when the angle reaches its angle and is armed again half a revolution on; an encoder's outputs move on by one quarter
line. Where the manual leaves a choice, this follows the model's: log entries 61, 62, 63, 65. -/
def Obligations.AngleTracking : Prop :=
  (∀ (dt : Nat) (k : Fin 16) (s : State),
     let now := (s.advance dt).now
     let q := s.trk k
     (∀ level : Bool, (s.advance dt).applyDue = true →
       ∃ t, Machine.exec (.angPulse dt k level) s = .next t ∧ t.trk k = { q with edges := q.edges ++ [(now, level)] } ∧
         (∀ j, j ≠ k.val → t.trk j = s.trk j) ∧ RegsBut (fun _ => False) s t) ∧
     (∀ level : Bool, s.flag (R.ANG_CFG k) ANG_CFG.EN = true → level ≠ s.flag (R.ANG_CFG k) ANG_CFG.EDGE →
       (s.advance dt).applyDue = false → s.mode ≠ mPark → ∃ t, Machine.exec (.angPulse dt k level) s = .next t ∧
         (match q.lastPulse with
          | none => (t.trk k).pulses = q.pulses ++ [now] ∧ (t.trk k).lastPulse = some now ∧ RegsBut (fun _ => False) s t
          | some x =>
            if Time.since x now < 20000 then
              t.trk k = q ∧ t.flag (R.ANG_STAT k) ANG_STAT.NOISE = true ∧
              RegsBut (fun i => i = R.ANG_STAT k ∨ i = R.ANG_CNT k) s t
            else (t.trk k).pulses = q.pulses ++ [now] ∧ (t.trk k).lastPulse = some now ∧ RegsBut (fun _ => False) s t)) ∧
     (∀ (x : Time) (rest : List Time), q.pulses = x :: rest → (s.advance dt).actionDue k = true →
       s.flag (R.ANG_CFG k) ANG_CFG.EN = true →
       (s.trkState k = 0 → ∃ t, Machine.exec (.angPulseAction dt k) s = .next t ∧ (t.trk k).pulses = rest ∧ t.trkState k = 1 ∧
         (t.trk k).tLast = x ∧ t.reg (R.ANG_LAST k) = x.truncate 32 ∧ RegsBut (fun i => i = R.ANG_STAT k ∨ i = R.ANG_LAST k) s t) ∧
       (s.trkState k = 1 → ∃ t, Machine.exec (.angPulseAction dt k) s = .next t ∧ (t.trk k).pulses = rest ∧ t.trkState k = 2 ∧
         (t.trk k).tLast = x ∧ (t.trk k).tp = min (2 ^ 40 - 1) (Time.since q.tLast x) ∧
         RegsBut (fun i => i = R.ANG_STAT k ∨ i = R.ANG_LAST k) s t) ∧
       (s.trkState k = 3 → s.extraTooth k = false → 6 * q.tp ≤ 10 * interval q.tLast x → 10 * interval q.tLast x < 16 * q.tp →
         2 * interval q.tLast x < (2 * s.gapOf k + 1) * q.tp → q.cnt + 1 < 2 * s.nPos k →
         ∃ t, Machine.exec (.angPulseAction dt k) s = .next t ∧ (t.trk k).pulses = rest ∧ t.trkState k = 3 ∧
           (t.trk k).tLast = x ∧ (t.trk k).cnt = q.cnt + 1 ∧ t.trkPos k = (s.trkPos k + 1) % s.nPos k % 2 ^ ANG_STAT.POS.width))) ∧
  (∀ (dt : Nat) (k : Fin 16) (s : State), (s.advance dt).actionDue k = false →
     let i := interval (s.trk k).tLast (s.advance dt).now
     (s.trkState k = 3 → s.trkCoast k = false → 16 * s.toNextTooth k * (s.trk k).tp ≤ 10 * i →
       ∃ t, Machine.exec (.coast dt k) s = .next t ∧ t.trkCoast k = true ∧ t.flag (R.ANG_STAT k) ANG_STAT.COASTED = true ∧
         t.trkState k = 3 ∧ RegsBut (fun j => j = R.ANG_POS k ∨ j = R.ANG_STAT k) s t) ∧
     (2 ≤ s.trkState k → s.fld (R.ANG_CFG k) ANG_CFG.COAST_LIM * (s.trk k).tp ≤ i →
       ∃ t, Machine.exec (.angStall dt k) s = .next t ∧ t.trkState k = 0 ∧ t.trkValid k = false ∧
         t.flag (R.ANG_STAT k) ANG_STAT.STALLED = true ∧ (t.trk k).nextPub = none ∧
         (s.lg.held = [] → s.lg.queue.length < 16 → ∃ x, t.lg.queue = s.lg.queue ++ [x] ∧ x.src = 0x88 + k.val ∧ x.code = 0x0030 ∧
           x.cls = clsInfo ∧ x.detail = BitVec.ofNat 32 (s.trkPos k)))) ∧
  (∀ (dt : Nat) (s : State),
     let u := s.advance dt
     (∀ (k : Fin 16) (x : Time), (s.trk k).nextPub = some x → Time.reached u.now x = true → s.trkValid k = true →
       ∃ t, Machine.exec (.angPublish dt k) s = .next t ∧
         (t.trk k).nextPub = (if s.pubInterval k = 0 then none else some (x + BitVec.ofNat 64 (s.pubInterval k))) ∧
         (let i := s.fld (R.ANG_PUB k) ANG_PUB.SIG
          s.flag (R.ANG_PUB k) ANG_PUB.EN = true → s.ownsSig i = true → (t.sig i).value = BitVec.ofNat 32 (u.theta k * 256) ∧
            (t.sig i).qual = (if s.trkCoast k then 2 else 0) ∧ (t.sig i).published = true ∧ ∀ j, j ≠ i → t.sig j = s.sig j)) ∧
     (∀ i : Fin 64, s.flag (R.AEV_CFG i) AEV_CFG.EN = true → s.slotArmed i = true → s.trkValid (s.slotTrk i) = true →
       u.actionDue (s.slotTrk i) = false → s.slotTarget i ≤ u.angleAt (s.slotTrk i) u.now →
       ∃ t, Machine.exec (.aevFire dt i) s = .next t ∧ t.slotArmed i = false ∧
         t.fld (R.AEV_STAT i) AEV_STAT.FIRE_CNT = (s.fld (R.AEV_STAT i) AEV_STAT.FIRE_CNT + 1) % 2 ^ AEV_STAT.FIRE_CNT.width ∧
         t.flag (R.AEV_STAT i) AEV_STAT.LATE = false ∧ t.flag (R.AEV_STAT i) AEV_STAT.COAST = s.trkCoast (s.slotTrk i) ∧
         t.reg (R.AEV_TIME i) = (s.angleInstant (s.slotTrk i) (s.slotTarget i)).truncate 32 ∧
         RegsBut (fun j => j = R.AEV_STAT i ∨ j = R.AEV_TIME i) s t) ∧
     (∀ i : Fin 64, s.flag (R.AEV_CFG i) AEV_CFG.EN = true → s.slotArmed i = false → s.trkValid (s.slotTrk i) = true →
       u.actionDue (s.slotTrk i) = false → s.slotTarget i + 2 ^ 23 ≤ u.angleAt (s.slotTrk i) u.now →
       ∃ t, Machine.exec (.aevRearm dt i) s = .next t ∧ t.slotArmed i = true ∧ (t.slot i).turn = (s.slot i).turn + 1 ∧
         RegsBut (· = R.AEV_STAT i) s t) ∧
     (∀ e : Fin 8, let a := s.fld (R.ENC_CFG e) ENC_CFG.TRK
       s.flag (R.ENC_CFG e) ENC_CFG.EN = true → s.trkValid a = true → u.actionDue a = false →
       Time.reached u.now (s.enc e).burstAt = true →
       ((s.enc e).at_ < (s.enc e).burstTo ∨ (s.enc e).at_ < s.encQuarter e (u.angleAt a u.now)) →
       let q := (s.enc e).at_ + 1
       ∃ t, Machine.exec (.encOutputEdge dt e) s = .next t ∧ (t.enc e).at_ = q ∧
         t.flag (R.ENC_STAT e) ENC_STAT.OUT_A = decide (q % 4 = 0 ∨ q % 4 = 1) ∧
         t.flag (R.ENC_STAT e) ENC_STAT.OUT_B = decide (q % 4 = 1 ∨ q % 4 = 2) ∧
         t.flag (R.ENC_STAT e) ENC_STAT.OUT_Z = decide (q % (4 * s.encLines e : Nat) = 0) ∧ RegsBut (· = R.ENC_STAT e) s t))

/-- R175 to R179, R181: a word that a core or a DMA channel writes to a signal the device owns becomes its value, sets PUBLISHED and is on its
way to every bound input and, in a published block, into the publish queue; for a signal of another device it is refused and counted. A
write of a status word sets QUAL of the owned signals alone. Where the manual leaves a choice, this follows the model's: log entries 33,
34, 35. -/
def Obligations.SignalWrites : Prop :=
  ∀ (dt : Nat) (a : Access) (w : Word) (s : State), PitWord a → localMaster a = true →
    (∀ i : Fin 131072, ∃ t, Machine.exec (.signalValueWrite dt a i w) s = .next t ∧ (∀ j, j ≠ i.val → t.sig j = s.sig j) ∧
      (if s.ownsSig i then
         (t.sig i).value = w ∧ (t.sig i).published = true ∧ (t.sig i).qual = (s.sig i).qual ∧
         (∀ p, p ∈ boundTo s.regs i → ⟨p.2, w⟩ ∈ (t.eng p.1).loads) ∧
         (s.sigPublished i = true → s.rt.pubq.length < 4096 → ∃ e, t.rt.pubq = s.rt.pubq ++ [e] ∧ e.sig = i.val ∧ e.value = w) ∧
         (s.sigPublished i = true → 4096 ≤ s.rt.pubq.length → t.rt.pubq = s.rt.pubq ∧ i.val ∈ t.rt.marked ∧
           t.flag R.SIG_STAT SIG_STAT.PUB_OVF = true) ∧
         RegsBut (fun k => k = R.SIG_STAT ∨ k = R.MI_INJ_CTL ∨ LaneReg k) s t ∧ RingBytesOnly s t
       else
         t.sig i = s.sig i ∧ t.flag R.SIG_STAT SIG_STAT.FOREIGN_WR = true ∧
         t.fld R.SIG_STAT SIG_STAT.FOREIGN_CNT = satInc (2 ^ SIG_STAT.FOREIGN_CNT.width - 1) (s.fld R.SIG_STAT SIG_STAT.FOREIGN_CNT) ∧
         RegsBut (fun k => k = R.SIG_STAT ∨ TallyReg k) s t ∧ SameBytes s t)) ∧
    (∀ j : Fin 32768, ∃ t, Machine.exec (.signalStatusWrite dt a j w) s = .next t ∧
      (∀ i, (t.sig i).value = (s.sig i).value ∧ (t.sig i).published = (s.sig i).published ∧
        (t.sig i).qual = if i / 4 = j ∧ s.ownsSig i = true then w.toNat / 2 ^ (8 * (i % 4) + 5) % 8 else (s.sig i).qual) ∧
      RegsBut (fun k => k = R.SIG_STAT ∨ k = R.MI_INJ_CTL ∨ LaneReg k) s t ∧ RingBytesOnly s t)

/-- R90, R91, R179, R181, R182, R183: an accepted value reaches its bound input, which while EN is
clear keeps its value; the oldest PUB of an engine reaches its signal, or, where
another device owns that, the step stops (R14); the oldest eight queued updates leave in one frame; the lowest marked signal enters the
queue again; a sweep empties both and starts the next interval; a copy older than the limit turns stale. Where the manual leaves a choice,
this follows the model's: log entry 31. -/
def Obligations.SignalTraffic : Prop :=
  ∀ (dt : Nat) (s : State),
    (∀ (e : Fin 128) (i : Fin 16) (l : BoundLoad), (s.eng e).loads.find? (fun l => l.input == i.val) = some l →
      ∃ t, Machine.exec (.boundInputLoad dt e i) s = .next t ∧
        AMap.get 0 (t.eng e).inputs i = (if s.flag (R.LE_BIND e i) LE_BIND.EN then l.value else AMap.get 0 (s.eng e).inputs i) ∧
        (t.eng e).loads = (s.eng e).loads.erase l ∧ (∀ x, x ≠ i.val → AMap.get 0 (t.eng e).inputs x = AMap.get 0 (s.eng e).inputs x) ∧
        (∀ x, x ≠ e.val → t.eng x = s.eng x) ∧ RegsBut (fun _ => False) s t) ∧
    (∀ (e : Fin 136) (p : Publish) (rest : List Publish), (s.eng e).pubq = p :: rest →
      if s.ownsSig p.sig then ∃ t, Machine.exec (.pubQueueDrain dt e) s = .next t ∧ (t.eng e).pubq = rest ∧
          (t.sig p.sig).value = p.value ∧ (t.sig p.sig).qual = p.qual ∧ (t.sig p.sig).published = true ∧
          (∀ j, j ≠ p.sig → t.sig j = s.sig j) ∧ RegsBut (fun k => k = R.SIG_STAT ∨ LaneReg k) s t ∧ RingBytesOnly s t
      else Machine.exec (.pubQueueDrain dt e) s = .fault (.foreignPublish p.sig)) ∧
    (s.ecc = [] → ∃ t, Machine.exec (.publishQueueSend dt) s = .next t ∧ t.rt.pubq = s.rt.pubq.drop 8 ∧
      (s.rt.pubq ≠ [] → SentFrame s t true 1 (sigEntryWords (s.rt.pubq.take 8))) ∧ RegsBut (fun _ => False) s t) ∧
    (∀ (i : Nat) (rest : List Nat), s.rt.marked = i :: rest → s.rt.pubq.length < 2048 →
      ∃ t e, Machine.exec (.markedResend dt) s = .next t ∧ t.rt.marked = rest ∧ t.rt.pubq = s.rt.pubq ++ [e] ∧ e.sig = i ∧
        e.value = (s.sig i).value ∧ RegsBut (fun _ => False) s t) ∧
    (s.ecc = [] → s.refreshTq ≠ 0 → Time.reached (s.advance dt).now s.refreshDue = true →
      ∃ t, Machine.exec (.signalRefresh dt) s = .next t ∧ t.rt.pubq = [] ∧ t.rt.marked = [] ∧
        t.refreshDue = s.refreshDue + BitVec.ofNat 64 s.refreshTq ∧ RegsBut (fun _ => False) s t ∧
        (∀ i, s.ownsSig i = true → (s.sig i).published = true → s.sigPublished i = true → s.inCascade = true → s.portUp 1 = true →
          ∃ fr h, fr ∈ (t.lport 1).own ∧ fr.type = 1 ∧ h.toNat % 2 ^ 17 = i % 2 ^ 17 ∧ [h, (s.sig i).value] <:+: fr.payload)) ∧
    (∀ i : Fin 131072, s.ownsSig i = false → s.ageLimit < (s.advance dt).sigAge i →
      ∃ t, Machine.exec (.signalAgeExpiry dt i) s = .next t ∧ t.sigStale i = true ∧ (∀ j, j ≠ i.val → t.sig j = s.sig j) ∧
        RegsBut (fun _ => False) s t)

/-- R43, R75, R185, R188, R189, R190, R191, R194: an event at a face-local or global channel is passed while the channel is enabled and its
gate open, both at the event's instant, is counted and reaches its consumers; at a closed gate it sets GATED. A software fire within 2 ns of
a producer's event is absorbed by it, and MERGE sets. A fire register fires the channels of its set bits that are not locked. Where the
manual leaves a choice, this follows the model's: log entry 119. -/
def Obligations.EventChannels : Prop :=
  ∀ (dt : Nat) (s : State),
    (∀ (f : Fin 8) (j : Fin 64) (e : Event),
      let st := R.FEV_STAT f j
      let u := s.advance dt
      let mine := fun (x : Event) => x.face == f.val && x.chan == j.val
      let merged := fun (x : Event) => mine x && x.soft && within2ns x.inst e.inst
      pickEvent u.now (s.rt.fev.filter mine) = some e →
      (e.soft = true → (∃ x, AMap.get none s.rt.fevLast (fevKey f j) = some x ∧ within2ns x e.inst = true) →
        ∃ t, Machine.exec (.fevEvent dt f j) s = .next t ∧ t.reg st = s.reg st ||| FEV_STAT.MERGE.mask ∧ t.rt.fev = s.rt.fev.erase e ∧
          RegsBut (· = st) s t) ∧
      (e.soft = false →
        let at_ := if e.sched then e.inst else u.now
        let cfg := u.gateAt (fevCfgKey f j) at_
        let gate := u.gateLevel f (FEV_CFG.GATE.get cfg) (FEV_CFG.SWG.get cfg == 1) at_ != (FEV_CFG.GINV.get cfg == 1)
        let merge := if (s.rt.fev.erase e).any merged then FEV_STAT.MERGE.mask else 0
        ∃ t, Machine.exec (.fevEvent dt f j) s = .next t ∧ t.rt.fev = (s.rt.fev.erase e).filter (fun x => !merged x) ∧
          (FEV_CFG.EN.get cfg = 0 → t.reg st = s.reg st ||| merge ∧ RegsBut (· = st) s t) ∧
          (FEV_CFG.EN.get cfg = 1 → gate = false → t.reg st = s.reg st ||| merge ||| FEV_STAT.GATED.mask ∧ RegsBut (· = st) s t) ∧
          (FEV_CFG.EN.get cfg = 1 → gate = true → t.flag st FEV_STAT.FIRED = true ∧
            ((s.rt.fev.erase e).any merged = true → t.flag st FEV_STAT.MERGE = true) ∧
            t.fld st FEV_STAT.EV_CNT = (s.fld st FEV_STAT.EV_CNT + 1) % 2 ^ FEV_STAT.EV_CNT.width ∧
            RegsBut (fun i => i = st ∨ ∃ h, h < 4 ∧ i = R.FACE_CG_STAT (4 * f + h)) s t ∧
            ∀ c, c < 16 →
              (s.fld (R.CH_ADC_CFG (16 * f + c)) CH_ADC_CFG.SRC = 1 → s.fld (R.CH_ADC_CFG (16 * f + c)) CH_ADC_CFG.FEV = j →
                ∃ r, (t.conv (16 * f + c)).reqs = (s.conv (16 * f + c)).reqs ++ [r] ∧ r.inst = e.inst ∧ r.sched = e.sched) ∧
              (s.fld (R.LE_CFG (16 * f + c)) LE_CFG.START = 3 → s.fld (R.LE_CFG (16 * f + c)) LE_CFG.FEV = j →
                (t.eng (16 * f + c)).starts = (s.eng (16 * f + c)).starts + 1)))) ∧
    (∀ (j : Fin 256) (e : Event),
      let st := R.GEV_STAT j
      let merged := fun (x : Event) => x.chan == j.val && x.soft && within2ns x.inst e.inst
      pickEvent (s.advance dt).now (s.rt.gev.filter (fun x => x.chan == j.val)) = some e → e.soft = false →
      ∃ t, Machine.exec (.gevEvent dt j) s = .next t ∧ RegsBut (· = st) s t ∧
        t.flag st GEV_STAT.MERGE = (s.flag st GEV_STAT.MERGE || (s.rt.gev.erase e).any merged) ∧
        (∀ x, x ∈ t.rt.gev → merged x = false) ∧
        (if s.flag (R.GEV_CFG j) GEV_CFG.EN = true ∧ s.md.gevLive = true then
           t.flag st GEV_STAT.FIRED = true ∧
           t.fld st GEV_STAT.EV_CNT = (s.fld st GEV_STAT.EV_CNT + 1) % 2 ^ GEV_STAT.EV_CNT.width ∧
           (s.flag (R.SRC_CFG j) SRC_CFG.EN = true → (t.src j).pending = true) ∧
           (∀ c, c < 64 → s.dmaOnGev c j = true → (t.dma c).reqs = (s.dma c).reqs + 1) ∧
           SentFrame s t true 2 [BitVec.ofNat 32 j]
         else t.flag st GEV_STAT.FIRED = s.flag st GEV_STAT.FIRED ∧
           t.fld st GEV_STAT.EV_CNT = s.fld st GEV_STAT.EV_CNT)) ∧
    (∀ (a : Access) (f : Fin 8) (i : Fin 2) (w : Word), PitWord a → CleanWord (R.FACE_FEV_FIRE f i) w →
      ∃ t, Machine.exec (.faceFevFire dt a f i w) s = .next t ∧ RegsBut (fun _ => False) s t ∧
        ∃ l, t.rt.fev = s.rt.fev ++ l ∧ ∀ x, x ∈ l ↔ ∃ b, b < 32 ∧ w.getLsbD b = true ∧ s.fevLocked f (32 * i + b) = false ∧
          x = { face := f, chan := 32 * i + b, inst := (s.advance dt).now, sched := false, soft := true }) ∧
    (∀ (a : Access) (i : Fin 8) (w : Word), a.size = 4 → CleanWord (R.GEV_FIRE i) w → s.md.gevLive = true →
      ∃ t, Machine.exec (.gevFire dt a i w) s = .next t ∧ RegsBut (fun _ => False) s t ∧
        ∃ l, t.rt.gev = s.rt.gev ++ l ∧ ∀ x, x ∈ l ↔ ∃ b, b < 32 ∧ w.getLsbD b = true ∧ s.gevLocked (32 * i + b) = false ∧
          s.drivesGev (32 * i + b) = true ∧
          x = { face := 0, chan := 32 * i + b, inst := (s.advance dt).now, sched := false, soft := true })

/-- R196 to R199, R201, R203: a write to an ST-typed word goes to the staging copy and leaves the active word; CHECK starts a check of the
prospective settings; ARM after a passed check looks for an apply instant that is a boundary of every running group it touches; CANCEL
before that instant disarms; DISCARD empties the copy; a command that may not be given sets CMD_REJ alone. Where the manual leaves a
choice, this follows the model's: log entry 66. -/
def Obligations.StagingCommands : Prop :=
  ∀ (dt : Nat) (a : Access) (w : Word) (s : State), PitWord a →
    (∀ addr : Word, addr.toNat % 4 = 0 → s.faceFault a addr.toNat = none →
      ((stepWordAt addr.toNat).isSome = true →
        ∃ t, Machine.exec (.stagingWrite dt a addr w) s = .next t ∧ Staged s t addr.toNat w ∧
          RegsBut (fun k => k = R.STG_STATUS ∨ k = R.STG_ENTRIES ∨ k = R.MI_INJ_CTL) s t) ∧
      (stepWordAt addr.toNat = none → tyMask addr.toNat .st ≠ 0 → CleanWord addr.toNat w →
        ∃ t, Machine.exec (.stagingWrite dt a addr w) s = .next t ∧ Staged s t addr.toNat (w &&& tyMask addr.toNat .st) ∧
          t.reg addr.toNat &&& tyMask addr.toNat .st = s.reg addr.toNat &&& tyMask addr.toNat .st ∧
          RegsBut (fun k => k = addr.toNat ∨ k = R.STG_STATUS ∨ k = R.STG_ENTRIES ∨ k = R.MI_INJ_CTL) s t)) ∧
    (let x := STG_CTL.CHECK.put w 1
     s.ecc = [] → CleanWord R.STG_CTL x → STG_CTL.ARM.get w = 0 → STG_CTL.CANCEL.get w = 0 → STG_CTL.DISCARD.get w = 0 →
      ∃ t, Machine.exec (.stgCheckCmd dt a w) s = .next t ∧
        (if s.stgBusy = true ∨ s.stgArmed = true then
           t.reg R.STG_STATUS = s.reg R.STG_STATUS ||| STG_STATUS.CMD_REJ.mask ∧ RegsBut (· = R.STG_STATUS) s t
         else t.stgBusy = true ∧ t.flag R.STG_STATUS STG_STATUS.PASS = false ∧ t.flag R.STG_STATUS STG_STATUS.FAIL = false ∧
           t.stg.words = s.stg.words ∧ RegsBut (fun k => k = R.STG_CTL ∨ k = R.STG_STATUS) s t ∧
           let u := ((s.advance dt).defined R.STG_CTL).setF R.STG_CTL STG_CTL.CASC (STG_CTL.CASC.get w)
           ∃ o, t.stg.checking = some o ∧ o.1 = (failingRule u u.prospective u.cascWide).1)) ∧
    (let x := STG_CTL.ARM.put w 1
     CleanWord R.STG_CTL x → STG_CTL.CHECK.get w = 0 → STG_CTL.CANCEL.get w = 0 → STG_CTL.DISCARD.get w = 0 →
      ∃ t, Machine.exec (.stgArmCmd dt a w) s = .next t ∧ t.stg.words = s.stg.words ∧
        (if s.flag R.STG_STATUS STG_STATUS.PASS = true ∧ s.stgArmed = false then
           let u := ((s.advance dt).defined R.STG_CTL).setF R.STG_CTL STG_CTL.CASC (STG_CTL.CASC.get w)
           t.stgBusy = true ∧ t.flag R.STG_STATUS STG_STATUS.FROZEN = true ∧ t.stgArmed = false ∧ t.stg.hset = u.touchedRunning ∧
           (t.stg.arming = some 0 → ∃ d : Int, t.stg.applyAt = u.now + BitVec.ofInt 64 d ∧ Time.diff u.stgTarget u.now ≤ d ∧
             (if u.cascWide then 10000000 else 400000) ≤ d ∧
             ∀ g, g ∈ t.stg.hset → ∃ m : Nat, t.stg.applyAt = u.nextBoundary g + BitVec.ofNat 64 (m * Nat.max 1 (u.period g))) ∧
           RegsBut (fun k => k = R.STG_CTL ∨ k = R.STG_STATUS ∨ k = R.STG_CASC_ARM) s t
         else t.reg R.STG_STATUS = s.reg R.STG_STATUS ||| STG_STATUS.CMD_REJ.mask ∧ RegsBut (· = R.STG_STATUS) s t)) ∧
    (let x := STG_CTL.CANCEL.put w 1
     CleanWord R.STG_CTL x → STG_CTL.CHECK.get w = 0 → STG_CTL.ARM.get w = 0 → STG_CTL.DISCARD.get w = 0 →
      ∃ t, Machine.exec (.stgCancelCmd dt a w) s = .next t ∧ t.stg.words = s.stg.words ∧
        (if s.stgArmed = true ∧ Time.reached (s.advance dt).now s.stg.applyAt = false then
           t.stgArmed = false ∧ t.flag R.STG_STATUS STG_STATUS.PASS = false ∧ t.flag R.STG_STATUS STG_STATUS.FROZEN = false ∧
           t.flag R.STG_STATUS STG_STATUS.CANCELLED = true
         else t.reg R.STG_STATUS = s.reg R.STG_STATUS) ∧
        RegsBut (fun k => k = R.STG_CTL ∨ k = R.STG_STATUS ∨ k = R.STG_CASC_ARM ∨
          ∃ i, i < 16 ∧ (s.trk i).edges ≠ [] ∧ (k = R.ANG_STAT i ∨ k = R.ANG_CNT i)) s t) ∧
    (let x := STG_CTL.DISCARD.put w 1
     CleanWord R.STG_CTL x → STG_CTL.CHECK.get w = 0 → STG_CTL.ARM.get w = 0 → STG_CTL.CANCEL.get w = 0 →
      ∃ t, Machine.exec (.stgDiscardCmd dt a w) s = .next t ∧
        (if s.stgBusy = true ∨ s.stgArmed = true then
           t.reg R.STG_STATUS = s.reg R.STG_STATUS ||| STG_STATUS.CMD_REJ.mask ∧ t.stg.words = s.stg.words ∧
           RegsBut (· = R.STG_STATUS) s t
         else t.stg.words = [] ∧ t.fld R.STG_ENTRIES STG_ENTRIES.COUNT = 0 ∧ t.flag R.STG_STATUS STG_STATUS.OVF = false ∧
           t.flag R.STG_STATUS STG_STATUS.PASS = false ∧
           RegsBut (fun k => k = R.STG_CTL ∨ k = R.STG_STATUS ∨ k = R.STG_ENTRIES) s t))

/-- R198, R199, R201, R204 to R206: a check ends with PASS, or with FAIL, its rule and its address; an arm ends with ARMED and the apply
instant, or with FAIL; at its instant the shift change makes every staged value active, leaves the other fields as they are, and the
staging copy empty; a cascade-wide check or arm waits for
the other devices, and without their confirmation 20 µs later it fails by rule 16. Where the manual leaves a choice, this follows the
model's: log entries 60, 64, 66. -/
def Obligations.StagingEnds : Prop :=
  ∀ (dt : Nat) (s : State),
    (∀ (r addr : Nat), s.stg.checking = some (r, addr) → r ≤ 16 →
      ((s.stg.cascade && s.isMaster) = true → s.peersPresent.all (fun d => AMap.get none s.stg.results d == some 0) = true ∧
        s.fld R.SHL_STAT SHL_STAT.LOST = 0) →
      ∃ t, Machine.exec (.stgCheckDone dt) s = .next t ∧ t.stgBusy = false ∧ t.stg.checking = none ∧ t.stg.words = s.stg.words ∧
        (if r = 0 then t.flag R.STG_STATUS STG_STATUS.PASS = true ∧ RegsBut (· = R.STG_STATUS) s t
         else t.flag R.STG_STATUS STG_STATUS.FAIL = true ∧ t.fld R.STG_STATUS STG_STATUS.RULE = r ∧
           t.reg R.STG_FAIL_ADDR = BitVec.ofNat 32 addr ∧ RegsBut (fun k => k = R.STG_STATUS ∨ k = R.STG_FAIL_ADDR) s t)) ∧
    (∀ r : Nat, s.stg.arming = some r → r ≤ 16 → (r = 0 → s.stg.cascade = true → s.unconfirmed = []) →
      ∃ t, Machine.exec (.stgArmDone dt) s = .next t ∧ t.stgBusy = false ∧ t.stg.arming = none ∧ t.stg.words = s.stg.words ∧
        (if r = 0 then t.stgArmed = true ∧ t.flag R.STG_STATUS STG_STATUS.FROZEN = true ∧
           t.reg R.STG_APPLY_LO = s.stg.applyAt.truncate 32 ∧ t.reg R.STG_APPLY_HI = (s.stg.applyAt >>> 32).truncate 32 ∧
           (s.stg.cascade = true → t.reg R.STG_CASC_ARM = BitVec.ofNat 32 (2 ^ s.ownId) ∧ SentFrame s t true 3 [8]) ∧
           RegsBut (fun k => k = R.STG_STATUS ∨ k = R.STG_APPLY_LO ∨ k = R.STG_APPLY_HI ∨ k = R.STG_CASC_ARM) s t
         else t.flag R.STG_STATUS STG_STATUS.FAIL = true ∧ t.fld R.STG_STATUS STG_STATUS.RULE = r ∧ t.stgArmed = s.stgArmed ∧
           t.flag R.STG_STATUS STG_STATUS.FROZEN = false ∧ RegsBut (fun k => k = R.STG_STATUS ∨ k = R.STG_FAIL_ADDR) s t)) ∧
    (s.stgArmed = true → Time.reached (s.advance dt).now s.stg.applyAt = true → s.boundariesDone s.stg.applyAt = true →
      s.ecc = [] → (s.stg.words.map (fun x => x.1)).Nodup →
      (∀ k v, s.stagedAt k = some v → AMap.get false s.undef k = false ∨ AMap.get false s.stg.clean k = true) →
      ∃ t, Machine.exec (.shiftChangeApply dt) s = .next t ∧ t.stg.words = [] ∧ t.stgArmed = false ∧
        (∀ k, stMask k ≠ 0 → t.reg k = match s.stagedAt k with
          | some v => (s.reg k &&& ~~~stMask k) ||| (v &&& stMask k)
          | none => s.reg k) ∧
        t.flag R.STG_STATUS STG_STATUS.PASS = false ∧ t.flag R.STG_STATUS STG_STATUS.FROZEN = false ∧
        t.flag R.STG_STATUS STG_STATUS.APPLIED = true ∧ t.fld R.STG_ENTRIES STG_ENTRIES.COUNT = 0 ∧
        t.reg R.STG_LAST_LO = s.stg.applyAt.truncate 32 ∧ t.reg R.STG_LAST_HI = (s.stg.applyAt >>> 32).truncate 32 ∧ SameBytes s t) ∧
    (s.stgArmed = false → (∃ y, s.stg.offered = some y ∧ Time.reached (s.advance dt).now y = true) →
      ∃ t, Machine.exec (.shiftChangeApply dt) s = .next t ∧ t.stg.offered = none ∧ t.stg.words = s.stg.words ∧
        t.reg R.STG_STATUS = s.reg R.STG_STATUS ||| STG_STATUS.CANCELLED.mask ∧ RegsBut (· = R.STG_STATUS) s t) ∧
    (s.stg.arming = some 0 → s.stg.cascade = true → s.unconfirmed ≠ [] → 4000000 ≤ Time.since s.stg.sentAt (s.advance dt).now →
      ∃ t, Machine.exec (.cascConfirmTimeout dt) s = .next t ∧ t.stg.arming = none ∧ t.stgArmed = s.stgArmed ∧ t.stgBusy = false ∧
        t.flag R.STG_STATUS STG_STATUS.FAIL = true ∧ t.fld R.STG_STATUS STG_STATUS.RULE = 16 ∧
        t.fld R.STG_STATUS STG_STATUS.FAIL_DEV ∈ s.unconfirmed ∧ RegsBut (fun k => k = R.STG_STATUS ∨ k = R.STG_FAIL_ADDR) s t)

/-- R247, R248, R249, R252, R254: a doorbell is one event of its source, unless Bank world may not ring it; an event of an enabled source sets
PENDING and counts; a 1 written to INT_PEND clears PENDING; a write to SRC_CFG stores its fields, and enabling an active level source is
an event; a pending source becomes ready when its time has passed; a completion clears ACTIVE for the taker alone. Where the manual leaves
a choice, this follows the model's: log entry 71. -/
def Obligations.InterruptSources : Prop :=
  ∀ (dt : Nat) (a : Access) (w : Word) (s : State), a.size = 4 →
    (CleanWord R.INT_DOORBELL w →
      let i := INT_DOORBELL.SRC.get w
      let q := s.src i
      ∃ t, Machine.exec (.intDoorbell dt a w) s = .next t ∧
        (if a.world = .bank ∧ s.fld (R.SRC_CFG i) SRC_CFG.WORLD = 0 ∧ s.flag (R.SRC_CFG i) SRC_CFG.BANKRING = false then
           t.flag R.INT_STAT INT_STAT.RING_REJ = true ∧ RegsBut (fun k => k = R.INT_STAT ∨ TallyReg k) s t ∧
           t.fld R.INT_STAT INT_STAT.RING_CNT = satInc (2 ^ INT_STAT.RING_CNT.width - 1) (s.fld R.INT_STAT INT_STAT.RING_CNT)
         else RegsBut (fun _ => False) s t ∧ (∀ j, j ≠ i → t.src j = s.src j) ∧
           (if s.flag (R.SRC_CFG i) SRC_CFG.EN then
              (t.src i).pending = true ∧ (t.src i).active = q.active ∧ (t.src i).gather = satInc 255 q.gather ∧
              (t.src i).since = (if q.gather = 0 then (s.advance dt).now else q.since) ∧
              (t.src i).ready = (q.ready || decide (s.coalCount i ≤ satInc 255 q.gather))
            else t.src i = q))) ∧
    (∀ i : Fin 128, CleanWord (R.INT_PEND i) w → AMap.get 0 (s.advance dt).hwSet (R.INT_PEND i) = 0 →
      ∃ t, Machine.exec (.intPendWrite dt a i w) s = .next t ∧ RegsBut (fun _ => False) s t ∧
        ∀ n, if n / 32 = i ∧ w.getLsbD (n % 32) = true ∧ (a.world = .pit ∨ s.fld (R.SRC_CFG n) SRC_CFG.WORLD = 1) then
            (t.src n).pending = false ∧ (t.src n).gather = 0 ∧ (t.src n).ready = false ∧ (t.src n).active = (s.src n).active
          else t.src n = s.src n) ∧
    (∀ i : Fin 4096, CleanWord (R.SRC_CFG i) w → a.world = .pit →
      let k := R.SRC_CFG i
      ∃ t, Machine.exec (.srcCfgWrite dt a i w) s = .next t ∧ t.reg k = stored s k w ∧ RegsBut (· = k) s t ∧
        (∀ j, j ≠ i.val → t.src j = s.src j) ∧
        (if s.flag k SRC_CFG.EN = false ∧ t.flag k SRC_CFG.EN = true ∧ isLevelSource i = true then
           (s.levelCond i = true → (t.src i).pending = true) ∧
           (s.levelCond i = false → t.src i = { s.src i with level := false })
         else t.src i = s.src i)) ∧
    (∀ i : Fin 4096, (s.src i).pending = true → (s.src i).gather ≠ 0 →
      Time.reached (s.advance dt).now ((s.src i).since + BitVec.ofNat 64 (s.coalTime i)) = true →
      ∃ t, Machine.exec (.coalesceTimeout dt i) s = .next t ∧ t.src i = { s.src i with ready := true } ∧
        (∀ j, j ≠ i.val → t.src j = s.src j) ∧ RegsBut (fun _ => False) s t) ∧
    (∀ x : Fin 7, CleanWord (R.TGT_COMPLETE x) w →
      let i := TGT_COMPLETE.SRC.get w
      ∃ t, Machine.exec (.tgtComplete dt a x w) s = .next t ∧ (∀ j, j ≠ i → t.src j = s.src j) ∧
        (if (s.src i).active = true ∧ (s.src i).taker = x then (t.src i).active = false ∧ RegsBut (fun _ => False) s t ∧
           (isLevelSource i = true → s.levelCond i = true → s.flag (R.SRC_CFG i) SRC_CFG.EN = true → (t.src i).pending = true)
         else t.src i = s.src i ∧ t.reg (R.TGT_STAT x) = s.reg (R.TGT_STAT x) ||| TGT_STAT.CMPL_REJ.mask ∧
           RegsBut (· = R.TGT_STAT x) s t))

/-- R258, R260 to R263, R267: a write to DMA_CFG stores its fields and the world of the access; START of a channel that is not busy begins its
transfer or, with a configuration error, sets CFG_ERR; STOP drains; FLUSH lets the source queue drain once; a pointer write moves the
pointer and, where the channel owns it, NEXT; what BUSY forbids sets WR_REJ alone. A request starts a transfer, or is lost. Where the
manual leaves a choice, this follows the model's: log entries 72, 73, 74. -/
def Obligations.DmaCommands : Prop :=
  ∀ (dt : Nat) (a : Access) (c : Fin 64) (w : Word) (s : State),
    let k := R.DMA_STAT c
    let rej := s.reg k ||| DMA_STAT.WR_REJ.mask
    (MayDma s a c →
      (CleanWord (R.DMA_CFG c) w → ∃ t, Machine.exec (.dmaCfgWrite dt a c w) s = .next t ∧
        (if s.dmaBusy c = true then t.reg k = rej ∧ RegsBut (· = k) s t
         else t.reg (R.DMA_CFG c) = DMA_CFG.WORLD.put (stored s (R.DMA_CFG c) w) a.world.bit ∧ RegsBut (· = R.DMA_CFG c) s t)) ∧
      (CleanWord (R.DMA_CTL c) (DMA_CTL.START.put w 1) → DMA_CTL.STOP.get w = 0 → DMA_CTL.FLUSH.get w = 0 →
        ∃ t, Machine.exec (.dmaStart dt a c w) s = .next t ∧
          (if s.dmaBusy c = true then t.reg k = rej ∧ RegsBut (· = k) s t
           else if s.dmaCfgErr c = true then t.flag k DMA_STAT.CFG_ERR = true ∧ t.dmaState c = 0 ∧ RegsBut (· = k) s t
           else t.reg (R.DMA_DONE_BYTES c) = 0 ∧ (t.dma c).next = 0 ∧
             (s.dmaPace c = 0 → (isSg c = true ∨ s.reg (R.DMA_COUNT c) ≠ 0) → t.dmaState c = 2 ∧ (t.dma c).active = true) ∧
             (s.dmaPace c = 0 → isSg c = false → s.reg (R.DMA_COUNT c) = 0 → t.dmaState c = 0 ∧ t.flag k DMA_STAT.DONE = true) ∧
             (s.dmaPace c = 1 → t.dmaState c = 1) ∧ (2 ≤ s.dmaPace c → t.dmaState c = 1 ∨ t.dmaState c = 2) ∧
             RegsBut (fun i => i = k ∨ i = R.DMA_DONE_BYTES c ∨ i = R.DMA_DESC_LO c ∨ i = R.DMA_DESC_HI c ∨ i = R.DMA_TAKE c ∨
               i = R.DMA_PUT c) s t)) ∧
      (CleanWord (R.DMA_CTL c) (DMA_CTL.STOP.put w 1) → DMA_CTL.START.get w = 0 → DMA_CTL.FLUSH.get w = 0 →
        ∃ t, Machine.exec (.dmaStop dt a c w) s = .next t ∧ RegsBut (· = k) s t ∧
          (if s.dmaState c = 1 ∨ s.dmaState c = 2 then (t.dma c).left = 0 ∧ (t.dma c).descNext = none ∧ (t.dma c).reqs = 0 ∧
             (if (s.dma c).outstanding then t.dmaState c = 3 else t.dmaState c = 0 ∧ t.flag k DMA_STAT.DONE = true)
           else t.reg k = s.reg k)) ∧
      (CleanWord (R.DMA_CTL c) (DMA_CTL.FLUSH.put w 1) → DMA_CTL.START.get w = 0 → DMA_CTL.STOP.get w = 0 →
        ∃ t, Machine.exec (.dmaFlush dt a c w) s = .next t ∧ RegsBut (· = k) s t ∧
          (if s.dmaPace c = 2 ∧ isSg c = false ∧ s.dmaState c = 1 then
             (if s.dmaNextLen c = 0 then t.dmaState c = 1 ∧ (t.dma c).flushing = false
              else t.dmaState c = 2 ∧ (t.dma c).flushing = true)
           else t.reg k = s.reg k)) ∧
      (∀ put : Bool,
        let p := if put then R.DMA_PUT c else R.DMA_TAKE c
        let owned := (s.dmaPace c == 2 && !put) || (s.dmaPace c == 3 && put)
        CleanWord p w → ∃ t, Machine.exec (.dmaPointerWrite dt a c put w) s = .next t ∧ RegsBut (fun i => i = k ∨ i = p) s t ∧
          (if owned = true ∧ s.dmaBusy c = true then t.reg k = rej ∧ t.reg p = s.reg p
           else t.reg p = w ∧ (owned = true → (t.dma c).next = w.toNat) ∧
             (owned = false → s.dmaPace c < 2 → t.reg k = s.reg k)))) ∧
    (a.world = .bank → s.fld (R.DMA_CFG c) DMA_CFG.WORLD = 0 → a.master < 7 →
      ∃ t, Machine.exec (.dmaStart dt a c w) s = .next t ∧ t.dma c = s.dma c ∧ RegsBut TallyReg s t ∧
        (t.flow a.master).storeErr ≠ none) ∧
    (0 < (s.dma c).reqs →
      ∃ t, Machine.exec (.dmaRequest dt c) s = .next t ∧ (t.dma c).reqs = (s.dma c).reqs - 1 ∧ RegsBut (· = k) s t ∧
        (if (s.dma c).active then t.reg k = s.reg k ||| DMA_STAT.REQ_OVR.mask ∧ (t.dma c).left = (s.dma c).left
         else if s.dmaState c = 1 ∧ s.dmaPace c = 1 then
           (isSg c = true ∨ s.reg (R.DMA_COUNT c) ≠ 0 → t.dmaState c = 2 ∧ (t.dma c).active = true ∧
             (t.dma c).left = if isSg c then 0 else (s.reg (R.DMA_COUNT c)).toNat)
         else t.reg k = s.reg k))

/-- R23, R259, R262, R264, R265, R266, R268, R269: a read burst is issued and moves NEXT on; its response brings the bytes of memory; a
write burst is issued and its response stores exactly those bytes at its destination and counts them; a descriptor is read, followed or
worked on, and one that breaks a rule stops the channel; an answer waits for the earlier accesses of the channel to its block. Where the
manual leaves a choice, this follows the model's: log entries 74, 75. -/
def Obligations.DmaBursts : Prop :=
  ∀ (dt : Nat) (c : Fin 64) (s : State),
    let d := s.dma c
    (∀ b : Burst, s.dmaPick s.dmaCanRead s.mv.lastRead = some c.val → s.dmaNext c = some b → s.isRemote b.src = false →
      ∃ t, Machine.exec (.dmaBurstIssue dt false) s = .next t ∧ (t.dma c).reads = d.reads ++ [{ b with ord := d.issued }] ∧
        (t.dma c).left = d.left - b.len ∧
        (t.dma c).next = (d.next + b.len) % 2 ^ 32 ∧ RegsBut (· = R.DMA_STAT c) s t) ∧
    (∀ (b : Burst) (rest : List Burst), s.dmaPick s.dmaCanWrite s.mv.lastWrite = some c.val → d.held = b :: rest →
      s.isRemote b.dst = false →
      ∃ t, Machine.exec (.dmaBurstIssue dt true) s = .next t ∧ (t.dma c).held = rest ∧
        (t.dma c).writes = d.writes ++ [{ b with ord := d.issued }] ∧ RegsBut (fun _ => False) s t) ∧
    (∀ (b : Burst) (rest : List Burst), d.reads = b :: rest → b.tag = none → s.dmaState c ≠ 4 → s.dmaBehind c false b.src b.len b.ord = false →
      (b.err = false → b.sfix = false → InRam b.src b.len → s.ecc = [] →
        ∃ t, Machine.exec (.dmaReadResponse dt c) s = .next t ∧ (t.dma c).reads = rest ∧
          (t.dma c).held = d.held ++ [{ b with data := bytesFrom s b.src b.len }] ∧
          (if isSg c = false ∧ s.dmaPace c = 2 then
             t.reg (R.DMA_TAKE c) = s.reg (R.DMA_TAKE c) + BitVec.ofNat 32 b.len ∧ RegsBut (· = R.DMA_TAKE c) s t
           else RegsBut (fun _ => False) s t)) ∧
      (b.err = true → ∃ t, Machine.exec (.dmaReadResponse dt c) s = .next t ∧ t.dmaState c = 4 ∧ (t.dma c).held = [] ∧
        t.flag (R.DMA_STAT c) DMA_STAT.ERR = true ∧ t.fld (R.DMA_STAT c) DMA_STAT.ERR_CODE = 1 ∧
        t.flag (R.DMA_STAT c) DMA_STAT.DONE = s.flag (R.DMA_STAT c) DMA_STAT.DONE ∧
        RegsBut (fun k => k = R.DMA_STAT c ∨ TallyReg k) s t)) ∧
    (∀ (b : Burst) (rest : List Burst), d.writes = b :: rest → b.tag = none → b.err = false → b.dfix = false → InRam b.dst b.len →
      b.data.length = b.len → s.ecc = [] → s.dmaBehind c true b.dst b.len b.ord = false →
      ∃ t, Machine.exec (.dmaWriteResponse dt c) s = .next t ∧ (t.dma c).writes = rest ∧ BytesWritten s t b.dst b.data ∧
        t.reg (R.DMA_DONE_BYTES c) = s.reg (R.DMA_DONE_BYTES c) + BitVec.ofNat 32 b.len ∧
        (if isSg c = false ∧ s.dmaPace c = 3 then t.reg (R.DMA_PUT c) = s.reg (R.DMA_PUT c) + BitVec.ofNat 32 b.len
         else t.reg (R.DMA_PUT c) = s.reg (R.DMA_PUT c)) ∧
        RegsBut (fun k => k = R.DMA_STAT c ∨ k = R.DMA_DONE_BYTES c ∨ k = R.DMA_PUT c ∨ k = R.MI_INJ_CTL) s t) ∧
    (∀ x : Nat, isSg c = true → s.dmaState c = 2 → s.dmaPace c = 0 → d.left = 0 → d.desc = none → d.descRead = none →
      d.descNext = some x → InRam x 16 → s.ecc = [] → s.dmaBehind c false x 16 d.issued = false →
      if d.visited.contains x then Machine.exec (.dmaDescriptorRead dt c) s = .fault (.listLoop c)
      else
        let y := descOf x (s.word x) (s.word (x + 4)) (s.word (x + 8)) (s.word (x + 12))
        ∃ t, Machine.exec (.dmaDescriptorRead dt c) s = .next t ∧ t.reg (R.DMA_DESC_LO c) = BitVec.ofNat 32 x ∧
          RegsBut (fun k => k = R.DMA_STAT c ∨ k = R.DMA_DESC_LO c ∨ k = R.DMA_DESC_HI c ∨ TallyReg k) s t ∧
          (if y.bad (s.dmaEsize c) then t.dmaState c = 4 ∧ t.fld (R.DMA_STAT c) DMA_STAT.ERR_CODE = 5
           else if y.ctl.getLsbD 28 then (t.dma c).desc = none ∧
             (if y.ctl.getLsbD 24 then (t.dma c).descNext = none else (t.dma c).descNext = some y.src ∧ t.dmaState c = 2) ∧
             (y.ctl.getLsbD 25 = true → d.open_ = [] → d.reads = [] → d.held = [] → d.writes = [] →
               t.flag (R.DMA_STAT c) DMA_STAT.DESC_IRQ = true)
           else if y.len = 0 then (t.dma c).desc = none
           else (t.dma c).desc = some y ∧ (t.dma c).left = y.len ∧
             (t.dma c).descNext = if y.ctl.getLsbD 24 then none else some (x + 16))) ∧
    (∀ (b : Burst) (rest : List Burst),
      (d.reads = b :: rest → s.dmaBehind c false b.src b.len b.ord = true →
        ∃ t, Machine.exec (.dmaReadResponse dt c) s = .next t ∧ t.dma c = d ∧ RegsBut (fun _ => False) s t) ∧
      (d.writes = b :: rest → s.dmaBehind c true b.dst b.len b.ord = true →
        ∃ t, Machine.exec (.dmaWriteResponse dt c) s = .next t ∧ t.dma c = d ∧ SameBytes s t ∧ RegsBut (fun _ => False) s t))

/-- R288, R289, R290, R292, R293: Tally takes the oldest report of its queue into the newest place of its log, or merges it, or counts it as
lost when 256 entries are unread; a held report enters the queue when that has room; TAIL frees entries; a TALLY_SAFE bit clears only in
HOLD with the release window open. -/
def Obligations.TallyLog : Prop :=
  ∀ (dt : Nat) (a : Access) (w : Word) (s : State),
    (∀ (r : Report) (rest : List Report), s.lg.queue = r :: rest → r.cls < 4 →
      let older := s.youngest r = none ∨
        ∃ e x, s.youngest r = some e ∧ s.logAt e = some x ∧ 200000 < Time.since x.latest r.inst
      ∃ t, Machine.exec (.tallyTake dt) s = .next t ∧ t.lg.queue = rest ∧ t.fld R.TALLY_STAT TALLY_STAT.NEW / 2 ^ r.cls % 2 = 1 ∧
        (older → s.tallyUnread < 256 → t.tallyHead = (s.tallyHead + 1) % 512 ∧
          RegsBut (fun k => k = R.TALLY_STAT ∨ k = R.TALLY_HEAD) s t ∧
          ∃ x, t.logAt s.tallyHead = some x ∧ x.src = r.src ∧ x.code = r.code ∧ x.cls = r.cls ∧ x.detail = r.detail ∧ x.first = r.inst ∧
            x.latest = r.inst ∧ x.repeats = Nat.min 65535 r.repeats) ∧
        (∀ e x, s.youngest r = some e → s.logAt e = some x → Time.since x.latest r.inst ≤ 200000 →
          t.logAt e = some { x with repeats := Nat.min 65535 (x.repeats + r.repeats + 1), latest := r.inst } ∧
          RegsBut (· = R.TALLY_STAT) s t) ∧
        (older → s.tallyUnread = 256 → t.flag R.TALLY_STAT TALLY_STAT.DROP = true ∧ t.lg.entries = s.lg.entries ∧
          t.tallyHead = s.tallyHead ∧ (r.src < 512 → RegsBut TallyReg s t))) ∧
    (∀ (r : Report) (rest : List Report), s.lg.held = r :: rest → s.lg.queue.length < 16 →
      ∃ t, Machine.exec (.tallyHeldReport dt) s = .next t ∧ t.lg.held = rest ∧ t.lg.queue = s.lg.queue ++ [r] ∧
        RegsBut (fun _ => False) s t) ∧
    (a.size = 4 → CleanWord R.TALLY_TAIL w →
      ∃ t, Machine.exec (.tallyTail dt a w) s = .next t ∧
        (if (s.tallyHead + 512 - TALLY_TAIL.TAIL.get w) % 512 ≤ 256 then
           t.tallyTail = TALLY_TAIL.TAIL.get w ∧ RegsBut (· = R.TALLY_TAIL) s t
         else t.reg R.TALLY_STAT = s.reg R.TALLY_STAT ||| TALLY_STAT.TAIL_REJ.mask ∧ RegsBut (· = R.TALLY_STAT) s t)) ∧
    (PitWord a → CleanWord R.TALLY_SAFE w → AMap.get 0 (s.advance dt).hwSet R.TALLY_SAFE = 0 →
      let m := s.reg R.TALLY_SAFE &&& w &&& TALLY_SAFE.GROUP.mask
      ∃ t, Machine.exec (.tallySafeWrite dt a w) s = .next t ∧
        (if m = 0 then RegsBut (fun _ => False) s t
         else if s.mode = 4 ∧ s.flag R.MODE_REL MODE_REL.OPEN = true then
           t.reg R.TALLY_SAFE = s.reg R.TALLY_SAFE &&& ~~~m ∧ RegsBut (· = R.TALLY_SAFE) s t
         else t.reg R.TALLY_STAT = s.reg R.TALLY_STAT ||| TALLY_STAT.SAFE_CLR_REJ.mask ∧ RegsBut (· = R.TALLY_STAT) s t))

/-- R14, R296 to R300: TUB_CFG lists its buffers while none is allocated; an allocation returns the address of the head of the free list and
tags it; a free by the owner puts the buffer at the head; a free of a buffer that is free stops; a give changes the tag; another tag and a
wrong address are rejected. Where the manual leaves a choice, this follows the model's: log entries 3, 117. -/
def Obligations.TubPool : Prop :=
  ∀ (dt : Nat) (a : Access) (w : Word) (s : State), a.size = 4 →
    let rejected := fun (t : State) (src code : Nat) => t.lg.tubTag = s.lg.tubTag ∧
      (s.lg.held = [] → s.lg.queue.length < 16 → RegsBut (· = R.TUB_STAT) s t ∧
        ∃ x, t.lg.queue = s.lg.queue ++ [x] ∧ x.src = src ∧ x.code = code ∧ x.cls = 0) ∧ RegsBut (fun k => k = R.TUB_STAT ∨ TallyReg k) s t
    let foreign := fun (t : State) => rejected t 0xC8 0x0060 ∧ t.reg R.TUB_STAT = TUB_STAT.NONOWNER_CNT.put
      (s.reg R.TUB_STAT ||| TUB_STAT.NONOWNER.mask) (satInc 255 (s.fld R.TUB_STAT TUB_STAT.NONOWNER_CNT))
    let astray := fun (t : State) => rejected t a.src 0x0061 ∧ t.reg R.TUB_STAT = s.reg R.TUB_STAT ||| TUB_STAT.BADADDR.mask
    (CleanWord R.TUB_CFG w →
      ∃ t, Machine.exec (.tubCfg dt a w) s = .next t ∧
        (if s.lg.tubTag = [] then
           t.lg.tubFree = ((List.range (TUB_CFG.COUNT.get w)).map (fun i => TUB_CFG.FIRST.get w + i)).filter (fun b => b < 2048) ∧
           t.reg R.TUB_CFG = stored s R.TUB_CFG w ∧ RegsBut (· = R.TUB_CFG) s t
         else t.lg.tubFree = s.lg.tubFree ∧ t.reg R.TUB_STAT = s.reg R.TUB_STAT ||| TUB_STAT.CFG_REJ.mask ∧
           RegsBut (· = R.TUB_STAT) s t)) ∧
    (AMap.get false s.undef R.TUB_ALLOC = false → ∃ t, Machine.exec (.tubAlloc dt a) s = .next t ∧
      match s.lg.tubFree with
      | b :: rest => AMap.get 0 t.rdata a.master = tubAddr b ∧ t.lg.tubFree = rest ∧ t.tubOwner b = some a.tag ∧
          (∀ x, x ≠ b → t.tubOwner x = s.tubOwner x) ∧ RegsBut (fun _ => False) s t
      | [] => AMap.get 0 t.rdata a.master = 0 ∧ t.lg.tubTag = s.lg.tubTag ∧
          t.reg R.TUB_STAT = s.reg R.TUB_STAT ||| TUB_STAT.EMPTY.mask ∧ RegsBut (· = R.TUB_STAT) s t) ∧
    (CleanWord R.TUB_FREE w → match s.tubBase w with
     | some b =>
       match s.tubOwner b with
       | some o => ∃ t, Machine.exec (.tubFree dt a w) s = .next t ∧
           (if o = a.tag then t.tubOwner b = none ∧ t.lg.tubFree = b :: s.lg.tubFree ∧ (∀ x, x ≠ b → t.tubOwner x = s.tubOwner x) ∧
              RegsBut (fun _ => False) s t
            else t.lg.tubFree = s.lg.tubFree ∧ foreign t)
       | none => Machine.exec (.tubFree dt a w) s = .fault (.tubDoubleFree b)
     | none => ∃ t, Machine.exec (.tubFree dt a w) s = .next t ∧ t.lg.tubFree = s.lg.tubFree ∧ astray t) ∧
    (CleanWord R.TUB_GIVE w → ∃ t, Machine.exec (.tubGive dt a w) s = .next t ∧ t.lg.tubFree = s.lg.tubFree ∧
      match s.tubBase (w &&& 0xFFFFF800) with
      | some b =>
        (s.tubOwner b = some a.tag → t.tubOwner b = some (TUB_GIVE.TAG.get w) ∧ (∀ x, x ≠ b → t.tubOwner x = s.tubOwner x) ∧
          RegsBut (fun _ => False) s t) ∧
        (∀ o, s.tubOwner b = some o → o ≠ a.tag → foreign t) ∧ (s.tubOwner b = none → astray t)
      | none => astray t)

/-- R284, R285, R286: while the scrubber runs, the next word of a region is read when it is due: a clean one is left, a single error is
counted, reported and written back, an uncorrectable one is counted and reported with its address; then the walk moves on. A pass that has
not ended in its period sets LAG. Where the manual leaves a choice, this follows the model's: log entry 70. -/
def Obligations.Scrubbing : Prop :=
  ∀ (dt : Nat) (i : Fin 20) (s : State), s.scrubs = true → s.scrubPeriod i ≠ 0 →
    (i.val ≠ 8 → Time.reached (s.advance dt).now (s.scrubDue i) = true →
      let at_ := AMap.get 0 s.lg.scrubAt i
      let x := regionWordAddr i at_
      ∃ t, Machine.exec (.scrubRead dt i) s = .next t ∧ SameBytes s t ∧
        (at_ + 1 < regionWords i → AMap.get 0 t.lg.scrubAt i = at_ + 1) ∧
        (regionWords i ≤ at_ + 1 → AMap.get 0 t.lg.scrubAt i = 0) ∧
        (s.eccMask x = 0 → t.ecc = s.ecc ∧ RegsBut (· = R.MI_SCRUB_STAT i) s t) ∧
        (∀ p : Fin 39, s.eccMask x = 1#39 <<< p.val → t.eccMask x = 0 ∧ t.flag R.MI_STAT MI_STAT.CE = true ∧
          t.fld (R.MI_ERR_CNT i) MI_ERR_CNT.CE_CNT =
            satInc (2 ^ MI_ERR_CNT.CE_CNT.width - 1) (s.fld (R.MI_ERR_CNT i) MI_ERR_CNT.CE_CNT) ∧
          Reported s t (0xB0 + i) 0x0001 clsCorr (BitVec.ofNat 32 x) ∧
          RegsBut (fun k => k = R.MI_SCRUB_STAT i ∨ k = R.MI_ERR_CNT i ∨ k = R.MI_STAT ∨ TallyReg k) s t) ∧
        (∀ p q : Fin 39, p ≠ q → s.eccMask x = 1#39 <<< p.val ^^^ 1#39 <<< q.val → t.ecc = s.ecc ∧
          t.flag R.MI_STAT MI_STAT.UE = true ∧ t.reg R.MI_UE_LO = BitVec.ofNat 32 x ∧
          t.fld (R.MI_ERR_CNT i) MI_ERR_CNT.UE_CNT =
            satInc (2 ^ MI_ERR_CNT.UE_CNT.width - 1) (s.fld (R.MI_ERR_CNT i) MI_ERR_CNT.UE_CNT) ∧
          Reported s t (0xB0 + i) 0x0003 (ueClass i) (BitVec.ofNat 32 x))) ∧
    (i.val = 8 → Time.reached (s.advance dt).now (s.scrubDue i) = true →
      let c := AMap.get 0 s.lg.scrubAt i
      1 ≤ AMap.get 0 s.pageErr c → AMap.get 0 s.pageErr c ≤ 16 →
      ∃ t, Machine.exec (.scrubRead dt i) s = .next t ∧ SameBytes s t ∧ AMap.get 0 t.pageErr c = 0 ∧
        t.flag R.MI_STAT MI_STAT.CE = true ∧ Reported s t 0xB8 0x0001 clsCorr (BitVec.ofNat 32 (0x24000000 + 1024 * c)) ∧
        RegsBut (fun k => k = R.MI_SCRUB_STAT i ∨ k = R.MI_ERR_CNT i ∨ k = R.MI_STAT ∨ TallyReg k) s t) ∧
    (AMap.get false s.lg.scrubLate i = false →
      Time.reached (s.advance dt).now (AMap.get 0 s.lg.scrubFrom i + BitVec.ofNat 64 (s.scrubPeriod i)) = true →
      ∃ t, Machine.exec (.scrubPassOverrun dt i) s = .next t ∧ t.flag (R.MI_SCRUB_STAT i) MI_SCRUB_STAT.LAG = true ∧
        t.flag R.MI_STAT MI_STAT.LAG = true ∧ AMap.get false t.lg.scrubLate i = true ∧
        RegsBut (fun k => k = R.MI_SCRUB_STAT i ∨ k = R.MI_STAT) s t)

/-- R304 to R313, R319, R328: what the commands of a recorder lane do: a pending signal record is written once it is due; a condition or
SWTRIG at a lane that fills or is armed starts a core; re-arming ends; enabling checks the settings and starts an empty history; disabling
ends every core; REL releases the oldest segments. Where the manual leaves a choice, this follows the model's: log entries 77, 78, 79, 80,
102. -/
def Obligations.RecorderLanes : Prop :=
  ∀ (dt : Nat) (a : Access) (l : Fin 32) (w : Word) (s : State),
    let q := s.lane l
    let idle := q.cores = [] ∧ q.queued = none
    let fresh := fun (x : Time) => ∀ y, q.records.find? (fun z => Time.reached z.inst x) = some y → q.missedRecs.contains y.idx = false
    let ready := s.laneEn l = true ∧ (s.laneState l = lFill ∨ s.laneState l = lArmed)
    let started := fun (t : State) (mask : Nat) => (∃ c, (t.lane l).cores = [c] ∧ c.seq = q.coreCnt ∧ c.mask = mask ∧ c.queued = false) ∧
      (t.laneState l = lPost ∨ t.laneState l = lRearm)
    (∀ (x : Time) (bytes : List Byte), q.pendRec = some (x, bytes) → (s.advance dt).signalRecordDue l = true → s.laneEn l = true →
      s.laneState l ≠ lOff → 0 < s.ringRecs l → (s.ringRecs l ≤ q.nextRec → s.recNeeded l (q.nextRec - s.ringRecs l) = false) →
      ∃ t r, Machine.exec (.signalLaneRecord dt l) s = .next t ∧ (t.lane l).pendRec = none ∧ (t.lane l).nextRec = q.nextRec + 1 ∧
        r ∈ (t.lane l).records ∧ r.idx = q.nextRec ∧ r.inst = x ∧ r.bytes = bytes ∧ RegsBut LaneReg s t ∧ RingBytesOnly s t) ∧
    (∀ (j : Fin 4) (x : Nat × Time), q.conds.find? (fun y => y.1 == j.val) = some x →
      ∃ t, Machine.exec (.triggerCondition dt l j) s = .next t ∧ (t.lane l).conds = q.conds.erase x ∧ RegsBut (LaneShown l) s t ∧
        (ready → idle → fresh x.2 → started t (2 ^ j.val)) ∧
        (s.laneEn l = false ∨ s.laneState l = lOff ∨ s.laneState l = lCont → (t.lane l).cores = q.cores ∧ RegsBut (fun _ => False) s t)) ∧
    (a.size = 4 → CleanWord (R.LANE_CTL l) (LANE_CTL.SWTRIG.put w 1) → LANE_CTL.REL.get w = 0 → ready → idle → fresh (s.advance dt).now →
      ∃ t, Machine.exec (.swtrig dt a l w) s = .next t ∧ started t 16 ∧ RegsBut (LaneShown l) s t) ∧
    (a.size = 4 → CleanWord (R.LANE_CTL l) w → LANE_CTL.SWTRIG.get w = 0 →
      ∃ t, Machine.exec (.rel dt a l w) s = .next t ∧
        (if s.flag (R.LANE_CFG l) LANE_CFG.RETAIN then
           (t.lane l).committed = q.committed.drop (LANE_CTL.REL.get w) ∧ t.reg (R.LANE_USE l) = BitVec.ofNat 32 (t.laneUse l) ∧
           RegsBut (fun k => k = R.LANE_STAT l ∨ k = R.LANE_USE l ∨ k = R.LANE_TAIL l) s t
         else t.lane l = q ∧ RegsBut (fun _ => False) s t)) ∧
    (s.laneEn l = true → s.laneState l = lRearm →
      Time.reached (s.advance dt).now (q.rearmFrom + BitVec.ofNat 64 (Nat.max 1 (s.fld (R.LANE_REARM l) LANE_REARM.US) * 200000)) = true →
      ∃ t, Machine.exec (.rearmEnd dt l) s = .next t ∧ (t.lane l).queued = none ∧ RegsBut (· = R.LANE_STAT l) s t ∧
        (q.queued = none → t.laneState l = (if s.lanePre l ≤ q.history then lArmed else lFill)) ∧
        (∀ g, q.queued = some g → (t.laneState l = lPost ∨ t.laneState l = lRearm) ∧ t.flag (R.LANE_STAT l) LANE_STAT.QUEUED = false ∧
          (t.lane l).coreCnt = q.coreCnt + 1)) ∧
    (a.size = 4 → CleanWord (R.LANE_CFG l) (LANE_CFG.EN.put w 1) → s.laneEn l = false → s.laneState l = lOff →
      let u := ((s.advance dt).defined (R.LANE_CFG l)).fieldWrite (R.LANE_CFG l) (LANE_CFG.EN.put (LANE_CFG.EN.put w 1) 0)
      ∃ t, Machine.exec (.laneEnable dt a l w) s = .next t ∧ RegsBut (LaneShown l) s t ∧
        (if u.laneCfgErr l then t.flag (R.LANE_STAT l) LANE_STAT.CFG_ERR = true ∧ t.laneEn l = false ∧ t.laneState l = lOff
         else t.laneEn l = true ∧ (t.lane l).records = [] ∧ (t.lane l).cores = [] ∧ t.reg (R.LANE_SEQ l) = 0 ∧
           t.laneState l = (if u.flag (R.LANE_CFG l) LANE_CFG.MODE then lCont else if u.reg (R.LANE_PRE l) = 0 then lArmed else lFill))) ∧
    (a.size = 4 → CleanWord (R.LANE_CFG l) (LANE_CFG.EN.put w 0) → s.laneEn l = true → q.reopen = false →
      ∃ t, Machine.exec (.laneDisable dt a l w) s = .next t ∧ t.laneEn l = false ∧ t.flag (R.LANE_STAT l) LANE_STAT.QUEUED = false ∧
        (t.lane l).queued = none ∧ (t.lane l).triggers = [] ∧ (∀ c, c ∈ (t.lane l).cores → c.ended = true) ∧ RegsBut (LaneShown l) s t)

/-- R315, R317, R319, R321, R322, R325, R326: the lane whose turn it is issues its next write to the store, or waits at its quota; a
confirmed write counts as done; an ACK confirms what it covers; a timeout sends again, and after RETRY of them stops the path until
PATH_ERR is cleared; GO starts a read-back of a codeword, and its reply shows the data and the result, or comes too late. Where the manual
leaves a choice, this follows the model's: log entries 76, 77, 81, 102. -/
def Obligations.StorePath : Prop :=
  ∀ (dt : Nat) (l : Fin 32) (m : Fin 2) (a : Access) (w : Word) (s : State),
    let q := s.lane l
    (s.drainWaits l = true → ∃ t, Machine.exec (.drainWrite dt l) s = .next t ∧ t.flag (R.LANE_STAT l) LANE_STAT.STORE_FULL = true ∧
      RegsBut (· = R.LANE_STAT l) s t ∧ t.path.writes = s.path.writes) ∧
    (s.drainWaits l = false → s.drainTurn = some l.val → s.pageErr = [] →
      ∃ t, Machine.exec (.drainWrite dt l) s = .next t ∧ RegsBut (LaneShown l) s t ∧
        (s.drainNext l = some .openSeg → ∃ g x, (t.lane l).seg = some g ∧ g.seq = q.segSeq ∧ g.committed = false ∧
          g.idx = s.segBase l + q.nextSeg % Nat.max 1 (s.segCount l) ∧
          t.path.writes = s.path.writes ++ [x] ∧ x.lane = l.val ∧ x.addr = g.idx * 65536) ∧
        (s.drainNext l = some .commit → ∃ g x, q.seg = some g ∧ (t.lane l).seg = some { g with committed := true } ∧
          (t.lane l).committed = q.committed ++ [g.idx] ∧ t.path.writes = s.path.writes ++ [x] ∧ x.lane = l.val ∧ x.addr = g.idx * 65536) ∧
        (∀ c, s.drainNext l = some (.codeword c) → ∃ g h x, q.seg = some g ∧ (t.lane l).seg = some h ∧ h.cwUsed = g.cwUsed + 1 ∧
          t.path.writes = s.path.writes ++ [x] ∧ x.lane = l.val ∧ x.core = some c.seq ∧ x.addr = codewordAddr s.corerT g.idx g.cwUsed)) ∧
    (∀ x : StoreWrite, s.path.writes.find? (fun y => y.lane == l.val) = some x → x.confirmed = true →
      ∃ t, Machine.exec (.pathWriteDone dt l) s = .next t ∧ t.path.writes = s.path.writes.erase x ∧ RegsBut (LaneShown l) s t) ∧
    (let b := AMap.get 0 s.path.acked m
     let d := (w.toNat + 2 ^ 32 - b) % 2 ^ 32
     0 < d → d ≤ (AMap.get 0 s.path.nextSeq m + 2 ^ 32 - b) % 2 ^ 32 →
      ∃ t, Machine.exec (.corerAck dt m w) s = .next t ∧ AMap.get 0 t.path.acked m = w.toNat ∧ AMap.get 0 t.path.retries m = 0 ∧
        RegsBut (fun _ => False) s t ∧ t.path.writes = s.path.writes.map (fun x =>
          if x.port = m.val ∧ (x.seq + 2 ^ 32 - b) % 2 ^ 32 < d then { x with confirmed := true } else x)) ∧
    (∀ x : Time, AMap.get none s.path.timer m = some x → s.path.stopped = false →
      Time.reached (s.advance dt).now (x + BitVec.ofNat 64 s.corerRto) = true →
      ∃ t, Machine.exec (.corerRto dt m) s = .next t ∧ AMap.get 0 t.path.retries m = AMap.get 0 s.path.retries m + 1 ∧
        (if s.corerRetry ≤ AMap.get 0 s.path.retries m + 1 then
           t.path.stopped = true ∧ t.flag R.CORER_STAT CORER_STAT.PATH_ERR = true ∧
           RegsBut (fun k => k = R.CORER_STAT ∨ TallyReg k) s t
         else t.path.stopped = false ∧ RegsBut (fun _ => False) s t ∧
           (t.mac m).corerq.length = (s.mac m).corerq.length + (s.unacked m).length)) ∧
    (a.size = 4 → CleanWord R.CORER_STAT (CORER_STAT.PATH_ERR.put w 1) → AMap.get 0 (s.advance dt).hwSet R.CORER_STAT = 0 →
      ∃ t, Machine.exec (.pathErrClear dt a w) s = .next t ∧ t.flag R.CORER_STAT CORER_STAT.PATH_ERR = false ∧ t.path.stopped = false ∧
        RegsBut (· = R.CORER_STAT) s t) ∧
    (a.size = 4 → CleanWord R.CORER_RD_CTL (CORER_RD_CTL.GO.put w 1) → s.flag R.CORER_RD_CTL CORER_RD_CTL.BUSY = false →
      let x := s.readBackAddr
      let b := codewordBytes s.corerT
      ∃ t, Machine.exec (.go dt a w) s = .next t ∧ RegsBut (· = R.CORER_RD_CTL) s t ∧
        (if x % 65536 < 64 ∨ (x % 65536 - 64) % b ≠ 0 ∨ cwPerSegment s.corerT ≤ (x % 65536 - 64) / b then
           t.fld R.CORER_RD_CTL CORER_RD_CTL.RESULT = 5 ∧ t.flag R.CORER_RD_CTL CORER_RD_CTL.BUSY = false
         else if s.flag R.CORER_CTL CORER_CTL.EN = false ∨ s.corerPort (x / 65536) = 2 ∧ s.pcieOut = false then
           t.fld R.CORER_RD_CTL CORER_RD_CTL.RESULT = 4 ∧ t.flag R.CORER_RD_CTL CORER_RD_CTL.BUSY = false
         else t.flag R.CORER_RD_CTL CORER_RD_CTL.BUSY = true ∧ t.path.reading.isSome = true)) ∧
    (∀ (x : Time) (p tag : Nat) (cw : List Byte), s.path.reading = some (x, p, tag) →
      Time.reached (s.advance dt).now (x + BitVec.ofNat 64 s.corerRto) = true →
      ∃ t, Machine.exec (.storeReadDone dt (.data cw)) s = .next t ∧ t.path.reading = none ∧ RegsBut (· = R.CORER_RD_CTL) s t ∧
        t.flag R.CORER_RD_CTL CORER_RD_CTL.BUSY = false ∧ t.fld R.CORER_RD_CTL CORER_RD_CTL.RESULT = 4) ∧
    (∀ (x : Time) (p tag : Nat) (cw : List Byte), s.path.reading = some (x, p, tag) → cw.length = codewordBytes s.corerT →
      Time.reached (s.advance dt).now (x + BitVec.ofNat 64 s.corerRto) = false →
      ∃ t, Machine.exec (.storeReadDone dt (.data cw)) s = .next t ∧ t.path.reading = none ∧ RegsBut (· = R.CORER_RD_CTL) s t ∧
        t.path.window = (pageDecode s.corerT cw).data ∧ t.flag R.CORER_RD_CTL CORER_RD_CTL.BUSY = false ∧
        ((∃ v, pageDecode s.corerT cw = .good v) → t.fld R.CORER_RD_CTL CORER_RD_CTL.RESULT = 0) ∧
        ((∃ v, pageDecode s.corerT cw = .bad v) → t.fld R.CORER_RD_CTL CORER_RD_CTL.RESULT = 2))

/-- R331, R332, R334, R335, R341: a request with the key and from a mode that permits it takes effect; RUN ends in RUN or LIMP, LIMP
records its cause, HOLD gives every bridge its safe pattern and records the mode it left, PARK waits for the cores; any other request is
rejected, and one a core makes at User level is a store access fault. SAFE_N low asks for HOLD. Where the manual leaves a choice, this
follows the model's: log entry 83. -/
def Obligations.ModeRequests : Prop :=
  ∀ (dt : Nat) (a : Access) (w : Word) (s : State),
    let rej := s.reg R.MODE_STAT ||| MODE_STAT.REQ_REJ.mask
    (PitSup a → MODE_CTL.KEY.get w = 0x6D →
      (CleanWord R.MODE_CTL (MODE_CTL.REQ.put w 2) → ∃ t, Machine.exec (.modeRequestRun dt a w) s = .next t ∧ RegsBut ModeReg s t ∧
        (if s.mode = 1 then t.mode = s.runOrLimp
         else if s.mode = 3 ∧ s.limpCauses &&& 15 = 0 then t.mode = 2
         else t.reg R.MODE_STAT = rej)) ∧
      (CleanWord R.MODE_CTL (MODE_CTL.REQ.put w 3) → ∃ t, Machine.exec (.modeRequestLimp dt a w) s = .next t ∧
        RegsBut (fun k => k = R.MODE_STAT ∨ TallyReg k) s t ∧
        (if s.mode = 0 ∨ 5 ≤ s.mode then t.reg R.MODE_STAT = rej
         else t.limpCauses = s.limpCauses ||| 16 ∧ t.mode = if s.mode = 2 then 3 else s.mode)) ∧
      (CleanWord R.MODE_CTL (MODE_CTL.REQ.put w 4) → ∃ t, Machine.exec (.modeRequestHold dt a w) s = .next t ∧ RegsBut ModeReg s t ∧
        (if 1 ≤ s.mode ∧ s.mode ≤ 3 then t.mode = 4 ∧ t.fld R.MODE_STAT MODE_STAT.HOLD_FROM = s.mode ∧ AllHeld t
         else if s.mode = 0 then t.mode = 0 ∧ t.md.holdInLoad = true ∧ AllHeld t
         else t.reg R.MODE_STAT = rej)) ∧
      (CleanWord R.MODE_CTL (MODE_CTL.REQ.put w 5) → ∃ t, Machine.exec (.modeRequestPark dt a w) s = .next t ∧
        RegsBut (· = R.MODE_STAT) s t ∧
        (if s.parkReady then t.mode = s.mode ∧ t.md.parkReq = some (s.advance dt).now ∧
           (∀ p, p < 7 → (s.flow p).waiting = true → (t.flow p).parked = true)
         else t.reg R.MODE_STAT = rej))) ∧
    (PitSup a → MODE_CTL.KEY.get w ≠ 0x6D → CleanWord R.MODE_CTL (MODE_CTL.REQ.put w 4) →
      ∃ t, Machine.exec (.modeRequestHold dt a w) s = .next t ∧ t.reg R.MODE_STAT = rej ∧ RegsBut (· = R.MODE_STAT) s t) ∧
    (∀ p : Fin 7, a.master = p.val → a.sup = false → EntryReady s p (s.core p).world 4 →
      ∃ t, Machine.exec (.modeRequestHold dt a w) s = .next t ∧ RegsBut (· = R.MI_INJ_CTL) s t ∧
        Entered s t p { vec := 4, cause := 4, tval := BitVec.ofNat 32 R.MODE_CTL, world := (s.core p).world, cpl := none,
                        epc := (s.core p).pc }) ∧
    (1 ≤ s.mode → s.mode ≤ 3 → ∃ t, Machine.exec (.safeNAssert dt true) s = .next t ∧ t.mode = 4 ∧ t.md.safeLow = true ∧
      t.fld R.MODE_STAT MODE_STAT.HOLD_FROM = s.mode ∧ t.fld R.MODE_STAT MODE_STAT.HOLD_SRC % 2 = 1 ∧
      (t.reg R.TALLY_SAFE).getLsbD 6 = true ∧ AllHeld t ∧ RegsBut (fun k => k = R.TALLY_SAFE ∨ ModeReg k) s t) ∧
    (∃ t, Machine.exec (.safeNAssert dt false) s = .next t ∧ t.md.safeLow = false ∧ RegsBut (fun _ => False) s t)

/-- R338, R339: KEY 0x52 opens the release window in HOLD, or with a bridge held by RST; KEY 0x53 releases when no reason of R338 refuses it:
the mode returns, the causes are cleared, and each bridge whose group stands is released at once, any other at its next boundary; a
refused one names the reason and closes the window. The window closes after 10 ms. Where the manual leaves a choice, this follows the
model's: log entry 84. -/
def Obligations.HoldRelease : Prop :=
  ∀ (dt : Nat) (a : Access) (w : Word) (s : State),
    let k := R.MODE_REL
    (PitSup a → MODE_REL.REJ.get w = 0 → CleanWord k (MODE_REL.KEY.put w 0x52) →
      ∃ t, Machine.exec (.releaseOpen dt a w) s = .next t ∧ RegsBut (· = k) s t ∧
        (if s.mode = 4 ∨ s.anyRst = true then t.flag k MODE_REL.OPEN = true ∧ t.md.relFrom = some (s.advance dt).now
         else t.flag k MODE_REL.REJ = true ∧ t.fld k MODE_REL.REASON = 1 ∧ t.flag k MODE_REL.OPEN = false)) ∧
    (PitSup a → MODE_REL.REJ.get w = 0 → CleanWord k (MODE_REL.KEY.put w 0x53) →
      let r := (s.advance dt).releaseReason
      ∃ t, Machine.exec (.releaseComplete dt a w) s = .next t ∧ t.flag k MODE_REL.OPEN = false ∧ t.md.relFrom = none ∧
        (if r = 0 then t.fld R.MODE_STAT MODE_STAT.HOLD_SRC = 0 ∧ RegsBut ModeReg s t ∧
           t.mode = (if s.mode = 4 then if s.fld R.MODE_STAT MODE_STAT.HOLD_FROM = 1 then 1 else s.runOrLimp else s.mode) ∧
           (∀ n, n < 128 → s.leaderOf n = n →
             s.anyFlag (R.BR_SAFE_STAT n) [BR_SAFE_STAT.MODE, BR_SAFE_STAT.RST] = true →
             if s.groupRuns (s.cgOf n) then (t.chan n).releasing = true
             else t.flag (R.BR_SAFE_STAT n) BR_SAFE_STAT.MODE = false ∧ t.flag (R.BR_SAFE_STAT n) BR_SAFE_STAT.RST = false)
         else t.flag k MODE_REL.REJ = true ∧ t.fld k MODE_REL.REASON = r ∧ RegsBut (· = k) s t)) ∧
    (∀ x : Time, s.md.relFrom = some x → 2000000000 ≤ Time.since x (s.advance dt).now →
      ∃ t, Machine.exec (.releaseWindowExpiry dt) s = .next t ∧ t.md.relFrom = none ∧ t.flag k MODE_REL.OPEN = false ∧
        RegsBut (· = k) s t)

/-- R161, R256, R330, R341, R342, R343: once every running core has stopped, PARK is entered: the link ports go DOWN, a subordinate loses
the cascade's lock, the other links go down, every lane goes OFF, the legs of a safe bridge are held off like every other, and the
interrupt sources are saved, those that are active as pending; when they have not stopped in 10 ms the request is dropped; an enabled wake
source, a timer alarm or a pulse among them, ends PARK: what was saved comes back and the cores continue; a core that has stopped takes no
interrupt. Where the manual leaves a choice, this follows the model's: log entry 95. -/
def Obligations.ParkAndWake : Prop :=
  ∀ (dt : Nat) (s : State),
    (∀ x : Time, s.md.parkReq = some x → s.mode = 2 → s.allStopped = true →
      ∃ t, Machine.exec (.parkEntry dt) s = .next t ∧ t.mode = 5 ∧ t.md.parkReq = none ∧ t.md.parkFrom = (s.advance dt).now ∧
        (∀ u, u < 2 → t.portUp u = false) ∧ (∀ l, l < 32 → t.laneEn l = false ∧ t.laneState l = 0) ∧
        t.mv.savedRegs = t.regs.filter (fun e => isSavedKey e.1) ∧
        (∀ i q, (i, q) ∈ t.mv.savedSrc ↔ ∃ r, (i, r) ∈ t.mv.sources ∧
          q = { r with pending := r.pending || r.active, ready := r.ready || r.active, active := false, taker := 0 }) ∧
        (∀ i, (s.src i).active = true → ∃ q, (i, q) ∈ t.mv.savedSrc ∧ q.pending = true ∧ q.active = false) ∧
        (s.subordinate = true → t.flag R.TB_STAT TB_STAT.CASC_LOCK = false) ∧
        (∀ n, n < 128 → s.isSafe n = true → (t.chan n).row = 2 ∨ (t.chan n).row = 3) ∧
        (∀ m, m < 2 → t.flag (R.MAC_STAT m) MAC_STAT.LINK = false) ∧ t.flag R.PCIE_STAT PCIE_STAT.LINK = false ∧
        RegsBut (fun k => PortReg k ∨ k = R.PCIE_STAT ∨ k = R.XSPI_STAT ∨ (∃ m, m < 2 ∧ k = R.MAC_STAT m) ∨
          (∃ n, n < 128 ∧ k = R.CH_PROT_STAT n) ∨ ∃ l, l < 32 ∧ LaneShown l k) s t ∧ SameBytes s t) ∧
    (∀ x : Time, s.md.parkReq = some x → s.allStopped = false → 2000000000 ≤ Time.since x (s.advance dt).now →
      ∃ t, Machine.exec (.parkTimeout dt) s = .next t ∧ t.md.parkReq = none ∧ (∀ p, p < 7 → (t.flow p).parked = false) ∧
        t.reg R.MODE_STAT = s.reg R.MODE_STAT ||| MODE_STAT.PARK_TO.mask ∧ RegsBut (· = R.MODE_STAT) s t) ∧
    (let awake := fun (t : State) (bit : Nat) => (t.reg R.WAKE_STAT).getLsbD bit = true ∧
       (∀ p, p < 7 → (t.flow p).parked = false ∧ (t.flow p).waiting = false) ∧ SameBytes s t
     (∀ src : WakeSource, s.mode = 5 →
       src = .safeN ∨ ((s.reg R.WAKE_CFG).getLsbD src.bit = true ∧ (s.advance dt).wakes src = true) →
       ∃ t, Machine.exec (.wake dt src) s = .next t ∧ awake t src.bit ∧ t.mode = (if src = .safeN then 4 else s.runOrLimp) ∧
         ((s.mv.savedRegs.map (fun e => e.1)).Nodup → ∀ e, e ∈ s.mv.savedRegs → isSavedKey e.1 = true → t.reg e.1 = e.2) ∧
         (∀ i, isLevelSource i = false → t.src i = AMap.get {} s.mv.savedSrc i) ∧
         RegsBut (fun k => k = R.WAKE_STAT ∨ k = R.TALLY_SAFE ∨ ModeReg k ∨ isSavedKey k = true) s t) ∧
     (∀ i : Fin 16, s.mode = 5 → (s.reg R.WAKE_CFG).getLsbD 0 = true → s.flag (R.TA_CTL i) TA_CTL.EN = true →
       Time.reached (s.advance dt).now (s.taTarget i) = true →
       ∃ t, Machine.exec (.timerAlarmFire dt i) s = .next t ∧ awake t 0 ∧ t.mode = s.runOrLimp) ∧
     (∀ (k : Fin 16) (level : Bool), s.mode = 5 → (s.reg R.WAKE_CFG).getLsbD 1 = true → s.flag (R.ANG_CFG k) ANG_CFG.EN = true →
       level ≠ s.flag (R.ANG_CFG k) ANG_CFG.EDGE → (s.advance dt).applyDue = false →
       ∃ t, Machine.exec (.angPulse dt k level) s = .next t ∧ awake t 1 ∧ t.mode = s.runOrLimp)) ∧
    (∀ src : WakeSource, s.mode ≠ 5 → ∃ t, Machine.exec (.wake dt src) s = .next t ∧ RegsBut (fun _ => False) s t ∧ SameBytes s t) ∧
    (∀ p : Fin 7, (s.flow p).parked = true → ∃ t, Machine.exec (.interruptEntry dt p) s = .next t ∧ t.core p = s.core p ∧
      RegsBut (fun _ => False) s t ∧ SameBytes s t)

/-- R8, R25 to R28, R218, R344 to R349, R387: what each reset leaves, who may ask for it, the kicks and expiries of the watchdogs, and the
start of a core at its reset entry; a Hewer that test and service has failed stays in reset (R378). Where the manual leaves a choice, this
follows the model's: log entries 84, 85, 94, 95. -/
def Obligations.ResetsAndWatchdogs : Prop :=
  ∀ (dt : Nat) (a : Access) (w : Word) (p : Fin 7) (s : State),
    (∀ (role : BitVec 2) (id : Fin 8),
      ∃ t, Machine.exec (.powerOn dt role id) s = .next t ∧ PowerReset t RST_CAUSE.POR ∧ t.io.link.id = id ∧
        t.io.link.role = (if role = 3 then 0 else role.toNat) ∧ t.io.link.strapErr = decide (role = 3)) ∧
    (∀ x : Supply, ∃ t, Machine.exec (.brownOut dt x) s = .next t ∧ PowerReset t (borField x)) ∧
    (ResetFree s dt →
      (∃ t, Machine.exec (.resetNAssert dt) s = .next t ∧ SysReset s t RST_CAUSE.PIN) ∧
      (PitSup a → CleanWord R.RST_REQ (RST_REQ.SYS.put w 1) → RST_REQ.KEY.get w = 0x0B5E → RST_REQ.CORE.get w = 0 →
        ∃ t, Machine.exec (.softwareSystemReset dt a w) s = .next t ∧ SysReset s t RST_CAUSE.SWSYS) ∧
      (∀ x : Time, s.md.wdFrom = some x → s.mode ≠ 5 → s.wdogMs * 200000000 ≤ (s.advance dt).wdogCount x →
        ∃ t, Machine.exec (.deviceWatchdogExpiry dt) s = .next t ∧ SysReset s t RST_CAUSE.WDOG)) ∧
    (PitSup a → CleanWord R.RST_REQ (RST_REQ.SYS.put w 0) →
      ∃ t, Machine.exec (.softwareCoreReset dt a w) s = .next t ∧
        (if RST_REQ.KEY.get w = 0x0B5E ∧ s.hasCore p = true ∧ RST_REQ.CORE.get w / 2 ^ p.val % 2 = 1 then
           (t.core p).running = false ∧ t.fld R.RST_CORE_CAUSE (coreCauseField p) = 3 ∧
           ((t.core p).starting = false ↔ p.val < 4 ∧ s.fld R.TS_FAILED_UNIT TS_FAILED_UNIT.HEWER / 2 ^ p.val % 2 = 1)
         else t.core p = s.core p)) ∧
    ((s.core p).starting = true → s.md.inReset = false → s.mode ≠ 5 → s.hasCore p = true → s.flag R.LOAD_STAT LOAD_STAT.NOIMG = false →
      ∃ t, Machine.exec (.coreStart dt p) s = .next t ∧ RegsBut (fun _ => False) s t ∧ (∀ j, j ≠ p.val → t.core j = s.core j) ∧
        (t.core p).running = true ∧ (t.core p).pc = s.entryOf p &&& ~~~1 ∧ (t.core p).sup = true ∧ (t.core p).cpl = 0 ∧
        (t.core p).emg = false ∧ (t.core p).world = World.ofBit ((s.entryOf p).toNat % 2)) ∧
    (a.size = 4 → CleanWord R.WDOG_KICK w → ∃ t, Machine.exec (.wdogKick dt a w) s = .next t ∧ RegsBut (· = R.WDOG_STAT) s t ∧
      let v := WDOG_KICK.VAL.get w
      if a.master ≠ 4 then t.reg R.WDOG_STAT = s.reg R.WDOG_STAT ||| WDOG_STAT.FOREIGN.mask ∧ t.md = s.md
      else if v = 0x5A then t.md.wdHalf = true ∧ t.md.wdFrom = s.md.wdFrom ∧
        t.reg R.WDOG_STAT = (if s.md.wdHalf then s.reg R.WDOG_STAT ||| WDOG_STAT.BADKICK.mask else s.reg R.WDOG_STAT)
      else if v = 0xA5 ∧ s.md.wdHalf = true then t.md.wdFrom = s.md.wdFrom.map (fun _ => (s.advance dt).now) ∧
        t.reg R.WDOG_STAT = s.reg R.WDOG_STAT
      else t.reg R.WDOG_STAT = s.reg R.WDOG_STAT ||| WDOG_STAT.BADKICK.mask ∧ t.md.wdHalf = false ∧ t.md.wdFrom = s.md.wdFrom) ∧
    (PitSup a → a.master = p →
      (CleanWord (R.CWDOG p) (CWDOG.EN.put w 1) → s.flag (R.CWDOG p) CWDOG.EN = false →
        ∃ t, Machine.exec (.cwdogEnable dt p a w) s = .next t ∧ t.flag (R.CWDOG p) CWDOG.EN = true ∧
          (t.flow p).wdFrom = some (s.advance dt).now ∧ RegsBut (· = R.CWDOG p) s t) ∧
      (CleanWord (R.CWDOG_KICK p) w → ∃ t, Machine.exec (.cwdogKick dt p a w) s = .next t ∧
        (t.flow p).wdFrom = (s.flow p).wdFrom.map (fun _ => (s.advance dt).now) ∧ RegsBut (fun _ => False) s t)) ∧
    (∀ x : Time, (s.flow p).wdFrom = some x → s.mode ≠ 5 → (s.flow p).held = none → s.cwdogTime p ≤ Time.since x (s.advance dt).now →
      ∃ t, Machine.exec (.coreWatchdogExpiry dt p) s = .next t ∧ (t.core p).running = false ∧
        ((t.core p).starting = false ↔ p.val < 4 ∧ s.fld R.TS_FAILED_UNIT TS_FAILED_UNIT.HEWER / 2 ^ p.val % 2 = 1) ∧
        t.fld R.RST_CORE_CAUSE (coreCauseField p) = 2 ∧ (∀ j, j ≠ p.val → t.core j = s.core j) ∧ SameBytes s t)

/-- R273, R333, R345, R355 to R359, R361: LOAD begins when the reset source has ended and fills the memories; both slots are judged and one
that passes is chosen, after a system reset the one LIVE_SEQ names; a slot whose sections pass is loaded; where they fail, the other is
tried from a reset channel domain, and FALLBACK sets; at the mode entry instant the device leaves LOAD for
the mode of R333 and its cores may start; FVREF reports itself ready. Where the manual leaves a choice, this follows the model's: log
entries 88, 94. -/
def Obligations.LoadSequence : Prop :=
  ∀ (dt : Nat) (s : State),
    (∀ otp : Otp, s.md.inReset = true → s.md.loadStep = 0 → s.md.refBad = false →
      ∃ t, Machine.exec (.loadStart dt otp) s = .next t ∧ t.md.loadStep = 1 ∧ t.flag R.LOAD_STAT LOAD_STAT.DONE = false ∧
        (∀ x, t.byte x = if s.md.powerOn then 0 else match regionOf x with
          | some r => if 9 ≤ r ∧ r ≤ 18 then s.byte x else 0
          | none => s.byte x)) ∧
    (∀ slotA slotB : List (List Byte), s.md.loadStep = 1 → s.md.powerOn = true → s.flag R.TB_STAT TB_STAT.CAL_OK = true →
      let x := (s.advance dt).judgeSlot slotA
      let y := (s.advance dt).judgeSlot slotB
      ∃ t, Machine.exec (.loadSlotCheck dt slotA slotB) s = .next t ∧ t.md.slotA = x ∧ t.md.slotB = y ∧ t.mode = s.mode ∧
        RegsBut (fun k => k = R.LOAD_STAT ∨ TallyReg k) s t ∧
        (if x.err ≠ 0 ∧ y.err ≠ 0 then t.flag R.LOAD_STAT LOAD_STAT.NOIMG = true ∧ t.md.loadStep = 4
         else t.md.loadStep = 2 ∧
           t.md.chosen = (if y.err ≠ 0 then 0 else if x.err ≠ 0 then 1 else if newer (imgSeq y.bytes) (imgSeq x.bytes) then 1 else 0))) ∧
    (∀ slotA slotB : List (List Byte), s.md.loadStep = 1 → s.md.powerOn = false →
      let x := (s.advance dt).judgeSlot slotA
      let y := (s.advance dt).judgeSlot slotB
      let live := (s.reg R.LIVE_SEQ).toNat
      x.err = 0 ∨ y.err = 0 →
      ∃ t, Machine.exec (.loadSlotCheck dt slotA slotB) s = .next t ∧ t.md.slotA = x ∧ t.md.slotB = y ∧ t.mode = s.mode ∧
        t.md.loadStep = 2 ∧ RegsBut (fun k => k = R.LOAD_STAT ∨ TallyReg k) s t ∧
        (if x.err = 0 ∧ imgSeq x.bytes = live then t.md.chosen = 0
         else if y.err = 0 ∧ imgSeq y.bytes = live then t.md.chosen = 1
         else t.md.chosen = (if y.err ≠ 0 then 0 else if x.err ≠ 0 then 1 else if newer (imgSeq y.bytes) (imgSeq x.bytes) then 1 else 0) ∧
           t.flag R.LOAD_STAT LOAD_STAT.SEQ_MISMATCH = true ∧
           (x.err = 0 → y.err = 0 → Reported s t 0x188 0x0084 clsInfo (s.reg R.LIVE_SEQ)))) ∧
    (∀ slotA slotB : List (List Byte), s.md.loadStep = 2 → s.md.chosen < 2 →
      let b := s.md.chosen
      ((s.advance dt).loadSlot b (if b = 0 then slotA else slotB)).1 = 0 →
      ∃ t, Machine.exec (.loadSectionsDone dt slotA slotB) s = .next t ∧ t.md.loadStep = 3 ∧ t.md.chosen = b ∧
        t.flag R.LOAD_STAT LOAD_STAT.NOIMG = false ∧ t.fld R.LOAD_STAT (if b = 0 then LOAD_STAT.ERR_A else LOAD_STAT.ERR_B) = 0) ∧
    (∀ slotA slotB : List (List Byte), s.md.loadStep = 2 → s.md.chosen < 2 →
      let cws := fun (i : Nat) => if i = 0 then slotA else slotB
      let b := s.md.chosen
      let c := 1 - b
      let r := (s.advance dt).loadSlot b (cws b)
      let v := r.2.slotVerdict b r.1
      let f := v.fallBack.issueFlash [v.loadRead (v.slotAt c)]
      r.1 ≠ 0 → (s.slotInfo c).err = 0 → (f.loadSlot c (cws c)).1 = 0 →
      (∀ e, e ∈ imgSettings (imageBytes (cws c) (s.slotInfo c).bytes) →
        sharedMapped e.1 = true ∧ coreLocal e.1 = false ∧ e.1 ≠ R.LOAD_STAT ∧ e.1 ≠ R.RST_REQ) →
      (s.md.powerOn = true → (∀ x, f.byte x = 0) ∧ f.tb.adjRem = 0 ∧ f.io.spis = [] ∧
        ∀ k q idx, k < 2 ^ 32 → regAt k = some (q, idx) → q.dom = .C → k ≠ R.TB_EFF_RATE →
          f.reg k &&& ~~~presentedMask k = regReset k &&& ~~~presentedMask k) ∧
      ∃ t, Machine.exec (.loadSectionsDone dt slotA slotB) s = .next t ∧ t.md.loadStep = 3 ∧ t.md.chosen = c ∧
        t.flag R.LOAD_STAT LOAD_STAT.FALLBACK = true ∧ t.flag R.LOAD_STAT LOAD_STAT.NOIMG = false ∧
        t.fld R.LOAD_STAT (if b = 0 then LOAD_STAT.ERR_A else LOAD_STAT.ERR_B) = r.1) ∧
    (s.md.loadStep = 3 → s.vrefReady = true →
      ∃ t, Machine.exec (.modeEntry dt) s = .next t ∧ t.md.loadStep = 4 ∧ t.md.inReset = false ∧ t.md.firstLoad = false ∧
        t.mode = (if s.entryHold then 4 else s.entryModeBut) ∧ t.flag R.LOAD_STAT LOAD_STAT.DONE = true ∧
        (∀ p, p < 7 → s.hasCore p = true → (t.core p).starting = true) ∧
        (s.md.powerOn = true → ∀ g, g < 32 → s.flag (R.FACE_CG_CFG g) FACE_CG_CFG.EN = true → t.groupRuns g = true ∧
          (t.group g).start = (s.advance dt).now) ∧
        (s.wdogMs ≠ 0 → t.md.wdFrom = some (s.advance dt).now) ∧ SameBytes s t) ∧
    (∀ f : Fin 8, ∃ t, Machine.exec (.fvrefReady dt f) s = .next t ∧ t.flag (R.FACE_VREF_STAT f) FACE_VREF_STAT.READY = true ∧
      RegsBut (· = R.FACE_VREF_STAT f) s t)

/-- R362 to R365: a write through the window stores its bytes in the update area, from either world, and unverifies what it may have changed;
VERIFY and STAGE begin while the unit is free, STAGE only with what it needs verified; a verification ends with the flag or with the error
code of R355; STAGE ends with the settings in the staging copy, or with the code in the inactive bank. Where the manual leaves a choice,
this follows the model's: log entry 88. -/
def Obligations.UpdateUnit : Prop :=
  ∀ (dt : Nat) (a : Access) (w : Word) (s : State), s.ecc = [] →
    let u := s.advance dt
    let st := R.UPD_STAT
    let sect := UPD_CTL.SECT.get w
    let x := imgSection (List.replicate 256 0 ++ bytesFrom s (updBase + 256 + 64 * sect) 64) 0
    (∀ ofs : Fin 32768, a.size = 1 ∨ a.size = 2 ∨ a.size = 4 → ofs.val % a.size = 0 →
      ∃ t, Machine.exec (.updateWindowWrite dt a ofs w) s = .next t ∧
        (match s.windowAt ofs with
         | some o => BytesWritten s t (updBase + o) ((bytesOf w).take a.size) ∧ t.up.sectOk = none ∧
             (o < s.updHeaderEnd → t.flag st UPD_STAT.HDR_OK = false) ∧ RegsBut (fun k => k = st ∨ k = R.MI_INJ_CTL) s t
         | none => SameBytes s t ∧ RegsBut (fun _ => False) s t)) ∧
    (a.size = 4 → CleanWord R.UPD_CTL (UPD_CTL.CMD.put w 1) → s.flag st UPD_STAT.BUSY = false →
      ∃ t, Machine.exec (.verifyHdr dt a w) s = .next t ∧ t.up.cmd = 1 ∧ t.flag st UPD_STAT.BUSY = true ∧
        t.fld R.UPD_CTL UPD_CTL.SECT = sect ∧ RegsBut (fun k => k = st ∨ k = R.UPD_CTL) s t) ∧
    (a.size = 4 → CleanWord R.UPD_CTL (UPD_CTL.CMD.put w 2) → s.flag st UPD_STAT.BUSY = false →
      ∃ t, Machine.exec (.verifySect dt a w) s = .next t ∧ t.up.cmd = 2 ∧ t.up.sect = sect ∧ t.flag st UPD_STAT.BUSY = true ∧
        t.up.ofs = s.fld R.UPD_SECT_OFS UPD_SECT_OFS.OFS ∧ RegsBut (fun k => k = st ∨ k = R.UPD_CTL) s t) ∧
    (PitWord a → CleanWord R.UPD_CTL (UPD_CTL.CMD.put w 3) → s.flag st UPD_STAT.BUSY = false →
      ∃ t, Machine.exec (.updStage dt a w) s = .next t ∧ RegsBut (fun k => k = st ∨ k = R.UPD_CTL ∨ TallyReg k) s t ∧
        (if u.stageError sect x = 0 then t.up.cmd = 3 ∧ t.flag st UPD_STAT.BUSY = true ∧ t.fld st UPD_STAT.SKIP = 0
         else t.up.cmd = 0 ∧ t.flag st UPD_STAT.BUSY = false ∧ t.fld st UPD_STAT.ERR = u.stageError sect x)) ∧
    (PitWord a → CleanWord R.UPD_CTL (UPD_CTL.CMD.put w 4) → s.flag st UPD_STAT.BUSY = false →
      ∃ t, Machine.exec (.updClear dt a w) s = .next t ∧ t.up.sectOk = none ∧ t.flag st UPD_STAT.HDR_OK = false ∧
        t.flag st UPD_STAT.PEND = false ∧ RegsBut (fun k => k = st ∨ k = R.UPD_CTL) s t) ∧
    (a.world = .bank →
      ∃ t, Machine.exec (.updStage dt a w) s = .next t ∧ t.up = s.up ∧ RegsBut TallyReg s t) ∧
    (s.up.cmd = 1 →
      let h := bytesFrom s updBase 256
      let fits := decide (imgTableEnd h ≤ updSize)
      let img := h ++ (if fits then bytesFrom s (updBase + 256) (64 * imgSections h) else [])
      let e := if u.headerError img ≠ 0 then u.headerError img else if s.up.lost = true then 6
        else if newer (imgSeq img) (s.reg R.LIVE_SEQ).toNat = false then 13 else if fits = false then 14 else 0
      ∃ t, Machine.exec (.verifyHdrDone dt) s = .next t ∧ t.up.cmd = 0 ∧ t.flag st UPD_STAT.BUSY = false ∧
        t.flag st UPD_STAT.HDR_OK = decide (e = 0) ∧ (e = 0 → t.reg R.UPD_SEQ = BitVec.ofNat 32 (imgSeq img)) ∧
        (e ≠ 0 → t.fld st UPD_STAT.ERR = e) ∧ RegsBut (fun k => k = st ∨ k = R.UPD_SEQ ∨ TallyReg k) s t) ∧
    (s.up.cmd = 2 →
      let o := 1024 * s.up.ofs
      let y := imgSection (List.replicate 256 0 ++ bytesFrom s (updBase + 256 + 64 * s.up.sect) 64) 0
      let e := if imgSections (bytesFrom s updBase 256) ≤ s.up.sect then 16
        else if updSize < o + y.len then 14
        else if sha256 (bytesFrom s (updBase + o) y.len) = y.digest ∧ s.up.lost = false then 0 else 9
      ∃ t, Machine.exec (.verifySectDone dt) s = .next t ∧ t.up.cmd = 0 ∧ t.flag st UPD_STAT.BUSY = false ∧
        t.up.sectOk = (if e = 0 then some (s.up.sect, o) else none) ∧ (e ≠ 0 → t.fld st UPD_STAT.ERR = e) ∧
        RegsBut (fun k => k = st ∨ TallyReg k) s t) ∧
    (∀ i o : Nat, s.up.cmd = 3 → s.up.sectOk = some (i, o) →
      let y := imgSection (List.replicate 256 0 ++ bytesFrom s (updBase + 256 + 64 * s.up.sect) 64) 0
      let b := bytesFrom s (updBase + o) y.len
      let dst := privBase y.target + 0x20000 + y.dest
      u.stageError s.up.sect y = 0 →
      (y.typ = 0x10 → ∃ t, Machine.exec (.updStageDone dt) s = .next t ∧ t.up.cmd = 0 ∧ t.flag st UPD_STAT.PEND = true ∧
        t.flag st UPD_STAT.BUSY = false ∧ SameBytes s t ∧
        (let es := (List.range (y.len / 8)).map (fun n => (leNat b (8 * n) 4, BitVec.ofNat 32 (leNat b (8 * n + 4) 4)))
         let typed := fun (k : Nat) => k % 4 = 0 ∧ ((stepWordAt k).isSome = true ∨ tyMask k .st ≠ 0)
         s.stgBusy = false → s.stgArmed = false → (es.map (fun e => e.1)).Nodup → s.stg.words.length + es.length ≤ 65536 →
         (∀ e, e ∈ es → typed e.1 → s.locked e.1 = false ∧ ((stepWordAt e.1).isSome = true ∨ CleanWord e.1 e.2)) →
         (∀ e, e ∈ es → typed e.1 → t.stagedAt e.1 = some (e.2 &&& stMask e.1)) ∧
         ∀ k, (∀ e, e ∈ es → e.1 = k → ¬ typed k) → t.stagedAt k = s.stagedAt k)) ∧
      (y.typ = 1 → y.dest % 4 = 0 → y.len % 4 = 0 → y.dest + y.len ≤ 0x20000 → s.flag R.MI_INJ_CTL MI_INJ_CTL.ARM = false →
        ∃ t, Machine.exec (.updStageDone dt) s = .next t ∧ BytesWritten s t dst b ∧ t.up.cmd = 0 ∧ t.flag st UPD_STAT.BUSY = false ∧
          (t.flag (R.HW_BANK y.target) HW_BANK.VERIFIED = true ↔ sha256 b = y.digest ∧ s.up.lost = false) ∧
          RegsBut (fun k => k = st ∨ k = R.HW_BANK y.target ∨ k = R.MI_INJ_CTL ∨ TallyReg k) s t))

/-- R237 to R243: an input that both copies have sampled alike is agreed; differing accesses stop the pair and record the address and
class, an Actuation one with HOLD; an access or a proposal that one copy presents alone is withheld, and stops the pair as differing ones
do when nothing matches it in 1 µs; while the pair is stopped no store of it drains and no load of it returns; the self-test's outcome
resynchronises the pair, fences the copy that failed, whose survivor issues the access it presented in place of the one withheld, or
halts both; a resynchronised pair, with copy A's memory in copy B, starts again.
Where the manual leaves a choice, this follows the model's: log entries 86, 87. -/
def Obligations.DeputyPair : Prop :=
  ∀ (dt : Nat) (s : State),
    let st := R.DEP_STAT
    let caught := fun (t : State) (x y : Option DepAccess) (proposal : Bool) =>
      t.flag st DEP_STAT.MISMATCH = true ∧ t.depState = 1 ∧ t.pr.deputy.since = (s.advance dt).now ∧
      t.reg R.DEP_MIS_ADDR = (if proposal then 0 else match x with | some v => v.addr | none => 0) ∧
      (t.flag st DEP_STAT.CLASS = false ↔ ∃ v, (x = some v ∨ y = some v) ∧ s.actuation v = true) ∧
      (t.flag st DEP_STAT.CLASS = false → 1 ≤ s.mode → s.mode ≤ 3 → t.mode = 4) ∧
      (t.flag st DEP_STAT.CLASS = true → RegsBut (fun k => k = st ∨ k = R.DEP_MIS_ADDR) s t)
    (∀ (x y : Option DepAccess) (p : Bool), s.paired = true →
      (x.isSome = true → y.isSome = true → x ≠ y → p = false →
        ∃ t, Machine.exec (.deputyMismatch dt x y p) s = .next t ∧ caught t x y p) ∧
      (x.isSome ≠ y.isSome ∨ p = true →
        ∃ t, Machine.exec (.deputyMismatch dt x y p) s = .next t ∧ t.depStopped 4 = true ∧ t.pr.deputy.accA = x ∧ t.pr.deputy.accB = y ∧
          t.pr.deputy.proposal = p ∧ (∀ j, t.core j = s.core j ∧ t.flow j = s.flow j) ∧ RegsBut (fun _ => False) s t ∧ SameBytes s t) ∧
      ((s.advance dt).depWaited x y p = true →
        ∃ t, Machine.exec (.deputyTimeout dt x y p) s = .next t ∧ caught t x y p)) ∧
    (s.depStopped 4 = true →
      let stays := fun (t : State) => t.core 4 = s.core 4 ∧ t.flow 4 = s.flow 4 ∧ RegsBut (fun _ => False) s t ∧ SameBytes s t
      (∃ t, Machine.exec (.storeBufferDrain dt 4) s = .next t ∧ stays t) ∧ (∃ t, Machine.exec (.loadDataReturn dt 4) s = .next t ∧ stays t)) ∧
    (∀ (i : DepInput) (v : Bool), s.paired = true → (s.advance dt).depInput i = v →
      ∃ t, Machine.exec (.deputyAgreement dt i v) s = .next t ∧ RegsBut (fun _ => False) s t ∧
        t.pr.deputy.proposal = false ∧ (i = .interrupt → t.pr.deputy.agreedIrq = v) ∧ (i = .wake → t.pr.deputy.agreedWake = v) ∧
        (i = .service → t.pr.deputy.agreedService = v) ∧ (i ≠ .halt → t.agreedHere = true) ∧
        (i = .halt → v = true → (t.flow 4).halted = true)) ∧
    (∀ passA passB : Bool, s.lockstep = true → s.depState = 1 → 7600000 ≤ Time.since s.pr.deputy.since (s.advance dt).now →
      let unsent := fun (t : State) => (t.flow 4).stores.filter (fun b => b.tag.isNone)
      let issued := fun (t : State) (acc : Option DepAccess) =>
        (∀ v, acc = some v → v.write = true → (∀ l, (t.flow 4).load = some l → l.unissued = false) ∧
          ∃ b, unsent t = [b] ∧ b.va = v.addr ∧ b.size = v.size ∧ b.data = v.data ∧ b.world = v.world) ∧
        (∀ v, acc = some v → v.write = false → unsent t = [] ∧
          ∃ l, (t.flow 4).load = some l ∧ l.unissued = true ∧ l.va = v.addr ∧ l.size = v.size ∧ l.world = v.world) ∧
        (acc = none → unsent t = [] ∧ ∀ l, (t.flow 4).load = some l → l.unissued = false)
      ∃ t, Machine.exec (.deputySelfTestDone dt passA passB) s = .next t ∧
        (passA = true → passB = true → t.depState = 2 ∧ RegsBut (fun k => k = st ∨ TallyReg k) s t) ∧
        (passA = false → passB = true → t.depState = 4 ∧ t.flag st DEP_STAT.FENCED_A = true ∧ t.limpCauses % 2 = 1 ∧
          issued t s.pr.deputy.accB) ∧
        (passA = true → passB = false → t.depState = 3 ∧ t.flag st DEP_STAT.FENCED_B = true ∧ t.limpCauses % 2 = 1 ∧
          issued t s.pr.deputy.accA) ∧
        (passA = false → passB = false → t.depState = 6 ∧ (1 ≤ s.mode → s.mode ≤ 3 → t.mode = 4))) ∧
    (s.lockstep = true → s.depState = 2 →
      ∃ t, Machine.exec (.deputyResyncDone dt) s = .next t ∧ t.depState = 0 ∧ (t.core 4).running = false ∧ (t.core 4).starting = true ∧
        t.fld R.RST_CORE_CAUSE (coreCauseField 4) = 4 ∧ (∀ j, j ≠ 4 → t.core j = s.core j) ∧
        (∀ x, x < privBase 5 ∨ privBase 6 ≤ x → t.byte x = s.byte x) ∧
        (s.ecc = [] → ∀ x, privBase 5 ≤ x → x < privBase 6 → t.byte x = s.byte (x - 0x01000000)))

/-- R369 to R372, R376, R378, R386: a slice that falls due or is asked for is on the list or is skipped; a test that is over ends with its
result, a failure marking its unit failed; a slice without a grant or a QUIESCE in time is skipped. Where the manual leaves a choice, this
follows the model's: log entries 41, 88. -/
def Obligations.SelfTestSlices : Prop :=
  ∀ (dt : Nat) (y : Fin 5) (s : State),
    (∀ x : Time, AMap.get none s.ts.nextDue y = some x → s.flag (R.TS_CFG y) TS_CFG.EN = true →
      s.ts.slices.any (fun z => z.y == y.val && z.stage == 0) = false → Time.reached (s.advance dt).now x = true →
      ∃ t, Machine.exec (.sliceDue dt y) s = .next t ∧ AMap.get none t.ts.nextDue y = some (x + s.sliceInterval y) ∧
        (if s.mode = 2 ∨ s.mode = 3 then ∀ n, s.nextSlice y = some n → SliceWanted t y n
         else t.ts.slices = s.ts.slices ∧ RegsBut (fun _ => False) s t)) ∧
    (∀ (a : Access) (w : Word), PitSup a → CleanWord R.TS_REQ (TS_REQ.GO.put w 1) →
      let ty := TS_REQ.TYPE.get w
      ∃ t, Machine.exec (.tsReqGo dt a w) s = .next t ∧
        (if s.mode = 0 ∨ s.mode = 5 then t.reg R.TS_STAT = s.reg R.TS_STAT ||| TS_STAT.SKIP.mask ∧ RegsBut (· = R.TS_STAT) s t
         else ty < 4 → (ty = 3 → TS_REQ.TARGET.get w ≤ 3) → s.sliceFailed ty (TS_REQ.TARGET.get w) = false →
           SliceWanted t ty (TS_REQ.TARGET.get w))) ∧
    (∀ (x : Slice) (passA passB : Bool), s.ts.slices.find? (sliceOver s y (s.advance dt).now) = some x → x.target < 128 →
      s.ts.waiting = none →
      ∃ t, Machine.exec (.sliceEnd dt y passA passB) s = .next t ∧
        (y.val = 1 → passA = true → passB = true → t.flag R.TS_STAT TS_STAT.DONE = true ∧ t.flag (R.TS_RES y) TS_RES.FAIL = false ∧
          t.fld (R.TS_RES y) TS_RES.TARGET = x.target) ∧
        (y.val ≤ 2 → passA = false → t.flag R.TS_STAT TS_STAT.DONE = true ∧ t.flag R.TS_STAT TS_STAT.FAIL = true ∧
          t.flag (R.TS_RES y) TS_RES.FAIL = true ∧ t.bankBit (R.TS_FAILED_CH 0) x.target = true) ∧
        (y.val = 3 → x.target < 4 → passA = true → s.budget = false → t.flag R.TS_STAT TS_STAT.DONE = true ∧
          (t.flow x.target).held = none ∧ t.flag (R.TS_RES y) TS_RES.FAIL = false ∧ RegsBut (fun k => k = R.TS_STAT ∨ k = R.TS_RES y) s t) ∧
        (y.val = 3 → x.target < 4 → passA = false → t.flag R.TS_STAT TS_STAT.FAIL = true ∧ (t.core x.target).running = false ∧
          t.lostHewer x.target = true ∧ t.fieldBit R.TS_FAILED_UNIT TS_FAILED_UNIT.HEWER x.target = true)) ∧
    (∀ x : Slice, s.ts.waiting = none →
      let skipped := fun (t : State) => t.ts.slices = s.ts.slices.erase x ∧ t.flag R.TS_STAT TS_STAT.SKIP = true ∧
        t.fld R.TS_STAT TS_STAT.SKIP_CNT = satInc 255 (s.fld R.TS_STAT TS_STAT.SKIP_CNT) ∧ RegsBut (fun k => k = R.TS_STAT ∨ TallyReg k) s t
      (s.ts.slices.find? (fun z => z.stage == 0 && decide (200000000 ≤ Time.since z.since (s.advance dt).now)) = some x →
        ∃ t, Machine.exec (.sliceGrantTimeout dt) s = .next t ∧ skipped t) ∧
      (s.ts.slices.find? (fun z => z.y == y.val && z.stage == 4 && decide (2000000000 ≤ Time.since z.since (s.advance dt).now)) = some x →
        ∃ t, Machine.exec (.sliceQuiesceTimeout dt y) s = .next t ∧ skipped t))

/-- R335, R375, R381, R382, R383, R385: a loop-back mismatch, while the pin is compared, marks its channel failed; a quantity out of its
band four times in a row sets its flag; a withdrawal holds its legs off and a return gives them back, when the command is allowed and no
slice runs on the unit; enabling debug or scan access clears the secrets first. Where the manual leaves a choice, this follows the
model's: log entries 43, 44, 88. -/
def Obligations.ServiceAndCanary : Prop :=
  ∀ (dt : Nat) (a : Access) (w : Word) (s : State),
    (∀ (n : Fin 128) (o : Side), (s.advance dt).pinCompared n o = false →
      ∃ t, Machine.exec (.loopbackMismatch dt n o) s = .next t ∧ RegsBut (fun _ => False) s t) ∧
    (∀ (n : Fin 128) (o : Side), (s.advance dt).pinCompared n o = true → ∃ t, Machine.exec (.loopbackMismatch dt n o) s = .next t ∧
      t.bankBit (R.TS_FAILED_CH 0) n = true ∧
      (t.reg R.TALLY_SAFE).getLsbD 0 = true ∧
      RegsBut (fun k => k = R.TS_FAILED_CH (n / 32) ∨ k = R.TALLY_SAFE ∨ ModeReg k) s t) ∧
    (∀ (f : Fin 8) (q : CanaryQty) (mv code : Nat), s.flag (R.CNY_CFG f) CNY_CFG.EN = true → s.mode ≠ 5 →
      let i := 4 * f.val + canaryIdx q
      ∃ t, Machine.exec (.canaryMeasurement dt f q mv code) s = .next t ∧
        (if s.outOfBand f q mv code then
           AMap.get 0 t.ts.outCnt i = satInc 4 (AMap.get 0 s.ts.outCnt i) ∧
           (3 ≤ AMap.get 0 s.ts.outCnt i →
             (q = .fvref → t.flag (R.CNY_STAT f) CNY_STAT.VREF_FAULT = true) ∧
             (q = .vdda → t.flag (R.CNY_STAT f) CNY_STAT.VDDA_OUT = true) ∧ (q = .vddio → t.flag (R.CNY_STAT f) CNY_STAT.VIO_OUT = true))
         else AMap.get 0 t.ts.outCnt i = 0) ∧
        RegsBut (fun k => k = R.CNY_STAT f ∨ k = R.FACE_VREF_STAT f ∨ k = R.TALLY_SAFE ∨ ModeReg k) s t) ∧
    (PitSup a → TS_SVC.KEY.get w = 0xC5 →
      let u := TS_SVC.UNIT.get w
      let i := TS_SVC.INDEX.get w
      let st := R.TS_WD_UNIT
      (CleanWord R.TS_SVC (TS_SVC.CMD.put w 1) → ∃ t, Machine.exec (.serviceWithdraw dt a w) s = .next t ∧
        (if s.serviceBad 1 u i then t.reg st = s.reg st ||| TS_WD_UNIT.REJ.mask ∧ RegsBut (· = st) s t
         else if s.unitSliced u i then t.ts.waiting = some (1, u, i) ∧ t.flag st TS_WD_UNIT.BUSY = true ∧ RegsBut (· = st) s t
         else if u = 2 then AMap.get false t.ts.heldWait i = true
         else ∀ n, n ∈ s.unitLegs u i → n < 128 → t.withdrawn n = true ∧
           (s.isSafe n = false → (s.chan n).row ≠ 2 → (s.chan n).row ≠ 3 → (t.chan n).outH = false ∧ (t.chan n).outL = false))) ∧
      (CleanWord R.TS_SVC (TS_SVC.CMD.put w 2) → ∃ t, Machine.exec (.serviceReturn dt a w) s = .next t ∧
        (if s.serviceBad 2 u i then t.reg st = s.reg st ||| TS_WD_UNIT.REJ.mask ∧ RegsBut (· = st) s t
         else if s.unitSliced u i then t.ts.waiting = some (2, u, i) ∧ t.flag st TS_WD_UNIT.BUSY = true ∧ RegsBut (· = st) s t
         else if u = 2 then t.fieldBit st TS_WD_UNIT.HEWER i = false ∧ t.lostHewer i = false ∧ (t.flow i).held = none
         else ∀ n, n ∈ s.unitLegs u i → n < 128 → (t.chan n).returning = true ∧ t.bankBit (R.TS_FAILED_CH 0) n = false))) ∧
    (∀ scan : Bool, ∃ t, Machine.exec (.debugAccessEnable dt scan) s = .next t ∧ RegsBut (fun k => k = R.TS_SEC ∨ TallyReg k) s t ∧
      (if scan = true ∧ s.mode ≠ 4 ∧ s.flag R.LOAD_STAT LOAD_STAT.NOIMG = false then RegsBut (fun _ => False) s t
       else t.flag R.TS_SEC TS_SEC.CLEARED = true ∧ t.flag R.TS_SEC (if scan then TS_SEC.SCAN else TS_SEC.DBG) = true ∧
         t.md.otp = {} ∧ t.up.lost = (s.up.cmd != 0)))

/-- R395, R396, R397, R399: what a frame that is not delivered does. One whose CRC is wrong only sets CRC_ERR; a device's own frame that has
come round is removed; one for another device goes on by the other port with its TTL one less, turned back while that port is DOWN, or is
dropped with TTL_DROP; a duplicate is counted. No memory changes. Where the manual leaves a choice, this follows the model's: log entries
89, 93. -/
def Obligations.FrameArrival : Prop :=
  ∀ (dt : Nat) (u : Fin 2) (fr : Frame) (m : Bool) (s : State) (c : Instr) (f : Frame),
    Presents dt u fr m c f → s.linkOn = true → s.portUp u = true →
    let k := R.SHL_PORT u
    let o := 1 - u.val
    let sameQueues := fun (t : State) => ∀ x, (t.lport x).fwd = (s.lport x).fwd ∧ (t.lport x).own = (s.lport x).own ∧
      (t.lport x).bulk = (s.lport x).bulk
    let put := fun (x : Frame) (p : LinkPort) => if f.express then { p with fwd := p.fwd ++ [x] } else { p with bulk := p.bulk ++ [x] }
    (f.crc ≠ f.crcOf → ∃ t, Machine.exec c s = .next t ∧ t.reg k = s.reg k ||| SHL_PORT.CRC_ERR.mask ∧ RegsBut (· = k) s t ∧
      sameQueues t ∧ SameBytes s t) ∧
    (f.crc = f.crcOf → f.src % 8 = s.ownId → f.odir = (u.val == 1) →
      ∃ t, Machine.exec c s = .next t ∧ sameQueues t ∧ RegsBut (fun _ => False) s t ∧ SameBytes s t) ∧
    (f.crc = f.crcOf → f.src % 8 ≠ s.ownId → f.bcast = false → f.dst % 8 ≠ s.ownId → ∃ t, Machine.exec c s = .next t ∧ SameBytes s t ∧
      (f.ttl ≤ 1 → t.reg k = s.reg k ||| SHL_PORT.TTL_DROP.mask ∧ RegsBut (· = k) s t ∧ sameQueues t) ∧
      (1 < f.ttl → RegsBut (fun _ => False) s t ∧
        (s.portUp o = true → t.lport o = put { f with ttl := f.ttl - 1 } (s.lport o)) ∧
        (s.portUp o = false → f.turned = false → t.lport u = put { f with ttl := f.ttl - 1, turned := true } (s.lport u)))) ∧
    (∀ x : Nat, f.crc = f.crcOf → f.src % 8 ≠ s.ownId → f.bcast = false → f.dst % 8 = s.ownId →
      AMap.get none s.io.link.last f.lane = some x →
      let d := (f.seq % 65536 + 65536 - x) % 65536
      ¬ (1 ≤ d ∧ d ≤ 32767) →
      let g := R.SHL_GAP (f.src % 8)
      ∃ t, Machine.exec c s = .next t ∧ t.fld g SHL_GAP.DUP = satInc 65535 (s.fld g SHL_GAP.DUP) ∧ RegsBut (· = g) s t ∧ sameQueues t ∧
        SameBytes s t)

/-- R123, R181, R191, R195, R388, R401, R402, R405: the frames that share signals, events, presence and group marks, when delivered: a signal
of another device takes its value and state; a GEV of the sender fires here; a heartbeat is noted, the third in a row marks its sender
present, and a master's ends isolation, or in a master sets CONFLICT; a mark is a sync instant of the groups tied to it. Where the manual
leaves a choice, this follows the model's: log entries 89, 90. -/
def Obligations.SharedStateFrames : Prop :=
  ∀ (dt : Nat) (u : Fin 2) (fr : Frame) (m : Bool) (s : State),
    let d := fr.src % 8
    (∀ h v : Word, fr.payload = [h, v] → Delivered s u (fr.ofType true 1) →
      let i := h.toNat % 0x20000
      let st := h.toNat / 0x1000000
      ∃ t, Machine.exec (.frameSig dt u fr) s = .next t ∧ (∀ j, j ≠ i → t.sig j = s.sig j) ∧
        (if s.ownsSig i then t.sig i = s.sig i ∧ SameBytes s t ∧ RegsBut LinkReg s t
         else (t.sig i).value = v ∧ (t.sig i).qual = st / 32 % 8 ∧ (t.sig i).published = (st / 16 % 2 == 1) ∧ (t.sig i).known = true ∧
           (t.sig i).aged = none ∧ (∀ p, p ∈ boundTo s.regs i → ⟨p.2, v⟩ ∈ (t.eng p.1).loads) ∧
           RegsBut (fun k => LinkReg k ∨ LaneReg k) s t ∧ RingBytesOnly s t)) ∧
    (∀ w : Word, fr.payload = [w] → w.toNat % 256 / 32 = d → Delivered s u (fr.ofType true 2) →
      let j := w.toNat % 256
      let g := R.GEV_STAT j
      ∃ t, Machine.exec (.frameGev dt u fr) s = .next t ∧
        (if s.md.gevLive then
           t.flag g GEV_STAT.FIRED = true ∧ t.fld g GEV_STAT.EV_CNT = (s.fld g GEV_STAT.EV_CNT + 1) % 2 ^ GEV_STAT.EV_CNT.width ∧
           (s.flag (R.SRC_CFG j) SRC_CFG.EN = true → (t.src j).pending = true) ∧
           (∀ c, c < 64 → s.dmaOnGev c j = true → (t.dma c).reqs = (s.dma c).reqs + 1) ∧ RegsBut (fun k => k = g ∨ LinkReg k) s t
         else RegsBut LinkReg s t)) ∧
    (Delivered s u (fr.ofSub 1) →
      let now := (s.advance dt).now
      ∃ t, Machine.exec (.frameHeartbeat dt u fr m) s = .next t ∧ AMap.get none t.io.link.lastBeat d = some now ∧
        (m = false → RegsBut (fun k => k = R.SHL_STAT ∨ k = R.MODE_STAT ∨ LinkReg k) s t ∧ t.io.link.master = s.io.link.master ∧
          t.fld R.MODE_STAT MODE_STAT.MODE = s.mode) ∧
        (∀ x : Time, AMap.get none s.io.link.lastBeat d = some x → Time.since x now < s.lostTq → 2 ≤ AMap.get 0 s.io.link.beats d →
          t.fieldBit R.SHL_STAT SHL_STAT.PRESENT d = true ∧
          (m = false → s.fieldBit R.SHL_STAT SHL_STAT.PRESENT d = false → t.fieldBit R.SHL_STAT SHL_STAT.LOST d = false)) ∧
        (m = true → s.isMaster = true → t.flag R.SHL_STAT SHL_STAT.CONFLICT = true ∧
          (s.flag R.SHL_STAT SHL_STAT.CONFLICT = false → (t.reg R.TALLY_SAFE).getLsbD 4 = true)) ∧
        (m = true → s.isMaster = false → t.flag R.SHL_STAT SHL_STAT.ISOLATED = false ∧ t.md.isol = false ∧ t.io.link.isoFrom = none ∧
          t.io.link.masterAt = now ∧ t.io.link.master = some (match s.io.link.master with | some x => Nat.min x d | none => d))) ∧
    (Delivered s u (fr.ofSub 2) → s.follows d = false →
      ∃ t, Machine.exec (.frameGmark dt u fr) s = .next t ∧ RegsBut LinkReg s t ∧ ∀ h, t.group h = s.group h) ∧
    (Delivered s u (fr.ofSub 2) → s.follows d = true →
      let x := (fr.ofSub 2).inst
      let tied := fun (h : Nat) => s.syncOf h == 2 && s.fld (R.FACE_CG_CFG h) FACE_CG_CFG.SYNC_GRP == (fr.payload.getD 1 0).toNat % 32
      ∃ t, Machine.exec (.frameGmark dt u fr) s = .next t ∧
        RegsBut (fun k => LinkReg k ∨ ∃ h, h < 32 ∧ tied h = true ∧ k = R.FACE_CG_STAT h) s t ∧
        ∀ h, h < 32 → if tied h = false then t.group h = s.group h
          else if s.groupRuns h = false then t.flag (R.FACE_CG_STAT h) FACE_CG_STAT.SYNC_IGN = true ∧ t.group h = s.group h
          else if (s.group h).start + BitVec.ofNat 64 (s.group h).len = x then t.group h = { s.group h with syncDue := true }
          else (t.group h).resid = phaseError (s.reg (R.FACE_CG_OFFSET h)).toNat (x - (s.group h).start).toInt (s.group h).cCur (s.period h))

/-- R205 to R207, R380, R388: the frames of a cascade-wide shift change and of slice grants, when delivered to the device they are for; a
subordinate acts on those of the master it follows alone. Where the manual leaves a choice, this follows the model's: log entries 60, 89,
116. -/
def Obligations.CascadeCommands : Prop :=
  ∀ (dt : Nat) (u : Fin 2) (fr : Frame) (s : State),
    let d := fr.src % 8
    let st := R.STG_STATUS
    let free := s.stgBusy = false ∧ s.stgArmed = false
    let heard := s.subordinate = true ∧ s.follows d = true
    (s.subordinate = true → s.follows d = false → ∀ (i : Nat) (c : Instr), Delivered s u (fr.ofSub i) →
      (i = 3 ∧ c = .frameStgCheck dt u fr) ∨ (i = 6 ∧ c = .frameStgApply dt u fr) ∨ (i = 8 ∧ c = .frameStgCommit dt u fr) ∨
        (i = 9 ∧ c = .frameStgCancel dt u fr) ∨ (i = 11 ∧ c = .frameTsGrant dt u fr) →
      ∃ t, Machine.exec c s = .next t ∧ t.stg = s.stg ∧ t.ts = s.ts ∧ RegsBut LinkReg s t) ∧
    (Delivered s u (fr.ofSub 3) → heard → s.ecc = [] → ∃ t, Machine.exec (.frameStgCheck dt u fr) s = .next t ∧
      RegsBut (fun k => k = st ∨ LinkReg k) s t ∧ (free → t.stgBusy = true ∧ t.stg.checking ≠ none ∧ t.stg.cascade = true) ∧
      (¬ free → SentFrame s t true 3 [4, 16] ∧ t.stg = s.stg)) ∧
    (Delivered s u (fr.ofSub 4) → s.isMaster = true → ∃ t, Machine.exec (.frameStgResult dt u fr) s = .next t ∧
      AMap.get none t.stg.results d = some ((fr.payload.getD 1 0).toNat % 256) ∧ RegsBut LinkReg s t) ∧
    (Delivered s u (fr.ofSub 5) → s.isMaster = true → ∃ t, Machine.exec (.frameStgGroup dt u fr) s = .next t ∧
      (let g := 32 * d + (fr.payload.getD 1 0).toNat % 32
       t.stg.groups = s.stg.groups.filter (fun x => x.1 != g) ++ [(g, (fr.ofSub 5).inst, (fr.payload.getD 4 0).toNat)]) ∧ RegsBut LinkReg s t) ∧
    (Delivered s u (fr.ofSub 6) → heard → ∃ t, Machine.exec (.frameStgApply dt u fr) s = .next t ∧ RegsBut LinkReg s t ∧
      (free → s.flag st STG_STATUS.PASS = true → t.stg.offered = some (fr.ofSub 6).inst ∧ SentFrame s t true 3 [7]) ∧
      (¬ free ∨ s.flag st STG_STATUS.PASS = false → t.stg = s.stg)) ∧
    (Delivered s u (fr.ofSub 7) → s.isMaster = true → ∃ t, Machine.exec (.frameStgConfirm dt u fr) s = .next t ∧
      RegsBut (fun k => k = R.STG_CASC_ARM ∨ LinkReg k) s t ∧
      (s.stg.arming ≠ none → AMap.get false t.stg.confirmed d = true) ∧
      (s.stg.arming = none → s.stgArmed = true → (t.reg R.STG_CASC_ARM).getLsbD d = true)) ∧
    (∀ x : Time, Delivered s u (fr.ofSub 8) → heard → s.stg.offered = some x → ∃ t,
      Machine.exec (.frameStgCommit dt u fr) s = .next t ∧ t.stg.offered = none ∧
      (if Time.reached (s.advance dt).now x then t.stgArmed = s.stgArmed ∧ t.flag st STG_STATUS.CANCELLED = true ∧
         RegsBut (fun k => k = st ∨ LinkReg k) s t
       else t.stgArmed = true ∧ t.flag st STG_STATUS.FROZEN = true ∧ t.stg.applyAt = x ∧ SentFrame s t true 3 [7] ∧
         t.reg R.STG_APPLY_LO = x.truncate 32 ∧ t.reg R.STG_APPLY_HI = (x >>> 32).truncate 32)) ∧
    (Delivered s u (fr.ofSub 9) → ∃ t, Machine.exec (.frameStgCancel dt u fr) s = .next t ∧
      (s.isMaster = true → (t.reg R.STG_CASC_ARM).getLsbD d = false ∧ RegsBut (fun k => k = R.STG_CASC_ARM ∨ LinkReg k) s t) ∧
      (s.isMaster = false → s.follows d = true → t.stg.offered = none ∧
        (s.stgArmed = true → Time.reached (s.advance dt).now s.stg.applyAt = false → t.stgArmed = false ∧
          t.flag st STG_STATUS.CANCELLED = true ∧ SentFrame s t true 3 [9]))) ∧
    (Delivered s u (fr.ofSub 10) → s.isMaster = true →
      let us := (fr.payload.getD 1 0).toNat
      let ok := decide (us ≤ 150 ∧ (s.advance dt).grantedTime d + us * 200000 ≤ 200000000)
      ∃ t, Machine.exec (.frameTsReq dt u fr) s = .next t ∧ SentFrame s t true 3 [11, BitVec.ofNat 32 ok.toNat] ∧ RegsBut LinkReg s t ∧
        (ok = true → (d, (s.advance dt).now, us * 200000) ∈ t.ts.granted) ∧ (ok = false → t.ts = s.ts)) ∧
    (∀ (y target : Nat) (at_ : Time) (rest : List (Nat × Nat × Time)) (x : Slice), Delivered s u (fr.ofSub 11) → heard →
      (s.advance dt).askedNow = (y, target, at_) :: rest →
      s.ts.slices.find? (fun x => x.stage == 0 && x.y == y && x.target == target) = some x →
      let now := (s.advance dt).now
      let ok := (fr.payload.getD 1 0).toNat % 2 = 1 ∧ s.budget = true
      ∃ t, Machine.exec (.frameTsGrant dt u fr) s = .next t ∧ (¬ ok → t.ts = { s.ts with asked := rest } ∧ RegsBut LinkReg s t) ∧
        (ok → 3 ≤ x.y → RegsBut LinkReg s t ∧ t.ts.asked = rest ∧
          t.ts.slices = s.ts.slices.map (fun z => if z = x then { x with stage := 4, since := now } else z)))

/-- R391, R390, R396, R403, R404, R406: what the lanes and the control blocks do: a port is UP while both lanes are locked and a neighbour
with another position has announced itself; a port going DOWN wraps the device while its other port is UP; a CAL request is echoed, and
echoes give the path delay, which the device reports to its neighbour; the TIME block of the chosen port steers a subordinate; WAKE wakes
a parked one. Where the manual leaves a choice, this follows the model's: log entries 89, 93. -/
def Obligations.LinkBlocks : Prop :=
  ∀ (dt : Nat) (u : Fin 2) (s : State),
    let k := R.SHL_PORT u
    let o := 1 - u.val
    let down := fun (t : State) => t.portUp u = false ∧ RegsBut PortReg s t ∧
      (s.portUp u = true → t.flag k SHL_PORT.CHG = true ∧ t.flag k SHL_PORT.PCAL_OK = false ∧
        (s.portUp o = true → t.flag R.SHL_STAT SHL_STAT.WRAPPED = true))
    (∀ lane : Fin 2, s.linkOn = true →
      let l := AMap.set false (s.lport u).lanes lane true
      ∃ t, Machine.exec (.laneLock dt u lane) s = .next t ∧ (t.lport u).lanes = l ∧ RegsBut PortReg s t ∧
        t.portUp u = (AMap.get false l 0 && AMap.get false l 1 && (s.lport u).nbrSeen)) ∧
    (∀ lane : Fin 2, ∃ t, Machine.exec (.laneUnlock dt u lane) s = .next t ∧ AMap.get false (t.lport u).lanes lane = false ∧ down t) ∧
    (∃ t, Machine.exec (.portTimeout dt u) s = .next t ∧ (t.lport u).nbrSeen = false ∧ down t) ∧
    (∀ b : Byte, s.linkOn = true → s.lanesLocked u = true → ∃ t, Machine.exec (.shlIdle dt u b) s = .next t ∧
      (if b.toNat % 8 = s.ownId then t.portUp u = false ∧ t.flag R.SHL_STAT SHL_STAT.DUP_ID = true
       else t.portUp u = true ∧ t.fld k SHL_PORT.NBR = b.toNat % 8 ∧ RegsBut PortReg s t)) ∧
    (s.linkOn = true → s.portUp u = true →
      (∀ x : BitVec 48, ∃ t, Machine.exec (.shlCal dt u (.request x)) s = .next t ∧ RegsBut (fun _ => False) s t ∧
        (t.lport u).ctl = some ([0x55, 1] ++ time48 x)) ∧
      (∀ (x : BitVec 48) (turn : Nat), u.val = 0 → ∃ t, Machine.exec (.shlCal dt u (.echo x turn)) s = .next t ∧
        t.reg (R.SHL_PDLY 0) = BitVec.ofNat 32 ((((s.advance dt).now48 - x).toNat - turn) / 2) ∧
        (15 ≤ (s.lport 0).exchanges → t.flag k SHL_PORT.PCAL_OK = true) ∧ (t.lport 0).ctl = some t.pathReport ∧
          RegsBut (fun i => i = R.SHL_PDLY 0 ∨ PortReg i) s t) ∧
      (∀ (dly : Word) (ok : Bool), u.val = 1 → ∃ t, Machine.exec (.shlCal dt u (.report dly ok)) s = .next t ∧
        t.reg (R.SHL_PDLY 1) = dly ∧ t.flag k SHL_PORT.PCAL_OK = ok ∧ RegsBut (fun i => i = R.SHL_PDLY 1 ∨ PortReg i) s t)) ∧
    (∀ (x : BitVec 48) (hops : Fin 8) (locked : Bool), s.linkOn = true → s.subordinate = true → s.portUp u = true →
      s.flag k SHL_PORT.PCAL_OK = true → s.timeHops o = none → s.flag R.SHL_STAT SHL_STAT.ISOLATED = false →
      let e := (s.advance dt).timeError u x
      ∃ t, Machine.exec (.shlTime dt u x hops locked) s = .next t ∧ t.flag k SHL_PORT.TIME_SRC = locked ∧
        (locked = true → t.fld R.SHL_STAT SHL_STAT.HOPS = (hops.val + 1) % 8 ∧ t.tb.cascSeen = true ∧
          (s.tb.cascSeen = true → t.tb.cascErr = e ∧ RegsBut PortReg s t) ∧
          (s.tb.cascSeen = false → (∀ g, g < 32 → s.groupRuns g = false) → t.now = (s.advance dt).now + BitVec.ofInt 64 e)) ∧
        (locked = false → t.flag R.TB_STAT TB_STAT.CASC_LOCK = false ∧ t.now = (s.advance dt).now)) ∧
    (s.subordinate = true → s.mode = 5 → ∃ t, Machine.exec (.wakeBlock dt u) s = .next t ∧
      (t.lport o).ctl = some [0x66, 0, 0, 0, 0, 0, 0, 0] ∧
      ((s.reg R.WAKE_CFG).getLsbD 2 = true → (t.mode = s.runOrLimp ∨ t.mode = 4) ∧ (t.reg R.WAKE_STAT).getLsbD 2 = true)) ∧
    (∀ express copied : Bool, s.portUp u = true → ∃ t, Machine.exec (.shlAbort dt u express copied) s = .next t ∧
      (t.lport o).ctl = (if copied && s.portUp o then some (abortBlock express) else (s.lport o).ctl) ∧ RegsBut (fun _ => False) s t) ∧
    (∀ b : Byte, s.linkOn = true → s.lanesLocked u = true → b.toNat ∉ knownBlocks →
      ∃ t, Machine.exec (.unknownControlBlock dt u b) s = .next t ∧ t.reg k = s.reg k ||| SHL_PORT.BAD_BLK.mask ∧ RegsBut (· = k) s t) ∧
    (∀ fr : Frame, s.linkOn = true → s.portUp u = true → fr.known = false →
      ∃ t, Machine.exec (.unknownFrameType dt u fr) s = .next t ∧ t.reg k = s.reg k ||| SHL_PORT.BAD_BLK.mask ∧ RegsBut (· = k) s t) ∧
    (∀ express copied : Bool, s.linkOn = true → ∃ t, Machine.exec (.partialFrameTimeout dt u express copied) s = .next t ∧
      t.flag k SHL_PORT.PART = true ∧ t.fld k SHL_PORT.PART_CNT = satInc 65535 (s.fld k SHL_PORT.PART_CNT) ∧
      (copied = true → s.portUp o = true → (t.lport o).ctl = some (abortBlock express)) ∧ RegsBut (fun i => i = k ∨ TallyReg i) s t)

/-- R398, R401 to R404, R406: what the link sends by itself and what its silence does: the next frame of a port leaves, forwarded express
before own express before bulk, and an IDLE block where there is none; heartbeats, TIME blocks and CAL requests leave when due; a device
not heard of any more is absent, in the master lost; a subordinate that hears no master is isolated, and its hold time over it enters
HOLD. Where the manual leaves a choice, this follows the model's: log entries 89, 93. -/
def Obligations.LinkSends : Prop :=
  ∀ (dt : Nat) (s : State), s.linkOn = true →
    let u := s.advance dt
    (∀ i : Fin 2, s.portUp i = true → ∃ t, Machine.exec (.frameTransmit dt i) s = .next t ∧ RegsBut (fun _ => False) s t ∧
      (∀ f rest, (s.lport i).fwd = f :: rest → t.lport i = { s.lport i with fwd := rest, out := some { f with crc := f.crcOf } }) ∧
      (∀ f rest, (s.lport i).fwd = [] → (s.lport i).own = f :: rest →
        t.lport i = { s.lport i with own := rest, out := some { f with crc := f.crcOf } }) ∧
      (∀ f rest, (s.lport i).fwd = [] → (s.lport i).own = [] → (s.lport i).bulk = f :: rest →
        t.lport i = { s.lport i with bulk := rest, out := some { f with crc := f.crcOf } }) ∧
      ((s.lport i).fwd = [] → (s.lport i).own = [] → (s.lport i).bulk = [] → t.lport i = { s.lport i with ctl := some s.idleBlock })) ∧
    (∀ i : Fin 2, s.portUp i = false → ∃ t, Machine.exec (.frameTransmit dt i) s = .next t ∧ RegsBut (fun _ => False) s t ∧
      t.lport i = { s.lport i with ctl := some s.idleBlock }) ∧
    (u.sendDue 0 2000000 = true → ∃ t, Machine.exec (.heartbeatSend dt) s = .next t ∧ RegsBut (fun _ => False) s t ∧
      SentFrame s t true 3 [1, BitVec.ofNat 32 (s.fld R.SHL_STAT SHL_STAT.LOST +
        256 * (s.fld R.SHL_STAT SHL_STAT.PRESENT ||| 2 ^ s.ownId))]) ∧
    (s.isMaster = true ∨ s.subordinate = true ∧ s.flag R.TB_STAT TB_STAT.CASC_LOCK = true → u.sendDue 1 200000 = true →
      ∃ t, Machine.exec (.timeBlockSend dt) s = .next t ∧ RegsBut (fun _ => False) s t ∧
        ∀ i, i < 2 → s.portUp i = true → (t.lport i).ctl = some ([0x4B] ++ time48 u.now48 ++
          [BitVec.ofNat 8 (128 + if s.isMaster then 0 else s.fld R.SHL_STAT SHL_STAT.HOPS)])) ∧
    (s.portUp 0 = true → u.sendDue 2 200000000 = true → ∃ t, Machine.exec (.calRequestSend dt) s = .next t ∧
      (t.lport 0).ctl = some ([0x55, 0] ++ time48 u.now48) ∧ RegsBut (fun _ => False) s t) ∧
    (∀ (d : Fin 8) (x : Time), AMap.get none s.io.link.lastBeat d = some x → s.fieldBit R.SHL_STAT SHL_STAT.PRESENT d = true →
      s.lostTq ≤ Time.since x u.now →
      ∃ t, Machine.exec (.presenceTimeout dt d) s = .next t ∧ t.fieldBit R.SHL_STAT SHL_STAT.PRESENT d = false ∧
        RegsBut (fun k => k = R.SHL_STAT ∨ k = R.MODE_STAT ∨ TallyReg k) s t ∧
        (if s.isMaster then t.fieldBit R.SHL_STAT SHL_STAT.LOST d = true ∧ t.limpCauses = s.limpCauses ||| 8
         else t.fld R.SHL_STAT SHL_STAT.LOST = s.fld R.SHL_STAT SHL_STAT.LOST)) ∧
    (s.subordinate = true → s.flag R.SHL_STAT SHL_STAT.ISOLATED = false → s.lostTq ≤ Time.since s.io.link.masterAt u.now →
      ∃ t, Machine.exec (.isolation dt) s = .next t ∧ t.flag R.SHL_STAT SHL_STAT.ISOLATED = true ∧ t.limpCauses = s.limpCauses ||| 8 ∧
        t.flag R.TB_STAT TB_STAT.CASC_LOCK = false ∧ RegsBut (fun k => PortReg k ∨ ModeReg k) s t ∧
        (if s.isoHoldTq = 0 then t.md.isol = true ∧ (1 ≤ s.mode → s.mode ≤ 3 → t.mode = 4)
         else t.io.link.isoFrom = some (s.io.link.masterAt + BitVec.ofNat 64 s.lostTq))) ∧
    (∀ x : Time, s.io.link.isoFrom = some x → s.isoHoldTq ≤ Time.since x u.now →
      ∃ t, Machine.exec (.isolationHoldExpiry dt) s = .next t ∧ t.md.isol = true ∧ t.io.link.isoFrom = none ∧
        t.fld R.MODE_STAT MODE_STAT.HOLD_SRC = s.fld R.MODE_STAT MODE_STAT.HOLD_SRC ||| 32 ∧
        (1 ≤ s.mode → s.mode ≤ 3 → t.mode = 4) ∧ RegsBut ModeReg s t) ∧
    (∀ (a : Access) (w : Word), PitWord a → CleanWord R.SHL_CFG (SHL_CFG.WAKE.put w 1) →
      ∃ t, Machine.exec (.shlWake dt a w) s = .next t ∧ RegsBut (· = R.SHL_CFG) s t ∧
        ∀ i, i < 2 → (t.lport i).ctl = if s.isMaster then some [0x66, 0, 0, 0, 0, 0, 0, 0] else (s.lport i).ctl)

/-- R400: a peer's RD of system RAM is answered with the words it holds, its WR stores its words there and is answered; an answer or its
absence for 100 µs ends what waited for it. Where the manual leaves a choice, this follows the model's: log entries 89, 94. -/
def Obligations.RemoteAccesses : Prop :=
  ∀ (dt : Nat) (u : Fin 2) (fr : Frame) (s : State),
    let x := fr.addr.toNat
    let g := fr.tag
    let waited := fun (write : Bool) => s.io.link.remotes.any (fun r => r.tag == g && r.write == write) = true
    let rest := s.io.link.remotes.filter (fun r => r.tag != g)
    (∀ n : Nat, Delivered s u (fr.ofType false 0x11) → fr.bcast = false → (fr.payload.getD 0 0).toNat = 4 * n → 1 ≤ n → n ≤ 64 →
      x % 4 = 0 → InRam x (4 * n) → s.ecc = [] → s.md.inReset = false →
      ∃ t, Machine.exec (.frameRd dt u fr) s = .next t ∧ RegsBut LinkReg s t ∧
        PeerAnswered s t fr 0x12 0 ((List.range n).map (fun i => s.word (x + 4 * i)))) ∧
    (Delivered s u (fr.ofType false 0x10) → fr.bcast = false → fr.payload ≠ [] → fr.payload.length ≤ 64 → x % 4 = 0 →
      InRam x (4 * fr.payload.length) → s.md.inReset = false →
      ∃ t, Machine.exec (.frameWr dt u fr) s = .next t ∧ BytesWritten s t x (fr.payload.flatMap bytesOf) ∧
        PeerAnswered s t fr 0x13 0 [] ∧ RegsBut (fun k => k = R.MI_INJ_CTL ∨ LinkReg k) s t) ∧
    (Delivered s u (fr.ofType false 0x10) → fr.bcast = false → s.md.inReset = true → channelDomain x = false →
      ∃ t, Machine.exec (.frameWr dt u fr) s = .next t ∧ PeerAnswered s t fr 0x13 2 [] ∧ SameBytes s t ∧ RegsBut LinkReg s t) ∧
    (∀ w : Word, Delivered s u (fr.ofType false 0x12) → fr.payload = [w] → waited false → NoMacJobs s →
      ∃ t, Machine.exec (.frameRdRsp dt u fr) s = .next t ∧ t.io.link.remotes = rest ∧
        WaitsEnded s t g (if fr.status = 0 then w else 0) (fr.status == 0) ∧ RegsBut LinkReg s t) ∧
    (Delivered s u (fr.ofType false 0x13) → waited true → NoMacJobs s →
      ∃ t, Machine.exec (.frameWrRsp dt u fr) s = .next t ∧ t.io.link.remotes = rest ∧ WaitsEnded s t g 0 (fr.status == 0) ∧
        RegsBut LinkReg s t) ∧
    (∀ (tag : BitVec 16) (r : Remote), s.io.link.remotes.find? (fun r => r.tag == tag.toNat) = some r →
      Time.reached (s.advance dt).now (r.since + 20000000) = true → NoMacJobs s →
      ∃ t, Machine.exec (.remoteAccessTimeout dt tag) s = .next t ∧
        t.io.link.remotes = s.io.link.remotes.filter (fun r => r.tag != tag.toNat) ∧ WaitsEnded s t tag.toNat 0 false ∧
        RegsBut (fun _ => False) s t)

/-- R407 to R411: a frame with a wrong FCS, too long, or without a descriptor is discarded and counted; an accepted one is stored in the
buffer of its queue's next descriptor, which is finished with its length and time, and the ring goes on; the descriptor of a ring that lies
with another device of the cascade is asked for; the frame of the highest queue that may send leaves, padded and with its FCS; enabling a
ring restarts it; a link change is shown and reported. Where the manual leaves a choice, this follows the model's: log entries 93, 115. -/
def Obligations.EthernetFrames : Prop :=
  ∀ (dt : Nat) (m : Fin 2) (s : State),
    let st := R.MAC_STAT m
    (∀ bytes : List Byte, s.macOn m = true →
      let n := bytes.length - 4
      let l := bytes.take n
      let q := if tagged l then (l.getD 14 0).toNat / 32 else s.fld (R.MAC_CFG m) MAC_CFG.UQ
      let k := R.MAC_RXR_CTL m q
      let bad := crc32 l ≠ wordAt bytes n ∨ s.maxLen m < bytes.length ∨ etherType l = 0x8808
      let discarded := fun (t : State) => t.flag st MAC_STAT.RXERR = true ∧ RegsBut (· = st) s t ∧ SameBytes s t ∧
        t.fld st MAC_STAT.FCS_CNT = satInc 65535 (s.fld st MAC_STAT.FCS_CNT)
      (bad → ∃ t, Machine.exec (.macFrameReceive dt m bytes) s = .next t ∧ discarded t) ∧
      (¬ bad → s.macAccepts m l = false → ∃ t, Machine.exec (.macFrameReceive dt m bytes) s = .next t ∧
        RegsBut (fun _ => False) s t ∧ SameBytes s t) ∧
      (¬ bad → s.macAccepts m l = true → s.corerDatagram l = none → s.flag k MAC_RXR_CTL.EN = false → NoMacJobs s →
        ∃ t, Machine.exec (.macFrameReceive dt m bytes) s = .next t ∧ discarded t) ∧
      (∀ d y : Nat, ¬ bad → s.macAccepts m l = true → s.corerDatagram l = none → s.flag k MAC_RXR_CTL.EN = true → NoMacJobs s →
        s.route (s.descAt m true q) = .cascade d y →
        ∃ t j, Machine.exec (.macFrameReceive dt m bytes) s = .next t ∧ (t.mac m).jobs = [j] ∧ j.rx = true ∧ j.q = q ∧ j.frame = l ∧
          j.stage = 0 ∧ j.tag = some s.io.link.nextTag ∧ SameBytes s t ∧ RegsBut (fun _ => False) s t ∧
          t.io.link.remotes.any (fun r => r.tag == s.io.link.nextTag && !r.write) = true) ∧
      (∀ x : Nat, ¬ bad → s.macAccepts m l = true → s.corerDatagram l = none → RingReady s m true q x n → NoMacJobs s →
        n ≤ (s.word (x + 4)).toNat / 65536 % 16384 →
        let buf := (s.word x).toNat + (s.word (x + 4)).toNat % 65536 * 0x100000000
        let time : Time := if etherType l = 0x88F7 then (s.advance dt).now - BitVec.ofNat 64 (8 * bytes.length * s.bitTq m) else 0
        ∃ t, Machine.exec (.macFrameReceive dt m bytes) s = .next t ∧ BytesTwice s t buf l (x + 4) (ringDone s x n time) ∧
          t.fld k MAC_RXR_CTL.NEXT = (s.fld k MAC_RXR_CTL.NEXT + 1) % 2 ^ s.fld k MAC_RXR_CTL.RK ∧
          t.fieldBit (R.MAC_QSTAT m) MAC_QSTAT.RXDONE q = true ∧
          RegsBut (fun i => i = k ∨ i = R.MAC_QSTAT m ∨ i = R.MI_INJ_CTL) s t)) ∧
    (∀ q : Nat, s.macOn m = true → RingsHere s m → let u := (s.advance dt).creditsNow m
      ((List.range 8).reverse).find? (u.txReady m) = some q →
      let k := R.MAC_TXR_CTL m q
      let cq := s.fld (R.MAC_CFG m) MAC_CFG.CQ
      let sent := fun (t : State) (l : List Byte) => (t.mac m).out = padTo 60 l ++ bytesOf (crc32 (padTo 60 l))
      (∀ l rest, q = cq → (s.mac m).corerq = l :: rest → ∃ t, Machine.exec (.macFrameTransmit dt m) s = .next t ∧ sent t l ∧
        (t.mac m).corerq = rest ∧ RegsBut (fun _ => False) s t ∧ SameBytes s t) ∧
      (∀ x : Nat, (q = cq → (s.mac m).corerq = []) →
        let n := (s.word (x + 4)).toNat / 65536 % 16384
        let buf := (s.word x).toNat + (s.word (x + 4)).toNat % 65536 * 0x100000000
        let l := bytesFrom s buf n
        RingReady s m false q x n →
        ∃ t, Machine.exec (.macFrameTransmit dt m) s = .next t ∧ sent t l ∧
          BytesWritten s t (x + 4) (ringDone s x n (if etherType l = 0x88F7 then u.now else 0)) ∧
          t.fld k MAC_TXR_CTL.NEXT = (s.fld k MAC_TXR_CTL.NEXT + 1) % 2 ^ s.fld k MAC_TXR_CTL.RK ∧
          t.fieldBit (R.MAC_QSTAT m) MAC_QSTAT.TXDONE q = true ∧
          RegsBut (fun i => i = k ∨ i = R.MAC_QSTAT m ∨ i = R.MI_INJ_CTL) s t)) ∧
    (∀ (a : Access) (rx : Bool) (q : Fin 8) (w : Word),
      let k := ringCtl m rx q
      a.size = 4 → CleanWord k (MAC_TXR_CTL.EN.put w 1) → ∃ t, Machine.exec (.ringEnable dt a m rx q w) s = .next t ∧
        t.flag k MAC_TXR_CTL.EN = true ∧ t.fld k MAC_TXR_CTL.RK = MAC_TXR_CTL.RK.get w ∧ RegsBut (· = k) s t ∧
        t.fld k MAC_TXR_CTL.NEXT = if s.flag k MAC_TXR_CTL.EN then s.fld k MAC_TXR_CTL.NEXT else 0) ∧
    (∀ up : Bool, s.mode ≠ 5 → s.flag st MAC_STAT.LINK ≠ up → ∃ t, Machine.exec (.macLinkChange dt m up) s = .next t ∧
      t.flag st MAC_STAT.LINK = up ∧ t.flag st MAC_STAT.LINK_CHG = true ∧ RegsBut (fun k => k = st ∨ TallyReg k) s t ∧
      Reported s t (0x179 + m) 0x00C0 clsInfo (BitVec.ofNat 32 up.toNat))

/-- R412 to R415: the host reads and writes system RAM through region 2, sets Bus Master Enable and the MSI-X table; an outbound read is
answered, or fails with OB_ERR, also when CTO passes; an MSI-X vector leaves as a message or stays pending while it is masked; a link that
goes down resets the configuration, and it comes up only at a rate and a width the port has. Where the manual leaves a choice, this
follows the model's: log entries 82, 93. -/
def Obligations.PcieCommands : Prop :=
  ∀ (dt : Nat) (s : State),
    let st := R.PCIE_STAT
    (s.flag st PCIE_STAT.LINK = true → ∀ (o w : Word),
      (o.toNat % 4 = 0 → s.fld R.PCIE_B2WIN PCIE_B2WIN.BASE = 0 → InRam o.toNat 4 → s.io.d3hot = false →
        (∃ t, Machine.exec (.pcieInboundAccess dt .bar2 true o 4 w) s = .next t ∧ BytesWritten s t o.toNat (bytesOf w) ∧
          RegsBut (· = R.MI_INJ_CTL) s t) ∧
        (s.ecc = [] → ∃ t, Machine.exec (.pcieInboundAccess dt .bar2 false o 4 w) s = .next t ∧
          AMap.get 0 t.rdata 0x50 = s.word o.toNat ∧ RegsBut (fun _ => False) s t ∧ SameBytes s t)) ∧
      (∃ t, Machine.exec (.pcieInboundAccess dt .config true 4 4 w) s = .next t ∧ t.io.busMaster = w.getLsbD 2 ∧
        RegsBut (fun _ => False) s t ∧ SameBytes s t) ∧
      (∀ v : Fin 64, ∀ i : Fin 4, o.toNat = 0xF00000 + 16 * v.val + 4 * i.val → s.io.d3hot = false →
        ∃ t, Machine.exec (.pcieInboundAccess dt .bar0 true o 4 w) s = .next t ∧
          t.msixWord v i = (if i = 3 then w &&& 1 else w) ∧ RegsBut (fun _ => False) s t ∧ SameBytes s t)) ∧
    (s.flag st PCIE_STAT.LINK = false → ∀ (sp : PcieSpace) (write : Bool) (o w : Word) (n : Nat),
      ∃ t, Machine.exec (.pcieInboundAccess dt sp write o n w) s = .next t ∧ RegsBut (fun _ => False) s t ∧ SameBytes s t) ∧
    (∀ (tag : BitVec 16) (o : Outbound), s.io.outbound.find? (fun x => x.tag == tag.toNat) = some o → o.for_ = .read →
      NoMacJobs s → s.io.outWait = [] → s.path.rdWait = false →
      let failed := fun (t : State) => t.io.outbound = s.io.outbound.erase o ∧ WaitsEnded s t (pcieWait o.tag) 0 false ∧
        t.flag st PCIE_STAT.OB_ERR = true ∧ RegsBut (fun k => k = st ∨ TallyReg k) s t ∧
        Reported s t 0x17B 0x00C9 clsInfo (BitVec.ofNat 32 o.host)
      (∀ b : List Byte, b.length = o.len → ∃ t, Machine.exec (.pcieOutboundCompletion dt tag (.data b)) s = .next t ∧
        t.io.outbound = s.io.outbound.erase o ∧ WaitsEnded s t (pcieWait o.tag) (wordAt b 0) true ∧ RegsBut (fun _ => False) s t) ∧
      (∃ t, Machine.exec (.pcieOutboundCompletion dt tag .failed) s = .next t ∧ failed t) ∧
      (Time.reached (s.advance dt).now (o.since + BitVec.ofNat 64 s.pcieCto) = true →
        ∃ t, Machine.exec (.pcieCompletionTimeout dt tag) s = .next t ∧ failed t)) ∧
    (∀ (a : Access) (w : Word), a.size = 4 → CleanWord R.PCIE_MSIX_SEND w →
      let v := PCIE_MSIX_SEND.VAL.get w
      ∃ t, Machine.exec (.pcieMsixSend dt a w) s = .next t ∧ RegsBut (fun _ => False) s t ∧
        (if s.msixOn = true ∧ (s.msixWord v 3).getLsbD 0 = false then
           t.io.msixOut = some ((s.msixWord v 0).toNat + 0x100000000 * (s.msixWord v 1).toNat, s.msixWord v 2) ∧
           AMap.get false t.io.msixPend v = false
         else t.io.msixOut = s.io.msixOut ∧ AMap.get false t.io.msixPend v = true)) ∧
    (∀ (gen : Fin 8) (width : Fin 4),
      (s.mode ≠ 5 → s.md.loadStep = 4 → 1 ≤ gen.val → gen.val ≤ 4 → width.val = 1 ∨ width.val = 2 →
        ∃ t, Machine.exec (.pcieLinkChange dt true gen width) s = .next t ∧
        t.flag st PCIE_STAT.LINK = true ∧ t.fld st PCIE_STAT.GEN = gen ∧ t.fld st PCIE_STAT.WIDTH = width ∧
        (s.flag st PCIE_STAT.LINK = false → t.flag st PCIE_STAT.LINK_CHG = true) ∧ RegsBut (fun k => k = st ∨ TallyReg k) s t) ∧
      (s.mode = 5 ∨ s.md.loadStep ≠ 4 ∨ gen.val = 0 ∨ 4 < gen.val ∨ width.val = 0 ∨ width.val = 3 →
        ∃ t, Machine.exec (.pcieLinkChange dt true gen width) s = .next t ∧ t.io = s.io ∧ RegsBut (fun _ => False) s t ∧ SameBytes s t) ∧
      (∃ t, Machine.exec (.pcieLinkChange dt false gen width) s = .next t ∧ t.flag st PCIE_STAT.LINK = false ∧
        t.io.busMaster = false ∧ t.io.msixCtl = 0 ∧ RegsBut (fun k => k = st ∨ TallyReg k) s t))

/-- R416, R417: enabling with a bit timing beyond the limits is refused; a received frame that the filters pass joins the FIFO with the
instant of its SOF bit, or sets RX_OVF when it is full; requests are set, withdrawn, and finished in identifier priority; error and
bus-off states are shown, and bus-off reports. Where the manual leaves a choice, this follows the model's: log entry 93. -/
def Obligations.CanControllers : Prop :=
  ∀ (dt : Nat) (i : Fin 4) (s : State),
    let st := R.CAN_STAT i
    (∀ (a : Access) (w : Word), a.size = 4 →
      (CleanWord (R.CAN_CTL i) (CAN_CTL.EN.put w 1) → ∃ t, Machine.exec (.canCtlEnable dt a i w) s = .next t ∧
        (if s.canTimingOk i then t.flag (R.CAN_CTL i) CAN_CTL.EN = true ∧ RegsBut (· = R.CAN_CTL i) s t
         else t.flag (R.CAN_CTL i) CAN_CTL.EN = false ∧ t.flag st CAN_STAT.CFG_ERR = true ∧
           RegsBut (fun k => k = R.CAN_CTL i ∨ k = st) s t)) ∧
      (∃ t, Machine.exec (.canTxreq dt a i w) s = .next t ∧ t.reg (R.CAN_TXREQ i) = s.reg (R.CAN_TXREQ i) ||| w ∧
        RegsBut (· = R.CAN_TXREQ i) s t) ∧
      (∃ t, Machine.exec (.canTxabort dt a i w) s = .next t ∧ t.reg (R.CAN_TXREQ i) = s.reg (R.CAN_TXREQ i) &&& ~~~w ∧
        RegsBut (· = R.CAN_TXREQ i) s t) ∧
      ((s.can i).fifo.length ≤ 64 → ∃ t, Machine.exec (.canRxpop dt a i w) s = .next t ∧ (t.can i).fifo = (s.can i).fifo.drop 1 ∧
        t.fld (R.CAN_RXFILL i) CAN_RXFILL.FILL = (t.can i).fifo.length ∧ t.flag st CAN_STAT.RX_NE = decide ((t.can i).fifo ≠ []) ∧
        RegsBut (fun k => k = R.CAN_RXFILL i ∨ k = st) s t)) ∧
    (∀ (fr : CanFrame) (age : Nat), s.canOn i = true → (fr.fdf = true → s.flag (R.CAN_CTL i) CAN_CTL.FD = true) →
      let on := fun (n : Nat) => s.flag (R.CAN_FLT_ID i n) CAN_FLT_ID.EN
      let passes := (∀ n, n < 32 → on n = false) ∨ ∃ n, n < 32 ∧ on n = true ∧ s.canPasses i fr n = true
      ∃ t, Machine.exec (.canFrameReceive dt i fr age) s = .next t ∧ RegsBut (fun k => k = R.CAN_RXFILL i ∨ k = st) s t ∧
        (passes → (s.can i).fifo.length < 64 →
          (t.can i).fifo = (s.can i).fifo ++ [(fr, (s.advance dt).now - BitVec.ofNat 64 age)] ∧
          (s.flag (R.SRC_CFG (704 + 4 * i)) SRC_CFG.EN = true → (t.src (704 + 4 * i)).pending = true)) ∧
        (passes → 64 ≤ (s.can i).fifo.length → t.can i = s.can i ∧ t.flag st CAN_STAT.RX_OVF = true) ∧
        (¬ passes → t.can i = s.can i ∧ t.reg st = s.reg st)) ∧
    (∀ b : Nat, s.canOn i = true → s.flag (R.CAN_CTL i) CAN_CTL.LISTEN = false → s.canNext i = some b →
      AMap.get 0 (s.advance dt).swSet (R.CAN_TXREQ i) = 0 →
      ∃ t, Machine.exec (.canFrameSent dt i) s = .next t ∧ (t.reg (R.CAN_TXREQ i)).getLsbD b = false ∧
        (t.reg (R.CAN_TXSENT i)).getLsbD b = true ∧ t.flag st CAN_STAT.TXDONE = true ∧
        RegsBut (fun k => k = R.CAN_TXREQ i ∨ k = R.CAN_TXSENT i ∨ k = st ∨ k = R.CAN_RXFILL i) s t ∧
        (s.flag (R.CAN_CTL i) CAN_CTL.LOOP = true → (∀ n, n < 32 → s.flag (R.CAN_FLT_ID i n) CAN_FLT_ID.EN = false) →
          (s.can i).fifo.length < 64 → ∃ at_ : Time, (t.can i).fifo = (s.can i).fifo ++ [(s.canBuffer i b, at_)]) ∧
        (s.flag (R.CAN_CTL i) CAN_CTL.LOOP = false → t.can i = s.can i)) ∧
    (s.canOn i = true → ∃ t, Machine.exec (.canBusOff dt i) s = .next t ∧ t.flag st CAN_STAT.BUS_OFF = true ∧
      t.flag st CAN_STAT.ERR_CHG = true ∧ RegsBut (fun k => k = st ∨ TallyReg k) s t ∧ Reported s t (0x17C + i) 0x00D0 clsInfo 0) ∧
    (∀ rec tec : Fin 256, s.canOn i = true →
      let passive := decide (128 ≤ rec.val ∨ 128 ≤ tec.val)
      ∃ t, Machine.exec (.canBusError dt i rec tec) s = .next t ∧ t.fld st CAN_STAT.REC = rec ∧ t.fld st CAN_STAT.TEC = tec ∧
        t.flag st CAN_STAT.PASSIVE = passive ∧ t.flag st CAN_STAT.BUS_OFF = false ∧
        (s.flag st CAN_STAT.PASSIVE ≠ passive → t.flag st CAN_STAT.ERR_CHG = true) ∧ RegsBut (· = st) s t) ∧
    (s.flag (R.CAN_CTL i) CAN_CTL.EN = true → s.flag (R.CAN_CTL i) CAN_CTL.AUTO_REC = true → s.flag st CAN_STAT.BUS_OFF = true →
      ∃ t, Machine.exec (.canBusOffRecovery dt i) s = .next t ∧ t.flag st CAN_STAT.BUS_OFF = false ∧ t.fld st CAN_STAT.REC = 0 ∧
        t.fld st CAN_STAT.TEC = 0 ∧ t.flag st CAN_STAT.ERR_CHG = true ∧ RegsBut (· = st) s t)

/-- R418 to R422: an xSPI command runs while the port is free, with its address, its dummy cycles and the bytes of the window; a program
or erase that may reach the live slot, or before a slot is known, is refused; a finished read has filled the window; SPI frames queue up
to sixteen and their responses queue in order; a poll whose masked response differs from the expected one sets its error flag and reports.
Where the manual leaves a choice, this follows the model's: log entry 93. -/
def Obligations.SerialPorts : Prop :=
  ∀ (dt : Nat) (a : Access) (w : Word) (s : State),
    let st := R.XSPI_STAT
    let runs := fun (t : State) (kind : Nat) =>
      if s.flag st XSPI_STAT.BUSY then t.io.xspi = s.io.xspi ∧ RegsBut (fun _ => False) s t
      else if 2 ≤ kind ∧ s.slotRefuses (XSPI_CMD.ADDR_EN.get w == 1) = true then
        t.io.xspi = s.io.xspi ∧ t.flag st XSPI_STAT.SLOT_REJ = true ∧ RegsBut (fun k => k = st ∨ TallyReg k) s t
      else t.flag st XSPI_STAT.BUSY = true ∧ RegsBut (· = st) s t ∧
        ∃ o : XspiOp, t.io.xspi = some o ∧ o.kind = kind ∧ o.code = XSPI_CMD.CODE.get w ∧ o.dummy = XSPI_CMD.DUMMY.get w ∧
          o.addr = (if XSPI_CMD.ADDR_EN.get w = 1 then some (s.reg R.XSPI_ADDR).toNat else none) ∧
          o.len = Nat.min 256 (s.fld R.XSPI_LEN XSPI_LEN.VAL) ∧ o.out.length = (if kind = 0 then 0 else o.len) ∧
          ∀ i, i < o.out.length → o.out.getD i 0 = byteOf (s.reg (R.XSPI_WIN (i / 4))) (i % 4)
    (a.size = 4 → CleanWord R.XSPI_CMD (XSPI_CMD.KIND.put w 0) →
      (∃ t, Machine.exec (.xspiRead dt a w) s = .next t ∧ runs t 0) ∧ (∃ t, Machine.exec (.xspiWrite dt a w) s = .next t ∧ runs t 1) ∧
      (∃ t, Machine.exec (.xspiProgram dt a w) s = .next t ∧ runs t 2) ∧ (∃ t, Machine.exec (.xspiErase dt a w) s = .next t ∧ runs t 3)) ∧
    (∀ (bytes : List Byte) (o : XspiOp), s.io.xspi = some o → o.len ≤ 256 →
      ∃ t, Machine.exec (.xspiCommandDone dt bytes) s = .next t ∧ t.io.xspi = none ∧ t.flag st XSPI_STAT.BUSY = false ∧
        t.flag st XSPI_STAT.DONE = true ∧
        (if o.kind = 0 then ∀ i, i < 256 → byteOf (t.reg (R.XSPI_WIN (i / 4))) (i % 4) =
           if i < o.len then bytes.getD i 0 else byteOf (s.reg (R.XSPI_WIN (i / 4))) (i % 4)
         else RegsBut (· = st) s t)) ∧
    (∀ f : Fin 8,
      let k := R.GSPI_STAT f
      let h := s.reg (R.GSPI_TXH f)
      let bits := Nat.max 7 (GSPI_TXH.BITS.get h) + 1
      (PitWord a → ∃ t, Machine.exec (.gspiTxd dt a f w) s = .next t ∧ RegsBut (· = k) s t ∧
        (if (s.spi f).tx.length < 16 then (t.spi f).tx = (s.spi f).tx ++
           [{ cs := GSPI_TXH.CS.get h, bits := bits, hold := GSPI_TXH.HOLD.get h == 1, data := BitVec.ofNat 32 (w.toNat % 2 ^ bits) }]
         else t.spi f = s.spi f ∧ t.reg k = s.reg k ||| GSPI_STAT.TX_REJ.mask)) ∧
      (∀ v rest, a.size = 4 → AMap.get false s.undef (R.GSPI_RX f) = false → (s.spi f).rx = v :: rest →
        ∃ t, Machine.exec (.gspiRx dt a f) s = .next t ∧ AMap.get 0 t.rdata a.master = v ∧ (t.spi f).rx = rest ∧ RegsBut (· = k) s t) ∧
      (∀ (resp : Word) fr rest, (s.spi f).tx = fr :: rest → fr.bits = bits →
        ∃ t, Machine.exec (.gspiFrameDone dt f resp) s = .next t ∧ (t.spi f).tx = rest ∧ RegsBut (· = k) s t ∧
          (if (s.spi f).rx.length < 16 then (t.spi f).rx = (s.spi f).rx ++ [BitVec.ofNat 32 (resp.toNat % 2 ^ bits)]
           else (t.spi f).rx = (s.spi f).rx ∧ t.flag k GSPI_STAT.RX_OVF = true)) ∧
      (∀ (c : Fin 4) (resp : Word) (x : Time), AMap.get none (s.spi f).nextPoll c = some x →
        s.flag (R.GSPI_POLL f c) GSPI_POLL.EN = true → Time.reached (s.advance dt).now x = true →
        let r := BitVec.ofNat 32 (resp.toNat % 2 ^ (Nat.max 7 (s.fld (R.GSPI_POLL f c) GSPI_POLL.BITS) + 1))
        ∃ t, Machine.exec (.gspiPoll dt f c resp) s = .next t ∧ (t.spi f).rx = (s.spi f).rx ∧
          AMap.get none (t.spi f).nextPoll c = some (x + BitVec.ofNat 64 (s.pollTq f c)) ∧
          (if (r ^^^ s.reg (R.GSPI_PEXP f c)) &&& s.reg (R.GSPI_PMASK f c) = 0 then RegsBut (fun _ => False) s t
           else t.fieldBit k GSPI_STAT.POLL_ERR c = true ∧ RegsBut (fun i => i = k ∨ TallyReg i) s t ∧
             Reported s t (0x80 + f) 0x00E0 clsInfo r)))

/-- R385, R423, R424: while debug access is enabled the DAP reads and writes through a processor's local map, reads its CORE_STATUS,
halts, resumes and steps it, wakes the device and resets it; otherwise none of these commands does anything. A test port instruction is
selected, those of scan access only under its conditions. Where the manual leaves a choice, this follows the model's: log entries 93, 99.
-/
def Obligations.DebugAndTestPorts : Prop :=
  ∀ (dt : Nat) (p : Fin 7) (wd : World) (x w : Word) (s : State),
    let q := s.flow p
    (s.flag R.TS_SEC TS_SEC.DBG = true →
      (0x20000000 ≤ x.toNat → x.toNat < 0x20400000 → x.toNat % 4 = 0 →
        (s.ecc = [] → ∃ t, Machine.exec (.dapRead dt p wd x) s = .next t ∧
          t.dapReg = (4 * (8 * wd.bit + p)) * 0x10000000000000000 + x.toNat * 0x100000000 + (s.word x.toNat).toNat ∧
          t.io.dapData = s.word x.toNat ∧ RegsBut (fun _ => False) s t ∧ SameBytes s t) ∧
        (∃ t, Machine.exec (.dapWrite dt p wd x w) s = .next t ∧ BytesWritten s t x.toNat (bytesOf w) ∧ RegsBut (· = R.MI_INJ_CTL) s t)) ∧
      (s.hasCore p = true →
        let c := s.core p
        ∃ t, Machine.exec (.dapStatus dt p) s = .next t ∧ RegsBut (fun _ => False) s t ∧
          CORE_STATUS.CPL.get t.io.dapData = c.cpl % 32 ∧ CORE_STATUS.WORLD.get t.io.dapData = c.world.bit ∧
          CORE_STATUS.LEVEL.get t.io.dapData = c.sup.toNat ∧ CORE_STATUS.EMG.get t.io.dapData = c.emg.toNat ∧
          (∀ j, t.core j = s.core j ∧ t.flow j = s.flow j) ∧ SameBytes s t) ∧
      (s.hasCore p = true → (p.val = 4 → s.paired = false) → ∃ t, Machine.exec (.dapHalt dt p) s = .next t ∧
        t.flow p = { q with halted := true, waiting := false } ∧ (∀ j, j ≠ p.val → t.flow j = s.flow j) ∧ (∀ j, t.core j = s.core j) ∧
        RegsBut (fun _ => False) s t ∧ SameBytes s t) ∧
      (s.hasCore p = false → ∃ t, Machine.exec (.dapHalt dt p) s = .next t ∧ (∀ j, t.core j = s.core j ∧ t.flow j = s.flow j) ∧
        RegsBut (fun _ => False) s t ∧ SameBytes s t) ∧
      (s.hasCore p = true → p.val = 4 → s.paired = true → ∃ t, Machine.exec (.dapHalt dt p) s = .next t ∧
        t.pr.deputy.haltReq = true ∧ (∀ j, t.core j = s.core j ∧ t.flow j = s.flow j) ∧ RegsBut (fun _ => False) s t ∧ SameBytes s t) ∧
      (∃ t, Machine.exec (.dapResume dt p) s = .next t ∧ t.flow p = { q with halted := false, stepping := false } ∧
        (∀ j, j ≠ p.val → t.flow j = s.flow j) ∧ (∀ j, t.core j = s.core j) ∧ RegsBut (fun _ => False) s t ∧ SameBytes s t) ∧
      (q.halted = false → ∃ t, Machine.exec (.dapSingleStep dt p) s = .next t ∧ (∀ j, t.core j = s.core j ∧ t.flow j = s.flow j) ∧
        RegsBut (fun _ => False) s t ∧ SameBytes s t) ∧
      (q.halted = true → ∃ t, Machine.exec (.dapSingleStep dt p) s = .next t ∧ t.flow p = { q with stepping := true } ∧
        (∀ j, j ≠ p.val → t.flow j = s.flow j) ∧ (∀ j, t.core j = s.core j) ∧ RegsBut (fun _ => False) s t ∧ SameBytes s t) ∧
      (s.mode ≠ 5 ∨ (s.reg R.WAKE_CFG).getLsbD 3 = false → ∃ t, Machine.exec (.dapWakeRequest dt) s = .next t ∧ t.md = s.md ∧
        (∀ j, t.core j = s.core j ∧ t.flow j = s.flow j) ∧ RegsBut (fun _ => False) s t ∧ SameBytes s t) ∧
      (s.mode = 5 → (s.reg R.WAKE_CFG).getLsbD 3 = true → ∃ t, Machine.exec (.dapWakeRequest dt) s = .next t ∧
        (t.mode = s.runOrLimp ∨ t.mode = 4) ∧ (t.reg R.WAKE_STAT).getLsbD 3 = true) ∧
      (ResetFree s dt → ∃ t, Machine.exec (.dapSystemReset dt) s = .next t ∧ SysReset s t RST_CAUSE.DEBUG)) ∧
    (s.flag R.TS_SEC TS_SEC.DBG = false →
      let nothing := fun (c : Instr) => ∃ t, Machine.exec c s = .next t ∧ t.io = s.io ∧ t.md = s.md ∧ t.pr = s.pr ∧
        (∀ j, t.core j = s.core j) ∧ RegsBut (fun _ => False) s t ∧ SameBytes s t
      nothing (.dapRead dt p wd x) ∧ nothing (.dapWrite dt p wd x w) ∧ nothing (.dapStatus dt p) ∧ nothing (.dapHalt dt p) ∧
      nothing (.dapResume dt p) ∧ nothing (.dapSingleStep dt p) ∧ nothing (.dapWakeRequest dt) ∧ nothing (.dapSystemReset dt)) ∧
    (let scan := fun (code : Nat) => if s.flag R.TS_SEC TS_SEC.SCAN then code else 0xFF
     let selects := fun (c : Instr) (code : Nat) => ∃ t, Machine.exec c s = .next t ∧ t.io.ir = code ∧ RegsBut (fun _ => False) s t
     selects (.jtagIdcode dt) 1 ∧ selects (.jtagSamplePreload dt) 2 ∧ selects (.jtagExtest dt) (scan 3) ∧
     selects (.jtagHighz dt) (scan 4) ∧ selects (.jtagClamp dt) (scan 5) ∧ selects (.jtagScan dt) (scan 0x20) ∧
     selects (.jtagBypass dt) 0xFF ∧ selects (.testLogicReset dt) 1 ∧
     (∃ t, Machine.exec (.jtagIdcode dt) s = .next t ∧ t.tapCapture = some (32, 0x45128163)) ∧
     (∃ t, Machine.exec (.jtagBypass dt) s = .next t ∧ t.tapCapture = some (1, 0)))

/-- R210, R211: the instruction at the program counter writes its result to rd, and its flags to fcsr, and the core goes on at the next
instruction or at the target; a fence completes once the store buffer is empty; the stated values of division by zero and of the signed
overflow. Where the manual leaves a choice, this follows the model's: log entries 96, 97. -/
def Obligations.OrdinaryInstructions : Prop :=
  ∀ (dt : Nat) (p : Fin 7) (s : State) (x : Fetched), Standing s p x →
    let c := s.core p
    let wrote := fun (rd : Nat) (v next : Word) =>
      ∃ t, Machine.exec (.executeInstruction dt p) s = .next t ∧ CoreLeft s t p { c.set rd v with pc := next }
    (∀ rd imm, x.instr = .lui rd imm → wrote rd imm x.next) ∧
    (∀ rd imm, x.instr = .auipc rd imm → wrote rd (c.pc + imm) x.next) ∧
    (∀ rd off, x.instr = .jal rd off → wrote rd x.next (c.pc + off)) ∧
    (∀ rd rs1 off, x.instr = .jalr rd rs1 off → wrote rd x.next ((c.get rs1 + off) &&& ~~~1)) ∧
    (∀ f rs1 rs2 off, x.instr = .branch f rs1 rs2 off → ∃ t, Machine.exec (.executeInstruction dt p) s = .next t ∧
      CoreLeft s t p { c with pc := if branchTaken f (c.get rs1) (c.get rs2) then c.pc + off else x.next }) ∧
    (∀ f alt rd rs1 imm, x.instr = .aluI f alt rd rs1 imm → wrote rd (aluOp f alt (c.get rs1) imm) x.next) ∧
    (∀ f alt rd rs1 rs2, x.instr = .alu f alt rd rs1 rs2 → wrote rd (aluOp f alt (c.get rs1) (c.get rs2)) x.next) ∧
    (∀ f rd rs1 rs2, x.instr = .mulDiv f rd rs1 rs2 → wrote rd (mulOp f (c.get rs1) (c.get rs2)) x.next ∧
      (∀ a b : Word, mulOp 4 a 0 = 0xFFFFFFFF ∧ mulOp 5 a 0 = 0xFFFFFFFF ∧ mulOp 6 a 0 = a ∧ mulOp 7 a 0 = a ∧ mulOp 0 a b = a * b) ∧
      mulOp 4 0x80000000 0xFFFFFFFF = 0x80000000 ∧ mulOp 6 0x80000000 0xFFFFFFFF = 0) ∧
    (∀ f rd n src, x.instr = .csr f rd n src →
      let old := csrRead c.fcsr n
      let a := if 4 ≤ f then BitVec.ofNat 32 src else c.get src
      let new := match csrValue f src old a with | some v => csrWrite c.fcsr n v | none => c.fcsr
      ∃ t, Machine.exec (.executeInstruction dt p) s = .next t ∧
        CoreLeft s t p { { c with fcsr := new }.set rd (BitVec.ofNat 32 old) with pc := x.next }) ∧
    (∀ op rd rs1 rs2 rs3 rm, x.instr = .fp op rd rs1 rs2 rs3 rm →
      let mode := if rm = 7 then csrRead c.fcsr 2 else rm
      let r := f32Run op mode (c.getF rs1) (c.getF rs2) (c.getF rs3) (c.get rs1)
      let d := { c with fcsr := c.fcsr ||| r.2 }
      op.rounds = false ∨ mode ≤ 4 → ∃ t, Machine.exec (.executeInstruction dt p) s = .next t ∧
        CoreLeft s t p { (if op.toX then d.set rd r.1 else d.setFr rd r.1) with pc := x.next }) ∧
    (x.instr = .fence → ∃ t, Machine.exec (.fence dt p) s = .next t ∧
      CoreLeft s t p (if (s.flow p).stores = [] then { c with pc := x.next } else c)) ∧
    (x.instr = .fenceI → ∃ t, Machine.exec (.fenceI dt p) s = .next t ∧
      CoreLeft s t p (if (s.flow p).stores = [] then { c with pc := x.next } else c))

/-- R209, R211, R212, R232 to R234: a load is issued to its address, or takes forwarded data; its data completes it; a store enters the
buffer; the oldest store reaches memory, or its target refuses it, and the refusal is taken as vector 9. Where the manual leaves a choice,
this follows the model's: log entry 97. -/
def Obligations.LoadsAndStores : Prop :=
  ∀ (dt : Nat) (p : Fin 7) (s : State),
    let c := s.core p
    let q := s.flow p
    (∀ (x : Fetched) (f rd rs1 : Nat) (off : Word), Standing s p x → x.instr = .load f rd rs1 off →
      let va := c.get rs1 + off
      let n := accessSize f
      let sys := s.localToSystem p va.toNat
      let l : PendLoad := { addr := sys, va := va, size := n, signed := decide (f < 4), float := false, rd := rd, world := c.world,
                            sup := c.sup, next := x.next }
      va.toNat % n = 0 → s.levelMay p UREG_PIT_CFG.R va.toNat n = true → (∃ y, s.route sys = .device y) →
      (q.stores = [] → ∃ t, Machine.exec (.coreLoad dt p) s = .next t ∧ CoreLeft s t p c ∧ (t.flow p).load = some l) ∧
      (∀ b : BufStore, q.stores = [b] → forwardable sys = true → b.addr ≤ sys → sys + n ≤ b.addr + b.size →
        ∃ t, Machine.exec (.coreLoad dt p) s = .next t ∧ CoreLeft s t p c ∧
          (t.flow p).load = some { l with data := some (pick (b.data >>> (8 * (sys - b.addr))) 0 n) })) ∧
    (∀ l : PendLoad, c.running = true → s.depStopped p = false → q.load = some l → l.err = false → l.tag = none → NoneAhead s p →
      l.frame = false → l.vector = false →
      let done := fun (w : Word) => ∃ t, Machine.exec (.loadDataReturn dt p) s = .next t ∧ (t.flow p).load = none ∧
        CoreLeft s t p { (if l.float then c.setFr l.rd w else c.set l.rd (extend w l.size l.signed)) with pc := l.next }
      (∀ w, l.data = some w → done w) ∧
      (l.data = none → l.size = 4 → l.addr % 4 = 0 → InRam l.addr 4 → s.ecc = [] → done (s.word l.addr))) ∧
    (∀ l : PendLoad, c.running = true → s.depStopped p = false → q.load = some l → l.err = true → l.vector = false →
      EntryReady s p c.world 3 →
      ∃ t, Machine.exec (.loadDataReturn dt p) s = .next t ∧ (t.flow p).load = none ∧
        Entered s t p { vec := 3, cause := 3, tval := l.va, world := c.world, cpl := none, epc := c.pc } ∧
        (t.flow p).cp = q.cp.map (fun o => if o.ahead.isSome then { o with ahead := none, squashed := true } else o)) ∧
    (∀ l : PendLoad, c.running = true → s.depStopped p = false → q.load = some l → l.tag = none → l.frame = false → l.vector = true →
      let goesTo := fun (a : Word) => ∃ t, Machine.exec (.loadDataReturn dt p) s = .next t ∧ (t.flow p).load = none ∧
        CoreLeft s t p { c with pc := a }
      (∀ w, l.data = some w → l.err = false → goesTo (w &&& ~~~1)) ∧ (l.err = true → ∃ a, goesTo a)) ∧
    (∀ (x : Fetched) (f rs1 rs2 : Nat) (off : Word), Standing s p x → x.instr = .store f rs1 rs2 off →
      let va := c.get rs1 + off
      let n := accessSize f
      let sys := s.localToSystem p va.toNat
      va.toNat % n = 0 → s.levelMay p UREG_PIT_CFG.W va.toNat n = true → s.route sys ≠ .unmapped →
      (c.sup = true ∨ supervisorOnly sys = false) → q.stores.length < bufferSize p →
      ∃ t, Machine.exec (.coreStore dt p) s = .next t ∧ CoreLeft s t p { c with pc := x.next } ∧
        (t.flow p).stores = q.stores ++
          [{ addr := sys, va := va, size := n, data := pick (c.get rs2) 0 n, world := c.world, sup := c.sup }]) ∧
    (∀ (b : BufStore) (rest : List BufStore), q.stores = b :: rest → b.tag = none → s.depStopped p = false →
      (b.size = 1 ∨ b.size = 2 ∨ b.size = 4 → b.addr % b.size = 0 → InRam b.addr b.size → s.ecc = [] →
        ∃ t, Machine.exec (.storeBufferDrain dt p) s = .next t ∧ (t.flow p).stores = rest ∧ (∀ j, t.core j = s.core j) ∧
          BytesWritten s t b.addr ((bytesOf b.data).take b.size) ∧ RegsBut (· = R.MI_INJ_CTL) s t) ∧
      (0x24000000 ≤ b.addr → b.addr < 0x24800000 →
        ∃ t, Machine.exec (.storeBufferDrain dt p) s = .next t ∧ (t.flow p).stores = rest ∧ (t.flow p).storeErr ≠ none ∧
          SameBytes s t ∧ RegsBut (fun _ => False) s t)) ∧
    (∀ a : Word, q.storeErr = some a → (s.setFlow p { q with storeErr := none }).atBoundary p = true → EntryReady s p c.world 9 →
      ∃ t, Machine.exec (.storeError dt p) s = .next t ∧ (t.flow p).storeErr = none ∧
        Entered s t p { vec := 9, cause := 0x80000009, tval := a, world := c.world, cpl := none, epc := c.pc })

/-- R224 to R231: a synchronous exception pushes its frame onto the Supervisor stack of its world and continues at its handler; a push that
fails is the stack fault, which saves the same words in the shadow bank and uses no stack; while EMG is 1 exceptions push onto ESP and
count ENEST; a push that fails then is a lock-up, which resets the core; while a coprocessor instruction before it runs the exception
waits (R225). R224, R226, R251: at an instruction boundary a core takes the
interrupt offered to it: the frame goes to the stack of the source's world, the priority state becomes one more than the source's
priority, and the source is active. Where the manual leaves a choice, this follows the model's: log entry 97. -/
def Obligations.ExceptionAndInterruptEntry : Prop :=
  (∀ (dt : Nat) (p : Fin 7) (s : State) (i : Instr) (v : Nat) (tval : Word), Raises dt s p i v tval → s.ecc = [] → (s.flow p).stores = [] →
     let c := s.core p
     let x : Exc := { vec := v, cause := BitVec.ofNat 32 v, tval := tval, world := c.world, cpl := none, epc := c.pc }
     let sp := c.supSp c.world
     let room := (s.flow p).coprocAhead = false ∧ s.io.outbound.length ≤ 24
     ((s.flow p).coprocAhead = true → ∃ t, Machine.exec i s = .next t ∧ (∀ j, t.core j = s.core j) ∧ SameBytes s t ∧
       RegsBut (fun _ => False) s t) ∧
     (EntryReady s p c.world v → ∃ t, Machine.exec i s = .next t ∧ Entered s t p x ∧ RegsBut (· = R.MI_INJ_CTL) s t) ∧
     (room → c.emg = false → (sp.toNat % 4 ≠ 0 ∨ (sp - 32).toNat < (s.stackLimit p c.world).toNat) → HandlerAt s p .pit 8 0 →
       ∃ t, Machine.exec i s = .next t ∧ SameBytes s t ∧ (∀ j, j ≠ p.val → t.core j = s.core j) ∧
         t.core p = { c with emg := true, enest := 0, pc := handlerOf s p .pit 8, world := .pit, sup := true } ∧
         (∀ k, k < 8 → t.reg (R.SHF p k) = (frameOf c x).getD k 0) ∧ t.reg (R.SHF p 8) = sp ∧
         t.reg (R.SHF p 9) = BitVec.ofNat 32 (2 * c.world.bit + 1) ∧ t.reg (R.SHF p 10) = sp - 32 ∧
         RegsBut (fun r => ∃ k, k < 11 ∧ r = R.SHF p k) s t) ∧
     (room → c.emg = true → c.world = .pit → c.enest < 255 → PushFits p c.esp (s.reg (R.ESLIM p)) → HandlerAt s p .pit v c.esp →
       ∃ t, Machine.exec i s = .next t ∧ (∀ j, j ≠ p.val → t.core j = s.core j) ∧
         t.core p = { c with esp := c.esp - 32, enest := c.enest + 1, pc := handlerOf s p .pit v, world := .pit, sup := true } ∧
         BytesWritten s t (s.localToSystem p (c.esp.toNat - 32)) ((frameOf c x).flatMap bytesOf) ∧ RegsBut (· = R.MI_INJ_CTL) s t) ∧
     (room → c.emg = true → c.world = .pit → (c.esp.toNat % 4 ≠ 0 ∨ (c.esp - 32).toNat < (s.reg (R.ESLIM p)).toNat) →
       ∃ t, Machine.exec i s = .next t ∧ (t.core p).running = false ∧ (t.core p).emg = false ∧
         ((t.core p).starting = false ↔ p.val < 4 ∧ s.fld R.TS_FAILED_UNIT TS_FAILED_UNIT.HEWER / 2 ^ p.val % 2 = 1) ∧
         t.fld R.RST_CORE_CAUSE (coreCauseField p) = 1 ∧ (∀ j, j ≠ p.val → t.core j = s.core j) ∧ SameBytes s t)) ∧
  (∀ (dt : Nat) (p : Fin 7) (i q : Nat) (s : State), s.atBoundary p = true → s.agreed p = true → s.deliverable p = some (i, q) →
     let w := World.ofBit (s.fld (R.SRC_CFG i) SRC_CFG.WORLD)
     EntryReady s p w (16 + q) →
     ∃ t, Machine.exec (.interruptEntry dt p) s = .next t ∧
       Entered s t p { vec := 16 + q, cause := BitVec.ofNat 32 (16 + q + 65536 * i), tval := 0, world := w, cpl := some (q + 1),
                       epc := (s.core p).pc } ∧
       (t.flow p).cp = (s.flow p).cp.map (fun o => if o.ahead.isSome then { o with ahead := none, squashed := true } else o) ∧
       (t.src i).active = true ∧ (t.src i).taker = p ∧ (t.src i).pending = false ∧ (∀ j, j ≠ i → t.src j = s.src j) ∧
       RegsBut (fun k => k = R.MI_INJ_CTL ∨ k = R.TGT_STAT p) s t)

/-- R213, R220, R221, R228, R230: the fast paths and the returns: what each writes into or takes from its return register, and the world,
level and address the core continues in; ERTN takes back what the frame or the shadow bank holds; EBREAK halts while debug halting is
enabled; WAIT suspends, and once a request for PARK is accepted stops the core for it. R213, R235, R376, R377, R382: QUIESCE of a Hewer
that qualifies is held for a withdrawal, begins a slice, or swaps the instruction banks, which exchange places while the core goes on at
HW_RESUME with rd = 1; else it writes 0 to rd. Where the manual leaves a choice, this follows the model's: log entries 88, 97. -/
def Obligations.CallsReturnsAndQuiesce : Prop :=
  (∀ (dt : Nat) (p : Fin 7) (s : State) (x : Fetched), Standing s p x →
     let c := s.core p
     let held := fun (k : Nat) (t : State) => SRET_PIT.VALID.get (t.reg k) = 1 ∧ SRET_PIT.PC.get (t.reg k) = x.next.toNat / 2 % 2 ^ 19 ∧
       SRET_PIT.WL.get (t.reg k) = c.sup.toNat ∧ RegsBut (· = k) s t
     let left := fun (t : State) (d : Core) => t.core p = d ∧ (∀ j, j ≠ p.val → t.core j = s.core j) ∧ SameBytes s t
     let addr := fun (e : Word) => BitVec.ofNat 32 (4 * ENTRY_PIT.ADDR.get e)
     let back := fun (k : Nat) => BitVec.ofNat 32 (2 * SRET_PIT.PC.get (s.reg k))
     let level := fun (k : Nat) => SRET_PIT.WL.get (s.reg k) == 1
     (let k := sretKey p c.world
      let e := s.reg (sysentKey p c.world)
      (x.instr = .ecall → SYSENT_PIT.EN.get e = 1 → SRET_PIT.VALID.get (s.reg k) = 0 → ∃ t, Machine.exec (.ecall dt p) s = .next t ∧
        held k t ∧ left t { c with pc := addr e, sup := true }) ∧
      (x.instr = .srtn → SRET_PIT.VALID.get (s.reg k) = 1 → (c.emg = false ∨ level k = true) → ∃ t,
        Machine.exec (.srtn dt p) s = .next t ∧ SRET_PIT.VALID.get (t.reg k) = 0 ∧ RegsBut (· = k) s t ∧
        left t { c with pc := back k, sup := level k })) ∧
     (∀ i : Nat, let k := xretKey p c.world.other
      let e := s.reg (entryKey p i c.world.other)
      x.instr = .xcall i → ENTRY_PIT.EN.get e = 1 → XRET_PIT.VALID.get (s.reg k) = 0 → (c.sup = true ∨ ENTRY_PIT.UCALL.get e = 1) →
      c.emg = false → ∃ t, Machine.exec (.xcall dt p) s = .next t ∧ held k t ∧
        left t { c with pc := addr e, world := c.world.other, sup := true }) ∧
     (let k := xretKey p c.world
      x.instr = .xrtn → XRET_PIT.VALID.get (s.reg k) = 1 → c.emg = false → ∃ t, Machine.exec (.xrtn dt p) s = .next t ∧
        XRET_PIT.VALID.get (t.reg k) = 0 ∧ RegsBut (· = k) s t ∧ left t { c with pc := back k, world := c.world.other, sup := level k }) ∧
     (let restored := fun (d : Core) (f : Nat → Word) (w : World) (up : Bool) =>
        ((({ d with pc := f 0 &&& ~~~1, cpl := (f 1).toNat % 32, world := w, sup := up }.set 1 (f 4)).set 5 (f 5)).set 10 (f 6)).set 11 (f 7)
      x.instr = .ertn → c.sup = true →
      (let f := fun (n : Nat) => s.word (s.localToSystem p c.sp.toNat + 4 * n)
       c.emg = false → c.sp.toNat % 4 = 0 → DataAt p c.sp.toNat 32 → (s.flow p).stores = [] → ∃ t, Machine.exec (.ertn dt p) s = .next t ∧
         RegsBut (fun _ => False) s t ∧
         left t (restored (c.setSp (c.sp + 32)) f (World.ofBit ((f 1).toNat / 256 % 2)) ((f 1).toNat / 512 % 2 == 1))) ∧
      (let f := fun (n : Nat) => s.reg (R.SHF p n)
       c.emg = true → c.enest = 0 → ∃ t, Machine.exec (.ertn dt p) s = .next t ∧ RegsBut (fun _ => False) s t ∧
         left t (restored { c with emg := false } f (World.ofBit ((f 1).toNat / 256 % 2)) ((f 1).toNat / 512 % 2 == 1)))) ∧
     (x.instr = .ebreak → s.flag R.TS_SEC TS_SEC.DBG = true → ∃ t, Machine.exec (.ebreak dt p) s = .next t ∧ CoreLeft s t p c ∧
       (t.flow p).halted = true) ∧
     (x.instr = .wait → ∃ t, Machine.exec (.wait dt p) s = .next t ∧ CoreLeft s t p { c with pc := x.next } ∧
       (if s.md.parkReq.isSome then (t.flow p).parked = true else (t.flow p).waiting = true))) ∧
  (∀ (dt : Nat) (p : Fin 7) (s : State) (x : Fetched) (rd : Nat), Standing s p x → x.instr = .quiesce rd →
     let c := s.core p
     let k := R.HW_BANK p
     let a := privBase p
     let quiet := p.val < 4 ∧ c.sup = true ∧ c.cpl = 0 ∧ c.emg = false ∧
       ∀ r, r ∈ [R.SRET_PIT p, R.SRET_BANK p, R.XRET_PIT p, R.XRET_BANK p] → SRET_PIT.VALID.get (s.reg r) = 0
     let plain := ∃ t, Machine.exec (.quiesce dt p) s = .next t ∧ CoreLeft s t p { c.set rd 0 with pc := x.next }
     (p.val < 4 → ¬ quiet → plain) ∧ (4 ≤ p.val → s.sliceAt p = none → plain) ∧
     (quiet → AMap.get false s.ts.heldWait p = true → ∃ t, Machine.exec (.quiesce dt p) s = .next t ∧ t.core p = { c with pc := x.next } ∧
       (t.flow p).held = some rd ∧ AMap.get false t.ts.heldWait p = false ∧ t.fieldBit R.TS_WD_UNIT TS_WD_UNIT.HEWER p = true ∧
       RegsBut (· = R.TS_WD_UNIT) s t ∧ SameBytes s t) ∧
     (∀ z : Slice, quiet → AMap.get false s.ts.heldWait p = false → s.sliceAt p = some z → ∃ t, Machine.exec (.quiesce dt p) s = .next t ∧
       CoreLeft s t p { c with pc := x.next } ∧ (t.flow p).held = some rd ∧
       { z with stage := 2, begun := some (s.advance dt).now } ∈ t.ts.slices) ∧
     (quiet → AMap.get false s.ts.heldWait p = false → s.sliceAt p = none →
       if s.flag k HW_BANK.ARM = true ∧ s.flag k HW_BANK.VERIFIED = true then
         ∃ t, Machine.exec (.quiesce dt p) s = .next t ∧ t.flag k HW_BANK.ARM = false ∧ t.flag k HW_BANK.VERIFIED = false ∧
           t.flag k HW_BANK.ACTIVE = !s.flag k HW_BANK.ACTIVE ∧ t.fld k HW_BANK.SWAPS = (s.fld k HW_BANK.SWAPS + 1) % 256 ∧
           RegsBut (· = k) s t ∧
           t.core p = { c.set rd 1 with pc := BitVec.ofNat 32 (2 * HW_RESUME.ADDR.get (s.reg (R.HW_RESUME p))) } ∧
           (∀ y, t.byte y = if a ≤ y ∧ y < a + 0x20000 then s.byte (y + 0x20000)
             else if a + 0x20000 ≤ y ∧ y < a + 0x40000 then s.byte (y - 0x20000) else s.byte y)
       else plain))

/-- R214 to R216: a coprocessor instruction of a Hewer begins, while none runs, and the core goes on; behind a branch it may begin on either
path, ahead of the branch, and goes on where the branch goes that way and is squashed where it does not; when it finishes its results are in its
F registers: canonical NaN for an input that is a NaN, the stated values at infinities and zeros; a squashed one changes no register.
Without a coprocessor it is illegal. Where the manual leaves a choice, this follows the model's: log entry 98. -/
def Obligations.Coprocessor : Prop :=
  ∀ (dt : Nat) (p : Fin 7) (s : State),
    let c := s.core p
    (∀ (i : Instr) (op rd rs1 rs2 : Nat) (x : Fetched), CoprocCommand dt p i op → Standing s p x → x.instr = .cp op rd rs1 rs2 →
      (p.val < 4 → (s.flow p).cp = none → ∃ t, Machine.exec i s = .next t ∧ CoreLeft s t p { c with pc := x.next } ∧
        (t.flow p).cp = some { op := op, fd := rd, ins := c.coprocIns op rs1 rs2 }) ∧
      (p.val < 4 → (s.flow p).cp ≠ none → ∃ t, Machine.exec i s = .next t ∧ CoreLeft s t p c ∧ (t.flow p).cp = (s.flow p).cp) ∧
      (4 ≤ p.val → EntryReady s p c.world 1 → ∃ t, Machine.exec i s = .next t ∧
        Entered s t p { vec := 1, cause := 1, tval := x.bits, world := c.world, cpl := none, epc := c.pc })) ∧
    (∀ (i : Instr) (op f rs1 rs2 : Nat) (off : Word) (x : Fetched), CoprocCommand dt p i op → Standing s p x →
      x.instr = .branch f rs1 rs2 off → p.val < 4 → (s.flow p).cp = none → ∃ t, Machine.exec i s = .next t ∧ CoreLeft s t p c ∧
        ∀ o, (t.flow p).cp = some o →
          o.op = op ∧ o.squashed = false ∧ (o.ahead = some (c.pc + off + 4) ∨ o.ahead = some (x.next + 4))) ∧
    (∀ (o : CoprocOp) (a : Word) (f rs1 rs2 : Nat) (off : Word) (x : Fetched), MayRun s p x → x.instr = .branch f rs1 rs2 off →
      (s.flow p).cp = some o → o.ahead = some a →
      let next := if branchTaken f (c.get rs1) (c.get rs2) then c.pc + off else x.next
      let met := decide (a = next + 4) && !(s.flow p).stepping
      ∃ t, Machine.exec (.executeInstruction dt p) s = .next t ∧ CoreLeft s t p { c with pc := if met then a else next } ∧
        (t.flow p).cp = some { o with ahead := none, squashed := o.squashed || !met }) ∧
    (∀ o : CoprocOp, (s.flow p).cp = some o → o.ahead = none → o.op < 8 →
      ∃ t, Machine.exec (.cpResult dt p) s = .next t ∧ (t.flow p).cp = none ∧ RegsBut (fun _ => False) s t ∧
        (∀ r, (t.core p).get r = c.get r) ∧ (t.core p).pc = c.pc ∧
        (if o.squashed then t.core p = c
         else (∀ r, r < o.fd ∨ o.fd + (cpShape o.op).2.2 ≤ r → (t.core p).getF r = c.getF r) ∧
           (∀ j, j < (cpShape o.op).2.2 → (o.ins.any (fun w => (Fp.of w).isNan)) = true → (t.core p).getF (o.fd + j) = 0x7FC00000) ∧
           (∀ a, o.ins = [a] → Fp.of a = .inf false ∨ Fp.of a = .inf true → o.op = 0 →
             (t.core p).getF o.fd = 0x7FC00000 ∧ (t.core p).getF (o.fd + 1) = 0x7FC00000 ∧ (t.core p).fcsr = c.fcsr ||| 16) ∧
           (o.ins = [0x80000000] → o.op = 2 → (t.core p).getF o.fd = 0x80000000 ∧ (t.core p).fcsr = c.fcsr) ∧
           (o.ins = [0x80000000] → o.op = 3 → (t.core p).getF o.fd = 0xFF800000 ∧ (t.core p).fcsr = c.fcsr ||| 8) ∧
           (o.ins = [0, 0] → o.op = 1 → (t.core p).getF o.fd = 0)))
end

