-- ==== Sys2Proof/Laws/AMap.lean ====
section
/-! SUPPORT. Laws of sparse data by key: what is read after a write, the canonical form, and the same for the register file
and the bit fields of a word. -/

namespace Sys2Proof

/-! ## Reading after writing -/

theorem AMap.get_insert_same {α : Type} (d : α) (m : AMap α) (k : Nat) (v : α) :
    AMap.get d (AMap.insert (m.without k) k v) k = v := by
  induction m with
  | nil => simp [AMap.without, AMap.insert, AMap.get]
  | cons e m ih =>
    obtain ⟨j, x⟩ := e
    by_cases h : j = k
    · simpa [AMap.without, h] using ih
    · have h' : ¬ k = j := fun x => h x.symm
      have hf : AMap.without ((j, x) :: m) k = (j, x) :: AMap.without m k := by simp [AMap.without, h]
      rw [hf, AMap.insert]
      split
      · simp [AMap.get]
      · simp [AMap.get, h', ih]

theorem AMap.get_insert_ne {α : Type} (d : α) (m : AMap α) (k j : Nat) (v : α) (h : j ≠ k) :
    AMap.get d (AMap.insert m k v) j = AMap.get d m j := by
  induction m with
  | nil => simp [AMap.insert, AMap.get, h]
  | cons e m ih =>
    obtain ⟨i, x⟩ := e
    simp only [AMap.insert]
    split
    · simp [AMap.get, h]
    · simp [AMap.get, ih]

theorem AMap.get_without_same {α : Type} (d : α) (m : AMap α) (k : Nat) : AMap.get d (m.without k) k = d := by
  induction m with
  | nil => rfl
  | cons e m ih =>
    obtain ⟨i, x⟩ := e
    by_cases h : i = k
    · simpa [AMap.without, h] using ih
    · have h' : ¬ k = i := fun x => h x.symm
      have hf : AMap.without ((i, x) :: m) k = (i, x) :: AMap.without m k := by simp [AMap.without, h]
      simp [hf, AMap.get, h', ih]

theorem AMap.get_without_ne {α : Type} (d : α) (m : AMap α) (k j : Nat) (hj : j ≠ k) :
    AMap.get d (m.without k) j = AMap.get d m j := by
  induction m with
  | nil => rfl
  | cons e m ih =>
    obtain ⟨i, x⟩ := e
    by_cases h : i = k
    · subst h
      have hf : AMap.without ((i, x) :: m) i = AMap.without m i := by simp [AMap.without]
      simp [hf, AMap.get, hj, ih]
    · have hf : AMap.without ((i, x) :: m) k = (i, x) :: AMap.without m k := by simp [AMap.without, h]
      simp [hf, AMap.get, ih]

/-- What is read after a write: the value written at its key, everything else as before. -/
theorem AMap.get_set {α : Type} [DecidableEq α] (d : α) (m : AMap α) (k j : Nat) (v : α) :
    AMap.get d (AMap.set d m k v) j = if j = k then v else AMap.get d m j := by
  unfold AMap.set
  by_cases hj : j = k
  · subst hj
    split
    · simp [AMap.get_without_same, *]
    · simp [AMap.get_insert_same]
  · split
    · simp [hj, AMap.get_without_ne]
    · simp [hj, AMap.get_insert_ne, AMap.get_without_ne]

@[simp] theorem AMap.get_set_same {α : Type} [DecidableEq α] (d : α) (m : AMap α) (k : Nat) (v : α) :
    AMap.get d (AMap.set d m k v) k = v := by simp [AMap.get_set]

theorem AMap.get_set_ne {α : Type} [DecidableEq α] (d : α) (m : AMap α) (k j : Nat) (v : α) (h : j ≠ k) :
    AMap.get d (AMap.set d m k v) j = AMap.get d m j := by simp [AMap.get_set, h]

@[simp] theorem AMap.get_nil {α : Type} (d : α) (k : Nat) : AMap.get d ([] : AMap α) k = d := rfl

/-- Two writes at one key leave the later one. -/
theorem AMap.get_upd {α : Type} [DecidableEq α] (d : α) (m : AMap α) (k j : Nat) (f : α → α) :
    AMap.get d (AMap.upd d m k f) j = if j = k then f (AMap.get d m k) else AMap.get d m j := by
  simp [AMap.upd, AMap.get_set]

/-! ## The canonical form -/

theorem AMap.wfFrom_mono {α : Type} [DecidableEq α] (d : α) (m : AMap α) (lo lo' : Nat) (h : lo ≤ lo')
    (w : AMap.wfFrom d lo' m = true) : AMap.wfFrom d lo m = true := by
  cases m with
  | nil => rfl
  | cons e m =>
    simp only [AMap.wfFrom, Bool.and_eq_true, decide_eq_true_eq] at w ⊢
    exact ⟨⟨Nat.le_trans h w.1.1, w.1.2⟩, w.2⟩

theorem AMap.wfFrom_filter {α : Type} [DecidableEq α] (d : α) (p : Nat × α → Bool) (m : AMap α) (lo : Nat)
    (w : AMap.wfFrom d lo m = true) : AMap.wfFrom d lo (m.filter p) = true := by
  induction m generalizing lo with
  | nil => rfl
  | cons e m ih =>
    obtain ⟨i, x⟩ := e
    simp only [AMap.wfFrom, Bool.and_eq_true, decide_eq_true_eq] at w
    simp only [List.filter]
    split
    · simp [AMap.wfFrom, w.1.1, w.1.2, ih _ w.2]
    · exact ih lo (AMap.wfFrom_mono d m lo (i + 1) (by omega) w.2)

theorem AMap.wfFrom_insert {α : Type} [DecidableEq α] (d : α) (k : Nat) (v : α) (hv : v ≠ d) (m : AMap α) (lo : Nat)
    (hlo : lo ≤ k) (w : AMap.wfFrom d lo m = true) (hk : ∀ e ∈ m, e.1 ≠ k) : AMap.wfFrom d lo (AMap.insert m k v) = true := by
  induction m generalizing lo with
  | nil => simp [AMap.insert, AMap.wfFrom, hlo, hv]
  | cons e m ih =>
    obtain ⟨i, x⟩ := e
    have hi : i ≠ k := hk (i, x) (by simp)
    simp only [AMap.wfFrom, Bool.and_eq_true, decide_eq_true_eq] at w
    simp only [AMap.insert]
    split
    · rename_i h
      have h1 : k + 1 ≤ i := h
      simp [AMap.wfFrom, hlo, hv, w.1.2, w.2, h1]
    · have h2 : i + 1 ≤ k := by omega
      simp [AMap.wfFrom, w.1.1, w.1.2, ih (i + 1) h2 w.2 (fun e he => hk e (by simp [he]))]

/-- A write keeps the canonical form. -/
theorem AMap.wf_set {α : Type} [DecidableEq α] (d : α) (m : AMap α) (k : Nat) (v : α) (w : AMap.wf d m = true) :
    AMap.wf d (AMap.set d m k v) = true := by
  unfold AMap.set AMap.without
  have hw : AMap.wfFrom d 0 (m.filter (fun e => e.1 != k)) = true := AMap.wfFrom_filter d _ m 0 w
  split
  · exact hw
  · rename_i hv
    exact AMap.wfFrom_insert d k v hv _ 0 (Nat.zero_le _) hw (by simp)

@[simp] theorem AMap.wf_nil {α : Type} [DecidableEq α] (d : α) : AMap.wf d ([] : AMap α) = true := rfl

/-- Leaving entries out keeps the canonical form. -/
theorem AMap.wf_filter {α : Type} [DecidableEq α] (d : α) (p : Nat × α → Bool) (m : AMap α) (w : AMap.wf d m = true) :
    AMap.wf d (m.filter p) = true := AMap.wfFrom_filter d p m 0 w

theorem AMap.wfFrom_iff {α : Type} [DecidableEq α] (d : α) (m : AMap α) (lo : Nat) :
    AMap.wfFrom d lo m = true ↔ (∀ e ∈ m, lo ≤ e.1 ∧ e.2 ≠ d) ∧ m.Pairwise (fun a b => a.1 < b.1) := by
  induction m generalizing lo with
  | nil => simp [AMap.wfFrom]
  | cons e m ih =>
    obtain ⟨k, v⟩ := e
    simp only [AMap.wfFrom, Bool.and_eq_true, decide_eq_true_eq, ih, List.mem_cons, List.pairwise_cons]
    constructor
    · rintro ⟨⟨h1, h2⟩, h3, h4⟩
      refine ⟨?_, fun b hb => (h3 b hb).1, h4⟩
      rintro x (rfl | hx)
      · exact ⟨h1, h2⟩
      · exact ⟨by have := (h3 x hx).1; omega, (h3 x hx).2⟩
    · rintro ⟨h1, h2, h3⟩
      refine ⟨h1 _ (.inl rfl), fun x hx => ⟨h2 x hx, (h1 x (.inr hx)).2⟩, h3⟩

/-- The canonical form: no entry holds the default, and keys rise strictly. -/
theorem AMap.wf_iff {α : Type} [DecidableEq α] (d : α) (m : AMap α) :
    AMap.wf d m = true ↔ (∀ e ∈ m, e.2 ≠ d) ∧ m.Pairwise (fun a b => a.1 < b.1) := by
  simp [AMap.wf, AMap.wfFrom_iff]

/-! ## The register file -/

theorem RegFile.get_eq (m : RegFile) (k : Nat) : m.get k = AMap.get (regReset k) m k := by
  induction m with
  | nil => rfl
  | cons e m ih =>
    obtain ⟨i, x⟩ := e
    simp only [RegFile.get, AMap.get, ih]

/-- What is read after a register is written. -/
theorem RegFile.get_set (m : RegFile) (k j : Nat) (v : Word) : (m.set k v).get j = if j = k then v else m.get j := by
  rw [RegFile.get_eq, RegFile.get_eq]
  unfold RegFile.set
  by_cases hj : j = k
  · subst hj
    split
    · simp [AMap.get_without_same, *]
    · simp [AMap.get_insert_same]
  · split
    · simp [hj, AMap.get_without_ne]
    · simp [hj, AMap.get_insert_ne, AMap.get_without_ne]

/-! ## Fields of a word -/

/-- A bit of the place of a field. -/
theorem Fld.getLsbD_place (f : Fld) (v i : Nat) :
    (f.place v).testBit i = (decide (f.lo ≤ i) && decide (i - f.lo < f.width) && v.testBit (i - f.lo)) := by
  simp only [Fld.place, Nat.testBit_shiftLeft, Nat.testBit_mod_two_pow]
  by_cases h : f.lo ≤ i <;> simp [h]

/-- A bit of the mask of a field. -/
theorem Fld.getLsbD_mask (f : Fld) (i : Nat) (hi : i < 32) :
    f.mask.getLsbD i = (decide (f.lo ≤ i) && decide (i - f.lo < f.width)) := by
  simp only [Fld.mask, BitVec.getLsbD_ofNat, hi, decide_true, Bool.true_and, Fld.getLsbD_place, Nat.testBit_two_pow_sub_one]
  by_cases h : f.lo ≤ i <;> by_cases h' : i - f.lo < f.width <;> simp [h, h']

/-- A bit of a word with a field put: the field's own bits come from the value, the others stay. -/
theorem Fld.getLsbD_put (f : Fld) (w : Word) (v i : Nat) (hi : i < 32) :
    (f.put w v).getLsbD i = if f.lo ≤ i ∧ i - f.lo < f.width then v.testBit (i - f.lo) else w.getLsbD i := by
  simp only [Fld.put, BitVec.getLsbD_or, BitVec.getLsbD_and, BitVec.getLsbD_not, hi, decide_true, Bool.true_and,
    Fld.getLsbD_mask, BitVec.getLsbD_ofNat, Fld.getLsbD_place]
  by_cases h : f.lo ≤ i <;> by_cases h' : i - f.lo < f.width <;> simp [h, h']

theorem Fld.get_testBit (f : Fld) (w : Word) (i : Nat) :
    (f.get w).testBit i = (decide (i < f.width) && w.getLsbD (f.lo + i)) := by
  simp [Fld.get, Nat.testBit_mod_two_pow, Nat.testBit_shiftRight, BitVec.getLsbD]

/-- A field reads as the value put into it, cut to its width. -/
theorem Fld.get_put_same (f : Fld) (w : Word) (v : Nat) (h : f.lo + f.width ≤ 32) : f.get (f.put w v) = v % 2 ^ f.width := by
  apply Nat.eq_of_testBit_eq
  intro i
  rw [Fld.get_testBit, Nat.testBit_mod_two_pow]
  by_cases hi : i < f.width
  · rw [Fld.getLsbD_put f w v (f.lo + i) (by omega)]
    simp [hi]
  · simp [hi]

/-- A field that does not share a bit with the one put reads as before. -/
theorem Fld.get_put_apart (f g : Fld) (w : Word) (v : Nat) (hg : g.lo + g.width ≤ 32)
    (h : g.lo + g.width ≤ f.lo ∨ f.lo + f.width ≤ g.lo) : g.get (f.put w v) = g.get w := by
  apply Nat.eq_of_testBit_eq
  intro i
  rw [Fld.get_testBit, Fld.get_testBit]
  by_cases hi : i < g.width
  · rw [Fld.getLsbD_put f w v (g.lo + i) (by omega)]
    have : ¬ (f.lo ≤ g.lo + i ∧ g.lo + i - f.lo < f.width) := by omega
    simp [this]
  · simp [hi]

/-- A field reads all ones after its mask has been set. -/
theorem Fld.get_or_mask (f : Fld) (w : Word) (h : f.lo + f.width ≤ 32) : f.get (w ||| f.mask) = 2 ^ f.width - 1 := by
  apply Nat.eq_of_testBit_eq
  intro i
  rw [Fld.get_testBit, Nat.testBit_two_pow_sub_one]
  by_cases hi : i < f.width
  · simp [hi, BitVec.getLsbD_or, Fld.getLsbD_mask f (f.lo + i) (by omega)]
  · simp [hi]

/-- A field that does not share a bit with the mask set reads as before. -/
theorem Fld.get_or_mask_apart (f g : Fld) (w : Word) (hg : g.lo + g.width ≤ 32)
    (h : g.lo + g.width ≤ f.lo ∨ f.lo + f.width ≤ g.lo) : g.get (w ||| f.mask) = g.get w := by
  apply Nat.eq_of_testBit_eq
  intro i
  rw [Fld.get_testBit, Fld.get_testBit]
  by_cases hi : i < g.width
  · have h1 : f.mask.getLsbD (g.lo + i) = false := by
      rw [Fld.getLsbD_mask f (g.lo + i) (by omega)]
      by_cases ha : f.lo ≤ g.lo + i
      · have : ¬ (g.lo + i - f.lo < f.width) := by omega
        simp [this]
      · simp [ha]
    simp [hi, BitVec.getLsbD_or, h1]
  · simp [hi]

/-- A field reads zero after its mask has been cleared. -/
theorem Fld.get_and_not_mask (f : Fld) (w : Word) (h : f.lo + f.width ≤ 32) : f.get (w &&& ~~~f.mask) = 0 := by
  apply Nat.eq_of_testBit_eq
  intro i
  rw [Fld.get_testBit]
  by_cases hi : i < f.width
  · have h1 : f.mask.getLsbD (f.lo + i) = true := by rw [Fld.getLsbD_mask f (f.lo + i) (by omega)]; simp [hi]
    simp [hi, BitVec.getLsbD_and, BitVec.getLsbD_not, h1]
  · simp [hi]

/-- A field that does not share a bit with the mask cleared reads as before. -/
theorem Fld.get_and_not_mask_apart (f g : Fld) (w : Word) (hg : g.lo + g.width ≤ 32)
    (h : g.lo + g.width ≤ f.lo ∨ f.lo + f.width ≤ g.lo) : g.get (w &&& ~~~f.mask) = g.get w := by
  apply Nat.eq_of_testBit_eq
  intro i
  rw [Fld.get_testBit, Fld.get_testBit]
  by_cases hi : i < g.width
  · have h1 : f.mask.getLsbD (g.lo + i) = false := by
      rw [Fld.getLsbD_mask f (g.lo + i) (by omega)]
      by_cases ha : f.lo ≤ g.lo + i
      · have : ¬ (g.lo + i - f.lo < f.width) := by omega
        simp [this]
      · simp [ha]
    have h2 : g.lo + i < 32 := by omega
    simp only [BitVec.getLsbD_and, BitVec.getLsbD_not, h1, h2, decide_true, Bool.not_false, Bool.and_true]
  · simp [hi]

end Sys2Proof
end

