-- ==== Sys2Proof/Laws/State.lean ====
section
/-! SUPPORT. What each update of State leaves as it was and what it changes, by rfl: one lemma per field and per reader of a
bank. Written by a script from the fields of State and the banks of Banks.lean. -/

namespace Sys2Proof.Machine

open Sys2Proof

/-! ### setReg -/

@[simp] theorem State.setReg_pending (s : State) (k : Nat) (w : Word) : (s.setReg k w).pending = s.pending := (rfl)
@[simp] theorem State.setReg_free (s : State) (k : Nat) (w : Word) : (s.setReg k w).free = s.free := (rfl)
@[simp] theorem State.setReg_tb (s : State) (k : Nat) (w : Word) : (s.setReg k w).tb = s.tb := (rfl)
@[simp] theorem State.setReg_hwSet (s : State) (k : Nat) (w : Word) : (s.setReg k w).hwSet = s.hwSet := (rfl)
@[simp] theorem State.setReg_swSet (s : State) (k : Nat) (w : Word) : (s.setReg k w).swSet = s.swSet := (rfl)
@[simp] theorem State.setReg_undef (s : State) (k : Nat) (w : Word) : (s.setReg k w).undef = s.undef := (rfl)
@[simp] theorem State.setReg_mem (s : State) (k : Nat) (w : Word) : (s.setReg k w).mem = s.mem := (rfl)
@[simp] theorem State.setReg_ecc (s : State) (k : Nat) (w : Word) : (s.setReg k w).ecc = s.ecc := (rfl)
@[simp] theorem State.setReg_pageErr (s : State) (k : Nat) (w : Word) : (s.setReg k w).pageErr = s.pageErr := (rfl)
@[simp] theorem State.setReg_rdata (s : State) (k : Nat) (w : Word) : (s.setReg k w).rdata = s.rdata := (rfl)
@[simp] theorem State.setReg_ch (s : State) (k : Nat) (w : Word) : (s.setReg k w).ch = s.ch := (rfl)
@[simp] theorem State.setReg_rt (s : State) (k : Nat) (w : Word) : (s.setReg k w).rt = s.rt := (rfl)
@[simp] theorem State.setReg_stg (s : State) (k : Nat) (w : Word) : (s.setReg k w).stg = s.stg := (rfl)
@[simp] theorem State.setReg_pr (s : State) (k : Nat) (w : Word) : (s.setReg k w).pr = s.pr := (rfl)
@[simp] theorem State.setReg_mv (s : State) (k : Nat) (w : Word) : (s.setReg k w).mv = s.mv := (rfl)
@[simp] theorem State.setReg_lg (s : State) (k : Nat) (w : Word) : (s.setReg k w).lg = s.lg := (rfl)
@[simp] theorem State.setReg_lanes (s : State) (k : Nat) (w : Word) : (s.setReg k w).lanes = s.lanes := (rfl)
@[simp] theorem State.setReg_path (s : State) (k : Nat) (w : Word) : (s.setReg k w).path = s.path := (rfl)
@[simp] theorem State.setReg_md (s : State) (k : Nat) (w : Word) : (s.setReg k w).md = s.md := (rfl)
@[simp] theorem State.setReg_up (s : State) (k : Nat) (w : Word) : (s.setReg k w).up = s.up := (rfl)
@[simp] theorem State.setReg_ts (s : State) (k : Nat) (w : Word) : (s.setReg k w).ts = s.ts := (rfl)
@[simp] theorem State.setReg_io (s : State) (k : Nat) (w : Word) : (s.setReg k w).io = s.io := (rfl)
@[simp] theorem State.setReg_sq1 (s : State) (k : Nat) (w : Word) : (s.setReg k w).sq1 = s.sq1 := (rfl)
@[simp] theorem State.setReg_byte (s : State) (k : Nat) (w : Word) (j : Nat) : (s.setReg k w).byte j = s.byte j := (rfl)
@[simp] theorem State.setReg_eccMask (s : State) (k : Nat) (w : Word) (j : Nat) : (s.setReg k w).eccMask j = s.eccMask j := (rfl)
@[simp] theorem State.setReg_conv (s : State) (k : Nat) (w : Word) (j : Nat) : (s.setReg k w).conv j = s.conv j := (rfl)
@[simp] theorem State.setReg_chan (s : State) (k : Nat) (w : Word) (j : Nat) : (s.setReg k w).chan j = s.chan j := (rfl)
@[simp] theorem State.setReg_group (s : State) (k : Nat) (w : Word) (j : Nat) : (s.setReg k w).group j = s.group j := (rfl)
@[simp] theorem State.setReg_eng (s : State) (k : Nat) (w : Word) (j : Nat) : (s.setReg k w).eng j = s.eng j := (rfl)
@[simp] theorem State.setReg_sbyOf (s : State) (k : Nat) (w : Word) (j : Nat) : (s.setReg k w).sbyOf j = s.sbyOf j := (rfl)
@[simp] theorem State.setReg_sprOf (s : State) (k : Nat) (w : Word) (j : Nat) : (s.setReg k w).sprOf j = s.sprOf j := (rfl)
@[simp] theorem State.setReg_tblOf (s : State) (k : Nat) (w : Word) (j : Nat) : (s.setReg k w).tblOf j = s.tblOf j := (rfl)
@[simp] theorem State.setReg_trk (s : State) (k : Nat) (w : Word) (j : Nat) : (s.setReg k w).trk j = s.trk j := (rfl)
@[simp] theorem State.setReg_slot (s : State) (k : Nat) (w : Word) (j : Nat) : (s.setReg k w).slot j = s.slot j := (rfl)
@[simp] theorem State.setReg_enc (s : State) (k : Nat) (w : Word) (j : Nat) : (s.setReg k w).enc j = s.enc j := (rfl)
@[simp] theorem State.setReg_sig (s : State) (k : Nat) (w : Word) (j : Nat) : (s.setReg k w).sig j = s.sig j := (rfl)
@[simp] theorem State.setReg_core (s : State) (k : Nat) (w : Word) (j : Nat) : (s.setReg k w).core j = s.core j := (rfl)
@[simp] theorem State.setReg_flow (s : State) (k : Nat) (w : Word) (j : Nat) : (s.setReg k w).flow j = s.flow j := (rfl)
@[simp] theorem State.setReg_src (s : State) (k : Nat) (w : Word) (j : Nat) : (s.setReg k w).src j = s.src j := (rfl)
@[simp] theorem State.setReg_dma (s : State) (k : Nat) (w : Word) (j : Nat) : (s.setReg k w).dma j = s.dma j := (rfl)
@[simp] theorem State.setReg_lane (s : State) (k : Nat) (w : Word) (j : Nat) : (s.setReg k w).lane j = s.lane j := (rfl)
@[simp] theorem State.setReg_lport (s : State) (k : Nat) (w : Word) (j : Nat) : (s.setReg k w).lport j = s.lport j := (rfl)
@[simp] theorem State.setReg_mac (s : State) (k : Nat) (w : Word) (j : Nat) : (s.setReg k w).mac j = s.mac j := (rfl)
@[simp] theorem State.setReg_can (s : State) (k : Nat) (w : Word) (j : Nat) : (s.setReg k w).can j = s.can j := (rfl)
@[simp] theorem State.setReg_spi (s : State) (k : Nat) (w : Word) (j : Nat) : (s.setReg k w).spi j = s.spi j := (rfl)
@[simp] theorem State.setReg_now (s : State) (k : Nat) (w : Word) : (s.setReg k w).now = s.now := (rfl)
theorem State.setReg_reg (s : State) (k : Nat) (w : Word) (j : Nat) : (s.setReg k w).reg j = if j = k then w else s.reg j :=
  RegFile.get_set s.regs k j w

/-! ### setByte -/

@[simp] theorem State.setByte_pending (s : State) (a : Nat) (b : Byte) : (s.setByte a b).pending = s.pending := (rfl)
@[simp] theorem State.setByte_free (s : State) (a : Nat) (b : Byte) : (s.setByte a b).free = s.free := (rfl)
@[simp] theorem State.setByte_tb (s : State) (a : Nat) (b : Byte) : (s.setByte a b).tb = s.tb := (rfl)
@[simp] theorem State.setByte_regs (s : State) (a : Nat) (b : Byte) : (s.setByte a b).regs = s.regs := (rfl)
@[simp] theorem State.setByte_hwSet (s : State) (a : Nat) (b : Byte) : (s.setByte a b).hwSet = s.hwSet := (rfl)
@[simp] theorem State.setByte_swSet (s : State) (a : Nat) (b : Byte) : (s.setByte a b).swSet = s.swSet := (rfl)
@[simp] theorem State.setByte_undef (s : State) (a : Nat) (b : Byte) : (s.setByte a b).undef = s.undef := (rfl)
@[simp] theorem State.setByte_ecc (s : State) (a : Nat) (b : Byte) : (s.setByte a b).ecc = s.ecc := (rfl)
@[simp] theorem State.setByte_pageErr (s : State) (a : Nat) (b : Byte) : (s.setByte a b).pageErr = s.pageErr := (rfl)
@[simp] theorem State.setByte_rdata (s : State) (a : Nat) (b : Byte) : (s.setByte a b).rdata = s.rdata := (rfl)
@[simp] theorem State.setByte_ch (s : State) (a : Nat) (b : Byte) : (s.setByte a b).ch = s.ch := (rfl)
@[simp] theorem State.setByte_rt (s : State) (a : Nat) (b : Byte) : (s.setByte a b).rt = s.rt := (rfl)
@[simp] theorem State.setByte_stg (s : State) (a : Nat) (b : Byte) : (s.setByte a b).stg = s.stg := (rfl)
@[simp] theorem State.setByte_pr (s : State) (a : Nat) (b : Byte) : (s.setByte a b).pr = s.pr := (rfl)
@[simp] theorem State.setByte_mv (s : State) (a : Nat) (b : Byte) : (s.setByte a b).mv = s.mv := (rfl)
@[simp] theorem State.setByte_lg (s : State) (a : Nat) (b : Byte) : (s.setByte a b).lg = s.lg := (rfl)
@[simp] theorem State.setByte_lanes (s : State) (a : Nat) (b : Byte) : (s.setByte a b).lanes = s.lanes := (rfl)
@[simp] theorem State.setByte_path (s : State) (a : Nat) (b : Byte) : (s.setByte a b).path = s.path := (rfl)
@[simp] theorem State.setByte_md (s : State) (a : Nat) (b : Byte) : (s.setByte a b).md = s.md := (rfl)
@[simp] theorem State.setByte_up (s : State) (a : Nat) (b : Byte) : (s.setByte a b).up = s.up := (rfl)
@[simp] theorem State.setByte_ts (s : State) (a : Nat) (b : Byte) : (s.setByte a b).ts = s.ts := (rfl)
@[simp] theorem State.setByte_io (s : State) (a : Nat) (b : Byte) : (s.setByte a b).io = s.io := (rfl)
@[simp] theorem State.setByte_sq1 (s : State) (a : Nat) (b : Byte) : (s.setByte a b).sq1 = s.sq1 := (rfl)
@[simp] theorem State.setByte_reg (s : State) (a : Nat) (b : Byte) (j : Nat) : (s.setByte a b).reg j = s.reg j := (rfl)
@[simp] theorem State.setByte_eccMask (s : State) (a : Nat) (b : Byte) (j : Nat) : (s.setByte a b).eccMask j = s.eccMask j := (rfl)
@[simp] theorem State.setByte_conv (s : State) (a : Nat) (b : Byte) (j : Nat) : (s.setByte a b).conv j = s.conv j := (rfl)
@[simp] theorem State.setByte_chan (s : State) (a : Nat) (b : Byte) (j : Nat) : (s.setByte a b).chan j = s.chan j := (rfl)
@[simp] theorem State.setByte_group (s : State) (a : Nat) (b : Byte) (j : Nat) : (s.setByte a b).group j = s.group j := (rfl)
@[simp] theorem State.setByte_eng (s : State) (a : Nat) (b : Byte) (j : Nat) : (s.setByte a b).eng j = s.eng j := (rfl)
@[simp] theorem State.setByte_sbyOf (s : State) (a : Nat) (b : Byte) (j : Nat) : (s.setByte a b).sbyOf j = s.sbyOf j := (rfl)
@[simp] theorem State.setByte_sprOf (s : State) (a : Nat) (b : Byte) (j : Nat) : (s.setByte a b).sprOf j = s.sprOf j := (rfl)
@[simp] theorem State.setByte_tblOf (s : State) (a : Nat) (b : Byte) (j : Nat) : (s.setByte a b).tblOf j = s.tblOf j := (rfl)
@[simp] theorem State.setByte_trk (s : State) (a : Nat) (b : Byte) (j : Nat) : (s.setByte a b).trk j = s.trk j := (rfl)
@[simp] theorem State.setByte_slot (s : State) (a : Nat) (b : Byte) (j : Nat) : (s.setByte a b).slot j = s.slot j := (rfl)
@[simp] theorem State.setByte_enc (s : State) (a : Nat) (b : Byte) (j : Nat) : (s.setByte a b).enc j = s.enc j := (rfl)
@[simp] theorem State.setByte_sig (s : State) (a : Nat) (b : Byte) (j : Nat) : (s.setByte a b).sig j = s.sig j := (rfl)
@[simp] theorem State.setByte_core (s : State) (a : Nat) (b : Byte) (j : Nat) : (s.setByte a b).core j = s.core j := (rfl)
@[simp] theorem State.setByte_flow (s : State) (a : Nat) (b : Byte) (j : Nat) : (s.setByte a b).flow j = s.flow j := (rfl)
@[simp] theorem State.setByte_src (s : State) (a : Nat) (b : Byte) (j : Nat) : (s.setByte a b).src j = s.src j := (rfl)
@[simp] theorem State.setByte_dma (s : State) (a : Nat) (b : Byte) (j : Nat) : (s.setByte a b).dma j = s.dma j := (rfl)
@[simp] theorem State.setByte_lane (s : State) (a : Nat) (b : Byte) (j : Nat) : (s.setByte a b).lane j = s.lane j := (rfl)
@[simp] theorem State.setByte_lport (s : State) (a : Nat) (b : Byte) (j : Nat) : (s.setByte a b).lport j = s.lport j := (rfl)
@[simp] theorem State.setByte_mac (s : State) (a : Nat) (b : Byte) (j : Nat) : (s.setByte a b).mac j = s.mac j := (rfl)
@[simp] theorem State.setByte_can (s : State) (a : Nat) (b : Byte) (j : Nat) : (s.setByte a b).can j = s.can j := (rfl)
@[simp] theorem State.setByte_spi (s : State) (a : Nat) (b : Byte) (j : Nat) : (s.setByte a b).spi j = s.spi j := (rfl)
@[simp] theorem State.setByte_now (s : State) (a : Nat) (b : Byte) : (s.setByte a b).now = s.now := (rfl)
theorem State.setByte_byte (s : State) (a : Nat) (b : Byte) (j : Nat) :
    (s.setByte a b).byte j = if j = a then b else s.byte j := AMap.get_set 0 s.mem a j b

/-! ### setEcc -/

@[simp] theorem State.setEcc_pending (s : State) (a : Nat) (m : BitVec 39) : (s.setEcc a m).pending = s.pending := (rfl)
@[simp] theorem State.setEcc_free (s : State) (a : Nat) (m : BitVec 39) : (s.setEcc a m).free = s.free := (rfl)
@[simp] theorem State.setEcc_tb (s : State) (a : Nat) (m : BitVec 39) : (s.setEcc a m).tb = s.tb := (rfl)
@[simp] theorem State.setEcc_regs (s : State) (a : Nat) (m : BitVec 39) : (s.setEcc a m).regs = s.regs := (rfl)
@[simp] theorem State.setEcc_hwSet (s : State) (a : Nat) (m : BitVec 39) : (s.setEcc a m).hwSet = s.hwSet := (rfl)
@[simp] theorem State.setEcc_swSet (s : State) (a : Nat) (m : BitVec 39) : (s.setEcc a m).swSet = s.swSet := (rfl)
@[simp] theorem State.setEcc_undef (s : State) (a : Nat) (m : BitVec 39) : (s.setEcc a m).undef = s.undef := (rfl)
@[simp] theorem State.setEcc_mem (s : State) (a : Nat) (m : BitVec 39) : (s.setEcc a m).mem = s.mem := (rfl)
@[simp] theorem State.setEcc_pageErr (s : State) (a : Nat) (m : BitVec 39) : (s.setEcc a m).pageErr = s.pageErr := (rfl)
@[simp] theorem State.setEcc_rdata (s : State) (a : Nat) (m : BitVec 39) : (s.setEcc a m).rdata = s.rdata := (rfl)
@[simp] theorem State.setEcc_ch (s : State) (a : Nat) (m : BitVec 39) : (s.setEcc a m).ch = s.ch := (rfl)
@[simp] theorem State.setEcc_rt (s : State) (a : Nat) (m : BitVec 39) : (s.setEcc a m).rt = s.rt := (rfl)
@[simp] theorem State.setEcc_stg (s : State) (a : Nat) (m : BitVec 39) : (s.setEcc a m).stg = s.stg := (rfl)
@[simp] theorem State.setEcc_pr (s : State) (a : Nat) (m : BitVec 39) : (s.setEcc a m).pr = s.pr := (rfl)
@[simp] theorem State.setEcc_mv (s : State) (a : Nat) (m : BitVec 39) : (s.setEcc a m).mv = s.mv := (rfl)
@[simp] theorem State.setEcc_lg (s : State) (a : Nat) (m : BitVec 39) : (s.setEcc a m).lg = s.lg := (rfl)
@[simp] theorem State.setEcc_lanes (s : State) (a : Nat) (m : BitVec 39) : (s.setEcc a m).lanes = s.lanes := (rfl)
@[simp] theorem State.setEcc_path (s : State) (a : Nat) (m : BitVec 39) : (s.setEcc a m).path = s.path := (rfl)
@[simp] theorem State.setEcc_md (s : State) (a : Nat) (m : BitVec 39) : (s.setEcc a m).md = s.md := (rfl)
@[simp] theorem State.setEcc_up (s : State) (a : Nat) (m : BitVec 39) : (s.setEcc a m).up = s.up := (rfl)
@[simp] theorem State.setEcc_ts (s : State) (a : Nat) (m : BitVec 39) : (s.setEcc a m).ts = s.ts := (rfl)
@[simp] theorem State.setEcc_io (s : State) (a : Nat) (m : BitVec 39) : (s.setEcc a m).io = s.io := (rfl)
@[simp] theorem State.setEcc_sq1 (s : State) (a : Nat) (m : BitVec 39) : (s.setEcc a m).sq1 = s.sq1 := (rfl)
@[simp] theorem State.setEcc_reg (s : State) (a : Nat) (m : BitVec 39) (j : Nat) : (s.setEcc a m).reg j = s.reg j := (rfl)
@[simp] theorem State.setEcc_byte (s : State) (a : Nat) (m : BitVec 39) (j : Nat) : (s.setEcc a m).byte j = s.byte j := (rfl)
@[simp] theorem State.setEcc_conv (s : State) (a : Nat) (m : BitVec 39) (j : Nat) : (s.setEcc a m).conv j = s.conv j := (rfl)
@[simp] theorem State.setEcc_chan (s : State) (a : Nat) (m : BitVec 39) (j : Nat) : (s.setEcc a m).chan j = s.chan j := (rfl)
@[simp] theorem State.setEcc_group (s : State) (a : Nat) (m : BitVec 39) (j : Nat) : (s.setEcc a m).group j = s.group j := (rfl)
@[simp] theorem State.setEcc_eng (s : State) (a : Nat) (m : BitVec 39) (j : Nat) : (s.setEcc a m).eng j = s.eng j := (rfl)
@[simp] theorem State.setEcc_sbyOf (s : State) (a : Nat) (m : BitVec 39) (j : Nat) : (s.setEcc a m).sbyOf j = s.sbyOf j := (rfl)
@[simp] theorem State.setEcc_sprOf (s : State) (a : Nat) (m : BitVec 39) (j : Nat) : (s.setEcc a m).sprOf j = s.sprOf j := (rfl)
@[simp] theorem State.setEcc_tblOf (s : State) (a : Nat) (m : BitVec 39) (j : Nat) : (s.setEcc a m).tblOf j = s.tblOf j := (rfl)
@[simp] theorem State.setEcc_trk (s : State) (a : Nat) (m : BitVec 39) (j : Nat) : (s.setEcc a m).trk j = s.trk j := (rfl)
@[simp] theorem State.setEcc_slot (s : State) (a : Nat) (m : BitVec 39) (j : Nat) : (s.setEcc a m).slot j = s.slot j := (rfl)
@[simp] theorem State.setEcc_enc (s : State) (a : Nat) (m : BitVec 39) (j : Nat) : (s.setEcc a m).enc j = s.enc j := (rfl)
@[simp] theorem State.setEcc_sig (s : State) (a : Nat) (m : BitVec 39) (j : Nat) : (s.setEcc a m).sig j = s.sig j := (rfl)
@[simp] theorem State.setEcc_core (s : State) (a : Nat) (m : BitVec 39) (j : Nat) : (s.setEcc a m).core j = s.core j := (rfl)
@[simp] theorem State.setEcc_flow (s : State) (a : Nat) (m : BitVec 39) (j : Nat) : (s.setEcc a m).flow j = s.flow j := (rfl)
@[simp] theorem State.setEcc_src (s : State) (a : Nat) (m : BitVec 39) (j : Nat) : (s.setEcc a m).src j = s.src j := (rfl)
@[simp] theorem State.setEcc_dma (s : State) (a : Nat) (m : BitVec 39) (j : Nat) : (s.setEcc a m).dma j = s.dma j := (rfl)
@[simp] theorem State.setEcc_lane (s : State) (a : Nat) (m : BitVec 39) (j : Nat) : (s.setEcc a m).lane j = s.lane j := (rfl)
@[simp] theorem State.setEcc_lport (s : State) (a : Nat) (m : BitVec 39) (j : Nat) : (s.setEcc a m).lport j = s.lport j := (rfl)
@[simp] theorem State.setEcc_mac (s : State) (a : Nat) (m : BitVec 39) (j : Nat) : (s.setEcc a m).mac j = s.mac j := (rfl)
@[simp] theorem State.setEcc_can (s : State) (a : Nat) (m : BitVec 39) (j : Nat) : (s.setEcc a m).can j = s.can j := (rfl)
@[simp] theorem State.setEcc_spi (s : State) (a : Nat) (m : BitVec 39) (j : Nat) : (s.setEcc a m).spi j = s.spi j := (rfl)
@[simp] theorem State.setEcc_now (s : State) (a : Nat) (m : BitVec 39) : (s.setEcc a m).now = s.now := (rfl)
theorem State.setEcc_eccMask (s : State) (a : Nat) (m : BitVec 39) (j : Nat) :
    (s.setEcc a m).eccMask j = if j = a then m else s.eccMask j := AMap.get_set 0 s.ecc a j m

/-! ### setConv -/

@[simp] theorem State.setConv_pending (s : State) (k : Nat) (v : ConvState) : (s.setConv k v).pending = s.pending := (rfl)
@[simp] theorem State.setConv_free (s : State) (k : Nat) (v : ConvState) : (s.setConv k v).free = s.free := (rfl)
@[simp] theorem State.setConv_tb (s : State) (k : Nat) (v : ConvState) : (s.setConv k v).tb = s.tb := (rfl)
@[simp] theorem State.setConv_regs (s : State) (k : Nat) (v : ConvState) : (s.setConv k v).regs = s.regs := (rfl)
@[simp] theorem State.setConv_hwSet (s : State) (k : Nat) (v : ConvState) : (s.setConv k v).hwSet = s.hwSet := (rfl)
@[simp] theorem State.setConv_swSet (s : State) (k : Nat) (v : ConvState) : (s.setConv k v).swSet = s.swSet := (rfl)
@[simp] theorem State.setConv_undef (s : State) (k : Nat) (v : ConvState) : (s.setConv k v).undef = s.undef := (rfl)
@[simp] theorem State.setConv_mem (s : State) (k : Nat) (v : ConvState) : (s.setConv k v).mem = s.mem := (rfl)
@[simp] theorem State.setConv_ecc (s : State) (k : Nat) (v : ConvState) : (s.setConv k v).ecc = s.ecc := (rfl)
@[simp] theorem State.setConv_pageErr (s : State) (k : Nat) (v : ConvState) : (s.setConv k v).pageErr = s.pageErr := (rfl)
@[simp] theorem State.setConv_rdata (s : State) (k : Nat) (v : ConvState) : (s.setConv k v).rdata = s.rdata := (rfl)
@[simp] theorem State.setConv_rt (s : State) (k : Nat) (v : ConvState) : (s.setConv k v).rt = s.rt := (rfl)
@[simp] theorem State.setConv_stg (s : State) (k : Nat) (v : ConvState) : (s.setConv k v).stg = s.stg := (rfl)
@[simp] theorem State.setConv_pr (s : State) (k : Nat) (v : ConvState) : (s.setConv k v).pr = s.pr := (rfl)
@[simp] theorem State.setConv_mv (s : State) (k : Nat) (v : ConvState) : (s.setConv k v).mv = s.mv := (rfl)
@[simp] theorem State.setConv_lg (s : State) (k : Nat) (v : ConvState) : (s.setConv k v).lg = s.lg := (rfl)
@[simp] theorem State.setConv_lanes (s : State) (k : Nat) (v : ConvState) : (s.setConv k v).lanes = s.lanes := (rfl)
@[simp] theorem State.setConv_path (s : State) (k : Nat) (v : ConvState) : (s.setConv k v).path = s.path := (rfl)
@[simp] theorem State.setConv_md (s : State) (k : Nat) (v : ConvState) : (s.setConv k v).md = s.md := (rfl)
@[simp] theorem State.setConv_up (s : State) (k : Nat) (v : ConvState) : (s.setConv k v).up = s.up := (rfl)
@[simp] theorem State.setConv_ts (s : State) (k : Nat) (v : ConvState) : (s.setConv k v).ts = s.ts := (rfl)
@[simp] theorem State.setConv_io (s : State) (k : Nat) (v : ConvState) : (s.setConv k v).io = s.io := (rfl)
@[simp] theorem State.setConv_sq1 (s : State) (k : Nat) (v : ConvState) : (s.setConv k v).sq1 = s.sq1 := (rfl)
@[simp] theorem State.setConv_reg (s : State) (k : Nat) (v : ConvState) (j : Nat) : (s.setConv k v).reg j = s.reg j := (rfl)
@[simp] theorem State.setConv_byte (s : State) (k : Nat) (v : ConvState) (j : Nat) : (s.setConv k v).byte j = s.byte j := (rfl)
@[simp] theorem State.setConv_eccMask (s : State) (k : Nat) (v : ConvState) (j : Nat) : (s.setConv k v).eccMask j = s.eccMask j := (rfl)
@[simp] theorem State.setConv_chan (s : State) (k : Nat) (v : ConvState) (j : Nat) : (s.setConv k v).chan j = s.chan j := (rfl)
@[simp] theorem State.setConv_group (s : State) (k : Nat) (v : ConvState) (j : Nat) : (s.setConv k v).group j = s.group j := (rfl)
@[simp] theorem State.setConv_eng (s : State) (k : Nat) (v : ConvState) (j : Nat) : (s.setConv k v).eng j = s.eng j := (rfl)
@[simp] theorem State.setConv_sbyOf (s : State) (k : Nat) (v : ConvState) (j : Nat) : (s.setConv k v).sbyOf j = s.sbyOf j := (rfl)
@[simp] theorem State.setConv_sprOf (s : State) (k : Nat) (v : ConvState) (j : Nat) : (s.setConv k v).sprOf j = s.sprOf j := (rfl)
@[simp] theorem State.setConv_tblOf (s : State) (k : Nat) (v : ConvState) (j : Nat) : (s.setConv k v).tblOf j = s.tblOf j := (rfl)
@[simp] theorem State.setConv_trk (s : State) (k : Nat) (v : ConvState) (j : Nat) : (s.setConv k v).trk j = s.trk j := (rfl)
@[simp] theorem State.setConv_slot (s : State) (k : Nat) (v : ConvState) (j : Nat) : (s.setConv k v).slot j = s.slot j := (rfl)
@[simp] theorem State.setConv_enc (s : State) (k : Nat) (v : ConvState) (j : Nat) : (s.setConv k v).enc j = s.enc j := (rfl)
@[simp] theorem State.setConv_sig (s : State) (k : Nat) (v : ConvState) (j : Nat) : (s.setConv k v).sig j = s.sig j := (rfl)
@[simp] theorem State.setConv_core (s : State) (k : Nat) (v : ConvState) (j : Nat) : (s.setConv k v).core j = s.core j := (rfl)
@[simp] theorem State.setConv_flow (s : State) (k : Nat) (v : ConvState) (j : Nat) : (s.setConv k v).flow j = s.flow j := (rfl)
@[simp] theorem State.setConv_src (s : State) (k : Nat) (v : ConvState) (j : Nat) : (s.setConv k v).src j = s.src j := (rfl)
@[simp] theorem State.setConv_dma (s : State) (k : Nat) (v : ConvState) (j : Nat) : (s.setConv k v).dma j = s.dma j := (rfl)
@[simp] theorem State.setConv_lane (s : State) (k : Nat) (v : ConvState) (j : Nat) : (s.setConv k v).lane j = s.lane j := (rfl)
@[simp] theorem State.setConv_lport (s : State) (k : Nat) (v : ConvState) (j : Nat) : (s.setConv k v).lport j = s.lport j := (rfl)
@[simp] theorem State.setConv_mac (s : State) (k : Nat) (v : ConvState) (j : Nat) : (s.setConv k v).mac j = s.mac j := (rfl)
@[simp] theorem State.setConv_can (s : State) (k : Nat) (v : ConvState) (j : Nat) : (s.setConv k v).can j = s.can j := (rfl)
@[simp] theorem State.setConv_spi (s : State) (k : Nat) (v : ConvState) (j : Nat) : (s.setConv k v).spi j = s.spi j := (rfl)
@[simp] theorem State.setConv_now (s : State) (k : Nat) (v : ConvState) : (s.setConv k v).now = s.now := (rfl)
theorem State.setConv_conv (s : State) (k : Nat) (v : ConvState) (j : Nat) :
    (s.setConv k v).conv j = if j = k then v else s.conv j := AMap.get_set _ _ _ _ _
theorem State.updConv_eq (s : State) (k : Nat) (f : ConvState → ConvState) : s.updConv k f = s.setConv k (f (s.conv k)) := (rfl)

/-! ### setChan -/

@[simp] theorem State.setChan_pending (s : State) (k : Nat) (v : Channel) : (s.setChan k v).pending = s.pending := (rfl)
@[simp] theorem State.setChan_free (s : State) (k : Nat) (v : Channel) : (s.setChan k v).free = s.free := (rfl)
@[simp] theorem State.setChan_tb (s : State) (k : Nat) (v : Channel) : (s.setChan k v).tb = s.tb := (rfl)
@[simp] theorem State.setChan_regs (s : State) (k : Nat) (v : Channel) : (s.setChan k v).regs = s.regs := (rfl)
@[simp] theorem State.setChan_hwSet (s : State) (k : Nat) (v : Channel) : (s.setChan k v).hwSet = s.hwSet := (rfl)
@[simp] theorem State.setChan_swSet (s : State) (k : Nat) (v : Channel) : (s.setChan k v).swSet = s.swSet := (rfl)
@[simp] theorem State.setChan_undef (s : State) (k : Nat) (v : Channel) : (s.setChan k v).undef = s.undef := (rfl)
@[simp] theorem State.setChan_mem (s : State) (k : Nat) (v : Channel) : (s.setChan k v).mem = s.mem := (rfl)
@[simp] theorem State.setChan_ecc (s : State) (k : Nat) (v : Channel) : (s.setChan k v).ecc = s.ecc := (rfl)
@[simp] theorem State.setChan_pageErr (s : State) (k : Nat) (v : Channel) : (s.setChan k v).pageErr = s.pageErr := (rfl)
@[simp] theorem State.setChan_rdata (s : State) (k : Nat) (v : Channel) : (s.setChan k v).rdata = s.rdata := (rfl)
@[simp] theorem State.setChan_rt (s : State) (k : Nat) (v : Channel) : (s.setChan k v).rt = s.rt := (rfl)
@[simp] theorem State.setChan_stg (s : State) (k : Nat) (v : Channel) : (s.setChan k v).stg = s.stg := (rfl)
@[simp] theorem State.setChan_pr (s : State) (k : Nat) (v : Channel) : (s.setChan k v).pr = s.pr := (rfl)
@[simp] theorem State.setChan_mv (s : State) (k : Nat) (v : Channel) : (s.setChan k v).mv = s.mv := (rfl)
@[simp] theorem State.setChan_lg (s : State) (k : Nat) (v : Channel) : (s.setChan k v).lg = s.lg := (rfl)
@[simp] theorem State.setChan_lanes (s : State) (k : Nat) (v : Channel) : (s.setChan k v).lanes = s.lanes := (rfl)
@[simp] theorem State.setChan_path (s : State) (k : Nat) (v : Channel) : (s.setChan k v).path = s.path := (rfl)
@[simp] theorem State.setChan_md (s : State) (k : Nat) (v : Channel) : (s.setChan k v).md = s.md := (rfl)
@[simp] theorem State.setChan_up (s : State) (k : Nat) (v : Channel) : (s.setChan k v).up = s.up := (rfl)
@[simp] theorem State.setChan_ts (s : State) (k : Nat) (v : Channel) : (s.setChan k v).ts = s.ts := (rfl)
@[simp] theorem State.setChan_io (s : State) (k : Nat) (v : Channel) : (s.setChan k v).io = s.io := (rfl)
@[simp] theorem State.setChan_sq1 (s : State) (k : Nat) (v : Channel) : (s.setChan k v).sq1 = s.sq1 := (rfl)
@[simp] theorem State.setChan_reg (s : State) (k : Nat) (v : Channel) (j : Nat) : (s.setChan k v).reg j = s.reg j := (rfl)
@[simp] theorem State.setChan_byte (s : State) (k : Nat) (v : Channel) (j : Nat) : (s.setChan k v).byte j = s.byte j := (rfl)
@[simp] theorem State.setChan_eccMask (s : State) (k : Nat) (v : Channel) (j : Nat) : (s.setChan k v).eccMask j = s.eccMask j := (rfl)
@[simp] theorem State.setChan_conv (s : State) (k : Nat) (v : Channel) (j : Nat) : (s.setChan k v).conv j = s.conv j := (rfl)
@[simp] theorem State.setChan_group (s : State) (k : Nat) (v : Channel) (j : Nat) : (s.setChan k v).group j = s.group j := (rfl)
@[simp] theorem State.setChan_eng (s : State) (k : Nat) (v : Channel) (j : Nat) : (s.setChan k v).eng j = s.eng j := (rfl)
@[simp] theorem State.setChan_sbyOf (s : State) (k : Nat) (v : Channel) (j : Nat) : (s.setChan k v).sbyOf j = s.sbyOf j := (rfl)
@[simp] theorem State.setChan_sprOf (s : State) (k : Nat) (v : Channel) (j : Nat) : (s.setChan k v).sprOf j = s.sprOf j := (rfl)
@[simp] theorem State.setChan_tblOf (s : State) (k : Nat) (v : Channel) (j : Nat) : (s.setChan k v).tblOf j = s.tblOf j := (rfl)
@[simp] theorem State.setChan_trk (s : State) (k : Nat) (v : Channel) (j : Nat) : (s.setChan k v).trk j = s.trk j := (rfl)
@[simp] theorem State.setChan_slot (s : State) (k : Nat) (v : Channel) (j : Nat) : (s.setChan k v).slot j = s.slot j := (rfl)
@[simp] theorem State.setChan_enc (s : State) (k : Nat) (v : Channel) (j : Nat) : (s.setChan k v).enc j = s.enc j := (rfl)
@[simp] theorem State.setChan_sig (s : State) (k : Nat) (v : Channel) (j : Nat) : (s.setChan k v).sig j = s.sig j := (rfl)
@[simp] theorem State.setChan_core (s : State) (k : Nat) (v : Channel) (j : Nat) : (s.setChan k v).core j = s.core j := (rfl)
@[simp] theorem State.setChan_flow (s : State) (k : Nat) (v : Channel) (j : Nat) : (s.setChan k v).flow j = s.flow j := (rfl)
@[simp] theorem State.setChan_src (s : State) (k : Nat) (v : Channel) (j : Nat) : (s.setChan k v).src j = s.src j := (rfl)
@[simp] theorem State.setChan_dma (s : State) (k : Nat) (v : Channel) (j : Nat) : (s.setChan k v).dma j = s.dma j := (rfl)
@[simp] theorem State.setChan_lane (s : State) (k : Nat) (v : Channel) (j : Nat) : (s.setChan k v).lane j = s.lane j := (rfl)
@[simp] theorem State.setChan_lport (s : State) (k : Nat) (v : Channel) (j : Nat) : (s.setChan k v).lport j = s.lport j := (rfl)
@[simp] theorem State.setChan_mac (s : State) (k : Nat) (v : Channel) (j : Nat) : (s.setChan k v).mac j = s.mac j := (rfl)
@[simp] theorem State.setChan_can (s : State) (k : Nat) (v : Channel) (j : Nat) : (s.setChan k v).can j = s.can j := (rfl)
@[simp] theorem State.setChan_spi (s : State) (k : Nat) (v : Channel) (j : Nat) : (s.setChan k v).spi j = s.spi j := (rfl)
@[simp] theorem State.setChan_now (s : State) (k : Nat) (v : Channel) : (s.setChan k v).now = s.now := (rfl)
theorem State.setChan_chan (s : State) (k : Nat) (v : Channel) (j : Nat) :
    (s.setChan k v).chan j = if j = k then v else s.chan j := AMap.get_set _ _ _ _ _
theorem State.updChan_eq (s : State) (k : Nat) (f : Channel → Channel) : s.updChan k f = s.setChan k (f (s.chan k)) := (rfl)

/-! ### setGroup -/

@[simp] theorem State.setGroup_pending (s : State) (k : Nat) (v : Group) : (s.setGroup k v).pending = s.pending := (rfl)
@[simp] theorem State.setGroup_free (s : State) (k : Nat) (v : Group) : (s.setGroup k v).free = s.free := (rfl)
@[simp] theorem State.setGroup_tb (s : State) (k : Nat) (v : Group) : (s.setGroup k v).tb = s.tb := (rfl)
@[simp] theorem State.setGroup_regs (s : State) (k : Nat) (v : Group) : (s.setGroup k v).regs = s.regs := (rfl)
@[simp] theorem State.setGroup_hwSet (s : State) (k : Nat) (v : Group) : (s.setGroup k v).hwSet = s.hwSet := (rfl)
@[simp] theorem State.setGroup_swSet (s : State) (k : Nat) (v : Group) : (s.setGroup k v).swSet = s.swSet := (rfl)
@[simp] theorem State.setGroup_undef (s : State) (k : Nat) (v : Group) : (s.setGroup k v).undef = s.undef := (rfl)
@[simp] theorem State.setGroup_mem (s : State) (k : Nat) (v : Group) : (s.setGroup k v).mem = s.mem := (rfl)
@[simp] theorem State.setGroup_ecc (s : State) (k : Nat) (v : Group) : (s.setGroup k v).ecc = s.ecc := (rfl)
@[simp] theorem State.setGroup_pageErr (s : State) (k : Nat) (v : Group) : (s.setGroup k v).pageErr = s.pageErr := (rfl)
@[simp] theorem State.setGroup_rdata (s : State) (k : Nat) (v : Group) : (s.setGroup k v).rdata = s.rdata := (rfl)
@[simp] theorem State.setGroup_rt (s : State) (k : Nat) (v : Group) : (s.setGroup k v).rt = s.rt := (rfl)
@[simp] theorem State.setGroup_stg (s : State) (k : Nat) (v : Group) : (s.setGroup k v).stg = s.stg := (rfl)
@[simp] theorem State.setGroup_pr (s : State) (k : Nat) (v : Group) : (s.setGroup k v).pr = s.pr := (rfl)
@[simp] theorem State.setGroup_mv (s : State) (k : Nat) (v : Group) : (s.setGroup k v).mv = s.mv := (rfl)
@[simp] theorem State.setGroup_lg (s : State) (k : Nat) (v : Group) : (s.setGroup k v).lg = s.lg := (rfl)
@[simp] theorem State.setGroup_lanes (s : State) (k : Nat) (v : Group) : (s.setGroup k v).lanes = s.lanes := (rfl)
@[simp] theorem State.setGroup_path (s : State) (k : Nat) (v : Group) : (s.setGroup k v).path = s.path := (rfl)
@[simp] theorem State.setGroup_md (s : State) (k : Nat) (v : Group) : (s.setGroup k v).md = s.md := (rfl)
@[simp] theorem State.setGroup_up (s : State) (k : Nat) (v : Group) : (s.setGroup k v).up = s.up := (rfl)
@[simp] theorem State.setGroup_ts (s : State) (k : Nat) (v : Group) : (s.setGroup k v).ts = s.ts := (rfl)
@[simp] theorem State.setGroup_io (s : State) (k : Nat) (v : Group) : (s.setGroup k v).io = s.io := (rfl)
@[simp] theorem State.setGroup_sq1 (s : State) (k : Nat) (v : Group) : (s.setGroup k v).sq1 = s.sq1 := (rfl)
@[simp] theorem State.setGroup_reg (s : State) (k : Nat) (v : Group) (j : Nat) : (s.setGroup k v).reg j = s.reg j := (rfl)
@[simp] theorem State.setGroup_byte (s : State) (k : Nat) (v : Group) (j : Nat) : (s.setGroup k v).byte j = s.byte j := (rfl)
@[simp] theorem State.setGroup_eccMask (s : State) (k : Nat) (v : Group) (j : Nat) : (s.setGroup k v).eccMask j = s.eccMask j := (rfl)
@[simp] theorem State.setGroup_conv (s : State) (k : Nat) (v : Group) (j : Nat) : (s.setGroup k v).conv j = s.conv j := (rfl)
@[simp] theorem State.setGroup_chan (s : State) (k : Nat) (v : Group) (j : Nat) : (s.setGroup k v).chan j = s.chan j := (rfl)
@[simp] theorem State.setGroup_eng (s : State) (k : Nat) (v : Group) (j : Nat) : (s.setGroup k v).eng j = s.eng j := (rfl)
@[simp] theorem State.setGroup_sbyOf (s : State) (k : Nat) (v : Group) (j : Nat) : (s.setGroup k v).sbyOf j = s.sbyOf j := (rfl)
@[simp] theorem State.setGroup_sprOf (s : State) (k : Nat) (v : Group) (j : Nat) : (s.setGroup k v).sprOf j = s.sprOf j := (rfl)
@[simp] theorem State.setGroup_tblOf (s : State) (k : Nat) (v : Group) (j : Nat) : (s.setGroup k v).tblOf j = s.tblOf j := (rfl)
@[simp] theorem State.setGroup_trk (s : State) (k : Nat) (v : Group) (j : Nat) : (s.setGroup k v).trk j = s.trk j := (rfl)
@[simp] theorem State.setGroup_slot (s : State) (k : Nat) (v : Group) (j : Nat) : (s.setGroup k v).slot j = s.slot j := (rfl)
@[simp] theorem State.setGroup_enc (s : State) (k : Nat) (v : Group) (j : Nat) : (s.setGroup k v).enc j = s.enc j := (rfl)
@[simp] theorem State.setGroup_sig (s : State) (k : Nat) (v : Group) (j : Nat) : (s.setGroup k v).sig j = s.sig j := (rfl)
@[simp] theorem State.setGroup_core (s : State) (k : Nat) (v : Group) (j : Nat) : (s.setGroup k v).core j = s.core j := (rfl)
@[simp] theorem State.setGroup_flow (s : State) (k : Nat) (v : Group) (j : Nat) : (s.setGroup k v).flow j = s.flow j := (rfl)
@[simp] theorem State.setGroup_src (s : State) (k : Nat) (v : Group) (j : Nat) : (s.setGroup k v).src j = s.src j := (rfl)
@[simp] theorem State.setGroup_dma (s : State) (k : Nat) (v : Group) (j : Nat) : (s.setGroup k v).dma j = s.dma j := (rfl)
@[simp] theorem State.setGroup_lane (s : State) (k : Nat) (v : Group) (j : Nat) : (s.setGroup k v).lane j = s.lane j := (rfl)
@[simp] theorem State.setGroup_lport (s : State) (k : Nat) (v : Group) (j : Nat) : (s.setGroup k v).lport j = s.lport j := (rfl)
@[simp] theorem State.setGroup_mac (s : State) (k : Nat) (v : Group) (j : Nat) : (s.setGroup k v).mac j = s.mac j := (rfl)
@[simp] theorem State.setGroup_can (s : State) (k : Nat) (v : Group) (j : Nat) : (s.setGroup k v).can j = s.can j := (rfl)
@[simp] theorem State.setGroup_spi (s : State) (k : Nat) (v : Group) (j : Nat) : (s.setGroup k v).spi j = s.spi j := (rfl)
@[simp] theorem State.setGroup_now (s : State) (k : Nat) (v : Group) : (s.setGroup k v).now = s.now := (rfl)
theorem State.setGroup_group (s : State) (k : Nat) (v : Group) (j : Nat) :
    (s.setGroup k v).group j = if j = k then v else s.group j := AMap.get_set _ _ _ _ _
theorem State.updGroup_eq (s : State) (k : Nat) (f : Group → Group) : s.updGroup k f = s.setGroup k (f (s.group k)) := (rfl)

/-! ### setEng -/

@[simp] theorem State.setEng_pending (s : State) (k : Nat) (v : Engine) : (s.setEng k v).pending = s.pending := (rfl)
@[simp] theorem State.setEng_free (s : State) (k : Nat) (v : Engine) : (s.setEng k v).free = s.free := (rfl)
@[simp] theorem State.setEng_tb (s : State) (k : Nat) (v : Engine) : (s.setEng k v).tb = s.tb := (rfl)
@[simp] theorem State.setEng_regs (s : State) (k : Nat) (v : Engine) : (s.setEng k v).regs = s.regs := (rfl)
@[simp] theorem State.setEng_hwSet (s : State) (k : Nat) (v : Engine) : (s.setEng k v).hwSet = s.hwSet := (rfl)
@[simp] theorem State.setEng_swSet (s : State) (k : Nat) (v : Engine) : (s.setEng k v).swSet = s.swSet := (rfl)
@[simp] theorem State.setEng_undef (s : State) (k : Nat) (v : Engine) : (s.setEng k v).undef = s.undef := (rfl)
@[simp] theorem State.setEng_mem (s : State) (k : Nat) (v : Engine) : (s.setEng k v).mem = s.mem := (rfl)
@[simp] theorem State.setEng_ecc (s : State) (k : Nat) (v : Engine) : (s.setEng k v).ecc = s.ecc := (rfl)
@[simp] theorem State.setEng_pageErr (s : State) (k : Nat) (v : Engine) : (s.setEng k v).pageErr = s.pageErr := (rfl)
@[simp] theorem State.setEng_rdata (s : State) (k : Nat) (v : Engine) : (s.setEng k v).rdata = s.rdata := (rfl)
@[simp] theorem State.setEng_rt (s : State) (k : Nat) (v : Engine) : (s.setEng k v).rt = s.rt := (rfl)
@[simp] theorem State.setEng_stg (s : State) (k : Nat) (v : Engine) : (s.setEng k v).stg = s.stg := (rfl)
@[simp] theorem State.setEng_pr (s : State) (k : Nat) (v : Engine) : (s.setEng k v).pr = s.pr := (rfl)
@[simp] theorem State.setEng_mv (s : State) (k : Nat) (v : Engine) : (s.setEng k v).mv = s.mv := (rfl)
@[simp] theorem State.setEng_lg (s : State) (k : Nat) (v : Engine) : (s.setEng k v).lg = s.lg := (rfl)
@[simp] theorem State.setEng_lanes (s : State) (k : Nat) (v : Engine) : (s.setEng k v).lanes = s.lanes := (rfl)
@[simp] theorem State.setEng_path (s : State) (k : Nat) (v : Engine) : (s.setEng k v).path = s.path := (rfl)
@[simp] theorem State.setEng_md (s : State) (k : Nat) (v : Engine) : (s.setEng k v).md = s.md := (rfl)
@[simp] theorem State.setEng_up (s : State) (k : Nat) (v : Engine) : (s.setEng k v).up = s.up := (rfl)
@[simp] theorem State.setEng_ts (s : State) (k : Nat) (v : Engine) : (s.setEng k v).ts = s.ts := (rfl)
@[simp] theorem State.setEng_io (s : State) (k : Nat) (v : Engine) : (s.setEng k v).io = s.io := (rfl)
@[simp] theorem State.setEng_sq1 (s : State) (k : Nat) (v : Engine) : (s.setEng k v).sq1 = s.sq1 := (rfl)
@[simp] theorem State.setEng_reg (s : State) (k : Nat) (v : Engine) (j : Nat) : (s.setEng k v).reg j = s.reg j := (rfl)
@[simp] theorem State.setEng_byte (s : State) (k : Nat) (v : Engine) (j : Nat) : (s.setEng k v).byte j = s.byte j := (rfl)
@[simp] theorem State.setEng_eccMask (s : State) (k : Nat) (v : Engine) (j : Nat) : (s.setEng k v).eccMask j = s.eccMask j := (rfl)
@[simp] theorem State.setEng_conv (s : State) (k : Nat) (v : Engine) (j : Nat) : (s.setEng k v).conv j = s.conv j := (rfl)
@[simp] theorem State.setEng_chan (s : State) (k : Nat) (v : Engine) (j : Nat) : (s.setEng k v).chan j = s.chan j := (rfl)
@[simp] theorem State.setEng_group (s : State) (k : Nat) (v : Engine) (j : Nat) : (s.setEng k v).group j = s.group j := (rfl)
@[simp] theorem State.setEng_sbyOf (s : State) (k : Nat) (v : Engine) (j : Nat) : (s.setEng k v).sbyOf j = s.sbyOf j := (rfl)
@[simp] theorem State.setEng_sprOf (s : State) (k : Nat) (v : Engine) (j : Nat) : (s.setEng k v).sprOf j = s.sprOf j := (rfl)
@[simp] theorem State.setEng_tblOf (s : State) (k : Nat) (v : Engine) (j : Nat) : (s.setEng k v).tblOf j = s.tblOf j := (rfl)
@[simp] theorem State.setEng_trk (s : State) (k : Nat) (v : Engine) (j : Nat) : (s.setEng k v).trk j = s.trk j := (rfl)
@[simp] theorem State.setEng_slot (s : State) (k : Nat) (v : Engine) (j : Nat) : (s.setEng k v).slot j = s.slot j := (rfl)
@[simp] theorem State.setEng_enc (s : State) (k : Nat) (v : Engine) (j : Nat) : (s.setEng k v).enc j = s.enc j := (rfl)
@[simp] theorem State.setEng_sig (s : State) (k : Nat) (v : Engine) (j : Nat) : (s.setEng k v).sig j = s.sig j := (rfl)
@[simp] theorem State.setEng_core (s : State) (k : Nat) (v : Engine) (j : Nat) : (s.setEng k v).core j = s.core j := (rfl)
@[simp] theorem State.setEng_flow (s : State) (k : Nat) (v : Engine) (j : Nat) : (s.setEng k v).flow j = s.flow j := (rfl)
@[simp] theorem State.setEng_src (s : State) (k : Nat) (v : Engine) (j : Nat) : (s.setEng k v).src j = s.src j := (rfl)
@[simp] theorem State.setEng_dma (s : State) (k : Nat) (v : Engine) (j : Nat) : (s.setEng k v).dma j = s.dma j := (rfl)
@[simp] theorem State.setEng_lane (s : State) (k : Nat) (v : Engine) (j : Nat) : (s.setEng k v).lane j = s.lane j := (rfl)
@[simp] theorem State.setEng_lport (s : State) (k : Nat) (v : Engine) (j : Nat) : (s.setEng k v).lport j = s.lport j := (rfl)
@[simp] theorem State.setEng_mac (s : State) (k : Nat) (v : Engine) (j : Nat) : (s.setEng k v).mac j = s.mac j := (rfl)
@[simp] theorem State.setEng_can (s : State) (k : Nat) (v : Engine) (j : Nat) : (s.setEng k v).can j = s.can j := (rfl)
@[simp] theorem State.setEng_spi (s : State) (k : Nat) (v : Engine) (j : Nat) : (s.setEng k v).spi j = s.spi j := (rfl)
@[simp] theorem State.setEng_now (s : State) (k : Nat) (v : Engine) : (s.setEng k v).now = s.now := (rfl)
theorem State.setEng_eng (s : State) (k : Nat) (v : Engine) (j : Nat) :
    (s.setEng k v).eng j = if j = k then v else s.eng j := AMap.get_set _ _ _ _ _
theorem State.updEng_eq (s : State) (k : Nat) (f : Engine → Engine) : s.updEng k f = s.setEng k (f (s.eng k)) := (rfl)

/-! ### setSbyOf -/

@[simp] theorem State.setSbyOf_pending (s : State) (k : Nat) (v : HandOver) : (s.setSbyOf k v).pending = s.pending := (rfl)
@[simp] theorem State.setSbyOf_free (s : State) (k : Nat) (v : HandOver) : (s.setSbyOf k v).free = s.free := (rfl)
@[simp] theorem State.setSbyOf_tb (s : State) (k : Nat) (v : HandOver) : (s.setSbyOf k v).tb = s.tb := (rfl)
@[simp] theorem State.setSbyOf_regs (s : State) (k : Nat) (v : HandOver) : (s.setSbyOf k v).regs = s.regs := (rfl)
@[simp] theorem State.setSbyOf_hwSet (s : State) (k : Nat) (v : HandOver) : (s.setSbyOf k v).hwSet = s.hwSet := (rfl)
@[simp] theorem State.setSbyOf_swSet (s : State) (k : Nat) (v : HandOver) : (s.setSbyOf k v).swSet = s.swSet := (rfl)
@[simp] theorem State.setSbyOf_undef (s : State) (k : Nat) (v : HandOver) : (s.setSbyOf k v).undef = s.undef := (rfl)
@[simp] theorem State.setSbyOf_mem (s : State) (k : Nat) (v : HandOver) : (s.setSbyOf k v).mem = s.mem := (rfl)
@[simp] theorem State.setSbyOf_ecc (s : State) (k : Nat) (v : HandOver) : (s.setSbyOf k v).ecc = s.ecc := (rfl)
@[simp] theorem State.setSbyOf_pageErr (s : State) (k : Nat) (v : HandOver) : (s.setSbyOf k v).pageErr = s.pageErr := (rfl)
@[simp] theorem State.setSbyOf_rdata (s : State) (k : Nat) (v : HandOver) : (s.setSbyOf k v).rdata = s.rdata := (rfl)
@[simp] theorem State.setSbyOf_rt (s : State) (k : Nat) (v : HandOver) : (s.setSbyOf k v).rt = s.rt := (rfl)
@[simp] theorem State.setSbyOf_stg (s : State) (k : Nat) (v : HandOver) : (s.setSbyOf k v).stg = s.stg := (rfl)
@[simp] theorem State.setSbyOf_pr (s : State) (k : Nat) (v : HandOver) : (s.setSbyOf k v).pr = s.pr := (rfl)
@[simp] theorem State.setSbyOf_mv (s : State) (k : Nat) (v : HandOver) : (s.setSbyOf k v).mv = s.mv := (rfl)
@[simp] theorem State.setSbyOf_lg (s : State) (k : Nat) (v : HandOver) : (s.setSbyOf k v).lg = s.lg := (rfl)
@[simp] theorem State.setSbyOf_lanes (s : State) (k : Nat) (v : HandOver) : (s.setSbyOf k v).lanes = s.lanes := (rfl)
@[simp] theorem State.setSbyOf_path (s : State) (k : Nat) (v : HandOver) : (s.setSbyOf k v).path = s.path := (rfl)
@[simp] theorem State.setSbyOf_md (s : State) (k : Nat) (v : HandOver) : (s.setSbyOf k v).md = s.md := (rfl)
@[simp] theorem State.setSbyOf_up (s : State) (k : Nat) (v : HandOver) : (s.setSbyOf k v).up = s.up := (rfl)
@[simp] theorem State.setSbyOf_ts (s : State) (k : Nat) (v : HandOver) : (s.setSbyOf k v).ts = s.ts := (rfl)
@[simp] theorem State.setSbyOf_io (s : State) (k : Nat) (v : HandOver) : (s.setSbyOf k v).io = s.io := (rfl)
@[simp] theorem State.setSbyOf_sq1 (s : State) (k : Nat) (v : HandOver) : (s.setSbyOf k v).sq1 = s.sq1 := (rfl)
@[simp] theorem State.setSbyOf_reg (s : State) (k : Nat) (v : HandOver) (j : Nat) : (s.setSbyOf k v).reg j = s.reg j := (rfl)
@[simp] theorem State.setSbyOf_byte (s : State) (k : Nat) (v : HandOver) (j : Nat) : (s.setSbyOf k v).byte j = s.byte j := (rfl)
@[simp] theorem State.setSbyOf_eccMask (s : State) (k : Nat) (v : HandOver) (j : Nat) : (s.setSbyOf k v).eccMask j = s.eccMask j := (rfl)
@[simp] theorem State.setSbyOf_conv (s : State) (k : Nat) (v : HandOver) (j : Nat) : (s.setSbyOf k v).conv j = s.conv j := (rfl)
@[simp] theorem State.setSbyOf_chan (s : State) (k : Nat) (v : HandOver) (j : Nat) : (s.setSbyOf k v).chan j = s.chan j := (rfl)
@[simp] theorem State.setSbyOf_group (s : State) (k : Nat) (v : HandOver) (j : Nat) : (s.setSbyOf k v).group j = s.group j := (rfl)
@[simp] theorem State.setSbyOf_eng (s : State) (k : Nat) (v : HandOver) (j : Nat) : (s.setSbyOf k v).eng j = s.eng j := (rfl)
@[simp] theorem State.setSbyOf_sprOf (s : State) (k : Nat) (v : HandOver) (j : Nat) : (s.setSbyOf k v).sprOf j = s.sprOf j := (rfl)
@[simp] theorem State.setSbyOf_tblOf (s : State) (k : Nat) (v : HandOver) (j : Nat) : (s.setSbyOf k v).tblOf j = s.tblOf j := (rfl)
@[simp] theorem State.setSbyOf_trk (s : State) (k : Nat) (v : HandOver) (j : Nat) : (s.setSbyOf k v).trk j = s.trk j := (rfl)
@[simp] theorem State.setSbyOf_slot (s : State) (k : Nat) (v : HandOver) (j : Nat) : (s.setSbyOf k v).slot j = s.slot j := (rfl)
@[simp] theorem State.setSbyOf_enc (s : State) (k : Nat) (v : HandOver) (j : Nat) : (s.setSbyOf k v).enc j = s.enc j := (rfl)
@[simp] theorem State.setSbyOf_sig (s : State) (k : Nat) (v : HandOver) (j : Nat) : (s.setSbyOf k v).sig j = s.sig j := (rfl)
@[simp] theorem State.setSbyOf_core (s : State) (k : Nat) (v : HandOver) (j : Nat) : (s.setSbyOf k v).core j = s.core j := (rfl)
@[simp] theorem State.setSbyOf_flow (s : State) (k : Nat) (v : HandOver) (j : Nat) : (s.setSbyOf k v).flow j = s.flow j := (rfl)
@[simp] theorem State.setSbyOf_src (s : State) (k : Nat) (v : HandOver) (j : Nat) : (s.setSbyOf k v).src j = s.src j := (rfl)
@[simp] theorem State.setSbyOf_dma (s : State) (k : Nat) (v : HandOver) (j : Nat) : (s.setSbyOf k v).dma j = s.dma j := (rfl)
@[simp] theorem State.setSbyOf_lane (s : State) (k : Nat) (v : HandOver) (j : Nat) : (s.setSbyOf k v).lane j = s.lane j := (rfl)
@[simp] theorem State.setSbyOf_lport (s : State) (k : Nat) (v : HandOver) (j : Nat) : (s.setSbyOf k v).lport j = s.lport j := (rfl)
@[simp] theorem State.setSbyOf_mac (s : State) (k : Nat) (v : HandOver) (j : Nat) : (s.setSbyOf k v).mac j = s.mac j := (rfl)
@[simp] theorem State.setSbyOf_can (s : State) (k : Nat) (v : HandOver) (j : Nat) : (s.setSbyOf k v).can j = s.can j := (rfl)
@[simp] theorem State.setSbyOf_spi (s : State) (k : Nat) (v : HandOver) (j : Nat) : (s.setSbyOf k v).spi j = s.spi j := (rfl)
@[simp] theorem State.setSbyOf_now (s : State) (k : Nat) (v : HandOver) : (s.setSbyOf k v).now = s.now := (rfl)
theorem State.setSbyOf_sbyOf (s : State) (k : Nat) (v : HandOver) (j : Nat) :
    (s.setSbyOf k v).sbyOf j = if j = k then v else s.sbyOf j := AMap.get_set _ _ _ _ _
theorem State.updSbyOf_eq (s : State) (k : Nat) (f : HandOver → HandOver) : s.updSbyOf k f = s.setSbyOf k (f (s.sbyOf k)) := (rfl)

/-! ### setSprOf -/

@[simp] theorem State.setSprOf_pending (s : State) (k : Nat) (v : HandOver) : (s.setSprOf k v).pending = s.pending := (rfl)
@[simp] theorem State.setSprOf_free (s : State) (k : Nat) (v : HandOver) : (s.setSprOf k v).free = s.free := (rfl)
@[simp] theorem State.setSprOf_tb (s : State) (k : Nat) (v : HandOver) : (s.setSprOf k v).tb = s.tb := (rfl)
@[simp] theorem State.setSprOf_regs (s : State) (k : Nat) (v : HandOver) : (s.setSprOf k v).regs = s.regs := (rfl)
@[simp] theorem State.setSprOf_hwSet (s : State) (k : Nat) (v : HandOver) : (s.setSprOf k v).hwSet = s.hwSet := (rfl)
@[simp] theorem State.setSprOf_swSet (s : State) (k : Nat) (v : HandOver) : (s.setSprOf k v).swSet = s.swSet := (rfl)
@[simp] theorem State.setSprOf_undef (s : State) (k : Nat) (v : HandOver) : (s.setSprOf k v).undef = s.undef := (rfl)
@[simp] theorem State.setSprOf_mem (s : State) (k : Nat) (v : HandOver) : (s.setSprOf k v).mem = s.mem := (rfl)
@[simp] theorem State.setSprOf_ecc (s : State) (k : Nat) (v : HandOver) : (s.setSprOf k v).ecc = s.ecc := (rfl)
@[simp] theorem State.setSprOf_pageErr (s : State) (k : Nat) (v : HandOver) : (s.setSprOf k v).pageErr = s.pageErr := (rfl)
@[simp] theorem State.setSprOf_rdata (s : State) (k : Nat) (v : HandOver) : (s.setSprOf k v).rdata = s.rdata := (rfl)
@[simp] theorem State.setSprOf_rt (s : State) (k : Nat) (v : HandOver) : (s.setSprOf k v).rt = s.rt := (rfl)
@[simp] theorem State.setSprOf_stg (s : State) (k : Nat) (v : HandOver) : (s.setSprOf k v).stg = s.stg := (rfl)
@[simp] theorem State.setSprOf_pr (s : State) (k : Nat) (v : HandOver) : (s.setSprOf k v).pr = s.pr := (rfl)
@[simp] theorem State.setSprOf_mv (s : State) (k : Nat) (v : HandOver) : (s.setSprOf k v).mv = s.mv := (rfl)
@[simp] theorem State.setSprOf_lg (s : State) (k : Nat) (v : HandOver) : (s.setSprOf k v).lg = s.lg := (rfl)
@[simp] theorem State.setSprOf_lanes (s : State) (k : Nat) (v : HandOver) : (s.setSprOf k v).lanes = s.lanes := (rfl)
@[simp] theorem State.setSprOf_path (s : State) (k : Nat) (v : HandOver) : (s.setSprOf k v).path = s.path := (rfl)
@[simp] theorem State.setSprOf_md (s : State) (k : Nat) (v : HandOver) : (s.setSprOf k v).md = s.md := (rfl)
@[simp] theorem State.setSprOf_up (s : State) (k : Nat) (v : HandOver) : (s.setSprOf k v).up = s.up := (rfl)
@[simp] theorem State.setSprOf_ts (s : State) (k : Nat) (v : HandOver) : (s.setSprOf k v).ts = s.ts := (rfl)
@[simp] theorem State.setSprOf_io (s : State) (k : Nat) (v : HandOver) : (s.setSprOf k v).io = s.io := (rfl)
@[simp] theorem State.setSprOf_sq1 (s : State) (k : Nat) (v : HandOver) : (s.setSprOf k v).sq1 = s.sq1 := (rfl)
@[simp] theorem State.setSprOf_reg (s : State) (k : Nat) (v : HandOver) (j : Nat) : (s.setSprOf k v).reg j = s.reg j := (rfl)
@[simp] theorem State.setSprOf_byte (s : State) (k : Nat) (v : HandOver) (j : Nat) : (s.setSprOf k v).byte j = s.byte j := (rfl)
@[simp] theorem State.setSprOf_eccMask (s : State) (k : Nat) (v : HandOver) (j : Nat) : (s.setSprOf k v).eccMask j = s.eccMask j := (rfl)
@[simp] theorem State.setSprOf_conv (s : State) (k : Nat) (v : HandOver) (j : Nat) : (s.setSprOf k v).conv j = s.conv j := (rfl)
@[simp] theorem State.setSprOf_chan (s : State) (k : Nat) (v : HandOver) (j : Nat) : (s.setSprOf k v).chan j = s.chan j := (rfl)
@[simp] theorem State.setSprOf_group (s : State) (k : Nat) (v : HandOver) (j : Nat) : (s.setSprOf k v).group j = s.group j := (rfl)
@[simp] theorem State.setSprOf_eng (s : State) (k : Nat) (v : HandOver) (j : Nat) : (s.setSprOf k v).eng j = s.eng j := (rfl)
@[simp] theorem State.setSprOf_sbyOf (s : State) (k : Nat) (v : HandOver) (j : Nat) : (s.setSprOf k v).sbyOf j = s.sbyOf j := (rfl)
@[simp] theorem State.setSprOf_tblOf (s : State) (k : Nat) (v : HandOver) (j : Nat) : (s.setSprOf k v).tblOf j = s.tblOf j := (rfl)
@[simp] theorem State.setSprOf_trk (s : State) (k : Nat) (v : HandOver) (j : Nat) : (s.setSprOf k v).trk j = s.trk j := (rfl)
@[simp] theorem State.setSprOf_slot (s : State) (k : Nat) (v : HandOver) (j : Nat) : (s.setSprOf k v).slot j = s.slot j := (rfl)
@[simp] theorem State.setSprOf_enc (s : State) (k : Nat) (v : HandOver) (j : Nat) : (s.setSprOf k v).enc j = s.enc j := (rfl)
@[simp] theorem State.setSprOf_sig (s : State) (k : Nat) (v : HandOver) (j : Nat) : (s.setSprOf k v).sig j = s.sig j := (rfl)
@[simp] theorem State.setSprOf_core (s : State) (k : Nat) (v : HandOver) (j : Nat) : (s.setSprOf k v).core j = s.core j := (rfl)
@[simp] theorem State.setSprOf_flow (s : State) (k : Nat) (v : HandOver) (j : Nat) : (s.setSprOf k v).flow j = s.flow j := (rfl)
@[simp] theorem State.setSprOf_src (s : State) (k : Nat) (v : HandOver) (j : Nat) : (s.setSprOf k v).src j = s.src j := (rfl)
@[simp] theorem State.setSprOf_dma (s : State) (k : Nat) (v : HandOver) (j : Nat) : (s.setSprOf k v).dma j = s.dma j := (rfl)
@[simp] theorem State.setSprOf_lane (s : State) (k : Nat) (v : HandOver) (j : Nat) : (s.setSprOf k v).lane j = s.lane j := (rfl)
@[simp] theorem State.setSprOf_lport (s : State) (k : Nat) (v : HandOver) (j : Nat) : (s.setSprOf k v).lport j = s.lport j := (rfl)
@[simp] theorem State.setSprOf_mac (s : State) (k : Nat) (v : HandOver) (j : Nat) : (s.setSprOf k v).mac j = s.mac j := (rfl)
@[simp] theorem State.setSprOf_can (s : State) (k : Nat) (v : HandOver) (j : Nat) : (s.setSprOf k v).can j = s.can j := (rfl)
@[simp] theorem State.setSprOf_spi (s : State) (k : Nat) (v : HandOver) (j : Nat) : (s.setSprOf k v).spi j = s.spi j := (rfl)
@[simp] theorem State.setSprOf_now (s : State) (k : Nat) (v : HandOver) : (s.setSprOf k v).now = s.now := (rfl)
theorem State.setSprOf_sprOf (s : State) (k : Nat) (v : HandOver) (j : Nat) :
    (s.setSprOf k v).sprOf j = if j = k then v else s.sprOf j := AMap.get_set _ _ _ _ _
theorem State.updSprOf_eq (s : State) (k : Nat) (f : HandOver → HandOver) : s.updSprOf k f = s.setSprOf k (f (s.sprOf k)) := (rfl)

/-! ### setTblOf -/

@[simp] theorem State.setTblOf_pending (s : State) (k : Nat) (v : TableState) : (s.setTblOf k v).pending = s.pending := (rfl)
@[simp] theorem State.setTblOf_free (s : State) (k : Nat) (v : TableState) : (s.setTblOf k v).free = s.free := (rfl)
@[simp] theorem State.setTblOf_tb (s : State) (k : Nat) (v : TableState) : (s.setTblOf k v).tb = s.tb := (rfl)
@[simp] theorem State.setTblOf_regs (s : State) (k : Nat) (v : TableState) : (s.setTblOf k v).regs = s.regs := (rfl)
@[simp] theorem State.setTblOf_hwSet (s : State) (k : Nat) (v : TableState) : (s.setTblOf k v).hwSet = s.hwSet := (rfl)
@[simp] theorem State.setTblOf_swSet (s : State) (k : Nat) (v : TableState) : (s.setTblOf k v).swSet = s.swSet := (rfl)
@[simp] theorem State.setTblOf_undef (s : State) (k : Nat) (v : TableState) : (s.setTblOf k v).undef = s.undef := (rfl)
@[simp] theorem State.setTblOf_mem (s : State) (k : Nat) (v : TableState) : (s.setTblOf k v).mem = s.mem := (rfl)
@[simp] theorem State.setTblOf_ecc (s : State) (k : Nat) (v : TableState) : (s.setTblOf k v).ecc = s.ecc := (rfl)
@[simp] theorem State.setTblOf_pageErr (s : State) (k : Nat) (v : TableState) : (s.setTblOf k v).pageErr = s.pageErr := (rfl)
@[simp] theorem State.setTblOf_rdata (s : State) (k : Nat) (v : TableState) : (s.setTblOf k v).rdata = s.rdata := (rfl)
@[simp] theorem State.setTblOf_rt (s : State) (k : Nat) (v : TableState) : (s.setTblOf k v).rt = s.rt := (rfl)
@[simp] theorem State.setTblOf_stg (s : State) (k : Nat) (v : TableState) : (s.setTblOf k v).stg = s.stg := (rfl)
@[simp] theorem State.setTblOf_pr (s : State) (k : Nat) (v : TableState) : (s.setTblOf k v).pr = s.pr := (rfl)
@[simp] theorem State.setTblOf_mv (s : State) (k : Nat) (v : TableState) : (s.setTblOf k v).mv = s.mv := (rfl)
@[simp] theorem State.setTblOf_lg (s : State) (k : Nat) (v : TableState) : (s.setTblOf k v).lg = s.lg := (rfl)
@[simp] theorem State.setTblOf_lanes (s : State) (k : Nat) (v : TableState) : (s.setTblOf k v).lanes = s.lanes := (rfl)
@[simp] theorem State.setTblOf_path (s : State) (k : Nat) (v : TableState) : (s.setTblOf k v).path = s.path := (rfl)
@[simp] theorem State.setTblOf_md (s : State) (k : Nat) (v : TableState) : (s.setTblOf k v).md = s.md := (rfl)
@[simp] theorem State.setTblOf_up (s : State) (k : Nat) (v : TableState) : (s.setTblOf k v).up = s.up := (rfl)
@[simp] theorem State.setTblOf_ts (s : State) (k : Nat) (v : TableState) : (s.setTblOf k v).ts = s.ts := (rfl)
@[simp] theorem State.setTblOf_io (s : State) (k : Nat) (v : TableState) : (s.setTblOf k v).io = s.io := (rfl)
@[simp] theorem State.setTblOf_sq1 (s : State) (k : Nat) (v : TableState) : (s.setTblOf k v).sq1 = s.sq1 := (rfl)
@[simp] theorem State.setTblOf_reg (s : State) (k : Nat) (v : TableState) (j : Nat) : (s.setTblOf k v).reg j = s.reg j := (rfl)
@[simp] theorem State.setTblOf_byte (s : State) (k : Nat) (v : TableState) (j : Nat) : (s.setTblOf k v).byte j = s.byte j := (rfl)
@[simp] theorem State.setTblOf_eccMask (s : State) (k : Nat) (v : TableState) (j : Nat) : (s.setTblOf k v).eccMask j = s.eccMask j := (rfl)
@[simp] theorem State.setTblOf_conv (s : State) (k : Nat) (v : TableState) (j : Nat) : (s.setTblOf k v).conv j = s.conv j := (rfl)
@[simp] theorem State.setTblOf_chan (s : State) (k : Nat) (v : TableState) (j : Nat) : (s.setTblOf k v).chan j = s.chan j := (rfl)
@[simp] theorem State.setTblOf_group (s : State) (k : Nat) (v : TableState) (j : Nat) : (s.setTblOf k v).group j = s.group j := (rfl)
@[simp] theorem State.setTblOf_eng (s : State) (k : Nat) (v : TableState) (j : Nat) : (s.setTblOf k v).eng j = s.eng j := (rfl)
@[simp] theorem State.setTblOf_sbyOf (s : State) (k : Nat) (v : TableState) (j : Nat) : (s.setTblOf k v).sbyOf j = s.sbyOf j := (rfl)
@[simp] theorem State.setTblOf_sprOf (s : State) (k : Nat) (v : TableState) (j : Nat) : (s.setTblOf k v).sprOf j = s.sprOf j := (rfl)
@[simp] theorem State.setTblOf_trk (s : State) (k : Nat) (v : TableState) (j : Nat) : (s.setTblOf k v).trk j = s.trk j := (rfl)
@[simp] theorem State.setTblOf_slot (s : State) (k : Nat) (v : TableState) (j : Nat) : (s.setTblOf k v).slot j = s.slot j := (rfl)
@[simp] theorem State.setTblOf_enc (s : State) (k : Nat) (v : TableState) (j : Nat) : (s.setTblOf k v).enc j = s.enc j := (rfl)
@[simp] theorem State.setTblOf_sig (s : State) (k : Nat) (v : TableState) (j : Nat) : (s.setTblOf k v).sig j = s.sig j := (rfl)
@[simp] theorem State.setTblOf_core (s : State) (k : Nat) (v : TableState) (j : Nat) : (s.setTblOf k v).core j = s.core j := (rfl)
@[simp] theorem State.setTblOf_flow (s : State) (k : Nat) (v : TableState) (j : Nat) : (s.setTblOf k v).flow j = s.flow j := (rfl)
@[simp] theorem State.setTblOf_src (s : State) (k : Nat) (v : TableState) (j : Nat) : (s.setTblOf k v).src j = s.src j := (rfl)
@[simp] theorem State.setTblOf_dma (s : State) (k : Nat) (v : TableState) (j : Nat) : (s.setTblOf k v).dma j = s.dma j := (rfl)
@[simp] theorem State.setTblOf_lane (s : State) (k : Nat) (v : TableState) (j : Nat) : (s.setTblOf k v).lane j = s.lane j := (rfl)
@[simp] theorem State.setTblOf_lport (s : State) (k : Nat) (v : TableState) (j : Nat) : (s.setTblOf k v).lport j = s.lport j := (rfl)
@[simp] theorem State.setTblOf_mac (s : State) (k : Nat) (v : TableState) (j : Nat) : (s.setTblOf k v).mac j = s.mac j := (rfl)
@[simp] theorem State.setTblOf_can (s : State) (k : Nat) (v : TableState) (j : Nat) : (s.setTblOf k v).can j = s.can j := (rfl)
@[simp] theorem State.setTblOf_spi (s : State) (k : Nat) (v : TableState) (j : Nat) : (s.setTblOf k v).spi j = s.spi j := (rfl)
@[simp] theorem State.setTblOf_now (s : State) (k : Nat) (v : TableState) : (s.setTblOf k v).now = s.now := (rfl)
theorem State.setTblOf_tblOf (s : State) (k : Nat) (v : TableState) (j : Nat) :
    (s.setTblOf k v).tblOf j = if j = k then v else s.tblOf j := AMap.get_set _ _ _ _ _
theorem State.updTblOf_eq (s : State) (k : Nat) (f : TableState → TableState) : s.updTblOf k f = s.setTblOf k (f (s.tblOf k)) := (rfl)

/-! ### setTrk -/

@[simp] theorem State.setTrk_pending (s : State) (k : Nat) (v : Tracker) : (s.setTrk k v).pending = s.pending := (rfl)
@[simp] theorem State.setTrk_free (s : State) (k : Nat) (v : Tracker) : (s.setTrk k v).free = s.free := (rfl)
@[simp] theorem State.setTrk_tb (s : State) (k : Nat) (v : Tracker) : (s.setTrk k v).tb = s.tb := (rfl)
@[simp] theorem State.setTrk_regs (s : State) (k : Nat) (v : Tracker) : (s.setTrk k v).regs = s.regs := (rfl)
@[simp] theorem State.setTrk_hwSet (s : State) (k : Nat) (v : Tracker) : (s.setTrk k v).hwSet = s.hwSet := (rfl)
@[simp] theorem State.setTrk_swSet (s : State) (k : Nat) (v : Tracker) : (s.setTrk k v).swSet = s.swSet := (rfl)
@[simp] theorem State.setTrk_undef (s : State) (k : Nat) (v : Tracker) : (s.setTrk k v).undef = s.undef := (rfl)
@[simp] theorem State.setTrk_mem (s : State) (k : Nat) (v : Tracker) : (s.setTrk k v).mem = s.mem := (rfl)
@[simp] theorem State.setTrk_ecc (s : State) (k : Nat) (v : Tracker) : (s.setTrk k v).ecc = s.ecc := (rfl)
@[simp] theorem State.setTrk_pageErr (s : State) (k : Nat) (v : Tracker) : (s.setTrk k v).pageErr = s.pageErr := (rfl)
@[simp] theorem State.setTrk_rdata (s : State) (k : Nat) (v : Tracker) : (s.setTrk k v).rdata = s.rdata := (rfl)
@[simp] theorem State.setTrk_rt (s : State) (k : Nat) (v : Tracker) : (s.setTrk k v).rt = s.rt := (rfl)
@[simp] theorem State.setTrk_stg (s : State) (k : Nat) (v : Tracker) : (s.setTrk k v).stg = s.stg := (rfl)
@[simp] theorem State.setTrk_pr (s : State) (k : Nat) (v : Tracker) : (s.setTrk k v).pr = s.pr := (rfl)
@[simp] theorem State.setTrk_mv (s : State) (k : Nat) (v : Tracker) : (s.setTrk k v).mv = s.mv := (rfl)
@[simp] theorem State.setTrk_lg (s : State) (k : Nat) (v : Tracker) : (s.setTrk k v).lg = s.lg := (rfl)
@[simp] theorem State.setTrk_lanes (s : State) (k : Nat) (v : Tracker) : (s.setTrk k v).lanes = s.lanes := (rfl)
@[simp] theorem State.setTrk_path (s : State) (k : Nat) (v : Tracker) : (s.setTrk k v).path = s.path := (rfl)
@[simp] theorem State.setTrk_md (s : State) (k : Nat) (v : Tracker) : (s.setTrk k v).md = s.md := (rfl)
@[simp] theorem State.setTrk_up (s : State) (k : Nat) (v : Tracker) : (s.setTrk k v).up = s.up := (rfl)
@[simp] theorem State.setTrk_ts (s : State) (k : Nat) (v : Tracker) : (s.setTrk k v).ts = s.ts := (rfl)
@[simp] theorem State.setTrk_io (s : State) (k : Nat) (v : Tracker) : (s.setTrk k v).io = s.io := (rfl)
@[simp] theorem State.setTrk_sq1 (s : State) (k : Nat) (v : Tracker) : (s.setTrk k v).sq1 = s.sq1 := (rfl)
@[simp] theorem State.setTrk_reg (s : State) (k : Nat) (v : Tracker) (j : Nat) : (s.setTrk k v).reg j = s.reg j := (rfl)
@[simp] theorem State.setTrk_byte (s : State) (k : Nat) (v : Tracker) (j : Nat) : (s.setTrk k v).byte j = s.byte j := (rfl)
@[simp] theorem State.setTrk_eccMask (s : State) (k : Nat) (v : Tracker) (j : Nat) : (s.setTrk k v).eccMask j = s.eccMask j := (rfl)
@[simp] theorem State.setTrk_conv (s : State) (k : Nat) (v : Tracker) (j : Nat) : (s.setTrk k v).conv j = s.conv j := (rfl)
@[simp] theorem State.setTrk_chan (s : State) (k : Nat) (v : Tracker) (j : Nat) : (s.setTrk k v).chan j = s.chan j := (rfl)
@[simp] theorem State.setTrk_group (s : State) (k : Nat) (v : Tracker) (j : Nat) : (s.setTrk k v).group j = s.group j := (rfl)
@[simp] theorem State.setTrk_eng (s : State) (k : Nat) (v : Tracker) (j : Nat) : (s.setTrk k v).eng j = s.eng j := (rfl)
@[simp] theorem State.setTrk_sbyOf (s : State) (k : Nat) (v : Tracker) (j : Nat) : (s.setTrk k v).sbyOf j = s.sbyOf j := (rfl)
@[simp] theorem State.setTrk_sprOf (s : State) (k : Nat) (v : Tracker) (j : Nat) : (s.setTrk k v).sprOf j = s.sprOf j := (rfl)
@[simp] theorem State.setTrk_tblOf (s : State) (k : Nat) (v : Tracker) (j : Nat) : (s.setTrk k v).tblOf j = s.tblOf j := (rfl)
@[simp] theorem State.setTrk_slot (s : State) (k : Nat) (v : Tracker) (j : Nat) : (s.setTrk k v).slot j = s.slot j := (rfl)
@[simp] theorem State.setTrk_enc (s : State) (k : Nat) (v : Tracker) (j : Nat) : (s.setTrk k v).enc j = s.enc j := (rfl)
@[simp] theorem State.setTrk_sig (s : State) (k : Nat) (v : Tracker) (j : Nat) : (s.setTrk k v).sig j = s.sig j := (rfl)
@[simp] theorem State.setTrk_core (s : State) (k : Nat) (v : Tracker) (j : Nat) : (s.setTrk k v).core j = s.core j := (rfl)
@[simp] theorem State.setTrk_flow (s : State) (k : Nat) (v : Tracker) (j : Nat) : (s.setTrk k v).flow j = s.flow j := (rfl)
@[simp] theorem State.setTrk_src (s : State) (k : Nat) (v : Tracker) (j : Nat) : (s.setTrk k v).src j = s.src j := (rfl)
@[simp] theorem State.setTrk_dma (s : State) (k : Nat) (v : Tracker) (j : Nat) : (s.setTrk k v).dma j = s.dma j := (rfl)
@[simp] theorem State.setTrk_lane (s : State) (k : Nat) (v : Tracker) (j : Nat) : (s.setTrk k v).lane j = s.lane j := (rfl)
@[simp] theorem State.setTrk_lport (s : State) (k : Nat) (v : Tracker) (j : Nat) : (s.setTrk k v).lport j = s.lport j := (rfl)
@[simp] theorem State.setTrk_mac (s : State) (k : Nat) (v : Tracker) (j : Nat) : (s.setTrk k v).mac j = s.mac j := (rfl)
@[simp] theorem State.setTrk_can (s : State) (k : Nat) (v : Tracker) (j : Nat) : (s.setTrk k v).can j = s.can j := (rfl)
@[simp] theorem State.setTrk_spi (s : State) (k : Nat) (v : Tracker) (j : Nat) : (s.setTrk k v).spi j = s.spi j := (rfl)
@[simp] theorem State.setTrk_now (s : State) (k : Nat) (v : Tracker) : (s.setTrk k v).now = s.now := (rfl)
theorem State.setTrk_trk (s : State) (k : Nat) (v : Tracker) (j : Nat) :
    (s.setTrk k v).trk j = if j = k then v else s.trk j := AMap.get_set _ _ _ _ _
theorem State.updTrk_eq (s : State) (k : Nat) (f : Tracker → Tracker) : s.updTrk k f = s.setTrk k (f (s.trk k)) := (rfl)

/-! ### setSlot -/

@[simp] theorem State.setSlot_pending (s : State) (k : Nat) (v : AngleSlot) : (s.setSlot k v).pending = s.pending := (rfl)
@[simp] theorem State.setSlot_free (s : State) (k : Nat) (v : AngleSlot) : (s.setSlot k v).free = s.free := (rfl)
@[simp] theorem State.setSlot_tb (s : State) (k : Nat) (v : AngleSlot) : (s.setSlot k v).tb = s.tb := (rfl)
@[simp] theorem State.setSlot_regs (s : State) (k : Nat) (v : AngleSlot) : (s.setSlot k v).regs = s.regs := (rfl)
@[simp] theorem State.setSlot_hwSet (s : State) (k : Nat) (v : AngleSlot) : (s.setSlot k v).hwSet = s.hwSet := (rfl)
@[simp] theorem State.setSlot_swSet (s : State) (k : Nat) (v : AngleSlot) : (s.setSlot k v).swSet = s.swSet := (rfl)
@[simp] theorem State.setSlot_undef (s : State) (k : Nat) (v : AngleSlot) : (s.setSlot k v).undef = s.undef := (rfl)
@[simp] theorem State.setSlot_mem (s : State) (k : Nat) (v : AngleSlot) : (s.setSlot k v).mem = s.mem := (rfl)
@[simp] theorem State.setSlot_ecc (s : State) (k : Nat) (v : AngleSlot) : (s.setSlot k v).ecc = s.ecc := (rfl)
@[simp] theorem State.setSlot_pageErr (s : State) (k : Nat) (v : AngleSlot) : (s.setSlot k v).pageErr = s.pageErr := (rfl)
@[simp] theorem State.setSlot_rdata (s : State) (k : Nat) (v : AngleSlot) : (s.setSlot k v).rdata = s.rdata := (rfl)
@[simp] theorem State.setSlot_rt (s : State) (k : Nat) (v : AngleSlot) : (s.setSlot k v).rt = s.rt := (rfl)
@[simp] theorem State.setSlot_stg (s : State) (k : Nat) (v : AngleSlot) : (s.setSlot k v).stg = s.stg := (rfl)
@[simp] theorem State.setSlot_pr (s : State) (k : Nat) (v : AngleSlot) : (s.setSlot k v).pr = s.pr := (rfl)
@[simp] theorem State.setSlot_mv (s : State) (k : Nat) (v : AngleSlot) : (s.setSlot k v).mv = s.mv := (rfl)
@[simp] theorem State.setSlot_lg (s : State) (k : Nat) (v : AngleSlot) : (s.setSlot k v).lg = s.lg := (rfl)
@[simp] theorem State.setSlot_lanes (s : State) (k : Nat) (v : AngleSlot) : (s.setSlot k v).lanes = s.lanes := (rfl)
@[simp] theorem State.setSlot_path (s : State) (k : Nat) (v : AngleSlot) : (s.setSlot k v).path = s.path := (rfl)
@[simp] theorem State.setSlot_md (s : State) (k : Nat) (v : AngleSlot) : (s.setSlot k v).md = s.md := (rfl)
@[simp] theorem State.setSlot_up (s : State) (k : Nat) (v : AngleSlot) : (s.setSlot k v).up = s.up := (rfl)
@[simp] theorem State.setSlot_ts (s : State) (k : Nat) (v : AngleSlot) : (s.setSlot k v).ts = s.ts := (rfl)
@[simp] theorem State.setSlot_io (s : State) (k : Nat) (v : AngleSlot) : (s.setSlot k v).io = s.io := (rfl)
@[simp] theorem State.setSlot_sq1 (s : State) (k : Nat) (v : AngleSlot) : (s.setSlot k v).sq1 = s.sq1 := (rfl)
@[simp] theorem State.setSlot_reg (s : State) (k : Nat) (v : AngleSlot) (j : Nat) : (s.setSlot k v).reg j = s.reg j := (rfl)
@[simp] theorem State.setSlot_byte (s : State) (k : Nat) (v : AngleSlot) (j : Nat) : (s.setSlot k v).byte j = s.byte j := (rfl)
@[simp] theorem State.setSlot_eccMask (s : State) (k : Nat) (v : AngleSlot) (j : Nat) : (s.setSlot k v).eccMask j = s.eccMask j := (rfl)
@[simp] theorem State.setSlot_conv (s : State) (k : Nat) (v : AngleSlot) (j : Nat) : (s.setSlot k v).conv j = s.conv j := (rfl)
@[simp] theorem State.setSlot_chan (s : State) (k : Nat) (v : AngleSlot) (j : Nat) : (s.setSlot k v).chan j = s.chan j := (rfl)
@[simp] theorem State.setSlot_group (s : State) (k : Nat) (v : AngleSlot) (j : Nat) : (s.setSlot k v).group j = s.group j := (rfl)
@[simp] theorem State.setSlot_eng (s : State) (k : Nat) (v : AngleSlot) (j : Nat) : (s.setSlot k v).eng j = s.eng j := (rfl)
@[simp] theorem State.setSlot_sbyOf (s : State) (k : Nat) (v : AngleSlot) (j : Nat) : (s.setSlot k v).sbyOf j = s.sbyOf j := (rfl)
@[simp] theorem State.setSlot_sprOf (s : State) (k : Nat) (v : AngleSlot) (j : Nat) : (s.setSlot k v).sprOf j = s.sprOf j := (rfl)
@[simp] theorem State.setSlot_tblOf (s : State) (k : Nat) (v : AngleSlot) (j : Nat) : (s.setSlot k v).tblOf j = s.tblOf j := (rfl)
@[simp] theorem State.setSlot_trk (s : State) (k : Nat) (v : AngleSlot) (j : Nat) : (s.setSlot k v).trk j = s.trk j := (rfl)
@[simp] theorem State.setSlot_enc (s : State) (k : Nat) (v : AngleSlot) (j : Nat) : (s.setSlot k v).enc j = s.enc j := (rfl)
@[simp] theorem State.setSlot_sig (s : State) (k : Nat) (v : AngleSlot) (j : Nat) : (s.setSlot k v).sig j = s.sig j := (rfl)
@[simp] theorem State.setSlot_core (s : State) (k : Nat) (v : AngleSlot) (j : Nat) : (s.setSlot k v).core j = s.core j := (rfl)
@[simp] theorem State.setSlot_flow (s : State) (k : Nat) (v : AngleSlot) (j : Nat) : (s.setSlot k v).flow j = s.flow j := (rfl)
@[simp] theorem State.setSlot_src (s : State) (k : Nat) (v : AngleSlot) (j : Nat) : (s.setSlot k v).src j = s.src j := (rfl)
@[simp] theorem State.setSlot_dma (s : State) (k : Nat) (v : AngleSlot) (j : Nat) : (s.setSlot k v).dma j = s.dma j := (rfl)
@[simp] theorem State.setSlot_lane (s : State) (k : Nat) (v : AngleSlot) (j : Nat) : (s.setSlot k v).lane j = s.lane j := (rfl)
@[simp] theorem State.setSlot_lport (s : State) (k : Nat) (v : AngleSlot) (j : Nat) : (s.setSlot k v).lport j = s.lport j := (rfl)
@[simp] theorem State.setSlot_mac (s : State) (k : Nat) (v : AngleSlot) (j : Nat) : (s.setSlot k v).mac j = s.mac j := (rfl)
@[simp] theorem State.setSlot_can (s : State) (k : Nat) (v : AngleSlot) (j : Nat) : (s.setSlot k v).can j = s.can j := (rfl)
@[simp] theorem State.setSlot_spi (s : State) (k : Nat) (v : AngleSlot) (j : Nat) : (s.setSlot k v).spi j = s.spi j := (rfl)
@[simp] theorem State.setSlot_now (s : State) (k : Nat) (v : AngleSlot) : (s.setSlot k v).now = s.now := (rfl)
theorem State.setSlot_slot (s : State) (k : Nat) (v : AngleSlot) (j : Nat) :
    (s.setSlot k v).slot j = if j = k then v else s.slot j := AMap.get_set _ _ _ _ _
theorem State.updSlot_eq (s : State) (k : Nat) (f : AngleSlot → AngleSlot) : s.updSlot k f = s.setSlot k (f (s.slot k)) := (rfl)

/-! ### setEnc -/

@[simp] theorem State.setEnc_pending (s : State) (k : Nat) (v : Encoder) : (s.setEnc k v).pending = s.pending := (rfl)
@[simp] theorem State.setEnc_free (s : State) (k : Nat) (v : Encoder) : (s.setEnc k v).free = s.free := (rfl)
@[simp] theorem State.setEnc_tb (s : State) (k : Nat) (v : Encoder) : (s.setEnc k v).tb = s.tb := (rfl)
@[simp] theorem State.setEnc_regs (s : State) (k : Nat) (v : Encoder) : (s.setEnc k v).regs = s.regs := (rfl)
@[simp] theorem State.setEnc_hwSet (s : State) (k : Nat) (v : Encoder) : (s.setEnc k v).hwSet = s.hwSet := (rfl)
@[simp] theorem State.setEnc_swSet (s : State) (k : Nat) (v : Encoder) : (s.setEnc k v).swSet = s.swSet := (rfl)
@[simp] theorem State.setEnc_undef (s : State) (k : Nat) (v : Encoder) : (s.setEnc k v).undef = s.undef := (rfl)
@[simp] theorem State.setEnc_mem (s : State) (k : Nat) (v : Encoder) : (s.setEnc k v).mem = s.mem := (rfl)
@[simp] theorem State.setEnc_ecc (s : State) (k : Nat) (v : Encoder) : (s.setEnc k v).ecc = s.ecc := (rfl)
@[simp] theorem State.setEnc_pageErr (s : State) (k : Nat) (v : Encoder) : (s.setEnc k v).pageErr = s.pageErr := (rfl)
@[simp] theorem State.setEnc_rdata (s : State) (k : Nat) (v : Encoder) : (s.setEnc k v).rdata = s.rdata := (rfl)
@[simp] theorem State.setEnc_rt (s : State) (k : Nat) (v : Encoder) : (s.setEnc k v).rt = s.rt := (rfl)
@[simp] theorem State.setEnc_stg (s : State) (k : Nat) (v : Encoder) : (s.setEnc k v).stg = s.stg := (rfl)
@[simp] theorem State.setEnc_pr (s : State) (k : Nat) (v : Encoder) : (s.setEnc k v).pr = s.pr := (rfl)
@[simp] theorem State.setEnc_mv (s : State) (k : Nat) (v : Encoder) : (s.setEnc k v).mv = s.mv := (rfl)
@[simp] theorem State.setEnc_lg (s : State) (k : Nat) (v : Encoder) : (s.setEnc k v).lg = s.lg := (rfl)
@[simp] theorem State.setEnc_lanes (s : State) (k : Nat) (v : Encoder) : (s.setEnc k v).lanes = s.lanes := (rfl)
@[simp] theorem State.setEnc_path (s : State) (k : Nat) (v : Encoder) : (s.setEnc k v).path = s.path := (rfl)
@[simp] theorem State.setEnc_md (s : State) (k : Nat) (v : Encoder) : (s.setEnc k v).md = s.md := (rfl)
@[simp] theorem State.setEnc_up (s : State) (k : Nat) (v : Encoder) : (s.setEnc k v).up = s.up := (rfl)
@[simp] theorem State.setEnc_ts (s : State) (k : Nat) (v : Encoder) : (s.setEnc k v).ts = s.ts := (rfl)
@[simp] theorem State.setEnc_io (s : State) (k : Nat) (v : Encoder) : (s.setEnc k v).io = s.io := (rfl)
@[simp] theorem State.setEnc_sq1 (s : State) (k : Nat) (v : Encoder) : (s.setEnc k v).sq1 = s.sq1 := (rfl)
@[simp] theorem State.setEnc_reg (s : State) (k : Nat) (v : Encoder) (j : Nat) : (s.setEnc k v).reg j = s.reg j := (rfl)
@[simp] theorem State.setEnc_byte (s : State) (k : Nat) (v : Encoder) (j : Nat) : (s.setEnc k v).byte j = s.byte j := (rfl)
@[simp] theorem State.setEnc_eccMask (s : State) (k : Nat) (v : Encoder) (j : Nat) : (s.setEnc k v).eccMask j = s.eccMask j := (rfl)
@[simp] theorem State.setEnc_conv (s : State) (k : Nat) (v : Encoder) (j : Nat) : (s.setEnc k v).conv j = s.conv j := (rfl)
@[simp] theorem State.setEnc_chan (s : State) (k : Nat) (v : Encoder) (j : Nat) : (s.setEnc k v).chan j = s.chan j := (rfl)
@[simp] theorem State.setEnc_group (s : State) (k : Nat) (v : Encoder) (j : Nat) : (s.setEnc k v).group j = s.group j := (rfl)
@[simp] theorem State.setEnc_eng (s : State) (k : Nat) (v : Encoder) (j : Nat) : (s.setEnc k v).eng j = s.eng j := (rfl)
@[simp] theorem State.setEnc_sbyOf (s : State) (k : Nat) (v : Encoder) (j : Nat) : (s.setEnc k v).sbyOf j = s.sbyOf j := (rfl)
@[simp] theorem State.setEnc_sprOf (s : State) (k : Nat) (v : Encoder) (j : Nat) : (s.setEnc k v).sprOf j = s.sprOf j := (rfl)
@[simp] theorem State.setEnc_tblOf (s : State) (k : Nat) (v : Encoder) (j : Nat) : (s.setEnc k v).tblOf j = s.tblOf j := (rfl)
@[simp] theorem State.setEnc_trk (s : State) (k : Nat) (v : Encoder) (j : Nat) : (s.setEnc k v).trk j = s.trk j := (rfl)
@[simp] theorem State.setEnc_slot (s : State) (k : Nat) (v : Encoder) (j : Nat) : (s.setEnc k v).slot j = s.slot j := (rfl)
@[simp] theorem State.setEnc_sig (s : State) (k : Nat) (v : Encoder) (j : Nat) : (s.setEnc k v).sig j = s.sig j := (rfl)
@[simp] theorem State.setEnc_core (s : State) (k : Nat) (v : Encoder) (j : Nat) : (s.setEnc k v).core j = s.core j := (rfl)
@[simp] theorem State.setEnc_flow (s : State) (k : Nat) (v : Encoder) (j : Nat) : (s.setEnc k v).flow j = s.flow j := (rfl)
@[simp] theorem State.setEnc_src (s : State) (k : Nat) (v : Encoder) (j : Nat) : (s.setEnc k v).src j = s.src j := (rfl)
@[simp] theorem State.setEnc_dma (s : State) (k : Nat) (v : Encoder) (j : Nat) : (s.setEnc k v).dma j = s.dma j := (rfl)
@[simp] theorem State.setEnc_lane (s : State) (k : Nat) (v : Encoder) (j : Nat) : (s.setEnc k v).lane j = s.lane j := (rfl)
@[simp] theorem State.setEnc_lport (s : State) (k : Nat) (v : Encoder) (j : Nat) : (s.setEnc k v).lport j = s.lport j := (rfl)
@[simp] theorem State.setEnc_mac (s : State) (k : Nat) (v : Encoder) (j : Nat) : (s.setEnc k v).mac j = s.mac j := (rfl)
@[simp] theorem State.setEnc_can (s : State) (k : Nat) (v : Encoder) (j : Nat) : (s.setEnc k v).can j = s.can j := (rfl)
@[simp] theorem State.setEnc_spi (s : State) (k : Nat) (v : Encoder) (j : Nat) : (s.setEnc k v).spi j = s.spi j := (rfl)
@[simp] theorem State.setEnc_now (s : State) (k : Nat) (v : Encoder) : (s.setEnc k v).now = s.now := (rfl)
theorem State.setEnc_enc (s : State) (k : Nat) (v : Encoder) (j : Nat) :
    (s.setEnc k v).enc j = if j = k then v else s.enc j := AMap.get_set _ _ _ _ _
theorem State.updEnc_eq (s : State) (k : Nat) (f : Encoder → Encoder) : s.updEnc k f = s.setEnc k (f (s.enc k)) := (rfl)

/-! ### setSig -/

@[simp] theorem State.setSig_pending (s : State) (k : Nat) (v : Signal) : (s.setSig k v).pending = s.pending := (rfl)
@[simp] theorem State.setSig_free (s : State) (k : Nat) (v : Signal) : (s.setSig k v).free = s.free := (rfl)
@[simp] theorem State.setSig_tb (s : State) (k : Nat) (v : Signal) : (s.setSig k v).tb = s.tb := (rfl)
@[simp] theorem State.setSig_regs (s : State) (k : Nat) (v : Signal) : (s.setSig k v).regs = s.regs := (rfl)
@[simp] theorem State.setSig_hwSet (s : State) (k : Nat) (v : Signal) : (s.setSig k v).hwSet = s.hwSet := (rfl)
@[simp] theorem State.setSig_swSet (s : State) (k : Nat) (v : Signal) : (s.setSig k v).swSet = s.swSet := (rfl)
@[simp] theorem State.setSig_undef (s : State) (k : Nat) (v : Signal) : (s.setSig k v).undef = s.undef := (rfl)
@[simp] theorem State.setSig_mem (s : State) (k : Nat) (v : Signal) : (s.setSig k v).mem = s.mem := (rfl)
@[simp] theorem State.setSig_ecc (s : State) (k : Nat) (v : Signal) : (s.setSig k v).ecc = s.ecc := (rfl)
@[simp] theorem State.setSig_pageErr (s : State) (k : Nat) (v : Signal) : (s.setSig k v).pageErr = s.pageErr := (rfl)
@[simp] theorem State.setSig_rdata (s : State) (k : Nat) (v : Signal) : (s.setSig k v).rdata = s.rdata := (rfl)
@[simp] theorem State.setSig_ch (s : State) (k : Nat) (v : Signal) : (s.setSig k v).ch = s.ch := (rfl)
@[simp] theorem State.setSig_stg (s : State) (k : Nat) (v : Signal) : (s.setSig k v).stg = s.stg := (rfl)
@[simp] theorem State.setSig_pr (s : State) (k : Nat) (v : Signal) : (s.setSig k v).pr = s.pr := (rfl)
@[simp] theorem State.setSig_mv (s : State) (k : Nat) (v : Signal) : (s.setSig k v).mv = s.mv := (rfl)
@[simp] theorem State.setSig_lg (s : State) (k : Nat) (v : Signal) : (s.setSig k v).lg = s.lg := (rfl)
@[simp] theorem State.setSig_lanes (s : State) (k : Nat) (v : Signal) : (s.setSig k v).lanes = s.lanes := (rfl)
@[simp] theorem State.setSig_path (s : State) (k : Nat) (v : Signal) : (s.setSig k v).path = s.path := (rfl)
@[simp] theorem State.setSig_md (s : State) (k : Nat) (v : Signal) : (s.setSig k v).md = s.md := (rfl)
@[simp] theorem State.setSig_up (s : State) (k : Nat) (v : Signal) : (s.setSig k v).up = s.up := (rfl)
@[simp] theorem State.setSig_ts (s : State) (k : Nat) (v : Signal) : (s.setSig k v).ts = s.ts := (rfl)
@[simp] theorem State.setSig_io (s : State) (k : Nat) (v : Signal) : (s.setSig k v).io = s.io := (rfl)
@[simp] theorem State.setSig_sq1 (s : State) (k : Nat) (v : Signal) : (s.setSig k v).sq1 = s.sq1 := (rfl)
@[simp] theorem State.setSig_reg (s : State) (k : Nat) (v : Signal) (j : Nat) : (s.setSig k v).reg j = s.reg j := (rfl)
@[simp] theorem State.setSig_byte (s : State) (k : Nat) (v : Signal) (j : Nat) : (s.setSig k v).byte j = s.byte j := (rfl)
@[simp] theorem State.setSig_eccMask (s : State) (k : Nat) (v : Signal) (j : Nat) : (s.setSig k v).eccMask j = s.eccMask j := (rfl)
@[simp] theorem State.setSig_conv (s : State) (k : Nat) (v : Signal) (j : Nat) : (s.setSig k v).conv j = s.conv j := (rfl)
@[simp] theorem State.setSig_chan (s : State) (k : Nat) (v : Signal) (j : Nat) : (s.setSig k v).chan j = s.chan j := (rfl)
@[simp] theorem State.setSig_group (s : State) (k : Nat) (v : Signal) (j : Nat) : (s.setSig k v).group j = s.group j := (rfl)
@[simp] theorem State.setSig_eng (s : State) (k : Nat) (v : Signal) (j : Nat) : (s.setSig k v).eng j = s.eng j := (rfl)
@[simp] theorem State.setSig_sbyOf (s : State) (k : Nat) (v : Signal) (j : Nat) : (s.setSig k v).sbyOf j = s.sbyOf j := (rfl)
@[simp] theorem State.setSig_sprOf (s : State) (k : Nat) (v : Signal) (j : Nat) : (s.setSig k v).sprOf j = s.sprOf j := (rfl)
@[simp] theorem State.setSig_tblOf (s : State) (k : Nat) (v : Signal) (j : Nat) : (s.setSig k v).tblOf j = s.tblOf j := (rfl)
@[simp] theorem State.setSig_trk (s : State) (k : Nat) (v : Signal) (j : Nat) : (s.setSig k v).trk j = s.trk j := (rfl)
@[simp] theorem State.setSig_slot (s : State) (k : Nat) (v : Signal) (j : Nat) : (s.setSig k v).slot j = s.slot j := (rfl)
@[simp] theorem State.setSig_enc (s : State) (k : Nat) (v : Signal) (j : Nat) : (s.setSig k v).enc j = s.enc j := (rfl)
@[simp] theorem State.setSig_core (s : State) (k : Nat) (v : Signal) (j : Nat) : (s.setSig k v).core j = s.core j := (rfl)
@[simp] theorem State.setSig_flow (s : State) (k : Nat) (v : Signal) (j : Nat) : (s.setSig k v).flow j = s.flow j := (rfl)
@[simp] theorem State.setSig_src (s : State) (k : Nat) (v : Signal) (j : Nat) : (s.setSig k v).src j = s.src j := (rfl)
@[simp] theorem State.setSig_dma (s : State) (k : Nat) (v : Signal) (j : Nat) : (s.setSig k v).dma j = s.dma j := (rfl)
@[simp] theorem State.setSig_lane (s : State) (k : Nat) (v : Signal) (j : Nat) : (s.setSig k v).lane j = s.lane j := (rfl)
@[simp] theorem State.setSig_lport (s : State) (k : Nat) (v : Signal) (j : Nat) : (s.setSig k v).lport j = s.lport j := (rfl)
@[simp] theorem State.setSig_mac (s : State) (k : Nat) (v : Signal) (j : Nat) : (s.setSig k v).mac j = s.mac j := (rfl)
@[simp] theorem State.setSig_can (s : State) (k : Nat) (v : Signal) (j : Nat) : (s.setSig k v).can j = s.can j := (rfl)
@[simp] theorem State.setSig_spi (s : State) (k : Nat) (v : Signal) (j : Nat) : (s.setSig k v).spi j = s.spi j := (rfl)
@[simp] theorem State.setSig_now (s : State) (k : Nat) (v : Signal) : (s.setSig k v).now = s.now := (rfl)
theorem State.setSig_sig (s : State) (k : Nat) (v : Signal) (j : Nat) :
    (s.setSig k v).sig j = if j = k then v else s.sig j := AMap.get_set _ _ _ _ _
theorem State.updSig_eq (s : State) (k : Nat) (f : Signal → Signal) : s.updSig k f = s.setSig k (f (s.sig k)) := (rfl)

/-! ### setCore -/

@[simp] theorem State.setCore_pending (s : State) (k : Nat) (v : Core) : (s.setCore k v).pending = s.pending := (rfl)
@[simp] theorem State.setCore_free (s : State) (k : Nat) (v : Core) : (s.setCore k v).free = s.free := (rfl)
@[simp] theorem State.setCore_tb (s : State) (k : Nat) (v : Core) : (s.setCore k v).tb = s.tb := (rfl)
@[simp] theorem State.setCore_regs (s : State) (k : Nat) (v : Core) : (s.setCore k v).regs = s.regs := (rfl)
@[simp] theorem State.setCore_hwSet (s : State) (k : Nat) (v : Core) : (s.setCore k v).hwSet = s.hwSet := (rfl)
@[simp] theorem State.setCore_swSet (s : State) (k : Nat) (v : Core) : (s.setCore k v).swSet = s.swSet := (rfl)
@[simp] theorem State.setCore_undef (s : State) (k : Nat) (v : Core) : (s.setCore k v).undef = s.undef := (rfl)
@[simp] theorem State.setCore_mem (s : State) (k : Nat) (v : Core) : (s.setCore k v).mem = s.mem := (rfl)
@[simp] theorem State.setCore_ecc (s : State) (k : Nat) (v : Core) : (s.setCore k v).ecc = s.ecc := (rfl)
@[simp] theorem State.setCore_pageErr (s : State) (k : Nat) (v : Core) : (s.setCore k v).pageErr = s.pageErr := (rfl)
@[simp] theorem State.setCore_rdata (s : State) (k : Nat) (v : Core) : (s.setCore k v).rdata = s.rdata := (rfl)
@[simp] theorem State.setCore_ch (s : State) (k : Nat) (v : Core) : (s.setCore k v).ch = s.ch := (rfl)
@[simp] theorem State.setCore_rt (s : State) (k : Nat) (v : Core) : (s.setCore k v).rt = s.rt := (rfl)
@[simp] theorem State.setCore_stg (s : State) (k : Nat) (v : Core) : (s.setCore k v).stg = s.stg := (rfl)
@[simp] theorem State.setCore_mv (s : State) (k : Nat) (v : Core) : (s.setCore k v).mv = s.mv := (rfl)
@[simp] theorem State.setCore_lg (s : State) (k : Nat) (v : Core) : (s.setCore k v).lg = s.lg := (rfl)
@[simp] theorem State.setCore_lanes (s : State) (k : Nat) (v : Core) : (s.setCore k v).lanes = s.lanes := (rfl)
@[simp] theorem State.setCore_path (s : State) (k : Nat) (v : Core) : (s.setCore k v).path = s.path := (rfl)
@[simp] theorem State.setCore_md (s : State) (k : Nat) (v : Core) : (s.setCore k v).md = s.md := (rfl)
@[simp] theorem State.setCore_up (s : State) (k : Nat) (v : Core) : (s.setCore k v).up = s.up := (rfl)
@[simp] theorem State.setCore_ts (s : State) (k : Nat) (v : Core) : (s.setCore k v).ts = s.ts := (rfl)
@[simp] theorem State.setCore_io (s : State) (k : Nat) (v : Core) : (s.setCore k v).io = s.io := (rfl)
@[simp] theorem State.setCore_sq1 (s : State) (k : Nat) (v : Core) : (s.setCore k v).sq1 = s.sq1 := (rfl)
@[simp] theorem State.setCore_reg (s : State) (k : Nat) (v : Core) (j : Nat) : (s.setCore k v).reg j = s.reg j := (rfl)
@[simp] theorem State.setCore_byte (s : State) (k : Nat) (v : Core) (j : Nat) : (s.setCore k v).byte j = s.byte j := (rfl)
@[simp] theorem State.setCore_eccMask (s : State) (k : Nat) (v : Core) (j : Nat) : (s.setCore k v).eccMask j = s.eccMask j := (rfl)
@[simp] theorem State.setCore_conv (s : State) (k : Nat) (v : Core) (j : Nat) : (s.setCore k v).conv j = s.conv j := (rfl)
@[simp] theorem State.setCore_chan (s : State) (k : Nat) (v : Core) (j : Nat) : (s.setCore k v).chan j = s.chan j := (rfl)
@[simp] theorem State.setCore_group (s : State) (k : Nat) (v : Core) (j : Nat) : (s.setCore k v).group j = s.group j := (rfl)
@[simp] theorem State.setCore_eng (s : State) (k : Nat) (v : Core) (j : Nat) : (s.setCore k v).eng j = s.eng j := (rfl)
@[simp] theorem State.setCore_sbyOf (s : State) (k : Nat) (v : Core) (j : Nat) : (s.setCore k v).sbyOf j = s.sbyOf j := (rfl)
@[simp] theorem State.setCore_sprOf (s : State) (k : Nat) (v : Core) (j : Nat) : (s.setCore k v).sprOf j = s.sprOf j := (rfl)
@[simp] theorem State.setCore_tblOf (s : State) (k : Nat) (v : Core) (j : Nat) : (s.setCore k v).tblOf j = s.tblOf j := (rfl)
@[simp] theorem State.setCore_trk (s : State) (k : Nat) (v : Core) (j : Nat) : (s.setCore k v).trk j = s.trk j := (rfl)
@[simp] theorem State.setCore_slot (s : State) (k : Nat) (v : Core) (j : Nat) : (s.setCore k v).slot j = s.slot j := (rfl)
@[simp] theorem State.setCore_enc (s : State) (k : Nat) (v : Core) (j : Nat) : (s.setCore k v).enc j = s.enc j := (rfl)
@[simp] theorem State.setCore_sig (s : State) (k : Nat) (v : Core) (j : Nat) : (s.setCore k v).sig j = s.sig j := (rfl)
@[simp] theorem State.setCore_flow (s : State) (k : Nat) (v : Core) (j : Nat) : (s.setCore k v).flow j = s.flow j := (rfl)
@[simp] theorem State.setCore_src (s : State) (k : Nat) (v : Core) (j : Nat) : (s.setCore k v).src j = s.src j := (rfl)
@[simp] theorem State.setCore_dma (s : State) (k : Nat) (v : Core) (j : Nat) : (s.setCore k v).dma j = s.dma j := (rfl)
@[simp] theorem State.setCore_lane (s : State) (k : Nat) (v : Core) (j : Nat) : (s.setCore k v).lane j = s.lane j := (rfl)
@[simp] theorem State.setCore_lport (s : State) (k : Nat) (v : Core) (j : Nat) : (s.setCore k v).lport j = s.lport j := (rfl)
@[simp] theorem State.setCore_mac (s : State) (k : Nat) (v : Core) (j : Nat) : (s.setCore k v).mac j = s.mac j := (rfl)
@[simp] theorem State.setCore_can (s : State) (k : Nat) (v : Core) (j : Nat) : (s.setCore k v).can j = s.can j := (rfl)
@[simp] theorem State.setCore_spi (s : State) (k : Nat) (v : Core) (j : Nat) : (s.setCore k v).spi j = s.spi j := (rfl)
@[simp] theorem State.setCore_now (s : State) (k : Nat) (v : Core) : (s.setCore k v).now = s.now := (rfl)
theorem State.setCore_core (s : State) (k : Nat) (v : Core) (j : Nat) :
    (s.setCore k v).core j = if j = k then v else s.core j := AMap.get_set _ _ _ _ _
theorem State.updCore_eq (s : State) (k : Nat) (f : Core → Core) : s.updCore k f = s.setCore k (f (s.core k)) := (rfl)

/-! ### setFlow -/

@[simp] theorem State.setFlow_pending (s : State) (k : Nat) (v : CoreFlow) : (s.setFlow k v).pending = s.pending := (rfl)
@[simp] theorem State.setFlow_free (s : State) (k : Nat) (v : CoreFlow) : (s.setFlow k v).free = s.free := (rfl)
@[simp] theorem State.setFlow_tb (s : State) (k : Nat) (v : CoreFlow) : (s.setFlow k v).tb = s.tb := (rfl)
@[simp] theorem State.setFlow_regs (s : State) (k : Nat) (v : CoreFlow) : (s.setFlow k v).regs = s.regs := (rfl)
@[simp] theorem State.setFlow_hwSet (s : State) (k : Nat) (v : CoreFlow) : (s.setFlow k v).hwSet = s.hwSet := (rfl)
@[simp] theorem State.setFlow_swSet (s : State) (k : Nat) (v : CoreFlow) : (s.setFlow k v).swSet = s.swSet := (rfl)
@[simp] theorem State.setFlow_undef (s : State) (k : Nat) (v : CoreFlow) : (s.setFlow k v).undef = s.undef := (rfl)
@[simp] theorem State.setFlow_mem (s : State) (k : Nat) (v : CoreFlow) : (s.setFlow k v).mem = s.mem := (rfl)
@[simp] theorem State.setFlow_ecc (s : State) (k : Nat) (v : CoreFlow) : (s.setFlow k v).ecc = s.ecc := (rfl)
@[simp] theorem State.setFlow_pageErr (s : State) (k : Nat) (v : CoreFlow) : (s.setFlow k v).pageErr = s.pageErr := (rfl)
@[simp] theorem State.setFlow_rdata (s : State) (k : Nat) (v : CoreFlow) : (s.setFlow k v).rdata = s.rdata := (rfl)
@[simp] theorem State.setFlow_ch (s : State) (k : Nat) (v : CoreFlow) : (s.setFlow k v).ch = s.ch := (rfl)
@[simp] theorem State.setFlow_rt (s : State) (k : Nat) (v : CoreFlow) : (s.setFlow k v).rt = s.rt := (rfl)
@[simp] theorem State.setFlow_stg (s : State) (k : Nat) (v : CoreFlow) : (s.setFlow k v).stg = s.stg := (rfl)
@[simp] theorem State.setFlow_mv (s : State) (k : Nat) (v : CoreFlow) : (s.setFlow k v).mv = s.mv := (rfl)
@[simp] theorem State.setFlow_lg (s : State) (k : Nat) (v : CoreFlow) : (s.setFlow k v).lg = s.lg := (rfl)
@[simp] theorem State.setFlow_lanes (s : State) (k : Nat) (v : CoreFlow) : (s.setFlow k v).lanes = s.lanes := (rfl)
@[simp] theorem State.setFlow_path (s : State) (k : Nat) (v : CoreFlow) : (s.setFlow k v).path = s.path := (rfl)
@[simp] theorem State.setFlow_md (s : State) (k : Nat) (v : CoreFlow) : (s.setFlow k v).md = s.md := (rfl)
@[simp] theorem State.setFlow_up (s : State) (k : Nat) (v : CoreFlow) : (s.setFlow k v).up = s.up := (rfl)
@[simp] theorem State.setFlow_ts (s : State) (k : Nat) (v : CoreFlow) : (s.setFlow k v).ts = s.ts := (rfl)
@[simp] theorem State.setFlow_io (s : State) (k : Nat) (v : CoreFlow) : (s.setFlow k v).io = s.io := (rfl)
@[simp] theorem State.setFlow_sq1 (s : State) (k : Nat) (v : CoreFlow) : (s.setFlow k v).sq1 = s.sq1 := (rfl)
@[simp] theorem State.setFlow_reg (s : State) (k : Nat) (v : CoreFlow) (j : Nat) : (s.setFlow k v).reg j = s.reg j := (rfl)
@[simp] theorem State.setFlow_byte (s : State) (k : Nat) (v : CoreFlow) (j : Nat) : (s.setFlow k v).byte j = s.byte j := (rfl)
@[simp] theorem State.setFlow_eccMask (s : State) (k : Nat) (v : CoreFlow) (j : Nat) : (s.setFlow k v).eccMask j = s.eccMask j := (rfl)
@[simp] theorem State.setFlow_conv (s : State) (k : Nat) (v : CoreFlow) (j : Nat) : (s.setFlow k v).conv j = s.conv j := (rfl)
@[simp] theorem State.setFlow_chan (s : State) (k : Nat) (v : CoreFlow) (j : Nat) : (s.setFlow k v).chan j = s.chan j := (rfl)
@[simp] theorem State.setFlow_group (s : State) (k : Nat) (v : CoreFlow) (j : Nat) : (s.setFlow k v).group j = s.group j := (rfl)
@[simp] theorem State.setFlow_eng (s : State) (k : Nat) (v : CoreFlow) (j : Nat) : (s.setFlow k v).eng j = s.eng j := (rfl)
@[simp] theorem State.setFlow_sbyOf (s : State) (k : Nat) (v : CoreFlow) (j : Nat) : (s.setFlow k v).sbyOf j = s.sbyOf j := (rfl)
@[simp] theorem State.setFlow_sprOf (s : State) (k : Nat) (v : CoreFlow) (j : Nat) : (s.setFlow k v).sprOf j = s.sprOf j := (rfl)
@[simp] theorem State.setFlow_tblOf (s : State) (k : Nat) (v : CoreFlow) (j : Nat) : (s.setFlow k v).tblOf j = s.tblOf j := (rfl)
@[simp] theorem State.setFlow_trk (s : State) (k : Nat) (v : CoreFlow) (j : Nat) : (s.setFlow k v).trk j = s.trk j := (rfl)
@[simp] theorem State.setFlow_slot (s : State) (k : Nat) (v : CoreFlow) (j : Nat) : (s.setFlow k v).slot j = s.slot j := (rfl)
@[simp] theorem State.setFlow_enc (s : State) (k : Nat) (v : CoreFlow) (j : Nat) : (s.setFlow k v).enc j = s.enc j := (rfl)
@[simp] theorem State.setFlow_sig (s : State) (k : Nat) (v : CoreFlow) (j : Nat) : (s.setFlow k v).sig j = s.sig j := (rfl)
@[simp] theorem State.setFlow_core (s : State) (k : Nat) (v : CoreFlow) (j : Nat) : (s.setFlow k v).core j = s.core j := (rfl)
@[simp] theorem State.setFlow_src (s : State) (k : Nat) (v : CoreFlow) (j : Nat) : (s.setFlow k v).src j = s.src j := (rfl)
@[simp] theorem State.setFlow_dma (s : State) (k : Nat) (v : CoreFlow) (j : Nat) : (s.setFlow k v).dma j = s.dma j := (rfl)
@[simp] theorem State.setFlow_lane (s : State) (k : Nat) (v : CoreFlow) (j : Nat) : (s.setFlow k v).lane j = s.lane j := (rfl)
@[simp] theorem State.setFlow_lport (s : State) (k : Nat) (v : CoreFlow) (j : Nat) : (s.setFlow k v).lport j = s.lport j := (rfl)
@[simp] theorem State.setFlow_mac (s : State) (k : Nat) (v : CoreFlow) (j : Nat) : (s.setFlow k v).mac j = s.mac j := (rfl)
@[simp] theorem State.setFlow_can (s : State) (k : Nat) (v : CoreFlow) (j : Nat) : (s.setFlow k v).can j = s.can j := (rfl)
@[simp] theorem State.setFlow_spi (s : State) (k : Nat) (v : CoreFlow) (j : Nat) : (s.setFlow k v).spi j = s.spi j := (rfl)
@[simp] theorem State.setFlow_now (s : State) (k : Nat) (v : CoreFlow) : (s.setFlow k v).now = s.now := (rfl)
theorem State.setFlow_flow (s : State) (k : Nat) (v : CoreFlow) (j : Nat) :
    (s.setFlow k v).flow j = if j = k then v else s.flow j := AMap.get_set _ _ _ _ _
theorem State.updFlow_eq (s : State) (k : Nat) (f : CoreFlow → CoreFlow) : s.updFlow k f = s.setFlow k (f (s.flow k)) := (rfl)

/-! ### setSrc -/

@[simp] theorem State.setSrc_pending (s : State) (k : Nat) (v : IntSource) : (s.setSrc k v).pending = s.pending := (rfl)
@[simp] theorem State.setSrc_free (s : State) (k : Nat) (v : IntSource) : (s.setSrc k v).free = s.free := (rfl)
@[simp] theorem State.setSrc_tb (s : State) (k : Nat) (v : IntSource) : (s.setSrc k v).tb = s.tb := (rfl)
@[simp] theorem State.setSrc_regs (s : State) (k : Nat) (v : IntSource) : (s.setSrc k v).regs = s.regs := (rfl)
@[simp] theorem State.setSrc_hwSet (s : State) (k : Nat) (v : IntSource) : (s.setSrc k v).hwSet = s.hwSet := (rfl)
@[simp] theorem State.setSrc_swSet (s : State) (k : Nat) (v : IntSource) : (s.setSrc k v).swSet = s.swSet := (rfl)
@[simp] theorem State.setSrc_undef (s : State) (k : Nat) (v : IntSource) : (s.setSrc k v).undef = s.undef := (rfl)
@[simp] theorem State.setSrc_mem (s : State) (k : Nat) (v : IntSource) : (s.setSrc k v).mem = s.mem := (rfl)
@[simp] theorem State.setSrc_ecc (s : State) (k : Nat) (v : IntSource) : (s.setSrc k v).ecc = s.ecc := (rfl)
@[simp] theorem State.setSrc_pageErr (s : State) (k : Nat) (v : IntSource) : (s.setSrc k v).pageErr = s.pageErr := (rfl)
@[simp] theorem State.setSrc_rdata (s : State) (k : Nat) (v : IntSource) : (s.setSrc k v).rdata = s.rdata := (rfl)
@[simp] theorem State.setSrc_ch (s : State) (k : Nat) (v : IntSource) : (s.setSrc k v).ch = s.ch := (rfl)
@[simp] theorem State.setSrc_rt (s : State) (k : Nat) (v : IntSource) : (s.setSrc k v).rt = s.rt := (rfl)
@[simp] theorem State.setSrc_stg (s : State) (k : Nat) (v : IntSource) : (s.setSrc k v).stg = s.stg := (rfl)
@[simp] theorem State.setSrc_pr (s : State) (k : Nat) (v : IntSource) : (s.setSrc k v).pr = s.pr := (rfl)
@[simp] theorem State.setSrc_lg (s : State) (k : Nat) (v : IntSource) : (s.setSrc k v).lg = s.lg := (rfl)
@[simp] theorem State.setSrc_lanes (s : State) (k : Nat) (v : IntSource) : (s.setSrc k v).lanes = s.lanes := (rfl)
@[simp] theorem State.setSrc_path (s : State) (k : Nat) (v : IntSource) : (s.setSrc k v).path = s.path := (rfl)
@[simp] theorem State.setSrc_md (s : State) (k : Nat) (v : IntSource) : (s.setSrc k v).md = s.md := (rfl)
@[simp] theorem State.setSrc_up (s : State) (k : Nat) (v : IntSource) : (s.setSrc k v).up = s.up := (rfl)
@[simp] theorem State.setSrc_ts (s : State) (k : Nat) (v : IntSource) : (s.setSrc k v).ts = s.ts := (rfl)
@[simp] theorem State.setSrc_io (s : State) (k : Nat) (v : IntSource) : (s.setSrc k v).io = s.io := (rfl)
@[simp] theorem State.setSrc_sq1 (s : State) (k : Nat) (v : IntSource) : (s.setSrc k v).sq1 = s.sq1 := (rfl)
@[simp] theorem State.setSrc_reg (s : State) (k : Nat) (v : IntSource) (j : Nat) : (s.setSrc k v).reg j = s.reg j := (rfl)
@[simp] theorem State.setSrc_byte (s : State) (k : Nat) (v : IntSource) (j : Nat) : (s.setSrc k v).byte j = s.byte j := (rfl)
@[simp] theorem State.setSrc_eccMask (s : State) (k : Nat) (v : IntSource) (j : Nat) : (s.setSrc k v).eccMask j = s.eccMask j := (rfl)
@[simp] theorem State.setSrc_conv (s : State) (k : Nat) (v : IntSource) (j : Nat) : (s.setSrc k v).conv j = s.conv j := (rfl)
@[simp] theorem State.setSrc_chan (s : State) (k : Nat) (v : IntSource) (j : Nat) : (s.setSrc k v).chan j = s.chan j := (rfl)
@[simp] theorem State.setSrc_group (s : State) (k : Nat) (v : IntSource) (j : Nat) : (s.setSrc k v).group j = s.group j := (rfl)
@[simp] theorem State.setSrc_eng (s : State) (k : Nat) (v : IntSource) (j : Nat) : (s.setSrc k v).eng j = s.eng j := (rfl)
@[simp] theorem State.setSrc_sbyOf (s : State) (k : Nat) (v : IntSource) (j : Nat) : (s.setSrc k v).sbyOf j = s.sbyOf j := (rfl)
@[simp] theorem State.setSrc_sprOf (s : State) (k : Nat) (v : IntSource) (j : Nat) : (s.setSrc k v).sprOf j = s.sprOf j := (rfl)
@[simp] theorem State.setSrc_tblOf (s : State) (k : Nat) (v : IntSource) (j : Nat) : (s.setSrc k v).tblOf j = s.tblOf j := (rfl)
@[simp] theorem State.setSrc_trk (s : State) (k : Nat) (v : IntSource) (j : Nat) : (s.setSrc k v).trk j = s.trk j := (rfl)
@[simp] theorem State.setSrc_slot (s : State) (k : Nat) (v : IntSource) (j : Nat) : (s.setSrc k v).slot j = s.slot j := (rfl)
@[simp] theorem State.setSrc_enc (s : State) (k : Nat) (v : IntSource) (j : Nat) : (s.setSrc k v).enc j = s.enc j := (rfl)
@[simp] theorem State.setSrc_sig (s : State) (k : Nat) (v : IntSource) (j : Nat) : (s.setSrc k v).sig j = s.sig j := (rfl)
@[simp] theorem State.setSrc_core (s : State) (k : Nat) (v : IntSource) (j : Nat) : (s.setSrc k v).core j = s.core j := (rfl)
@[simp] theorem State.setSrc_flow (s : State) (k : Nat) (v : IntSource) (j : Nat) : (s.setSrc k v).flow j = s.flow j := (rfl)
@[simp] theorem State.setSrc_dma (s : State) (k : Nat) (v : IntSource) (j : Nat) : (s.setSrc k v).dma j = s.dma j := (rfl)
@[simp] theorem State.setSrc_lane (s : State) (k : Nat) (v : IntSource) (j : Nat) : (s.setSrc k v).lane j = s.lane j := (rfl)
@[simp] theorem State.setSrc_lport (s : State) (k : Nat) (v : IntSource) (j : Nat) : (s.setSrc k v).lport j = s.lport j := (rfl)
@[simp] theorem State.setSrc_mac (s : State) (k : Nat) (v : IntSource) (j : Nat) : (s.setSrc k v).mac j = s.mac j := (rfl)
@[simp] theorem State.setSrc_can (s : State) (k : Nat) (v : IntSource) (j : Nat) : (s.setSrc k v).can j = s.can j := (rfl)
@[simp] theorem State.setSrc_spi (s : State) (k : Nat) (v : IntSource) (j : Nat) : (s.setSrc k v).spi j = s.spi j := (rfl)
@[simp] theorem State.setSrc_now (s : State) (k : Nat) (v : IntSource) : (s.setSrc k v).now = s.now := (rfl)
theorem State.setSrc_src (s : State) (k : Nat) (v : IntSource) (j : Nat) :
    (s.setSrc k v).src j = if j = k then v else s.src j := AMap.get_set _ _ _ _ _
theorem State.updSrc_eq (s : State) (k : Nat) (f : IntSource → IntSource) : s.updSrc k f = s.setSrc k (f (s.src k)) := (rfl)

/-! ### setDma -/

@[simp] theorem State.setDma_pending (s : State) (k : Nat) (v : DmaChannel) : (s.setDma k v).pending = s.pending := (rfl)
@[simp] theorem State.setDma_free (s : State) (k : Nat) (v : DmaChannel) : (s.setDma k v).free = s.free := (rfl)
@[simp] theorem State.setDma_tb (s : State) (k : Nat) (v : DmaChannel) : (s.setDma k v).tb = s.tb := (rfl)
@[simp] theorem State.setDma_regs (s : State) (k : Nat) (v : DmaChannel) : (s.setDma k v).regs = s.regs := (rfl)
@[simp] theorem State.setDma_hwSet (s : State) (k : Nat) (v : DmaChannel) : (s.setDma k v).hwSet = s.hwSet := (rfl)
@[simp] theorem State.setDma_swSet (s : State) (k : Nat) (v : DmaChannel) : (s.setDma k v).swSet = s.swSet := (rfl)
@[simp] theorem State.setDma_undef (s : State) (k : Nat) (v : DmaChannel) : (s.setDma k v).undef = s.undef := (rfl)
@[simp] theorem State.setDma_mem (s : State) (k : Nat) (v : DmaChannel) : (s.setDma k v).mem = s.mem := (rfl)
@[simp] theorem State.setDma_ecc (s : State) (k : Nat) (v : DmaChannel) : (s.setDma k v).ecc = s.ecc := (rfl)
@[simp] theorem State.setDma_pageErr (s : State) (k : Nat) (v : DmaChannel) : (s.setDma k v).pageErr = s.pageErr := (rfl)
@[simp] theorem State.setDma_rdata (s : State) (k : Nat) (v : DmaChannel) : (s.setDma k v).rdata = s.rdata := (rfl)
@[simp] theorem State.setDma_ch (s : State) (k : Nat) (v : DmaChannel) : (s.setDma k v).ch = s.ch := (rfl)
@[simp] theorem State.setDma_rt (s : State) (k : Nat) (v : DmaChannel) : (s.setDma k v).rt = s.rt := (rfl)
@[simp] theorem State.setDma_stg (s : State) (k : Nat) (v : DmaChannel) : (s.setDma k v).stg = s.stg := (rfl)
@[simp] theorem State.setDma_pr (s : State) (k : Nat) (v : DmaChannel) : (s.setDma k v).pr = s.pr := (rfl)
@[simp] theorem State.setDma_lg (s : State) (k : Nat) (v : DmaChannel) : (s.setDma k v).lg = s.lg := (rfl)
@[simp] theorem State.setDma_lanes (s : State) (k : Nat) (v : DmaChannel) : (s.setDma k v).lanes = s.lanes := (rfl)
@[simp] theorem State.setDma_path (s : State) (k : Nat) (v : DmaChannel) : (s.setDma k v).path = s.path := (rfl)
@[simp] theorem State.setDma_md (s : State) (k : Nat) (v : DmaChannel) : (s.setDma k v).md = s.md := (rfl)
@[simp] theorem State.setDma_up (s : State) (k : Nat) (v : DmaChannel) : (s.setDma k v).up = s.up := (rfl)
@[simp] theorem State.setDma_ts (s : State) (k : Nat) (v : DmaChannel) : (s.setDma k v).ts = s.ts := (rfl)
@[simp] theorem State.setDma_io (s : State) (k : Nat) (v : DmaChannel) : (s.setDma k v).io = s.io := (rfl)
@[simp] theorem State.setDma_sq1 (s : State) (k : Nat) (v : DmaChannel) : (s.setDma k v).sq1 = s.sq1 := (rfl)
@[simp] theorem State.setDma_reg (s : State) (k : Nat) (v : DmaChannel) (j : Nat) : (s.setDma k v).reg j = s.reg j := (rfl)
@[simp] theorem State.setDma_byte (s : State) (k : Nat) (v : DmaChannel) (j : Nat) : (s.setDma k v).byte j = s.byte j := (rfl)
@[simp] theorem State.setDma_eccMask (s : State) (k : Nat) (v : DmaChannel) (j : Nat) : (s.setDma k v).eccMask j = s.eccMask j := (rfl)
@[simp] theorem State.setDma_conv (s : State) (k : Nat) (v : DmaChannel) (j : Nat) : (s.setDma k v).conv j = s.conv j := (rfl)
@[simp] theorem State.setDma_chan (s : State) (k : Nat) (v : DmaChannel) (j : Nat) : (s.setDma k v).chan j = s.chan j := (rfl)
@[simp] theorem State.setDma_group (s : State) (k : Nat) (v : DmaChannel) (j : Nat) : (s.setDma k v).group j = s.group j := (rfl)
@[simp] theorem State.setDma_eng (s : State) (k : Nat) (v : DmaChannel) (j : Nat) : (s.setDma k v).eng j = s.eng j := (rfl)
@[simp] theorem State.setDma_sbyOf (s : State) (k : Nat) (v : DmaChannel) (j : Nat) : (s.setDma k v).sbyOf j = s.sbyOf j := (rfl)
@[simp] theorem State.setDma_sprOf (s : State) (k : Nat) (v : DmaChannel) (j : Nat) : (s.setDma k v).sprOf j = s.sprOf j := (rfl)
@[simp] theorem State.setDma_tblOf (s : State) (k : Nat) (v : DmaChannel) (j : Nat) : (s.setDma k v).tblOf j = s.tblOf j := (rfl)
@[simp] theorem State.setDma_trk (s : State) (k : Nat) (v : DmaChannel) (j : Nat) : (s.setDma k v).trk j = s.trk j := (rfl)
@[simp] theorem State.setDma_slot (s : State) (k : Nat) (v : DmaChannel) (j : Nat) : (s.setDma k v).slot j = s.slot j := (rfl)
@[simp] theorem State.setDma_enc (s : State) (k : Nat) (v : DmaChannel) (j : Nat) : (s.setDma k v).enc j = s.enc j := (rfl)
@[simp] theorem State.setDma_sig (s : State) (k : Nat) (v : DmaChannel) (j : Nat) : (s.setDma k v).sig j = s.sig j := (rfl)
@[simp] theorem State.setDma_core (s : State) (k : Nat) (v : DmaChannel) (j : Nat) : (s.setDma k v).core j = s.core j := (rfl)
@[simp] theorem State.setDma_flow (s : State) (k : Nat) (v : DmaChannel) (j : Nat) : (s.setDma k v).flow j = s.flow j := (rfl)
@[simp] theorem State.setDma_src (s : State) (k : Nat) (v : DmaChannel) (j : Nat) : (s.setDma k v).src j = s.src j := (rfl)
@[simp] theorem State.setDma_lane (s : State) (k : Nat) (v : DmaChannel) (j : Nat) : (s.setDma k v).lane j = s.lane j := (rfl)
@[simp] theorem State.setDma_lport (s : State) (k : Nat) (v : DmaChannel) (j : Nat) : (s.setDma k v).lport j = s.lport j := (rfl)
@[simp] theorem State.setDma_mac (s : State) (k : Nat) (v : DmaChannel) (j : Nat) : (s.setDma k v).mac j = s.mac j := (rfl)
@[simp] theorem State.setDma_can (s : State) (k : Nat) (v : DmaChannel) (j : Nat) : (s.setDma k v).can j = s.can j := (rfl)
@[simp] theorem State.setDma_spi (s : State) (k : Nat) (v : DmaChannel) (j : Nat) : (s.setDma k v).spi j = s.spi j := (rfl)
@[simp] theorem State.setDma_now (s : State) (k : Nat) (v : DmaChannel) : (s.setDma k v).now = s.now := (rfl)
theorem State.setDma_dma (s : State) (k : Nat) (v : DmaChannel) (j : Nat) :
    (s.setDma k v).dma j = if j = k then v else s.dma j := AMap.get_set _ _ _ _ _
theorem State.updDma_eq (s : State) (k : Nat) (f : DmaChannel → DmaChannel) : s.updDma k f = s.setDma k (f (s.dma k)) := (rfl)

/-! ### setLane -/

@[simp] theorem State.setLane_pending (s : State) (k : Nat) (v : Lane) : (s.setLane k v).pending = s.pending := (rfl)
@[simp] theorem State.setLane_free (s : State) (k : Nat) (v : Lane) : (s.setLane k v).free = s.free := (rfl)
@[simp] theorem State.setLane_tb (s : State) (k : Nat) (v : Lane) : (s.setLane k v).tb = s.tb := (rfl)
@[simp] theorem State.setLane_regs (s : State) (k : Nat) (v : Lane) : (s.setLane k v).regs = s.regs := (rfl)
@[simp] theorem State.setLane_hwSet (s : State) (k : Nat) (v : Lane) : (s.setLane k v).hwSet = s.hwSet := (rfl)
@[simp] theorem State.setLane_swSet (s : State) (k : Nat) (v : Lane) : (s.setLane k v).swSet = s.swSet := (rfl)
@[simp] theorem State.setLane_undef (s : State) (k : Nat) (v : Lane) : (s.setLane k v).undef = s.undef := (rfl)
@[simp] theorem State.setLane_mem (s : State) (k : Nat) (v : Lane) : (s.setLane k v).mem = s.mem := (rfl)
@[simp] theorem State.setLane_ecc (s : State) (k : Nat) (v : Lane) : (s.setLane k v).ecc = s.ecc := (rfl)
@[simp] theorem State.setLane_pageErr (s : State) (k : Nat) (v : Lane) : (s.setLane k v).pageErr = s.pageErr := (rfl)
@[simp] theorem State.setLane_rdata (s : State) (k : Nat) (v : Lane) : (s.setLane k v).rdata = s.rdata := (rfl)
@[simp] theorem State.setLane_ch (s : State) (k : Nat) (v : Lane) : (s.setLane k v).ch = s.ch := (rfl)
@[simp] theorem State.setLane_rt (s : State) (k : Nat) (v : Lane) : (s.setLane k v).rt = s.rt := (rfl)
@[simp] theorem State.setLane_stg (s : State) (k : Nat) (v : Lane) : (s.setLane k v).stg = s.stg := (rfl)
@[simp] theorem State.setLane_pr (s : State) (k : Nat) (v : Lane) : (s.setLane k v).pr = s.pr := (rfl)
@[simp] theorem State.setLane_mv (s : State) (k : Nat) (v : Lane) : (s.setLane k v).mv = s.mv := (rfl)
@[simp] theorem State.setLane_lg (s : State) (k : Nat) (v : Lane) : (s.setLane k v).lg = s.lg := (rfl)
@[simp] theorem State.setLane_path (s : State) (k : Nat) (v : Lane) : (s.setLane k v).path = s.path := (rfl)
@[simp] theorem State.setLane_md (s : State) (k : Nat) (v : Lane) : (s.setLane k v).md = s.md := (rfl)
@[simp] theorem State.setLane_up (s : State) (k : Nat) (v : Lane) : (s.setLane k v).up = s.up := (rfl)
@[simp] theorem State.setLane_ts (s : State) (k : Nat) (v : Lane) : (s.setLane k v).ts = s.ts := (rfl)
@[simp] theorem State.setLane_io (s : State) (k : Nat) (v : Lane) : (s.setLane k v).io = s.io := (rfl)
@[simp] theorem State.setLane_sq1 (s : State) (k : Nat) (v : Lane) : (s.setLane k v).sq1 = s.sq1 := (rfl)
@[simp] theorem State.setLane_reg (s : State) (k : Nat) (v : Lane) (j : Nat) : (s.setLane k v).reg j = s.reg j := (rfl)
@[simp] theorem State.setLane_byte (s : State) (k : Nat) (v : Lane) (j : Nat) : (s.setLane k v).byte j = s.byte j := (rfl)
@[simp] theorem State.setLane_eccMask (s : State) (k : Nat) (v : Lane) (j : Nat) : (s.setLane k v).eccMask j = s.eccMask j := (rfl)
@[simp] theorem State.setLane_conv (s : State) (k : Nat) (v : Lane) (j : Nat) : (s.setLane k v).conv j = s.conv j := (rfl)
@[simp] theorem State.setLane_chan (s : State) (k : Nat) (v : Lane) (j : Nat) : (s.setLane k v).chan j = s.chan j := (rfl)
@[simp] theorem State.setLane_group (s : State) (k : Nat) (v : Lane) (j : Nat) : (s.setLane k v).group j = s.group j := (rfl)
@[simp] theorem State.setLane_eng (s : State) (k : Nat) (v : Lane) (j : Nat) : (s.setLane k v).eng j = s.eng j := (rfl)
@[simp] theorem State.setLane_sbyOf (s : State) (k : Nat) (v : Lane) (j : Nat) : (s.setLane k v).sbyOf j = s.sbyOf j := (rfl)
@[simp] theorem State.setLane_sprOf (s : State) (k : Nat) (v : Lane) (j : Nat) : (s.setLane k v).sprOf j = s.sprOf j := (rfl)
@[simp] theorem State.setLane_tblOf (s : State) (k : Nat) (v : Lane) (j : Nat) : (s.setLane k v).tblOf j = s.tblOf j := (rfl)
@[simp] theorem State.setLane_trk (s : State) (k : Nat) (v : Lane) (j : Nat) : (s.setLane k v).trk j = s.trk j := (rfl)
@[simp] theorem State.setLane_slot (s : State) (k : Nat) (v : Lane) (j : Nat) : (s.setLane k v).slot j = s.slot j := (rfl)
@[simp] theorem State.setLane_enc (s : State) (k : Nat) (v : Lane) (j : Nat) : (s.setLane k v).enc j = s.enc j := (rfl)
@[simp] theorem State.setLane_sig (s : State) (k : Nat) (v : Lane) (j : Nat) : (s.setLane k v).sig j = s.sig j := (rfl)
@[simp] theorem State.setLane_core (s : State) (k : Nat) (v : Lane) (j : Nat) : (s.setLane k v).core j = s.core j := (rfl)
@[simp] theorem State.setLane_flow (s : State) (k : Nat) (v : Lane) (j : Nat) : (s.setLane k v).flow j = s.flow j := (rfl)
@[simp] theorem State.setLane_src (s : State) (k : Nat) (v : Lane) (j : Nat) : (s.setLane k v).src j = s.src j := (rfl)
@[simp] theorem State.setLane_dma (s : State) (k : Nat) (v : Lane) (j : Nat) : (s.setLane k v).dma j = s.dma j := (rfl)
@[simp] theorem State.setLane_lport (s : State) (k : Nat) (v : Lane) (j : Nat) : (s.setLane k v).lport j = s.lport j := (rfl)
@[simp] theorem State.setLane_mac (s : State) (k : Nat) (v : Lane) (j : Nat) : (s.setLane k v).mac j = s.mac j := (rfl)
@[simp] theorem State.setLane_can (s : State) (k : Nat) (v : Lane) (j : Nat) : (s.setLane k v).can j = s.can j := (rfl)
@[simp] theorem State.setLane_spi (s : State) (k : Nat) (v : Lane) (j : Nat) : (s.setLane k v).spi j = s.spi j := (rfl)
@[simp] theorem State.setLane_now (s : State) (k : Nat) (v : Lane) : (s.setLane k v).now = s.now := (rfl)
theorem State.setLane_lane (s : State) (k : Nat) (v : Lane) (j : Nat) :
    (s.setLane k v).lane j = if j = k then v else s.lane j := AMap.get_set _ _ _ _ _
theorem State.updLane_eq (s : State) (k : Nat) (f : Lane → Lane) : s.updLane k f = s.setLane k (f (s.lane k)) := (rfl)

/-! ### setLport -/

@[simp] theorem State.setLport_pending (s : State) (k : Nat) (v : LinkPort) : (s.setLport k v).pending = s.pending := (rfl)
@[simp] theorem State.setLport_free (s : State) (k : Nat) (v : LinkPort) : (s.setLport k v).free = s.free := (rfl)
@[simp] theorem State.setLport_tb (s : State) (k : Nat) (v : LinkPort) : (s.setLport k v).tb = s.tb := (rfl)
@[simp] theorem State.setLport_regs (s : State) (k : Nat) (v : LinkPort) : (s.setLport k v).regs = s.regs := (rfl)
@[simp] theorem State.setLport_hwSet (s : State) (k : Nat) (v : LinkPort) : (s.setLport k v).hwSet = s.hwSet := (rfl)
@[simp] theorem State.setLport_swSet (s : State) (k : Nat) (v : LinkPort) : (s.setLport k v).swSet = s.swSet := (rfl)
@[simp] theorem State.setLport_undef (s : State) (k : Nat) (v : LinkPort) : (s.setLport k v).undef = s.undef := (rfl)
@[simp] theorem State.setLport_mem (s : State) (k : Nat) (v : LinkPort) : (s.setLport k v).mem = s.mem := (rfl)
@[simp] theorem State.setLport_ecc (s : State) (k : Nat) (v : LinkPort) : (s.setLport k v).ecc = s.ecc := (rfl)
@[simp] theorem State.setLport_pageErr (s : State) (k : Nat) (v : LinkPort) : (s.setLport k v).pageErr = s.pageErr := (rfl)
@[simp] theorem State.setLport_rdata (s : State) (k : Nat) (v : LinkPort) : (s.setLport k v).rdata = s.rdata := (rfl)
@[simp] theorem State.setLport_ch (s : State) (k : Nat) (v : LinkPort) : (s.setLport k v).ch = s.ch := (rfl)
@[simp] theorem State.setLport_rt (s : State) (k : Nat) (v : LinkPort) : (s.setLport k v).rt = s.rt := (rfl)
@[simp] theorem State.setLport_stg (s : State) (k : Nat) (v : LinkPort) : (s.setLport k v).stg = s.stg := (rfl)
@[simp] theorem State.setLport_pr (s : State) (k : Nat) (v : LinkPort) : (s.setLport k v).pr = s.pr := (rfl)
@[simp] theorem State.setLport_mv (s : State) (k : Nat) (v : LinkPort) : (s.setLport k v).mv = s.mv := (rfl)
@[simp] theorem State.setLport_lg (s : State) (k : Nat) (v : LinkPort) : (s.setLport k v).lg = s.lg := (rfl)
@[simp] theorem State.setLport_lanes (s : State) (k : Nat) (v : LinkPort) : (s.setLport k v).lanes = s.lanes := (rfl)
@[simp] theorem State.setLport_path (s : State) (k : Nat) (v : LinkPort) : (s.setLport k v).path = s.path := (rfl)
@[simp] theorem State.setLport_md (s : State) (k : Nat) (v : LinkPort) : (s.setLport k v).md = s.md := (rfl)
@[simp] theorem State.setLport_up (s : State) (k : Nat) (v : LinkPort) : (s.setLport k v).up = s.up := (rfl)
@[simp] theorem State.setLport_ts (s : State) (k : Nat) (v : LinkPort) : (s.setLport k v).ts = s.ts := (rfl)
@[simp] theorem State.setLport_sq1 (s : State) (k : Nat) (v : LinkPort) : (s.setLport k v).sq1 = s.sq1 := (rfl)
@[simp] theorem State.setLport_reg (s : State) (k : Nat) (v : LinkPort) (j : Nat) : (s.setLport k v).reg j = s.reg j := (rfl)
@[simp] theorem State.setLport_byte (s : State) (k : Nat) (v : LinkPort) (j : Nat) : (s.setLport k v).byte j = s.byte j := (rfl)
@[simp] theorem State.setLport_eccMask (s : State) (k : Nat) (v : LinkPort) (j : Nat) : (s.setLport k v).eccMask j = s.eccMask j := (rfl)
@[simp] theorem State.setLport_conv (s : State) (k : Nat) (v : LinkPort) (j : Nat) : (s.setLport k v).conv j = s.conv j := (rfl)
@[simp] theorem State.setLport_chan (s : State) (k : Nat) (v : LinkPort) (j : Nat) : (s.setLport k v).chan j = s.chan j := (rfl)
@[simp] theorem State.setLport_group (s : State) (k : Nat) (v : LinkPort) (j : Nat) : (s.setLport k v).group j = s.group j := (rfl)
@[simp] theorem State.setLport_eng (s : State) (k : Nat) (v : LinkPort) (j : Nat) : (s.setLport k v).eng j = s.eng j := (rfl)
@[simp] theorem State.setLport_sbyOf (s : State) (k : Nat) (v : LinkPort) (j : Nat) : (s.setLport k v).sbyOf j = s.sbyOf j := (rfl)
@[simp] theorem State.setLport_sprOf (s : State) (k : Nat) (v : LinkPort) (j : Nat) : (s.setLport k v).sprOf j = s.sprOf j := (rfl)
@[simp] theorem State.setLport_tblOf (s : State) (k : Nat) (v : LinkPort) (j : Nat) : (s.setLport k v).tblOf j = s.tblOf j := (rfl)
@[simp] theorem State.setLport_trk (s : State) (k : Nat) (v : LinkPort) (j : Nat) : (s.setLport k v).trk j = s.trk j := (rfl)
@[simp] theorem State.setLport_slot (s : State) (k : Nat) (v : LinkPort) (j : Nat) : (s.setLport k v).slot j = s.slot j := (rfl)
@[simp] theorem State.setLport_enc (s : State) (k : Nat) (v : LinkPort) (j : Nat) : (s.setLport k v).enc j = s.enc j := (rfl)
@[simp] theorem State.setLport_sig (s : State) (k : Nat) (v : LinkPort) (j : Nat) : (s.setLport k v).sig j = s.sig j := (rfl)
@[simp] theorem State.setLport_core (s : State) (k : Nat) (v : LinkPort) (j : Nat) : (s.setLport k v).core j = s.core j := (rfl)
@[simp] theorem State.setLport_flow (s : State) (k : Nat) (v : LinkPort) (j : Nat) : (s.setLport k v).flow j = s.flow j := (rfl)
@[simp] theorem State.setLport_src (s : State) (k : Nat) (v : LinkPort) (j : Nat) : (s.setLport k v).src j = s.src j := (rfl)
@[simp] theorem State.setLport_dma (s : State) (k : Nat) (v : LinkPort) (j : Nat) : (s.setLport k v).dma j = s.dma j := (rfl)
@[simp] theorem State.setLport_lane (s : State) (k : Nat) (v : LinkPort) (j : Nat) : (s.setLport k v).lane j = s.lane j := (rfl)
@[simp] theorem State.setLport_mac (s : State) (k : Nat) (v : LinkPort) (j : Nat) : (s.setLport k v).mac j = s.mac j := (rfl)
@[simp] theorem State.setLport_can (s : State) (k : Nat) (v : LinkPort) (j : Nat) : (s.setLport k v).can j = s.can j := (rfl)
@[simp] theorem State.setLport_spi (s : State) (k : Nat) (v : LinkPort) (j : Nat) : (s.setLport k v).spi j = s.spi j := (rfl)
@[simp] theorem State.setLport_now (s : State) (k : Nat) (v : LinkPort) : (s.setLport k v).now = s.now := (rfl)
theorem State.setLport_lport (s : State) (k : Nat) (v : LinkPort) (j : Nat) :
    (s.setLport k v).lport j = if j = k then v else s.lport j := AMap.get_set _ _ _ _ _
theorem State.updLport_eq (s : State) (k : Nat) (f : LinkPort → LinkPort) : s.updLport k f = s.setLport k (f (s.lport k)) := (rfl)

/-! ### setMac -/

@[simp] theorem State.setMac_pending (s : State) (k : Nat) (v : Mac) : (s.setMac k v).pending = s.pending := (rfl)
@[simp] theorem State.setMac_free (s : State) (k : Nat) (v : Mac) : (s.setMac k v).free = s.free := (rfl)
@[simp] theorem State.setMac_tb (s : State) (k : Nat) (v : Mac) : (s.setMac k v).tb = s.tb := (rfl)
@[simp] theorem State.setMac_regs (s : State) (k : Nat) (v : Mac) : (s.setMac k v).regs = s.regs := (rfl)
@[simp] theorem State.setMac_hwSet (s : State) (k : Nat) (v : Mac) : (s.setMac k v).hwSet = s.hwSet := (rfl)
@[simp] theorem State.setMac_swSet (s : State) (k : Nat) (v : Mac) : (s.setMac k v).swSet = s.swSet := (rfl)
@[simp] theorem State.setMac_undef (s : State) (k : Nat) (v : Mac) : (s.setMac k v).undef = s.undef := (rfl)
@[simp] theorem State.setMac_mem (s : State) (k : Nat) (v : Mac) : (s.setMac k v).mem = s.mem := (rfl)
@[simp] theorem State.setMac_ecc (s : State) (k : Nat) (v : Mac) : (s.setMac k v).ecc = s.ecc := (rfl)
@[simp] theorem State.setMac_pageErr (s : State) (k : Nat) (v : Mac) : (s.setMac k v).pageErr = s.pageErr := (rfl)
@[simp] theorem State.setMac_rdata (s : State) (k : Nat) (v : Mac) : (s.setMac k v).rdata = s.rdata := (rfl)
@[simp] theorem State.setMac_ch (s : State) (k : Nat) (v : Mac) : (s.setMac k v).ch = s.ch := (rfl)
@[simp] theorem State.setMac_rt (s : State) (k : Nat) (v : Mac) : (s.setMac k v).rt = s.rt := (rfl)
@[simp] theorem State.setMac_stg (s : State) (k : Nat) (v : Mac) : (s.setMac k v).stg = s.stg := (rfl)
@[simp] theorem State.setMac_pr (s : State) (k : Nat) (v : Mac) : (s.setMac k v).pr = s.pr := (rfl)
@[simp] theorem State.setMac_mv (s : State) (k : Nat) (v : Mac) : (s.setMac k v).mv = s.mv := (rfl)
@[simp] theorem State.setMac_lg (s : State) (k : Nat) (v : Mac) : (s.setMac k v).lg = s.lg := (rfl)
@[simp] theorem State.setMac_lanes (s : State) (k : Nat) (v : Mac) : (s.setMac k v).lanes = s.lanes := (rfl)
@[simp] theorem State.setMac_path (s : State) (k : Nat) (v : Mac) : (s.setMac k v).path = s.path := (rfl)
@[simp] theorem State.setMac_md (s : State) (k : Nat) (v : Mac) : (s.setMac k v).md = s.md := (rfl)
@[simp] theorem State.setMac_up (s : State) (k : Nat) (v : Mac) : (s.setMac k v).up = s.up := (rfl)
@[simp] theorem State.setMac_ts (s : State) (k : Nat) (v : Mac) : (s.setMac k v).ts = s.ts := (rfl)
@[simp] theorem State.setMac_sq1 (s : State) (k : Nat) (v : Mac) : (s.setMac k v).sq1 = s.sq1 := (rfl)
@[simp] theorem State.setMac_reg (s : State) (k : Nat) (v : Mac) (j : Nat) : (s.setMac k v).reg j = s.reg j := (rfl)
@[simp] theorem State.setMac_byte (s : State) (k : Nat) (v : Mac) (j : Nat) : (s.setMac k v).byte j = s.byte j := (rfl)
@[simp] theorem State.setMac_eccMask (s : State) (k : Nat) (v : Mac) (j : Nat) : (s.setMac k v).eccMask j = s.eccMask j := (rfl)
@[simp] theorem State.setMac_conv (s : State) (k : Nat) (v : Mac) (j : Nat) : (s.setMac k v).conv j = s.conv j := (rfl)
@[simp] theorem State.setMac_chan (s : State) (k : Nat) (v : Mac) (j : Nat) : (s.setMac k v).chan j = s.chan j := (rfl)
@[simp] theorem State.setMac_group (s : State) (k : Nat) (v : Mac) (j : Nat) : (s.setMac k v).group j = s.group j := (rfl)
@[simp] theorem State.setMac_eng (s : State) (k : Nat) (v : Mac) (j : Nat) : (s.setMac k v).eng j = s.eng j := (rfl)
@[simp] theorem State.setMac_sbyOf (s : State) (k : Nat) (v : Mac) (j : Nat) : (s.setMac k v).sbyOf j = s.sbyOf j := (rfl)
@[simp] theorem State.setMac_sprOf (s : State) (k : Nat) (v : Mac) (j : Nat) : (s.setMac k v).sprOf j = s.sprOf j := (rfl)
@[simp] theorem State.setMac_tblOf (s : State) (k : Nat) (v : Mac) (j : Nat) : (s.setMac k v).tblOf j = s.tblOf j := (rfl)
@[simp] theorem State.setMac_trk (s : State) (k : Nat) (v : Mac) (j : Nat) : (s.setMac k v).trk j = s.trk j := (rfl)
@[simp] theorem State.setMac_slot (s : State) (k : Nat) (v : Mac) (j : Nat) : (s.setMac k v).slot j = s.slot j := (rfl)
@[simp] theorem State.setMac_enc (s : State) (k : Nat) (v : Mac) (j : Nat) : (s.setMac k v).enc j = s.enc j := (rfl)
@[simp] theorem State.setMac_sig (s : State) (k : Nat) (v : Mac) (j : Nat) : (s.setMac k v).sig j = s.sig j := (rfl)
@[simp] theorem State.setMac_core (s : State) (k : Nat) (v : Mac) (j : Nat) : (s.setMac k v).core j = s.core j := (rfl)
@[simp] theorem State.setMac_flow (s : State) (k : Nat) (v : Mac) (j : Nat) : (s.setMac k v).flow j = s.flow j := (rfl)
@[simp] theorem State.setMac_src (s : State) (k : Nat) (v : Mac) (j : Nat) : (s.setMac k v).src j = s.src j := (rfl)
@[simp] theorem State.setMac_dma (s : State) (k : Nat) (v : Mac) (j : Nat) : (s.setMac k v).dma j = s.dma j := (rfl)
@[simp] theorem State.setMac_lane (s : State) (k : Nat) (v : Mac) (j : Nat) : (s.setMac k v).lane j = s.lane j := (rfl)
@[simp] theorem State.setMac_lport (s : State) (k : Nat) (v : Mac) (j : Nat) : (s.setMac k v).lport j = s.lport j := (rfl)
@[simp] theorem State.setMac_can (s : State) (k : Nat) (v : Mac) (j : Nat) : (s.setMac k v).can j = s.can j := (rfl)
@[simp] theorem State.setMac_spi (s : State) (k : Nat) (v : Mac) (j : Nat) : (s.setMac k v).spi j = s.spi j := (rfl)
@[simp] theorem State.setMac_now (s : State) (k : Nat) (v : Mac) : (s.setMac k v).now = s.now := (rfl)
theorem State.setMac_mac (s : State) (k : Nat) (v : Mac) (j : Nat) :
    (s.setMac k v).mac j = if j = k then v else s.mac j := AMap.get_set _ _ _ _ _
theorem State.updMac_eq (s : State) (k : Nat) (f : Mac → Mac) : s.updMac k f = s.setMac k (f (s.mac k)) := (rfl)

/-! ### setCan -/

@[simp] theorem State.setCan_pending (s : State) (k : Nat) (v : Can) : (s.setCan k v).pending = s.pending := (rfl)
@[simp] theorem State.setCan_free (s : State) (k : Nat) (v : Can) : (s.setCan k v).free = s.free := (rfl)
@[simp] theorem State.setCan_tb (s : State) (k : Nat) (v : Can) : (s.setCan k v).tb = s.tb := (rfl)
@[simp] theorem State.setCan_regs (s : State) (k : Nat) (v : Can) : (s.setCan k v).regs = s.regs := (rfl)
@[simp] theorem State.setCan_hwSet (s : State) (k : Nat) (v : Can) : (s.setCan k v).hwSet = s.hwSet := (rfl)
@[simp] theorem State.setCan_swSet (s : State) (k : Nat) (v : Can) : (s.setCan k v).swSet = s.swSet := (rfl)
@[simp] theorem State.setCan_undef (s : State) (k : Nat) (v : Can) : (s.setCan k v).undef = s.undef := (rfl)
@[simp] theorem State.setCan_mem (s : State) (k : Nat) (v : Can) : (s.setCan k v).mem = s.mem := (rfl)
@[simp] theorem State.setCan_ecc (s : State) (k : Nat) (v : Can) : (s.setCan k v).ecc = s.ecc := (rfl)
@[simp] theorem State.setCan_pageErr (s : State) (k : Nat) (v : Can) : (s.setCan k v).pageErr = s.pageErr := (rfl)
@[simp] theorem State.setCan_rdata (s : State) (k : Nat) (v : Can) : (s.setCan k v).rdata = s.rdata := (rfl)
@[simp] theorem State.setCan_ch (s : State) (k : Nat) (v : Can) : (s.setCan k v).ch = s.ch := (rfl)
@[simp] theorem State.setCan_rt (s : State) (k : Nat) (v : Can) : (s.setCan k v).rt = s.rt := (rfl)
@[simp] theorem State.setCan_stg (s : State) (k : Nat) (v : Can) : (s.setCan k v).stg = s.stg := (rfl)
@[simp] theorem State.setCan_pr (s : State) (k : Nat) (v : Can) : (s.setCan k v).pr = s.pr := (rfl)
@[simp] theorem State.setCan_mv (s : State) (k : Nat) (v : Can) : (s.setCan k v).mv = s.mv := (rfl)
@[simp] theorem State.setCan_lg (s : State) (k : Nat) (v : Can) : (s.setCan k v).lg = s.lg := (rfl)
@[simp] theorem State.setCan_lanes (s : State) (k : Nat) (v : Can) : (s.setCan k v).lanes = s.lanes := (rfl)
@[simp] theorem State.setCan_path (s : State) (k : Nat) (v : Can) : (s.setCan k v).path = s.path := (rfl)
@[simp] theorem State.setCan_md (s : State) (k : Nat) (v : Can) : (s.setCan k v).md = s.md := (rfl)
@[simp] theorem State.setCan_up (s : State) (k : Nat) (v : Can) : (s.setCan k v).up = s.up := (rfl)
@[simp] theorem State.setCan_ts (s : State) (k : Nat) (v : Can) : (s.setCan k v).ts = s.ts := (rfl)
@[simp] theorem State.setCan_sq1 (s : State) (k : Nat) (v : Can) : (s.setCan k v).sq1 = s.sq1 := (rfl)
@[simp] theorem State.setCan_reg (s : State) (k : Nat) (v : Can) (j : Nat) : (s.setCan k v).reg j = s.reg j := (rfl)
@[simp] theorem State.setCan_byte (s : State) (k : Nat) (v : Can) (j : Nat) : (s.setCan k v).byte j = s.byte j := (rfl)
@[simp] theorem State.setCan_eccMask (s : State) (k : Nat) (v : Can) (j : Nat) : (s.setCan k v).eccMask j = s.eccMask j := (rfl)
@[simp] theorem State.setCan_conv (s : State) (k : Nat) (v : Can) (j : Nat) : (s.setCan k v).conv j = s.conv j := (rfl)
@[simp] theorem State.setCan_chan (s : State) (k : Nat) (v : Can) (j : Nat) : (s.setCan k v).chan j = s.chan j := (rfl)
@[simp] theorem State.setCan_group (s : State) (k : Nat) (v : Can) (j : Nat) : (s.setCan k v).group j = s.group j := (rfl)
@[simp] theorem State.setCan_eng (s : State) (k : Nat) (v : Can) (j : Nat) : (s.setCan k v).eng j = s.eng j := (rfl)
@[simp] theorem State.setCan_sbyOf (s : State) (k : Nat) (v : Can) (j : Nat) : (s.setCan k v).sbyOf j = s.sbyOf j := (rfl)
@[simp] theorem State.setCan_sprOf (s : State) (k : Nat) (v : Can) (j : Nat) : (s.setCan k v).sprOf j = s.sprOf j := (rfl)
@[simp] theorem State.setCan_tblOf (s : State) (k : Nat) (v : Can) (j : Nat) : (s.setCan k v).tblOf j = s.tblOf j := (rfl)
@[simp] theorem State.setCan_trk (s : State) (k : Nat) (v : Can) (j : Nat) : (s.setCan k v).trk j = s.trk j := (rfl)
@[simp] theorem State.setCan_slot (s : State) (k : Nat) (v : Can) (j : Nat) : (s.setCan k v).slot j = s.slot j := (rfl)
@[simp] theorem State.setCan_enc (s : State) (k : Nat) (v : Can) (j : Nat) : (s.setCan k v).enc j = s.enc j := (rfl)
@[simp] theorem State.setCan_sig (s : State) (k : Nat) (v : Can) (j : Nat) : (s.setCan k v).sig j = s.sig j := (rfl)
@[simp] theorem State.setCan_core (s : State) (k : Nat) (v : Can) (j : Nat) : (s.setCan k v).core j = s.core j := (rfl)
@[simp] theorem State.setCan_flow (s : State) (k : Nat) (v : Can) (j : Nat) : (s.setCan k v).flow j = s.flow j := (rfl)
@[simp] theorem State.setCan_src (s : State) (k : Nat) (v : Can) (j : Nat) : (s.setCan k v).src j = s.src j := (rfl)
@[simp] theorem State.setCan_dma (s : State) (k : Nat) (v : Can) (j : Nat) : (s.setCan k v).dma j = s.dma j := (rfl)
@[simp] theorem State.setCan_lane (s : State) (k : Nat) (v : Can) (j : Nat) : (s.setCan k v).lane j = s.lane j := (rfl)
@[simp] theorem State.setCan_lport (s : State) (k : Nat) (v : Can) (j : Nat) : (s.setCan k v).lport j = s.lport j := (rfl)
@[simp] theorem State.setCan_mac (s : State) (k : Nat) (v : Can) (j : Nat) : (s.setCan k v).mac j = s.mac j := (rfl)
@[simp] theorem State.setCan_spi (s : State) (k : Nat) (v : Can) (j : Nat) : (s.setCan k v).spi j = s.spi j := (rfl)
@[simp] theorem State.setCan_now (s : State) (k : Nat) (v : Can) : (s.setCan k v).now = s.now := (rfl)
theorem State.setCan_can (s : State) (k : Nat) (v : Can) (j : Nat) :
    (s.setCan k v).can j = if j = k then v else s.can j := AMap.get_set _ _ _ _ _
theorem State.updCan_eq (s : State) (k : Nat) (f : Can → Can) : s.updCan k f = s.setCan k (f (s.can k)) := (rfl)

/-! ### setSpi -/

@[simp] theorem State.setSpi_pending (s : State) (k : Nat) (v : Spi) : (s.setSpi k v).pending = s.pending := (rfl)
@[simp] theorem State.setSpi_free (s : State) (k : Nat) (v : Spi) : (s.setSpi k v).free = s.free := (rfl)
@[simp] theorem State.setSpi_tb (s : State) (k : Nat) (v : Spi) : (s.setSpi k v).tb = s.tb := (rfl)
@[simp] theorem State.setSpi_regs (s : State) (k : Nat) (v : Spi) : (s.setSpi k v).regs = s.regs := (rfl)
@[simp] theorem State.setSpi_hwSet (s : State) (k : Nat) (v : Spi) : (s.setSpi k v).hwSet = s.hwSet := (rfl)
@[simp] theorem State.setSpi_swSet (s : State) (k : Nat) (v : Spi) : (s.setSpi k v).swSet = s.swSet := (rfl)
@[simp] theorem State.setSpi_undef (s : State) (k : Nat) (v : Spi) : (s.setSpi k v).undef = s.undef := (rfl)
@[simp] theorem State.setSpi_mem (s : State) (k : Nat) (v : Spi) : (s.setSpi k v).mem = s.mem := (rfl)
@[simp] theorem State.setSpi_ecc (s : State) (k : Nat) (v : Spi) : (s.setSpi k v).ecc = s.ecc := (rfl)
@[simp] theorem State.setSpi_pageErr (s : State) (k : Nat) (v : Spi) : (s.setSpi k v).pageErr = s.pageErr := (rfl)
@[simp] theorem State.setSpi_rdata (s : State) (k : Nat) (v : Spi) : (s.setSpi k v).rdata = s.rdata := (rfl)
@[simp] theorem State.setSpi_ch (s : State) (k : Nat) (v : Spi) : (s.setSpi k v).ch = s.ch := (rfl)
@[simp] theorem State.setSpi_rt (s : State) (k : Nat) (v : Spi) : (s.setSpi k v).rt = s.rt := (rfl)
@[simp] theorem State.setSpi_stg (s : State) (k : Nat) (v : Spi) : (s.setSpi k v).stg = s.stg := (rfl)
@[simp] theorem State.setSpi_pr (s : State) (k : Nat) (v : Spi) : (s.setSpi k v).pr = s.pr := (rfl)
@[simp] theorem State.setSpi_mv (s : State) (k : Nat) (v : Spi) : (s.setSpi k v).mv = s.mv := (rfl)
@[simp] theorem State.setSpi_lg (s : State) (k : Nat) (v : Spi) : (s.setSpi k v).lg = s.lg := (rfl)
@[simp] theorem State.setSpi_lanes (s : State) (k : Nat) (v : Spi) : (s.setSpi k v).lanes = s.lanes := (rfl)
@[simp] theorem State.setSpi_path (s : State) (k : Nat) (v : Spi) : (s.setSpi k v).path = s.path := (rfl)
@[simp] theorem State.setSpi_md (s : State) (k : Nat) (v : Spi) : (s.setSpi k v).md = s.md := (rfl)
@[simp] theorem State.setSpi_up (s : State) (k : Nat) (v : Spi) : (s.setSpi k v).up = s.up := (rfl)
@[simp] theorem State.setSpi_ts (s : State) (k : Nat) (v : Spi) : (s.setSpi k v).ts = s.ts := (rfl)
@[simp] theorem State.setSpi_sq1 (s : State) (k : Nat) (v : Spi) : (s.setSpi k v).sq1 = s.sq1 := (rfl)
@[simp] theorem State.setSpi_reg (s : State) (k : Nat) (v : Spi) (j : Nat) : (s.setSpi k v).reg j = s.reg j := (rfl)
@[simp] theorem State.setSpi_byte (s : State) (k : Nat) (v : Spi) (j : Nat) : (s.setSpi k v).byte j = s.byte j := (rfl)
@[simp] theorem State.setSpi_eccMask (s : State) (k : Nat) (v : Spi) (j : Nat) : (s.setSpi k v).eccMask j = s.eccMask j := (rfl)
@[simp] theorem State.setSpi_conv (s : State) (k : Nat) (v : Spi) (j : Nat) : (s.setSpi k v).conv j = s.conv j := (rfl)
@[simp] theorem State.setSpi_chan (s : State) (k : Nat) (v : Spi) (j : Nat) : (s.setSpi k v).chan j = s.chan j := (rfl)
@[simp] theorem State.setSpi_group (s : State) (k : Nat) (v : Spi) (j : Nat) : (s.setSpi k v).group j = s.group j := (rfl)
@[simp] theorem State.setSpi_eng (s : State) (k : Nat) (v : Spi) (j : Nat) : (s.setSpi k v).eng j = s.eng j := (rfl)
@[simp] theorem State.setSpi_sbyOf (s : State) (k : Nat) (v : Spi) (j : Nat) : (s.setSpi k v).sbyOf j = s.sbyOf j := (rfl)
@[simp] theorem State.setSpi_sprOf (s : State) (k : Nat) (v : Spi) (j : Nat) : (s.setSpi k v).sprOf j = s.sprOf j := (rfl)
@[simp] theorem State.setSpi_tblOf (s : State) (k : Nat) (v : Spi) (j : Nat) : (s.setSpi k v).tblOf j = s.tblOf j := (rfl)
@[simp] theorem State.setSpi_trk (s : State) (k : Nat) (v : Spi) (j : Nat) : (s.setSpi k v).trk j = s.trk j := (rfl)
@[simp] theorem State.setSpi_slot (s : State) (k : Nat) (v : Spi) (j : Nat) : (s.setSpi k v).slot j = s.slot j := (rfl)
@[simp] theorem State.setSpi_enc (s : State) (k : Nat) (v : Spi) (j : Nat) : (s.setSpi k v).enc j = s.enc j := (rfl)
@[simp] theorem State.setSpi_sig (s : State) (k : Nat) (v : Spi) (j : Nat) : (s.setSpi k v).sig j = s.sig j := (rfl)
@[simp] theorem State.setSpi_core (s : State) (k : Nat) (v : Spi) (j : Nat) : (s.setSpi k v).core j = s.core j := (rfl)
@[simp] theorem State.setSpi_flow (s : State) (k : Nat) (v : Spi) (j : Nat) : (s.setSpi k v).flow j = s.flow j := (rfl)
@[simp] theorem State.setSpi_src (s : State) (k : Nat) (v : Spi) (j : Nat) : (s.setSpi k v).src j = s.src j := (rfl)
@[simp] theorem State.setSpi_dma (s : State) (k : Nat) (v : Spi) (j : Nat) : (s.setSpi k v).dma j = s.dma j := (rfl)
@[simp] theorem State.setSpi_lane (s : State) (k : Nat) (v : Spi) (j : Nat) : (s.setSpi k v).lane j = s.lane j := (rfl)
@[simp] theorem State.setSpi_lport (s : State) (k : Nat) (v : Spi) (j : Nat) : (s.setSpi k v).lport j = s.lport j := (rfl)
@[simp] theorem State.setSpi_mac (s : State) (k : Nat) (v : Spi) (j : Nat) : (s.setSpi k v).mac j = s.mac j := (rfl)
@[simp] theorem State.setSpi_can (s : State) (k : Nat) (v : Spi) (j : Nat) : (s.setSpi k v).can j = s.can j := (rfl)
@[simp] theorem State.setSpi_now (s : State) (k : Nat) (v : Spi) : (s.setSpi k v).now = s.now := (rfl)
theorem State.setSpi_spi (s : State) (k : Nat) (v : Spi) (j : Nat) :
    (s.setSpi k v).spi j = if j = k then v else s.spi j := AMap.get_set _ _ _ _ _
theorem State.updSpi_eq (s : State) (k : Nat) (f : Spi → Spi) : s.updSpi k f = s.setSpi k (f (s.spi k)) := (rfl)

/-! ### queueOf -/

@[simp] theorem State.queueOf_free (t s : State) : (t.queueOf s).free = t.free := (rfl)
@[simp] theorem State.queueOf_tb (t s : State) : (t.queueOf s).tb = t.tb := (rfl)
@[simp] theorem State.queueOf_regs (t s : State) : (t.queueOf s).regs = t.regs := (rfl)
@[simp] theorem State.queueOf_hwSet (t s : State) : (t.queueOf s).hwSet = t.hwSet := (rfl)
@[simp] theorem State.queueOf_swSet (t s : State) : (t.queueOf s).swSet = t.swSet := (rfl)
@[simp] theorem State.queueOf_undef (t s : State) : (t.queueOf s).undef = t.undef := (rfl)
@[simp] theorem State.queueOf_mem (t s : State) : (t.queueOf s).mem = t.mem := (rfl)
@[simp] theorem State.queueOf_ecc (t s : State) : (t.queueOf s).ecc = t.ecc := (rfl)
@[simp] theorem State.queueOf_pageErr (t s : State) : (t.queueOf s).pageErr = t.pageErr := (rfl)
@[simp] theorem State.queueOf_rdata (t s : State) : (t.queueOf s).rdata = t.rdata := (rfl)
@[simp] theorem State.queueOf_ch (t s : State) : (t.queueOf s).ch = t.ch := (rfl)
@[simp] theorem State.queueOf_rt (t s : State) : (t.queueOf s).rt = t.rt := (rfl)
@[simp] theorem State.queueOf_stg (t s : State) : (t.queueOf s).stg = t.stg := (rfl)
@[simp] theorem State.queueOf_pr (t s : State) : (t.queueOf s).pr = t.pr := (rfl)
@[simp] theorem State.queueOf_mv (t s : State) : (t.queueOf s).mv = t.mv := (rfl)
@[simp] theorem State.queueOf_lg (t s : State) : (t.queueOf s).lg = t.lg := (rfl)
@[simp] theorem State.queueOf_lanes (t s : State) : (t.queueOf s).lanes = t.lanes := (rfl)
@[simp] theorem State.queueOf_path (t s : State) : (t.queueOf s).path = t.path := (rfl)
@[simp] theorem State.queueOf_md (t s : State) : (t.queueOf s).md = t.md := (rfl)
@[simp] theorem State.queueOf_up (t s : State) : (t.queueOf s).up = t.up := (rfl)
@[simp] theorem State.queueOf_ts (t s : State) : (t.queueOf s).ts = t.ts := (rfl)
@[simp] theorem State.queueOf_io (t s : State) : (t.queueOf s).io = t.io := (rfl)
@[simp] theorem State.queueOf_sq1 (t s : State) : (t.queueOf s).sq1 = t.sq1 := (rfl)
@[simp] theorem State.queueOf_reg (t s : State) (j : Nat) : (t.queueOf s).reg j = t.reg j := (rfl)
@[simp] theorem State.queueOf_byte (t s : State) (j : Nat) : (t.queueOf s).byte j = t.byte j := (rfl)
@[simp] theorem State.queueOf_eccMask (t s : State) (j : Nat) : (t.queueOf s).eccMask j = t.eccMask j := (rfl)
@[simp] theorem State.queueOf_conv (t s : State) (j : Nat) : (t.queueOf s).conv j = t.conv j := (rfl)
@[simp] theorem State.queueOf_chan (t s : State) (j : Nat) : (t.queueOf s).chan j = t.chan j := (rfl)
@[simp] theorem State.queueOf_group (t s : State) (j : Nat) : (t.queueOf s).group j = t.group j := (rfl)
@[simp] theorem State.queueOf_eng (t s : State) (j : Nat) : (t.queueOf s).eng j = t.eng j := (rfl)
@[simp] theorem State.queueOf_sbyOf (t s : State) (j : Nat) : (t.queueOf s).sbyOf j = t.sbyOf j := (rfl)
@[simp] theorem State.queueOf_sprOf (t s : State) (j : Nat) : (t.queueOf s).sprOf j = t.sprOf j := (rfl)
@[simp] theorem State.queueOf_tblOf (t s : State) (j : Nat) : (t.queueOf s).tblOf j = t.tblOf j := (rfl)
@[simp] theorem State.queueOf_trk (t s : State) (j : Nat) : (t.queueOf s).trk j = t.trk j := (rfl)
@[simp] theorem State.queueOf_slot (t s : State) (j : Nat) : (t.queueOf s).slot j = t.slot j := (rfl)
@[simp] theorem State.queueOf_enc (t s : State) (j : Nat) : (t.queueOf s).enc j = t.enc j := (rfl)
@[simp] theorem State.queueOf_sig (t s : State) (j : Nat) : (t.queueOf s).sig j = t.sig j := (rfl)
@[simp] theorem State.queueOf_core (t s : State) (j : Nat) : (t.queueOf s).core j = t.core j := (rfl)
@[simp] theorem State.queueOf_flow (t s : State) (j : Nat) : (t.queueOf s).flow j = t.flow j := (rfl)
@[simp] theorem State.queueOf_src (t s : State) (j : Nat) : (t.queueOf s).src j = t.src j := (rfl)
@[simp] theorem State.queueOf_dma (t s : State) (j : Nat) : (t.queueOf s).dma j = t.dma j := (rfl)
@[simp] theorem State.queueOf_lane (t s : State) (j : Nat) : (t.queueOf s).lane j = t.lane j := (rfl)
@[simp] theorem State.queueOf_lport (t s : State) (j : Nat) : (t.queueOf s).lport j = t.lport j := (rfl)
@[simp] theorem State.queueOf_mac (t s : State) (j : Nat) : (t.queueOf s).mac j = t.mac j := (rfl)
@[simp] theorem State.queueOf_can (t s : State) (j : Nat) : (t.queueOf s).can j = t.can j := (rfl)
@[simp] theorem State.queueOf_spi (t s : State) (j : Nat) : (t.queueOf s).spi j = t.spi j := (rfl)
@[simp] theorem State.queueOf_now (t s : State) : (t.queueOf s).now = t.now := (rfl)
@[simp] theorem State.queueOf_pending (t s : State) : (t.queueOf s).pending = s.pending := (rfl)

/-! ### memoryOf -/

@[simp] theorem State.memoryOf_pending (t s : State) : (t.memoryOf s).pending = t.pending := (rfl)
@[simp] theorem State.memoryOf_free (t s : State) : (t.memoryOf s).free = t.free := (rfl)
@[simp] theorem State.memoryOf_tb (t s : State) : (t.memoryOf s).tb = t.tb := (rfl)
@[simp] theorem State.memoryOf_regs (t s : State) : (t.memoryOf s).regs = t.regs := (rfl)
@[simp] theorem State.memoryOf_hwSet (t s : State) : (t.memoryOf s).hwSet = t.hwSet := (rfl)
@[simp] theorem State.memoryOf_swSet (t s : State) : (t.memoryOf s).swSet = t.swSet := (rfl)
@[simp] theorem State.memoryOf_undef (t s : State) : (t.memoryOf s).undef = t.undef := (rfl)
@[simp] theorem State.memoryOf_ecc (t s : State) : (t.memoryOf s).ecc = t.ecc := (rfl)
@[simp] theorem State.memoryOf_pageErr (t s : State) : (t.memoryOf s).pageErr = t.pageErr := (rfl)
@[simp] theorem State.memoryOf_rdata (t s : State) : (t.memoryOf s).rdata = t.rdata := (rfl)
@[simp] theorem State.memoryOf_ch (t s : State) : (t.memoryOf s).ch = t.ch := (rfl)
@[simp] theorem State.memoryOf_rt (t s : State) : (t.memoryOf s).rt = t.rt := (rfl)
@[simp] theorem State.memoryOf_stg (t s : State) : (t.memoryOf s).stg = t.stg := (rfl)
@[simp] theorem State.memoryOf_pr (t s : State) : (t.memoryOf s).pr = t.pr := (rfl)
@[simp] theorem State.memoryOf_mv (t s : State) : (t.memoryOf s).mv = t.mv := (rfl)
@[simp] theorem State.memoryOf_lg (t s : State) : (t.memoryOf s).lg = t.lg := (rfl)
@[simp] theorem State.memoryOf_lanes (t s : State) : (t.memoryOf s).lanes = t.lanes := (rfl)
@[simp] theorem State.memoryOf_path (t s : State) : (t.memoryOf s).path = t.path := (rfl)
@[simp] theorem State.memoryOf_md (t s : State) : (t.memoryOf s).md = t.md := (rfl)
@[simp] theorem State.memoryOf_up (t s : State) : (t.memoryOf s).up = t.up := (rfl)
@[simp] theorem State.memoryOf_ts (t s : State) : (t.memoryOf s).ts = t.ts := (rfl)
@[simp] theorem State.memoryOf_io (t s : State) : (t.memoryOf s).io = t.io := (rfl)
@[simp] theorem State.memoryOf_sq1 (t s : State) : (t.memoryOf s).sq1 = t.sq1 := (rfl)
@[simp] theorem State.memoryOf_reg (t s : State) (j : Nat) : (t.memoryOf s).reg j = t.reg j := (rfl)
@[simp] theorem State.memoryOf_eccMask (t s : State) (j : Nat) : (t.memoryOf s).eccMask j = t.eccMask j := (rfl)
@[simp] theorem State.memoryOf_conv (t s : State) (j : Nat) : (t.memoryOf s).conv j = t.conv j := (rfl)
@[simp] theorem State.memoryOf_chan (t s : State) (j : Nat) : (t.memoryOf s).chan j = t.chan j := (rfl)
@[simp] theorem State.memoryOf_group (t s : State) (j : Nat) : (t.memoryOf s).group j = t.group j := (rfl)
@[simp] theorem State.memoryOf_eng (t s : State) (j : Nat) : (t.memoryOf s).eng j = t.eng j := (rfl)
@[simp] theorem State.memoryOf_sbyOf (t s : State) (j : Nat) : (t.memoryOf s).sbyOf j = t.sbyOf j := (rfl)
@[simp] theorem State.memoryOf_sprOf (t s : State) (j : Nat) : (t.memoryOf s).sprOf j = t.sprOf j := (rfl)
@[simp] theorem State.memoryOf_tblOf (t s : State) (j : Nat) : (t.memoryOf s).tblOf j = t.tblOf j := (rfl)
@[simp] theorem State.memoryOf_trk (t s : State) (j : Nat) : (t.memoryOf s).trk j = t.trk j := (rfl)
@[simp] theorem State.memoryOf_slot (t s : State) (j : Nat) : (t.memoryOf s).slot j = t.slot j := (rfl)
@[simp] theorem State.memoryOf_enc (t s : State) (j : Nat) : (t.memoryOf s).enc j = t.enc j := (rfl)
@[simp] theorem State.memoryOf_sig (t s : State) (j : Nat) : (t.memoryOf s).sig j = t.sig j := (rfl)
@[simp] theorem State.memoryOf_core (t s : State) (j : Nat) : (t.memoryOf s).core j = t.core j := (rfl)
@[simp] theorem State.memoryOf_flow (t s : State) (j : Nat) : (t.memoryOf s).flow j = t.flow j := (rfl)
@[simp] theorem State.memoryOf_src (t s : State) (j : Nat) : (t.memoryOf s).src j = t.src j := (rfl)
@[simp] theorem State.memoryOf_dma (t s : State) (j : Nat) : (t.memoryOf s).dma j = t.dma j := (rfl)
@[simp] theorem State.memoryOf_lane (t s : State) (j : Nat) : (t.memoryOf s).lane j = t.lane j := (rfl)
@[simp] theorem State.memoryOf_lport (t s : State) (j : Nat) : (t.memoryOf s).lport j = t.lport j := (rfl)
@[simp] theorem State.memoryOf_mac (t s : State) (j : Nat) : (t.memoryOf s).mac j = t.mac j := (rfl)
@[simp] theorem State.memoryOf_can (t s : State) (j : Nat) : (t.memoryOf s).can j = t.can j := (rfl)
@[simp] theorem State.memoryOf_spi (t s : State) (j : Nat) : (t.memoryOf s).spi j = t.spi j := (rfl)
@[simp] theorem State.memoryOf_now (t s : State) : (t.memoryOf s).now = t.now := (rfl)
@[simp] theorem State.memoryOf_mem (t s : State) : (t.memoryOf s).mem = s.mem := (rfl)
@[simp] theorem State.memoryOf_byte (t s : State) (j : Nat) : (t.memoryOf s).byte j = s.byte j := (rfl)

/-! ### advance -/

@[simp] theorem State.advance_pending (s : State) (dt : Nat) : (s.advance dt).pending = s.pending := by
  unfold State.advance; split <;> rfl
@[simp] theorem State.advance_free (s : State) (dt : Nat) : (s.advance dt).free = s.free := by
  unfold State.advance; split <;> rfl
@[simp] theorem State.advance_regs (s : State) (dt : Nat) : (s.advance dt).regs = s.regs := by
  unfold State.advance; split <;> rfl
@[simp] theorem State.advance_undef (s : State) (dt : Nat) : (s.advance dt).undef = s.undef := by
  unfold State.advance; split <;> rfl
@[simp] theorem State.advance_mem (s : State) (dt : Nat) : (s.advance dt).mem = s.mem := by
  unfold State.advance; split <;> rfl
@[simp] theorem State.advance_ecc (s : State) (dt : Nat) : (s.advance dt).ecc = s.ecc := by
  unfold State.advance; split <;> rfl
@[simp] theorem State.advance_pageErr (s : State) (dt : Nat) : (s.advance dt).pageErr = s.pageErr := by
  unfold State.advance; split <;> rfl
@[simp] theorem State.advance_rdata (s : State) (dt : Nat) : (s.advance dt).rdata = s.rdata := by
  unfold State.advance; split <;> rfl
@[simp] theorem State.advance_ch (s : State) (dt : Nat) : (s.advance dt).ch = s.ch := by
  unfold State.advance; split <;> rfl
@[simp] theorem State.advance_rt (s : State) (dt : Nat) : (s.advance dt).rt = s.rt := by
  unfold State.advance; split <;> rfl
@[simp] theorem State.advance_stg (s : State) (dt : Nat) : (s.advance dt).stg = s.stg := by
  unfold State.advance; split <;> rfl
@[simp] theorem State.advance_pr (s : State) (dt : Nat) : (s.advance dt).pr = s.pr := by
  unfold State.advance; split <;> rfl
@[simp] theorem State.advance_mv (s : State) (dt : Nat) : (s.advance dt).mv = s.mv := by
  unfold State.advance; split <;> rfl
@[simp] theorem State.advance_lg (s : State) (dt : Nat) : (s.advance dt).lg = s.lg := by
  unfold State.advance; split <;> rfl
@[simp] theorem State.advance_lanes (s : State) (dt : Nat) : (s.advance dt).lanes = s.lanes := by
  unfold State.advance; split <;> rfl
@[simp] theorem State.advance_path (s : State) (dt : Nat) : (s.advance dt).path = s.path := by
  unfold State.advance; split <;> rfl
@[simp] theorem State.advance_md (s : State) (dt : Nat) : (s.advance dt).md = s.md := by
  unfold State.advance; split <;> rfl
@[simp] theorem State.advance_up (s : State) (dt : Nat) : (s.advance dt).up = s.up := by
  unfold State.advance; split <;> rfl
@[simp] theorem State.advance_ts (s : State) (dt : Nat) : (s.advance dt).ts = s.ts := by
  unfold State.advance; split <;> rfl
@[simp] theorem State.advance_io (s : State) (dt : Nat) : (s.advance dt).io = s.io := by
  unfold State.advance; split <;> rfl
@[simp] theorem State.advance_sq1 (s : State) (dt : Nat) : (s.advance dt).sq1 = s.sq1 := by
  unfold State.advance; split <;> rfl
@[simp] theorem State.advance_reg (s : State) (dt : Nat) (j : Nat) : (s.advance dt).reg j = s.reg j := by
  unfold State.advance; split <;> rfl
@[simp] theorem State.advance_byte (s : State) (dt : Nat) (j : Nat) : (s.advance dt).byte j = s.byte j := by
  unfold State.advance; split <;> rfl
@[simp] theorem State.advance_eccMask (s : State) (dt : Nat) (j : Nat) : (s.advance dt).eccMask j = s.eccMask j := by
  unfold State.advance; split <;> rfl
@[simp] theorem State.advance_conv (s : State) (dt : Nat) (j : Nat) : (s.advance dt).conv j = s.conv j := by
  unfold State.advance; split <;> rfl
@[simp] theorem State.advance_chan (s : State) (dt : Nat) (j : Nat) : (s.advance dt).chan j = s.chan j := by
  unfold State.advance; split <;> rfl
@[simp] theorem State.advance_group (s : State) (dt : Nat) (j : Nat) : (s.advance dt).group j = s.group j := by
  unfold State.advance; split <;> rfl
@[simp] theorem State.advance_eng (s : State) (dt : Nat) (j : Nat) : (s.advance dt).eng j = s.eng j := by
  unfold State.advance; split <;> rfl
@[simp] theorem State.advance_sbyOf (s : State) (dt : Nat) (j : Nat) : (s.advance dt).sbyOf j = s.sbyOf j := by
  unfold State.advance; split <;> rfl
@[simp] theorem State.advance_sprOf (s : State) (dt : Nat) (j : Nat) : (s.advance dt).sprOf j = s.sprOf j := by
  unfold State.advance; split <;> rfl
@[simp] theorem State.advance_tblOf (s : State) (dt : Nat) (j : Nat) : (s.advance dt).tblOf j = s.tblOf j := by
  unfold State.advance; split <;> rfl
@[simp] theorem State.advance_trk (s : State) (dt : Nat) (j : Nat) : (s.advance dt).trk j = s.trk j := by
  unfold State.advance; split <;> rfl
@[simp] theorem State.advance_slot (s : State) (dt : Nat) (j : Nat) : (s.advance dt).slot j = s.slot j := by
  unfold State.advance; split <;> rfl
@[simp] theorem State.advance_enc (s : State) (dt : Nat) (j : Nat) : (s.advance dt).enc j = s.enc j := by
  unfold State.advance; split <;> rfl
@[simp] theorem State.advance_sig (s : State) (dt : Nat) (j : Nat) : (s.advance dt).sig j = s.sig j := by
  unfold State.advance; split <;> rfl
@[simp] theorem State.advance_core (s : State) (dt : Nat) (j : Nat) : (s.advance dt).core j = s.core j := by
  unfold State.advance; split <;> rfl
@[simp] theorem State.advance_flow (s : State) (dt : Nat) (j : Nat) : (s.advance dt).flow j = s.flow j := by
  unfold State.advance; split <;> rfl
@[simp] theorem State.advance_src (s : State) (dt : Nat) (j : Nat) : (s.advance dt).src j = s.src j := by
  unfold State.advance; split <;> rfl
@[simp] theorem State.advance_dma (s : State) (dt : Nat) (j : Nat) : (s.advance dt).dma j = s.dma j := by
  unfold State.advance; split <;> rfl
@[simp] theorem State.advance_lane (s : State) (dt : Nat) (j : Nat) : (s.advance dt).lane j = s.lane j := by
  unfold State.advance; split <;> rfl
@[simp] theorem State.advance_lport (s : State) (dt : Nat) (j : Nat) : (s.advance dt).lport j = s.lport j := by
  unfold State.advance; split <;> rfl
@[simp] theorem State.advance_mac (s : State) (dt : Nat) (j : Nat) : (s.advance dt).mac j = s.mac j := by
  unfold State.advance; split <;> rfl
@[simp] theorem State.advance_can (s : State) (dt : Nat) (j : Nat) : (s.advance dt).can j = s.can j := by
  unfold State.advance; split <;> rfl
@[simp] theorem State.advance_spi (s : State) (dt : Nat) (j : Nat) : (s.advance dt).spi j = s.spi j := by
  unfold State.advance; split <;> rfl
@[simp] theorem State.advance_zero (s : State) : s.advance 0 = s := (rfl)

/-! ### freshWord -/

@[simp] theorem State.freshWord_pending (s : State) : (s.freshWord.2).pending = s.pending := (rfl)
@[simp] theorem State.freshWord_tb (s : State) : (s.freshWord.2).tb = s.tb := (rfl)
@[simp] theorem State.freshWord_regs (s : State) : (s.freshWord.2).regs = s.regs := (rfl)
@[simp] theorem State.freshWord_hwSet (s : State) : (s.freshWord.2).hwSet = s.hwSet := (rfl)
@[simp] theorem State.freshWord_swSet (s : State) : (s.freshWord.2).swSet = s.swSet := (rfl)
@[simp] theorem State.freshWord_undef (s : State) : (s.freshWord.2).undef = s.undef := (rfl)
@[simp] theorem State.freshWord_mem (s : State) : (s.freshWord.2).mem = s.mem := (rfl)
@[simp] theorem State.freshWord_ecc (s : State) : (s.freshWord.2).ecc = s.ecc := (rfl)
@[simp] theorem State.freshWord_pageErr (s : State) : (s.freshWord.2).pageErr = s.pageErr := (rfl)
@[simp] theorem State.freshWord_rdata (s : State) : (s.freshWord.2).rdata = s.rdata := (rfl)
@[simp] theorem State.freshWord_ch (s : State) : (s.freshWord.2).ch = s.ch := (rfl)
@[simp] theorem State.freshWord_rt (s : State) : (s.freshWord.2).rt = s.rt := (rfl)
@[simp] theorem State.freshWord_stg (s : State) : (s.freshWord.2).stg = s.stg := (rfl)
@[simp] theorem State.freshWord_pr (s : State) : (s.freshWord.2).pr = s.pr := (rfl)
@[simp] theorem State.freshWord_mv (s : State) : (s.freshWord.2).mv = s.mv := (rfl)
@[simp] theorem State.freshWord_lg (s : State) : (s.freshWord.2).lg = s.lg := (rfl)
@[simp] theorem State.freshWord_lanes (s : State) : (s.freshWord.2).lanes = s.lanes := (rfl)
@[simp] theorem State.freshWord_path (s : State) : (s.freshWord.2).path = s.path := (rfl)
@[simp] theorem State.freshWord_md (s : State) : (s.freshWord.2).md = s.md := (rfl)
@[simp] theorem State.freshWord_up (s : State) : (s.freshWord.2).up = s.up := (rfl)
@[simp] theorem State.freshWord_ts (s : State) : (s.freshWord.2).ts = s.ts := (rfl)
@[simp] theorem State.freshWord_io (s : State) : (s.freshWord.2).io = s.io := (rfl)
@[simp] theorem State.freshWord_sq1 (s : State) : (s.freshWord.2).sq1 = s.sq1 := (rfl)
@[simp] theorem State.freshWord_reg (s : State) (j : Nat) : (s.freshWord.2).reg j = s.reg j := (rfl)
@[simp] theorem State.freshWord_byte (s : State) (j : Nat) : (s.freshWord.2).byte j = s.byte j := (rfl)
@[simp] theorem State.freshWord_eccMask (s : State) (j : Nat) : (s.freshWord.2).eccMask j = s.eccMask j := (rfl)
@[simp] theorem State.freshWord_conv (s : State) (j : Nat) : (s.freshWord.2).conv j = s.conv j := (rfl)
@[simp] theorem State.freshWord_chan (s : State) (j : Nat) : (s.freshWord.2).chan j = s.chan j := (rfl)
@[simp] theorem State.freshWord_group (s : State) (j : Nat) : (s.freshWord.2).group j = s.group j := (rfl)
@[simp] theorem State.freshWord_eng (s : State) (j : Nat) : (s.freshWord.2).eng j = s.eng j := (rfl)
@[simp] theorem State.freshWord_sbyOf (s : State) (j : Nat) : (s.freshWord.2).sbyOf j = s.sbyOf j := (rfl)
@[simp] theorem State.freshWord_sprOf (s : State) (j : Nat) : (s.freshWord.2).sprOf j = s.sprOf j := (rfl)
@[simp] theorem State.freshWord_tblOf (s : State) (j : Nat) : (s.freshWord.2).tblOf j = s.tblOf j := (rfl)
@[simp] theorem State.freshWord_trk (s : State) (j : Nat) : (s.freshWord.2).trk j = s.trk j := (rfl)
@[simp] theorem State.freshWord_slot (s : State) (j : Nat) : (s.freshWord.2).slot j = s.slot j := (rfl)
@[simp] theorem State.freshWord_enc (s : State) (j : Nat) : (s.freshWord.2).enc j = s.enc j := (rfl)
@[simp] theorem State.freshWord_sig (s : State) (j : Nat) : (s.freshWord.2).sig j = s.sig j := (rfl)
@[simp] theorem State.freshWord_core (s : State) (j : Nat) : (s.freshWord.2).core j = s.core j := (rfl)
@[simp] theorem State.freshWord_flow (s : State) (j : Nat) : (s.freshWord.2).flow j = s.flow j := (rfl)
@[simp] theorem State.freshWord_src (s : State) (j : Nat) : (s.freshWord.2).src j = s.src j := (rfl)
@[simp] theorem State.freshWord_dma (s : State) (j : Nat) : (s.freshWord.2).dma j = s.dma j := (rfl)
@[simp] theorem State.freshWord_lane (s : State) (j : Nat) : (s.freshWord.2).lane j = s.lane j := (rfl)
@[simp] theorem State.freshWord_lport (s : State) (j : Nat) : (s.freshWord.2).lport j = s.lport j := (rfl)
@[simp] theorem State.freshWord_mac (s : State) (j : Nat) : (s.freshWord.2).mac j = s.mac j := (rfl)
@[simp] theorem State.freshWord_can (s : State) (j : Nat) : (s.freshWord.2).can j = s.can j := (rfl)
@[simp] theorem State.freshWord_spi (s : State) (j : Nat) : (s.freshWord.2).spi j = s.spi j := (rfl)
@[simp] theorem State.freshWord_now (s : State) : (s.freshWord.2).now = s.now := (rfl)
@[simp] theorem State.freshWord_free (s : State) : s.freshWord.2.free = s.free + 1 := (rfl)

/-! ### freshBit -/

@[simp] theorem State.freshBit_pending (s : State) : (s.freshBit.2).pending = s.pending := (rfl)
@[simp] theorem State.freshBit_tb (s : State) : (s.freshBit.2).tb = s.tb := (rfl)
@[simp] theorem State.freshBit_regs (s : State) : (s.freshBit.2).regs = s.regs := (rfl)
@[simp] theorem State.freshBit_hwSet (s : State) : (s.freshBit.2).hwSet = s.hwSet := (rfl)
@[simp] theorem State.freshBit_swSet (s : State) : (s.freshBit.2).swSet = s.swSet := (rfl)
@[simp] theorem State.freshBit_undef (s : State) : (s.freshBit.2).undef = s.undef := (rfl)
@[simp] theorem State.freshBit_mem (s : State) : (s.freshBit.2).mem = s.mem := (rfl)
@[simp] theorem State.freshBit_ecc (s : State) : (s.freshBit.2).ecc = s.ecc := (rfl)
@[simp] theorem State.freshBit_pageErr (s : State) : (s.freshBit.2).pageErr = s.pageErr := (rfl)
@[simp] theorem State.freshBit_rdata (s : State) : (s.freshBit.2).rdata = s.rdata := (rfl)
@[simp] theorem State.freshBit_ch (s : State) : (s.freshBit.2).ch = s.ch := (rfl)
@[simp] theorem State.freshBit_rt (s : State) : (s.freshBit.2).rt = s.rt := (rfl)
@[simp] theorem State.freshBit_stg (s : State) : (s.freshBit.2).stg = s.stg := (rfl)
@[simp] theorem State.freshBit_pr (s : State) : (s.freshBit.2).pr = s.pr := (rfl)
@[simp] theorem State.freshBit_mv (s : State) : (s.freshBit.2).mv = s.mv := (rfl)
@[simp] theorem State.freshBit_lg (s : State) : (s.freshBit.2).lg = s.lg := (rfl)
@[simp] theorem State.freshBit_lanes (s : State) : (s.freshBit.2).lanes = s.lanes := (rfl)
@[simp] theorem State.freshBit_path (s : State) : (s.freshBit.2).path = s.path := (rfl)
@[simp] theorem State.freshBit_md (s : State) : (s.freshBit.2).md = s.md := (rfl)
@[simp] theorem State.freshBit_up (s : State) : (s.freshBit.2).up = s.up := (rfl)
@[simp] theorem State.freshBit_ts (s : State) : (s.freshBit.2).ts = s.ts := (rfl)
@[simp] theorem State.freshBit_io (s : State) : (s.freshBit.2).io = s.io := (rfl)
@[simp] theorem State.freshBit_sq1 (s : State) : (s.freshBit.2).sq1 = s.sq1 := (rfl)
@[simp] theorem State.freshBit_reg (s : State) (j : Nat) : (s.freshBit.2).reg j = s.reg j := (rfl)
@[simp] theorem State.freshBit_byte (s : State) (j : Nat) : (s.freshBit.2).byte j = s.byte j := (rfl)
@[simp] theorem State.freshBit_eccMask (s : State) (j : Nat) : (s.freshBit.2).eccMask j = s.eccMask j := (rfl)
@[simp] theorem State.freshBit_conv (s : State) (j : Nat) : (s.freshBit.2).conv j = s.conv j := (rfl)
@[simp] theorem State.freshBit_chan (s : State) (j : Nat) : (s.freshBit.2).chan j = s.chan j := (rfl)
@[simp] theorem State.freshBit_group (s : State) (j : Nat) : (s.freshBit.2).group j = s.group j := (rfl)
@[simp] theorem State.freshBit_eng (s : State) (j : Nat) : (s.freshBit.2).eng j = s.eng j := (rfl)
@[simp] theorem State.freshBit_sbyOf (s : State) (j : Nat) : (s.freshBit.2).sbyOf j = s.sbyOf j := (rfl)
@[simp] theorem State.freshBit_sprOf (s : State) (j : Nat) : (s.freshBit.2).sprOf j = s.sprOf j := (rfl)
@[simp] theorem State.freshBit_tblOf (s : State) (j : Nat) : (s.freshBit.2).tblOf j = s.tblOf j := (rfl)
@[simp] theorem State.freshBit_trk (s : State) (j : Nat) : (s.freshBit.2).trk j = s.trk j := (rfl)
@[simp] theorem State.freshBit_slot (s : State) (j : Nat) : (s.freshBit.2).slot j = s.slot j := (rfl)
@[simp] theorem State.freshBit_enc (s : State) (j : Nat) : (s.freshBit.2).enc j = s.enc j := (rfl)
@[simp] theorem State.freshBit_sig (s : State) (j : Nat) : (s.freshBit.2).sig j = s.sig j := (rfl)
@[simp] theorem State.freshBit_core (s : State) (j : Nat) : (s.freshBit.2).core j = s.core j := (rfl)
@[simp] theorem State.freshBit_flow (s : State) (j : Nat) : (s.freshBit.2).flow j = s.flow j := (rfl)
@[simp] theorem State.freshBit_src (s : State) (j : Nat) : (s.freshBit.2).src j = s.src j := (rfl)
@[simp] theorem State.freshBit_dma (s : State) (j : Nat) : (s.freshBit.2).dma j = s.dma j := (rfl)
@[simp] theorem State.freshBit_lane (s : State) (j : Nat) : (s.freshBit.2).lane j = s.lane j := (rfl)
@[simp] theorem State.freshBit_lport (s : State) (j : Nat) : (s.freshBit.2).lport j = s.lport j := (rfl)
@[simp] theorem State.freshBit_mac (s : State) (j : Nat) : (s.freshBit.2).mac j = s.mac j := (rfl)
@[simp] theorem State.freshBit_can (s : State) (j : Nat) : (s.freshBit.2).can j = s.can j := (rfl)
@[simp] theorem State.freshBit_spi (s : State) (j : Nat) : (s.freshBit.2).spi j = s.spi j := (rfl)
@[simp] theorem State.freshBit_now (s : State) : (s.freshBit.2).now = s.now := (rfl)
@[simp] theorem State.freshBit_free (s : State) : s.freshBit.2.free = s.free + 1 := (rfl)

/-! ### markUndef -/

@[simp] theorem State.markUndef_pending (s : State) (k : Nat) : (s.markUndef k).pending = s.pending := (rfl)
@[simp] theorem State.markUndef_free (s : State) (k : Nat) : (s.markUndef k).free = s.free := (rfl)
@[simp] theorem State.markUndef_tb (s : State) (k : Nat) : (s.markUndef k).tb = s.tb := (rfl)
@[simp] theorem State.markUndef_regs (s : State) (k : Nat) : (s.markUndef k).regs = s.regs := (rfl)
@[simp] theorem State.markUndef_hwSet (s : State) (k : Nat) : (s.markUndef k).hwSet = s.hwSet := (rfl)
@[simp] theorem State.markUndef_swSet (s : State) (k : Nat) : (s.markUndef k).swSet = s.swSet := (rfl)
@[simp] theorem State.markUndef_mem (s : State) (k : Nat) : (s.markUndef k).mem = s.mem := (rfl)
@[simp] theorem State.markUndef_ecc (s : State) (k : Nat) : (s.markUndef k).ecc = s.ecc := (rfl)
@[simp] theorem State.markUndef_pageErr (s : State) (k : Nat) : (s.markUndef k).pageErr = s.pageErr := (rfl)
@[simp] theorem State.markUndef_rdata (s : State) (k : Nat) : (s.markUndef k).rdata = s.rdata := (rfl)
@[simp] theorem State.markUndef_ch (s : State) (k : Nat) : (s.markUndef k).ch = s.ch := (rfl)
@[simp] theorem State.markUndef_rt (s : State) (k : Nat) : (s.markUndef k).rt = s.rt := (rfl)
@[simp] theorem State.markUndef_stg (s : State) (k : Nat) : (s.markUndef k).stg = s.stg := (rfl)
@[simp] theorem State.markUndef_pr (s : State) (k : Nat) : (s.markUndef k).pr = s.pr := (rfl)
@[simp] theorem State.markUndef_mv (s : State) (k : Nat) : (s.markUndef k).mv = s.mv := (rfl)
@[simp] theorem State.markUndef_lg (s : State) (k : Nat) : (s.markUndef k).lg = s.lg := (rfl)
@[simp] theorem State.markUndef_lanes (s : State) (k : Nat) : (s.markUndef k).lanes = s.lanes := (rfl)
@[simp] theorem State.markUndef_path (s : State) (k : Nat) : (s.markUndef k).path = s.path := (rfl)
@[simp] theorem State.markUndef_md (s : State) (k : Nat) : (s.markUndef k).md = s.md := (rfl)
@[simp] theorem State.markUndef_up (s : State) (k : Nat) : (s.markUndef k).up = s.up := (rfl)
@[simp] theorem State.markUndef_ts (s : State) (k : Nat) : (s.markUndef k).ts = s.ts := (rfl)
@[simp] theorem State.markUndef_io (s : State) (k : Nat) : (s.markUndef k).io = s.io := (rfl)
@[simp] theorem State.markUndef_sq1 (s : State) (k : Nat) : (s.markUndef k).sq1 = s.sq1 := (rfl)
@[simp] theorem State.markUndef_reg (s : State) (k : Nat) (j : Nat) : (s.markUndef k).reg j = s.reg j := (rfl)
@[simp] theorem State.markUndef_byte (s : State) (k : Nat) (j : Nat) : (s.markUndef k).byte j = s.byte j := (rfl)
@[simp] theorem State.markUndef_eccMask (s : State) (k : Nat) (j : Nat) : (s.markUndef k).eccMask j = s.eccMask j := (rfl)
@[simp] theorem State.markUndef_conv (s : State) (k : Nat) (j : Nat) : (s.markUndef k).conv j = s.conv j := (rfl)
@[simp] theorem State.markUndef_chan (s : State) (k : Nat) (j : Nat) : (s.markUndef k).chan j = s.chan j := (rfl)
@[simp] theorem State.markUndef_group (s : State) (k : Nat) (j : Nat) : (s.markUndef k).group j = s.group j := (rfl)
@[simp] theorem State.markUndef_eng (s : State) (k : Nat) (j : Nat) : (s.markUndef k).eng j = s.eng j := (rfl)
@[simp] theorem State.markUndef_sbyOf (s : State) (k : Nat) (j : Nat) : (s.markUndef k).sbyOf j = s.sbyOf j := (rfl)
@[simp] theorem State.markUndef_sprOf (s : State) (k : Nat) (j : Nat) : (s.markUndef k).sprOf j = s.sprOf j := (rfl)
@[simp] theorem State.markUndef_tblOf (s : State) (k : Nat) (j : Nat) : (s.markUndef k).tblOf j = s.tblOf j := (rfl)
@[simp] theorem State.markUndef_trk (s : State) (k : Nat) (j : Nat) : (s.markUndef k).trk j = s.trk j := (rfl)
@[simp] theorem State.markUndef_slot (s : State) (k : Nat) (j : Nat) : (s.markUndef k).slot j = s.slot j := (rfl)
@[simp] theorem State.markUndef_enc (s : State) (k : Nat) (j : Nat) : (s.markUndef k).enc j = s.enc j := (rfl)
@[simp] theorem State.markUndef_sig (s : State) (k : Nat) (j : Nat) : (s.markUndef k).sig j = s.sig j := (rfl)
@[simp] theorem State.markUndef_core (s : State) (k : Nat) (j : Nat) : (s.markUndef k).core j = s.core j := (rfl)
@[simp] theorem State.markUndef_flow (s : State) (k : Nat) (j : Nat) : (s.markUndef k).flow j = s.flow j := (rfl)
@[simp] theorem State.markUndef_src (s : State) (k : Nat) (j : Nat) : (s.markUndef k).src j = s.src j := (rfl)
@[simp] theorem State.markUndef_dma (s : State) (k : Nat) (j : Nat) : (s.markUndef k).dma j = s.dma j := (rfl)
@[simp] theorem State.markUndef_lane (s : State) (k : Nat) (j : Nat) : (s.markUndef k).lane j = s.lane j := (rfl)
@[simp] theorem State.markUndef_lport (s : State) (k : Nat) (j : Nat) : (s.markUndef k).lport j = s.lport j := (rfl)
@[simp] theorem State.markUndef_mac (s : State) (k : Nat) (j : Nat) : (s.markUndef k).mac j = s.mac j := (rfl)
@[simp] theorem State.markUndef_can (s : State) (k : Nat) (j : Nat) : (s.markUndef k).can j = s.can j := (rfl)
@[simp] theorem State.markUndef_spi (s : State) (k : Nat) (j : Nat) : (s.markUndef k).spi j = s.spi j := (rfl)
@[simp] theorem State.markUndef_now (s : State) (k : Nat) : (s.markUndef k).now = s.now := (rfl)

/-! ### defined -/

@[simp] theorem State.defined_pending (s : State) (k : Nat) : (s.defined k).pending = s.pending := (rfl)
@[simp] theorem State.defined_free (s : State) (k : Nat) : (s.defined k).free = s.free := (rfl)
@[simp] theorem State.defined_tb (s : State) (k : Nat) : (s.defined k).tb = s.tb := (rfl)
@[simp] theorem State.defined_regs (s : State) (k : Nat) : (s.defined k).regs = s.regs := (rfl)
@[simp] theorem State.defined_hwSet (s : State) (k : Nat) : (s.defined k).hwSet = s.hwSet := (rfl)
@[simp] theorem State.defined_swSet (s : State) (k : Nat) : (s.defined k).swSet = s.swSet := (rfl)
@[simp] theorem State.defined_mem (s : State) (k : Nat) : (s.defined k).mem = s.mem := (rfl)
@[simp] theorem State.defined_ecc (s : State) (k : Nat) : (s.defined k).ecc = s.ecc := (rfl)
@[simp] theorem State.defined_pageErr (s : State) (k : Nat) : (s.defined k).pageErr = s.pageErr := (rfl)
@[simp] theorem State.defined_rdata (s : State) (k : Nat) : (s.defined k).rdata = s.rdata := (rfl)
@[simp] theorem State.defined_ch (s : State) (k : Nat) : (s.defined k).ch = s.ch := (rfl)
@[simp] theorem State.defined_rt (s : State) (k : Nat) : (s.defined k).rt = s.rt := (rfl)
@[simp] theorem State.defined_stg (s : State) (k : Nat) : (s.defined k).stg = s.stg := (rfl)
@[simp] theorem State.defined_pr (s : State) (k : Nat) : (s.defined k).pr = s.pr := (rfl)
@[simp] theorem State.defined_mv (s : State) (k : Nat) : (s.defined k).mv = s.mv := (rfl)
@[simp] theorem State.defined_lg (s : State) (k : Nat) : (s.defined k).lg = s.lg := (rfl)
@[simp] theorem State.defined_lanes (s : State) (k : Nat) : (s.defined k).lanes = s.lanes := (rfl)
@[simp] theorem State.defined_path (s : State) (k : Nat) : (s.defined k).path = s.path := (rfl)
@[simp] theorem State.defined_md (s : State) (k : Nat) : (s.defined k).md = s.md := (rfl)
@[simp] theorem State.defined_up (s : State) (k : Nat) : (s.defined k).up = s.up := (rfl)
@[simp] theorem State.defined_ts (s : State) (k : Nat) : (s.defined k).ts = s.ts := (rfl)
@[simp] theorem State.defined_io (s : State) (k : Nat) : (s.defined k).io = s.io := (rfl)
@[simp] theorem State.defined_sq1 (s : State) (k : Nat) : (s.defined k).sq1 = s.sq1 := (rfl)
@[simp] theorem State.defined_reg (s : State) (k : Nat) (j : Nat) : (s.defined k).reg j = s.reg j := (rfl)
@[simp] theorem State.defined_byte (s : State) (k : Nat) (j : Nat) : (s.defined k).byte j = s.byte j := (rfl)
@[simp] theorem State.defined_eccMask (s : State) (k : Nat) (j : Nat) : (s.defined k).eccMask j = s.eccMask j := (rfl)
@[simp] theorem State.defined_conv (s : State) (k : Nat) (j : Nat) : (s.defined k).conv j = s.conv j := (rfl)
@[simp] theorem State.defined_chan (s : State) (k : Nat) (j : Nat) : (s.defined k).chan j = s.chan j := (rfl)
@[simp] theorem State.defined_group (s : State) (k : Nat) (j : Nat) : (s.defined k).group j = s.group j := (rfl)
@[simp] theorem State.defined_eng (s : State) (k : Nat) (j : Nat) : (s.defined k).eng j = s.eng j := (rfl)
@[simp] theorem State.defined_sbyOf (s : State) (k : Nat) (j : Nat) : (s.defined k).sbyOf j = s.sbyOf j := (rfl)
@[simp] theorem State.defined_sprOf (s : State) (k : Nat) (j : Nat) : (s.defined k).sprOf j = s.sprOf j := (rfl)
@[simp] theorem State.defined_tblOf (s : State) (k : Nat) (j : Nat) : (s.defined k).tblOf j = s.tblOf j := (rfl)
@[simp] theorem State.defined_trk (s : State) (k : Nat) (j : Nat) : (s.defined k).trk j = s.trk j := (rfl)
@[simp] theorem State.defined_slot (s : State) (k : Nat) (j : Nat) : (s.defined k).slot j = s.slot j := (rfl)
@[simp] theorem State.defined_enc (s : State) (k : Nat) (j : Nat) : (s.defined k).enc j = s.enc j := (rfl)
@[simp] theorem State.defined_sig (s : State) (k : Nat) (j : Nat) : (s.defined k).sig j = s.sig j := (rfl)
@[simp] theorem State.defined_core (s : State) (k : Nat) (j : Nat) : (s.defined k).core j = s.core j := (rfl)
@[simp] theorem State.defined_flow (s : State) (k : Nat) (j : Nat) : (s.defined k).flow j = s.flow j := (rfl)
@[simp] theorem State.defined_src (s : State) (k : Nat) (j : Nat) : (s.defined k).src j = s.src j := (rfl)
@[simp] theorem State.defined_dma (s : State) (k : Nat) (j : Nat) : (s.defined k).dma j = s.dma j := (rfl)
@[simp] theorem State.defined_lane (s : State) (k : Nat) (j : Nat) : (s.defined k).lane j = s.lane j := (rfl)
@[simp] theorem State.defined_lport (s : State) (k : Nat) (j : Nat) : (s.defined k).lport j = s.lport j := (rfl)
@[simp] theorem State.defined_mac (s : State) (k : Nat) (j : Nat) : (s.defined k).mac j = s.mac j := (rfl)
@[simp] theorem State.defined_can (s : State) (k : Nat) (j : Nat) : (s.defined k).can j = s.can j := (rfl)
@[simp] theorem State.defined_spi (s : State) (k : Nat) (j : Nat) : (s.defined k).spi j = s.spi j := (rfl)
@[simp] theorem State.defined_now (s : State) (k : Nat) : (s.defined k).now = s.now := (rfl)

/-! ### returned -/

@[simp] theorem State.returned_pending (s : State) (m : Nat) (w : Word) : (s.returned m w).pending = s.pending := (rfl)
@[simp] theorem State.returned_free (s : State) (m : Nat) (w : Word) : (s.returned m w).free = s.free := (rfl)
@[simp] theorem State.returned_tb (s : State) (m : Nat) (w : Word) : (s.returned m w).tb = s.tb := (rfl)
@[simp] theorem State.returned_regs (s : State) (m : Nat) (w : Word) : (s.returned m w).regs = s.regs := (rfl)
@[simp] theorem State.returned_hwSet (s : State) (m : Nat) (w : Word) : (s.returned m w).hwSet = s.hwSet := (rfl)
@[simp] theorem State.returned_swSet (s : State) (m : Nat) (w : Word) : (s.returned m w).swSet = s.swSet := (rfl)
@[simp] theorem State.returned_undef (s : State) (m : Nat) (w : Word) : (s.returned m w).undef = s.undef := (rfl)
@[simp] theorem State.returned_mem (s : State) (m : Nat) (w : Word) : (s.returned m w).mem = s.mem := (rfl)
@[simp] theorem State.returned_ecc (s : State) (m : Nat) (w : Word) : (s.returned m w).ecc = s.ecc := (rfl)
@[simp] theorem State.returned_pageErr (s : State) (m : Nat) (w : Word) : (s.returned m w).pageErr = s.pageErr := (rfl)
@[simp] theorem State.returned_ch (s : State) (m : Nat) (w : Word) : (s.returned m w).ch = s.ch := (rfl)
@[simp] theorem State.returned_rt (s : State) (m : Nat) (w : Word) : (s.returned m w).rt = s.rt := (rfl)
@[simp] theorem State.returned_stg (s : State) (m : Nat) (w : Word) : (s.returned m w).stg = s.stg := (rfl)
@[simp] theorem State.returned_pr (s : State) (m : Nat) (w : Word) : (s.returned m w).pr = s.pr := (rfl)
@[simp] theorem State.returned_mv (s : State) (m : Nat) (w : Word) : (s.returned m w).mv = s.mv := (rfl)
@[simp] theorem State.returned_lg (s : State) (m : Nat) (w : Word) : (s.returned m w).lg = s.lg := (rfl)
@[simp] theorem State.returned_lanes (s : State) (m : Nat) (w : Word) : (s.returned m w).lanes = s.lanes := (rfl)
@[simp] theorem State.returned_path (s : State) (m : Nat) (w : Word) : (s.returned m w).path = s.path := (rfl)
@[simp] theorem State.returned_md (s : State) (m : Nat) (w : Word) : (s.returned m w).md = s.md := (rfl)
@[simp] theorem State.returned_up (s : State) (m : Nat) (w : Word) : (s.returned m w).up = s.up := (rfl)
@[simp] theorem State.returned_ts (s : State) (m : Nat) (w : Word) : (s.returned m w).ts = s.ts := (rfl)
@[simp] theorem State.returned_io (s : State) (m : Nat) (w : Word) : (s.returned m w).io = s.io := (rfl)
@[simp] theorem State.returned_sq1 (s : State) (m : Nat) (w : Word) : (s.returned m w).sq1 = s.sq1 := (rfl)
@[simp] theorem State.returned_reg (s : State) (m : Nat) (w : Word) (j : Nat) : (s.returned m w).reg j = s.reg j := (rfl)
@[simp] theorem State.returned_byte (s : State) (m : Nat) (w : Word) (j : Nat) : (s.returned m w).byte j = s.byte j := (rfl)
@[simp] theorem State.returned_eccMask (s : State) (m : Nat) (w : Word) (j : Nat) : (s.returned m w).eccMask j = s.eccMask j := (rfl)
@[simp] theorem State.returned_conv (s : State) (m : Nat) (w : Word) (j : Nat) : (s.returned m w).conv j = s.conv j := (rfl)
@[simp] theorem State.returned_chan (s : State) (m : Nat) (w : Word) (j : Nat) : (s.returned m w).chan j = s.chan j := (rfl)
@[simp] theorem State.returned_group (s : State) (m : Nat) (w : Word) (j : Nat) : (s.returned m w).group j = s.group j := (rfl)
@[simp] theorem State.returned_eng (s : State) (m : Nat) (w : Word) (j : Nat) : (s.returned m w).eng j = s.eng j := (rfl)
@[simp] theorem State.returned_sbyOf (s : State) (m : Nat) (w : Word) (j : Nat) : (s.returned m w).sbyOf j = s.sbyOf j := (rfl)
@[simp] theorem State.returned_sprOf (s : State) (m : Nat) (w : Word) (j : Nat) : (s.returned m w).sprOf j = s.sprOf j := (rfl)
@[simp] theorem State.returned_tblOf (s : State) (m : Nat) (w : Word) (j : Nat) : (s.returned m w).tblOf j = s.tblOf j := (rfl)
@[simp] theorem State.returned_trk (s : State) (m : Nat) (w : Word) (j : Nat) : (s.returned m w).trk j = s.trk j := (rfl)
@[simp] theorem State.returned_slot (s : State) (m : Nat) (w : Word) (j : Nat) : (s.returned m w).slot j = s.slot j := (rfl)
@[simp] theorem State.returned_enc (s : State) (m : Nat) (w : Word) (j : Nat) : (s.returned m w).enc j = s.enc j := (rfl)
@[simp] theorem State.returned_sig (s : State) (m : Nat) (w : Word) (j : Nat) : (s.returned m w).sig j = s.sig j := (rfl)
@[simp] theorem State.returned_core (s : State) (m : Nat) (w : Word) (j : Nat) : (s.returned m w).core j = s.core j := (rfl)
@[simp] theorem State.returned_flow (s : State) (m : Nat) (w : Word) (j : Nat) : (s.returned m w).flow j = s.flow j := (rfl)
@[simp] theorem State.returned_src (s : State) (m : Nat) (w : Word) (j : Nat) : (s.returned m w).src j = s.src j := (rfl)
@[simp] theorem State.returned_dma (s : State) (m : Nat) (w : Word) (j : Nat) : (s.returned m w).dma j = s.dma j := (rfl)
@[simp] theorem State.returned_lane (s : State) (m : Nat) (w : Word) (j : Nat) : (s.returned m w).lane j = s.lane j := (rfl)
@[simp] theorem State.returned_lport (s : State) (m : Nat) (w : Word) (j : Nat) : (s.returned m w).lport j = s.lport j := (rfl)
@[simp] theorem State.returned_mac (s : State) (m : Nat) (w : Word) (j : Nat) : (s.returned m w).mac j = s.mac j := (rfl)
@[simp] theorem State.returned_can (s : State) (m : Nat) (w : Word) (j : Nat) : (s.returned m w).can j = s.can j := (rfl)
@[simp] theorem State.returned_spi (s : State) (m : Nat) (w : Word) (j : Nat) : (s.returned m w).spi j = s.spi j := (rfl)
@[simp] theorem State.returned_now (s : State) (m : Nat) (w : Word) : (s.returned m w).now = s.now := (rfl)

/-! ### stageClean -/

@[simp] theorem State.stageClean_pending (s : State) (k : Nat) (b : Bool) : (s.stageClean k b).pending = s.pending := (rfl)
@[simp] theorem State.stageClean_free (s : State) (k : Nat) (b : Bool) : (s.stageClean k b).free = s.free := (rfl)
@[simp] theorem State.stageClean_tb (s : State) (k : Nat) (b : Bool) : (s.stageClean k b).tb = s.tb := (rfl)
@[simp] theorem State.stageClean_regs (s : State) (k : Nat) (b : Bool) : (s.stageClean k b).regs = s.regs := (rfl)
@[simp] theorem State.stageClean_hwSet (s : State) (k : Nat) (b : Bool) : (s.stageClean k b).hwSet = s.hwSet := (rfl)
@[simp] theorem State.stageClean_swSet (s : State) (k : Nat) (b : Bool) : (s.stageClean k b).swSet = s.swSet := (rfl)
@[simp] theorem State.stageClean_mem (s : State) (k : Nat) (b : Bool) : (s.stageClean k b).mem = s.mem := (rfl)
@[simp] theorem State.stageClean_ecc (s : State) (k : Nat) (b : Bool) : (s.stageClean k b).ecc = s.ecc := (rfl)
@[simp] theorem State.stageClean_pageErr (s : State) (k : Nat) (b : Bool) : (s.stageClean k b).pageErr = s.pageErr := (rfl)
@[simp] theorem State.stageClean_rdata (s : State) (k : Nat) (b : Bool) : (s.stageClean k b).rdata = s.rdata := (rfl)
@[simp] theorem State.stageClean_ch (s : State) (k : Nat) (b : Bool) : (s.stageClean k b).ch = s.ch := (rfl)
@[simp] theorem State.stageClean_rt (s : State) (k : Nat) (b : Bool) : (s.stageClean k b).rt = s.rt := (rfl)
@[simp] theorem State.stageClean_stg_words (s : State) (k : Nat) (b : Bool) : (s.stageClean k b).stg.words = s.stg.words := (rfl)
@[simp] theorem State.stageClean_stg_applyAt (s : State) (k : Nat) (b : Bool) : (s.stageClean k b).stg.applyAt = s.stg.applyAt := (rfl)
@[simp] theorem State.stageClean_pr (s : State) (k : Nat) (b : Bool) : (s.stageClean k b).pr = s.pr := (rfl)
@[simp] theorem State.stageClean_mv (s : State) (k : Nat) (b : Bool) : (s.stageClean k b).mv = s.mv := (rfl)
@[simp] theorem State.stageClean_lg (s : State) (k : Nat) (b : Bool) : (s.stageClean k b).lg = s.lg := (rfl)
@[simp] theorem State.stageClean_lanes (s : State) (k : Nat) (b : Bool) : (s.stageClean k b).lanes = s.lanes := (rfl)
@[simp] theorem State.stageClean_path (s : State) (k : Nat) (b : Bool) : (s.stageClean k b).path = s.path := (rfl)
@[simp] theorem State.stageClean_md (s : State) (k : Nat) (b : Bool) : (s.stageClean k b).md = s.md := (rfl)
@[simp] theorem State.stageClean_up (s : State) (k : Nat) (b : Bool) : (s.stageClean k b).up = s.up := (rfl)
@[simp] theorem State.stageClean_ts (s : State) (k : Nat) (b : Bool) : (s.stageClean k b).ts = s.ts := (rfl)
@[simp] theorem State.stageClean_io (s : State) (k : Nat) (b : Bool) : (s.stageClean k b).io = s.io := (rfl)
@[simp] theorem State.stageClean_sq1 (s : State) (k : Nat) (b : Bool) : (s.stageClean k b).sq1 = s.sq1 := (rfl)
@[simp] theorem State.stageClean_reg (s : State) (k : Nat) (b : Bool) (j : Nat) : (s.stageClean k b).reg j = s.reg j := (rfl)
@[simp] theorem State.stageClean_byte (s : State) (k : Nat) (b : Bool) (j : Nat) : (s.stageClean k b).byte j = s.byte j := (rfl)
@[simp] theorem State.stageClean_eccMask (s : State) (k : Nat) (b : Bool) (j : Nat) : (s.stageClean k b).eccMask j = s.eccMask j := (rfl)
@[simp] theorem State.stageClean_conv (s : State) (k : Nat) (b : Bool) (j : Nat) : (s.stageClean k b).conv j = s.conv j := (rfl)
@[simp] theorem State.stageClean_chan (s : State) (k : Nat) (b : Bool) (j : Nat) : (s.stageClean k b).chan j = s.chan j := (rfl)
@[simp] theorem State.stageClean_group (s : State) (k : Nat) (b : Bool) (j : Nat) : (s.stageClean k b).group j = s.group j := (rfl)
@[simp] theorem State.stageClean_eng (s : State) (k : Nat) (b : Bool) (j : Nat) : (s.stageClean k b).eng j = s.eng j := (rfl)
@[simp] theorem State.stageClean_sbyOf (s : State) (k : Nat) (b : Bool) (j : Nat) : (s.stageClean k b).sbyOf j = s.sbyOf j := (rfl)
@[simp] theorem State.stageClean_sprOf (s : State) (k : Nat) (b : Bool) (j : Nat) : (s.stageClean k b).sprOf j = s.sprOf j := (rfl)
@[simp] theorem State.stageClean_tblOf (s : State) (k : Nat) (b : Bool) (j : Nat) : (s.stageClean k b).tblOf j = s.tblOf j := (rfl)
@[simp] theorem State.stageClean_trk (s : State) (k : Nat) (b : Bool) (j : Nat) : (s.stageClean k b).trk j = s.trk j := (rfl)
@[simp] theorem State.stageClean_slot (s : State) (k : Nat) (b : Bool) (j : Nat) : (s.stageClean k b).slot j = s.slot j := (rfl)
@[simp] theorem State.stageClean_enc (s : State) (k : Nat) (b : Bool) (j : Nat) : (s.stageClean k b).enc j = s.enc j := (rfl)
@[simp] theorem State.stageClean_sig (s : State) (k : Nat) (b : Bool) (j : Nat) : (s.stageClean k b).sig j = s.sig j := (rfl)
@[simp] theorem State.stageClean_core (s : State) (k : Nat) (b : Bool) (j : Nat) : (s.stageClean k b).core j = s.core j := (rfl)
@[simp] theorem State.stageClean_flow (s : State) (k : Nat) (b : Bool) (j : Nat) : (s.stageClean k b).flow j = s.flow j := (rfl)
@[simp] theorem State.stageClean_src (s : State) (k : Nat) (b : Bool) (j : Nat) : (s.stageClean k b).src j = s.src j := (rfl)
@[simp] theorem State.stageClean_dma (s : State) (k : Nat) (b : Bool) (j : Nat) : (s.stageClean k b).dma j = s.dma j := (rfl)
@[simp] theorem State.stageClean_lane (s : State) (k : Nat) (b : Bool) (j : Nat) : (s.stageClean k b).lane j = s.lane j := (rfl)
@[simp] theorem State.stageClean_lport (s : State) (k : Nat) (b : Bool) (j : Nat) : (s.stageClean k b).lport j = s.lport j := (rfl)
@[simp] theorem State.stageClean_mac (s : State) (k : Nat) (b : Bool) (j : Nat) : (s.stageClean k b).mac j = s.mac j := (rfl)
@[simp] theorem State.stageClean_can (s : State) (k : Nat) (b : Bool) (j : Nat) : (s.stageClean k b).can j = s.can j := (rfl)
@[simp] theorem State.stageClean_spi (s : State) (k : Nat) (b : Bool) (j : Nat) : (s.stageClean k b).spi j = s.spi j := (rfl)
@[simp] theorem State.stageClean_now (s : State) (k : Nat) (b : Bool) : (s.stageClean k b).now = s.now := (rfl)
@[simp] theorem State.stageClean_undef (s : State) (k : Nat) (b : Bool) : (s.stageClean k b).undef = s.undef := (rfl)

end Sys2Proof.Machine
end

