-- ==== Sys2Proof/Laws/Ops.lean ====
section
/-! SUPPORT. What the named operations can do: a register written by an operation, and everything else left as it was but the
sampled level conditions of interrupt sources; a report leaves all but Tally's input. One shape lemma for each operation, then one
lemma for each reader. -/

namespace Sys2Proof.Machine

open Sys2Proof

/-! ## forAll -/

@[simp] theorem forAll_nil {α : Type} (s : State) (f : State → α → State) : forAll [] s f = s := (rfl)

@[simp] theorem forAll_cons {α : Type} (x : α) (l : List α) (s : State) (f : State → α → State) :
    forAll (x :: l) s f = forAll l (f s x) f := (rfl)

/-- What each element keeps, the whole list keeps. -/
theorem forAll_induct {α : Type} {P : State → Prop} {f : State → α → State} (h : ∀ s x, P s → P (f s x)) (l : List α) {s : State}
    (hs : P s) : P (forAll l s f) := by
  induction l generalizing s with
  | nil => exact hs
  | cons x l ih => exact ih (h s x hs)

/-- What each element leaves alone, the whole list leaves alone. -/
theorem forAll_same {α β : Type} {g : State → β} {f : State → α → State} (h : ∀ s x, g (f s x) = g s) (l : List α) (s : State) :
    g (forAll l s f) = g s :=
  forAll_induct (P := fun t => g t = g s) (fun t x ht => (h t x).trans ht) l rfl

/-! ## The ways a command runs -/

/-- `run` answers a next state always: the effect on the advanced state, with the queue and memory as they were. -/
theorem run_eq (dt : Nat) (s : State) (f : State → State) :
    run dt s f = .next (((f (s.advance dt)).memoryOf s).queueOf s) := (rfl)

/-- `runMem` answers a next state always: the effect on the advanced state, with the queue as it was. -/
theorem runMem_eq (dt : Nat) (s : State) (f : State → State) : runMem dt s f = .next ((f (s.advance dt)).queueOf s) := (rfl)

/-- `runMemE` where the effect completes. -/
theorem runMemE_ok {dt : Nat} {s t : State} {f : State → Except Fault State} (h : f (s.advance dt) = .ok t) :
    runMemE dt s f = .next (t.queueOf s) := by simp [runMemE, h]

/-- `runE` where the effect completes. -/
theorem runE_ok {dt : Nat} {s t : State} {f : State → Except Fault State} (h : f (s.advance dt) = .ok t) :
    runE dt s f = .next ((t.memoryOf s).queueOf s) := by simp [runE, runMemE, h]

/-- A command on a channel register completes unless its face is withdrawn. -/
theorem runChan_ok {dt : Nat} {s : State} {a : Access} {k : Nat} {f : State → State} (h : (s.advance dt).faceFault a k = none) :
    runChan dt s a k f = .next (((f (s.advance dt)).memoryOf s).queueOf s) := runE_ok (by simp [h])

/-! ## Level conditions -/

/-- Following a level condition changes the interrupt sources and the bits the hardware has set, and nothing else. -/
theorem State.sample_shape (s : State) (i : Nat) :
    ∃ src hw, s.sample i = { s with mv := { s.mv with sources := src }, hwSet := hw } := by
  simp only [State.sample]
  split
  · exact ⟨s.mv.sources, s.hwSet, rfl⟩
  · split
    · unfold State.intEvent
      split
      · exact ⟨_, _, rfl⟩
      · exact ⟨_, s.hwSet, rfl⟩
    · exact ⟨_, s.hwSet, rfl⟩

/-- Writing a register changes it, the interrupt sources and the bits the hardware has set, and nothing else. -/
theorem State.put_shape (s : State) (k : Nat) (w : Word) :
    ∃ src hw, s.put k w = { s.setReg k w with mv := { s.mv with sources := src }, hwSet := hw } := by
  unfold State.put
  refine forAll_induct (P := fun t => ∃ src hw, t = { s.setReg k w with mv := { s.mv with sources := src }, hwSet := hw }) ?_ _
    ⟨s.mv.sources, s.hwSet, rfl⟩
  rintro _ x ⟨src, hw, rfl⟩
  obtain ⟨src', hw', h⟩ := State.sample_shape { s.setReg k w with mv := { s.mv with sources := src }, hwSet := hw } x
  exact ⟨src', hw', h⟩

/-! ### put -/

@[simp] theorem State.put_pending (s : State) (k : Nat) (w : Word) : (s.put k w).pending = s.pending := by
  obtain ⟨a, b, h⟩ := s.put_shape k w; rw [h]; rfl
@[simp] theorem State.put_free (s : State) (k : Nat) (w : Word) : (s.put k w).free = s.free := by
  obtain ⟨a, b, h⟩ := s.put_shape k w; rw [h]; rfl
@[simp] theorem State.put_tb (s : State) (k : Nat) (w : Word) : (s.put k w).tb = s.tb := by
  obtain ⟨a, b, h⟩ := s.put_shape k w; rw [h]; rfl
@[simp] theorem State.put_swSet (s : State) (k : Nat) (w : Word) : (s.put k w).swSet = s.swSet := by
  obtain ⟨a, b, h⟩ := s.put_shape k w; rw [h]; rfl
@[simp] theorem State.put_undef (s : State) (k : Nat) (w : Word) : (s.put k w).undef = s.undef := by
  obtain ⟨a, b, h⟩ := s.put_shape k w; rw [h]; rfl
@[simp] theorem State.put_mem (s : State) (k : Nat) (w : Word) : (s.put k w).mem = s.mem := by
  obtain ⟨a, b, h⟩ := s.put_shape k w; rw [h]; rfl
@[simp] theorem State.put_ecc (s : State) (k : Nat) (w : Word) : (s.put k w).ecc = s.ecc := by
  obtain ⟨a, b, h⟩ := s.put_shape k w; rw [h]; rfl
@[simp] theorem State.put_pageErr (s : State) (k : Nat) (w : Word) : (s.put k w).pageErr = s.pageErr := by
  obtain ⟨a, b, h⟩ := s.put_shape k w; rw [h]; rfl
@[simp] theorem State.put_rdata (s : State) (k : Nat) (w : Word) : (s.put k w).rdata = s.rdata := by
  obtain ⟨a, b, h⟩ := s.put_shape k w; rw [h]; rfl
@[simp] theorem State.put_ch (s : State) (k : Nat) (w : Word) : (s.put k w).ch = s.ch := by
  obtain ⟨a, b, h⟩ := s.put_shape k w; rw [h]; rfl
@[simp] theorem State.put_rt (s : State) (k : Nat) (w : Word) : (s.put k w).rt = s.rt := by
  obtain ⟨a, b, h⟩ := s.put_shape k w; rw [h]; rfl
@[simp] theorem State.put_stg (s : State) (k : Nat) (w : Word) : (s.put k w).stg = s.stg := by
  obtain ⟨a, b, h⟩ := s.put_shape k w; rw [h]; rfl
@[simp] theorem State.put_pr (s : State) (k : Nat) (w : Word) : (s.put k w).pr = s.pr := by
  obtain ⟨a, b, h⟩ := s.put_shape k w; rw [h]; rfl
@[simp] theorem State.put_lg (s : State) (k : Nat) (w : Word) : (s.put k w).lg = s.lg := by
  obtain ⟨a, b, h⟩ := s.put_shape k w; rw [h]; rfl
@[simp] theorem State.put_lanes (s : State) (k : Nat) (w : Word) : (s.put k w).lanes = s.lanes := by
  obtain ⟨a, b, h⟩ := s.put_shape k w; rw [h]; rfl
@[simp] theorem State.put_path (s : State) (k : Nat) (w : Word) : (s.put k w).path = s.path := by
  obtain ⟨a, b, h⟩ := s.put_shape k w; rw [h]; rfl
@[simp] theorem State.put_md (s : State) (k : Nat) (w : Word) : (s.put k w).md = s.md := by
  obtain ⟨a, b, h⟩ := s.put_shape k w; rw [h]; rfl
@[simp] theorem State.put_up (s : State) (k : Nat) (w : Word) : (s.put k w).up = s.up := by
  obtain ⟨a, b, h⟩ := s.put_shape k w; rw [h]; rfl
@[simp] theorem State.put_ts (s : State) (k : Nat) (w : Word) : (s.put k w).ts = s.ts := by
  obtain ⟨a, b, h⟩ := s.put_shape k w; rw [h]; rfl
@[simp] theorem State.put_io (s : State) (k : Nat) (w : Word) : (s.put k w).io = s.io := by
  obtain ⟨a, b, h⟩ := s.put_shape k w; rw [h]; rfl
@[simp] theorem State.put_sq1 (s : State) (k : Nat) (w : Word) : (s.put k w).sq1 = s.sq1 := by
  obtain ⟨a, b, h⟩ := s.put_shape k w; rw [h]; rfl
@[simp] theorem State.put_byte (s : State) (k : Nat) (w : Word) (j : Nat) : (s.put k w).byte j = s.byte j := by
  obtain ⟨a, b, h⟩ := s.put_shape k w; rw [h]; rfl
@[simp] theorem State.put_eccMask (s : State) (k : Nat) (w : Word) (j : Nat) : (s.put k w).eccMask j = s.eccMask j := by
  obtain ⟨a, b, h⟩ := s.put_shape k w; rw [h]; rfl
@[simp] theorem State.put_conv (s : State) (k : Nat) (w : Word) (j : Nat) : (s.put k w).conv j = s.conv j := by
  obtain ⟨a, b, h⟩ := s.put_shape k w; rw [h]; rfl
@[simp] theorem State.put_chan (s : State) (k : Nat) (w : Word) (j : Nat) : (s.put k w).chan j = s.chan j := by
  obtain ⟨a, b, h⟩ := s.put_shape k w; rw [h]; rfl
@[simp] theorem State.put_group (s : State) (k : Nat) (w : Word) (j : Nat) : (s.put k w).group j = s.group j := by
  obtain ⟨a, b, h⟩ := s.put_shape k w; rw [h]; rfl
@[simp] theorem State.put_eng (s : State) (k : Nat) (w : Word) (j : Nat) : (s.put k w).eng j = s.eng j := by
  obtain ⟨a, b, h⟩ := s.put_shape k w; rw [h]; rfl
@[simp] theorem State.put_sbyOf (s : State) (k : Nat) (w : Word) (j : Nat) : (s.put k w).sbyOf j = s.sbyOf j := by
  obtain ⟨a, b, h⟩ := s.put_shape k w; rw [h]; rfl
@[simp] theorem State.put_sprOf (s : State) (k : Nat) (w : Word) (j : Nat) : (s.put k w).sprOf j = s.sprOf j := by
  obtain ⟨a, b, h⟩ := s.put_shape k w; rw [h]; rfl
@[simp] theorem State.put_tblOf (s : State) (k : Nat) (w : Word) (j : Nat) : (s.put k w).tblOf j = s.tblOf j := by
  obtain ⟨a, b, h⟩ := s.put_shape k w; rw [h]; rfl
@[simp] theorem State.put_trk (s : State) (k : Nat) (w : Word) (j : Nat) : (s.put k w).trk j = s.trk j := by
  obtain ⟨a, b, h⟩ := s.put_shape k w; rw [h]; rfl
@[simp] theorem State.put_slot (s : State) (k : Nat) (w : Word) (j : Nat) : (s.put k w).slot j = s.slot j := by
  obtain ⟨a, b, h⟩ := s.put_shape k w; rw [h]; rfl
@[simp] theorem State.put_enc (s : State) (k : Nat) (w : Word) (j : Nat) : (s.put k w).enc j = s.enc j := by
  obtain ⟨a, b, h⟩ := s.put_shape k w; rw [h]; rfl
@[simp] theorem State.put_sig (s : State) (k : Nat) (w : Word) (j : Nat) : (s.put k w).sig j = s.sig j := by
  obtain ⟨a, b, h⟩ := s.put_shape k w; rw [h]; rfl
@[simp] theorem State.put_core (s : State) (k : Nat) (w : Word) (j : Nat) : (s.put k w).core j = s.core j := by
  obtain ⟨a, b, h⟩ := s.put_shape k w; rw [h]; rfl
@[simp] theorem State.put_flow (s : State) (k : Nat) (w : Word) (j : Nat) : (s.put k w).flow j = s.flow j := by
  obtain ⟨a, b, h⟩ := s.put_shape k w; rw [h]; rfl
@[simp] theorem State.put_dma (s : State) (k : Nat) (w : Word) (j : Nat) : (s.put k w).dma j = s.dma j := by
  obtain ⟨a, b, h⟩ := s.put_shape k w; rw [h]; rfl
@[simp] theorem State.put_lane (s : State) (k : Nat) (w : Word) (j : Nat) : (s.put k w).lane j = s.lane j := by
  obtain ⟨a, b, h⟩ := s.put_shape k w; rw [h]; rfl
@[simp] theorem State.put_lport (s : State) (k : Nat) (w : Word) (j : Nat) : (s.put k w).lport j = s.lport j := by
  obtain ⟨a, b, h⟩ := s.put_shape k w; rw [h]; rfl
@[simp] theorem State.put_mac (s : State) (k : Nat) (w : Word) (j : Nat) : (s.put k w).mac j = s.mac j := by
  obtain ⟨a, b, h⟩ := s.put_shape k w; rw [h]; rfl
@[simp] theorem State.put_can (s : State) (k : Nat) (w : Word) (j : Nat) : (s.put k w).can j = s.can j := by
  obtain ⟨a, b, h⟩ := s.put_shape k w; rw [h]; rfl
@[simp] theorem State.put_spi (s : State) (k : Nat) (w : Word) (j : Nat) : (s.put k w).spi j = s.spi j := by
  obtain ⟨a, b, h⟩ := s.put_shape k w; rw [h]; rfl
@[simp] theorem State.put_now (s : State) (k : Nat) (w : Word) : (s.put k w).now = s.now := by
  obtain ⟨a, b, h⟩ := s.put_shape k w; rw [h]; rfl

theorem State.put_reg (s : State) (k : Nat) (w : Word) (j : Nat) : (s.put k w).reg j = if j = k then w else s.reg j := by
  obtain ⟨a, b, h⟩ := s.put_shape k w; rw [h]; exact s.setReg_reg k w j

/-! ### setF -/

@[simp] theorem State.setF_pending (s : State) (k : Nat) (f : Fld) (v : Nat) : (s.setF k f v).pending = s.pending := State.put_pending s k (f.put (s.reg k) v)
@[simp] theorem State.setF_free (s : State) (k : Nat) (f : Fld) (v : Nat) : (s.setF k f v).free = s.free := State.put_free s k (f.put (s.reg k) v)
@[simp] theorem State.setF_tb (s : State) (k : Nat) (f : Fld) (v : Nat) : (s.setF k f v).tb = s.tb := State.put_tb s k (f.put (s.reg k) v)
@[simp] theorem State.setF_swSet (s : State) (k : Nat) (f : Fld) (v : Nat) : (s.setF k f v).swSet = s.swSet := State.put_swSet s k (f.put (s.reg k) v)
@[simp] theorem State.setF_undef (s : State) (k : Nat) (f : Fld) (v : Nat) : (s.setF k f v).undef = s.undef := State.put_undef s k (f.put (s.reg k) v)
@[simp] theorem State.setF_mem (s : State) (k : Nat) (f : Fld) (v : Nat) : (s.setF k f v).mem = s.mem := State.put_mem s k (f.put (s.reg k) v)
@[simp] theorem State.setF_ecc (s : State) (k : Nat) (f : Fld) (v : Nat) : (s.setF k f v).ecc = s.ecc := State.put_ecc s k (f.put (s.reg k) v)
@[simp] theorem State.setF_pageErr (s : State) (k : Nat) (f : Fld) (v : Nat) : (s.setF k f v).pageErr = s.pageErr := State.put_pageErr s k (f.put (s.reg k) v)
@[simp] theorem State.setF_rdata (s : State) (k : Nat) (f : Fld) (v : Nat) : (s.setF k f v).rdata = s.rdata := State.put_rdata s k (f.put (s.reg k) v)
@[simp] theorem State.setF_ch (s : State) (k : Nat) (f : Fld) (v : Nat) : (s.setF k f v).ch = s.ch := State.put_ch s k (f.put (s.reg k) v)
@[simp] theorem State.setF_rt (s : State) (k : Nat) (f : Fld) (v : Nat) : (s.setF k f v).rt = s.rt := State.put_rt s k (f.put (s.reg k) v)
@[simp] theorem State.setF_stg (s : State) (k : Nat) (f : Fld) (v : Nat) : (s.setF k f v).stg = s.stg := State.put_stg s k (f.put (s.reg k) v)
@[simp] theorem State.setF_pr (s : State) (k : Nat) (f : Fld) (v : Nat) : (s.setF k f v).pr = s.pr := State.put_pr s k (f.put (s.reg k) v)
@[simp] theorem State.setF_lg (s : State) (k : Nat) (f : Fld) (v : Nat) : (s.setF k f v).lg = s.lg := State.put_lg s k (f.put (s.reg k) v)
@[simp] theorem State.setF_lanes (s : State) (k : Nat) (f : Fld) (v : Nat) : (s.setF k f v).lanes = s.lanes := State.put_lanes s k (f.put (s.reg k) v)
@[simp] theorem State.setF_path (s : State) (k : Nat) (f : Fld) (v : Nat) : (s.setF k f v).path = s.path := State.put_path s k (f.put (s.reg k) v)
@[simp] theorem State.setF_md (s : State) (k : Nat) (f : Fld) (v : Nat) : (s.setF k f v).md = s.md := State.put_md s k (f.put (s.reg k) v)
@[simp] theorem State.setF_up (s : State) (k : Nat) (f : Fld) (v : Nat) : (s.setF k f v).up = s.up := State.put_up s k (f.put (s.reg k) v)
@[simp] theorem State.setF_ts (s : State) (k : Nat) (f : Fld) (v : Nat) : (s.setF k f v).ts = s.ts := State.put_ts s k (f.put (s.reg k) v)
@[simp] theorem State.setF_io (s : State) (k : Nat) (f : Fld) (v : Nat) : (s.setF k f v).io = s.io := State.put_io s k (f.put (s.reg k) v)
@[simp] theorem State.setF_sq1 (s : State) (k : Nat) (f : Fld) (v : Nat) : (s.setF k f v).sq1 = s.sq1 := State.put_sq1 s k (f.put (s.reg k) v)
@[simp] theorem State.setF_byte (s : State) (k : Nat) (f : Fld) (v : Nat) (j : Nat) : (s.setF k f v).byte j = s.byte j := State.put_byte s k (f.put (s.reg k) v) j
@[simp] theorem State.setF_eccMask (s : State) (k : Nat) (f : Fld) (v : Nat) (j : Nat) : (s.setF k f v).eccMask j = s.eccMask j := State.put_eccMask s k (f.put (s.reg k) v) j
@[simp] theorem State.setF_conv (s : State) (k : Nat) (f : Fld) (v : Nat) (j : Nat) : (s.setF k f v).conv j = s.conv j := State.put_conv s k (f.put (s.reg k) v) j
@[simp] theorem State.setF_chan (s : State) (k : Nat) (f : Fld) (v : Nat) (j : Nat) : (s.setF k f v).chan j = s.chan j := State.put_chan s k (f.put (s.reg k) v) j
@[simp] theorem State.setF_group (s : State) (k : Nat) (f : Fld) (v : Nat) (j : Nat) : (s.setF k f v).group j = s.group j := State.put_group s k (f.put (s.reg k) v) j
@[simp] theorem State.setF_eng (s : State) (k : Nat) (f : Fld) (v : Nat) (j : Nat) : (s.setF k f v).eng j = s.eng j := State.put_eng s k (f.put (s.reg k) v) j
@[simp] theorem State.setF_sbyOf (s : State) (k : Nat) (f : Fld) (v : Nat) (j : Nat) : (s.setF k f v).sbyOf j = s.sbyOf j := State.put_sbyOf s k (f.put (s.reg k) v) j
@[simp] theorem State.setF_sprOf (s : State) (k : Nat) (f : Fld) (v : Nat) (j : Nat) : (s.setF k f v).sprOf j = s.sprOf j := State.put_sprOf s k (f.put (s.reg k) v) j
@[simp] theorem State.setF_tblOf (s : State) (k : Nat) (f : Fld) (v : Nat) (j : Nat) : (s.setF k f v).tblOf j = s.tblOf j := State.put_tblOf s k (f.put (s.reg k) v) j
@[simp] theorem State.setF_trk (s : State) (k : Nat) (f : Fld) (v : Nat) (j : Nat) : (s.setF k f v).trk j = s.trk j := State.put_trk s k (f.put (s.reg k) v) j
@[simp] theorem State.setF_slot (s : State) (k : Nat) (f : Fld) (v : Nat) (j : Nat) : (s.setF k f v).slot j = s.slot j := State.put_slot s k (f.put (s.reg k) v) j
@[simp] theorem State.setF_enc (s : State) (k : Nat) (f : Fld) (v : Nat) (j : Nat) : (s.setF k f v).enc j = s.enc j := State.put_enc s k (f.put (s.reg k) v) j
@[simp] theorem State.setF_sig (s : State) (k : Nat) (f : Fld) (v : Nat) (j : Nat) : (s.setF k f v).sig j = s.sig j := State.put_sig s k (f.put (s.reg k) v) j
@[simp] theorem State.setF_core (s : State) (k : Nat) (f : Fld) (v : Nat) (j : Nat) : (s.setF k f v).core j = s.core j := State.put_core s k (f.put (s.reg k) v) j
@[simp] theorem State.setF_flow (s : State) (k : Nat) (f : Fld) (v : Nat) (j : Nat) : (s.setF k f v).flow j = s.flow j := State.put_flow s k (f.put (s.reg k) v) j
@[simp] theorem State.setF_dma (s : State) (k : Nat) (f : Fld) (v : Nat) (j : Nat) : (s.setF k f v).dma j = s.dma j := State.put_dma s k (f.put (s.reg k) v) j
@[simp] theorem State.setF_lane (s : State) (k : Nat) (f : Fld) (v : Nat) (j : Nat) : (s.setF k f v).lane j = s.lane j := State.put_lane s k (f.put (s.reg k) v) j
@[simp] theorem State.setF_lport (s : State) (k : Nat) (f : Fld) (v : Nat) (j : Nat) : (s.setF k f v).lport j = s.lport j := State.put_lport s k (f.put (s.reg k) v) j
@[simp] theorem State.setF_mac (s : State) (k : Nat) (f : Fld) (v : Nat) (j : Nat) : (s.setF k f v).mac j = s.mac j := State.put_mac s k (f.put (s.reg k) v) j
@[simp] theorem State.setF_can (s : State) (k : Nat) (f : Fld) (v : Nat) (j : Nat) : (s.setF k f v).can j = s.can j := State.put_can s k (f.put (s.reg k) v) j
@[simp] theorem State.setF_spi (s : State) (k : Nat) (f : Fld) (v : Nat) (j : Nat) : (s.setF k f v).spi j = s.spi j := State.put_spi s k (f.put (s.reg k) v) j
@[simp] theorem State.setF_now (s : State) (k : Nat) (f : Fld) (v : Nat) : (s.setF k f v).now = s.now := State.put_now s k (f.put (s.reg k) v)

theorem State.setF_reg (s : State) (k : Nat) (f : Fld) (v : Nat) (j : Nat) :
    (s.setF k f v).reg j = if j = k then f.put (s.reg k) v else s.reg j := State.put_reg s k (f.put (s.reg k) v) j

/-! ### raiseBits -/

@[simp] theorem State.raiseBits_pending (s : State) (k : Nat) (m : Word) : (s.raiseBits k m).pending = s.pending := State.put_pending { s with hwSet := AMap.upd 0 s.hwSet k (fun x => x ||| m) } k (s.reg k ||| m)
@[simp] theorem State.raiseBits_free (s : State) (k : Nat) (m : Word) : (s.raiseBits k m).free = s.free := State.put_free { s with hwSet := AMap.upd 0 s.hwSet k (fun x => x ||| m) } k (s.reg k ||| m)
@[simp] theorem State.raiseBits_tb (s : State) (k : Nat) (m : Word) : (s.raiseBits k m).tb = s.tb := State.put_tb { s with hwSet := AMap.upd 0 s.hwSet k (fun x => x ||| m) } k (s.reg k ||| m)
@[simp] theorem State.raiseBits_swSet (s : State) (k : Nat) (m : Word) : (s.raiseBits k m).swSet = s.swSet := State.put_swSet { s with hwSet := AMap.upd 0 s.hwSet k (fun x => x ||| m) } k (s.reg k ||| m)
@[simp] theorem State.raiseBits_undef (s : State) (k : Nat) (m : Word) : (s.raiseBits k m).undef = s.undef := State.put_undef { s with hwSet := AMap.upd 0 s.hwSet k (fun x => x ||| m) } k (s.reg k ||| m)
@[simp] theorem State.raiseBits_mem (s : State) (k : Nat) (m : Word) : (s.raiseBits k m).mem = s.mem := State.put_mem { s with hwSet := AMap.upd 0 s.hwSet k (fun x => x ||| m) } k (s.reg k ||| m)
@[simp] theorem State.raiseBits_ecc (s : State) (k : Nat) (m : Word) : (s.raiseBits k m).ecc = s.ecc := State.put_ecc { s with hwSet := AMap.upd 0 s.hwSet k (fun x => x ||| m) } k (s.reg k ||| m)
@[simp] theorem State.raiseBits_pageErr (s : State) (k : Nat) (m : Word) : (s.raiseBits k m).pageErr = s.pageErr := State.put_pageErr { s with hwSet := AMap.upd 0 s.hwSet k (fun x => x ||| m) } k (s.reg k ||| m)
@[simp] theorem State.raiseBits_rdata (s : State) (k : Nat) (m : Word) : (s.raiseBits k m).rdata = s.rdata := State.put_rdata { s with hwSet := AMap.upd 0 s.hwSet k (fun x => x ||| m) } k (s.reg k ||| m)
@[simp] theorem State.raiseBits_ch (s : State) (k : Nat) (m : Word) : (s.raiseBits k m).ch = s.ch := State.put_ch { s with hwSet := AMap.upd 0 s.hwSet k (fun x => x ||| m) } k (s.reg k ||| m)
@[simp] theorem State.raiseBits_rt (s : State) (k : Nat) (m : Word) : (s.raiseBits k m).rt = s.rt := State.put_rt { s with hwSet := AMap.upd 0 s.hwSet k (fun x => x ||| m) } k (s.reg k ||| m)
@[simp] theorem State.raiseBits_stg (s : State) (k : Nat) (m : Word) : (s.raiseBits k m).stg = s.stg := State.put_stg { s with hwSet := AMap.upd 0 s.hwSet k (fun x => x ||| m) } k (s.reg k ||| m)
@[simp] theorem State.raiseBits_pr (s : State) (k : Nat) (m : Word) : (s.raiseBits k m).pr = s.pr := State.put_pr { s with hwSet := AMap.upd 0 s.hwSet k (fun x => x ||| m) } k (s.reg k ||| m)
@[simp] theorem State.raiseBits_lg (s : State) (k : Nat) (m : Word) : (s.raiseBits k m).lg = s.lg := State.put_lg { s with hwSet := AMap.upd 0 s.hwSet k (fun x => x ||| m) } k (s.reg k ||| m)
@[simp] theorem State.raiseBits_lanes (s : State) (k : Nat) (m : Word) : (s.raiseBits k m).lanes = s.lanes := State.put_lanes { s with hwSet := AMap.upd 0 s.hwSet k (fun x => x ||| m) } k (s.reg k ||| m)
@[simp] theorem State.raiseBits_path (s : State) (k : Nat) (m : Word) : (s.raiseBits k m).path = s.path := State.put_path { s with hwSet := AMap.upd 0 s.hwSet k (fun x => x ||| m) } k (s.reg k ||| m)
@[simp] theorem State.raiseBits_md (s : State) (k : Nat) (m : Word) : (s.raiseBits k m).md = s.md := State.put_md { s with hwSet := AMap.upd 0 s.hwSet k (fun x => x ||| m) } k (s.reg k ||| m)
@[simp] theorem State.raiseBits_up (s : State) (k : Nat) (m : Word) : (s.raiseBits k m).up = s.up := State.put_up { s with hwSet := AMap.upd 0 s.hwSet k (fun x => x ||| m) } k (s.reg k ||| m)
@[simp] theorem State.raiseBits_ts (s : State) (k : Nat) (m : Word) : (s.raiseBits k m).ts = s.ts := State.put_ts { s with hwSet := AMap.upd 0 s.hwSet k (fun x => x ||| m) } k (s.reg k ||| m)
@[simp] theorem State.raiseBits_io (s : State) (k : Nat) (m : Word) : (s.raiseBits k m).io = s.io := State.put_io { s with hwSet := AMap.upd 0 s.hwSet k (fun x => x ||| m) } k (s.reg k ||| m)
@[simp] theorem State.raiseBits_sq1 (s : State) (k : Nat) (m : Word) : (s.raiseBits k m).sq1 = s.sq1 := State.put_sq1 { s with hwSet := AMap.upd 0 s.hwSet k (fun x => x ||| m) } k (s.reg k ||| m)
@[simp] theorem State.raiseBits_byte (s : State) (k : Nat) (m : Word) (j : Nat) : (s.raiseBits k m).byte j = s.byte j := State.put_byte { s with hwSet := AMap.upd 0 s.hwSet k (fun x => x ||| m) } k (s.reg k ||| m) j
@[simp] theorem State.raiseBits_eccMask (s : State) (k : Nat) (m : Word) (j : Nat) : (s.raiseBits k m).eccMask j = s.eccMask j := State.put_eccMask { s with hwSet := AMap.upd 0 s.hwSet k (fun x => x ||| m) } k (s.reg k ||| m) j
@[simp] theorem State.raiseBits_conv (s : State) (k : Nat) (m : Word) (j : Nat) : (s.raiseBits k m).conv j = s.conv j := State.put_conv { s with hwSet := AMap.upd 0 s.hwSet k (fun x => x ||| m) } k (s.reg k ||| m) j
@[simp] theorem State.raiseBits_chan (s : State) (k : Nat) (m : Word) (j : Nat) : (s.raiseBits k m).chan j = s.chan j := State.put_chan { s with hwSet := AMap.upd 0 s.hwSet k (fun x => x ||| m) } k (s.reg k ||| m) j
@[simp] theorem State.raiseBits_group (s : State) (k : Nat) (m : Word) (j : Nat) : (s.raiseBits k m).group j = s.group j := State.put_group { s with hwSet := AMap.upd 0 s.hwSet k (fun x => x ||| m) } k (s.reg k ||| m) j
@[simp] theorem State.raiseBits_eng (s : State) (k : Nat) (m : Word) (j : Nat) : (s.raiseBits k m).eng j = s.eng j := State.put_eng { s with hwSet := AMap.upd 0 s.hwSet k (fun x => x ||| m) } k (s.reg k ||| m) j
@[simp] theorem State.raiseBits_sbyOf (s : State) (k : Nat) (m : Word) (j : Nat) : (s.raiseBits k m).sbyOf j = s.sbyOf j := State.put_sbyOf { s with hwSet := AMap.upd 0 s.hwSet k (fun x => x ||| m) } k (s.reg k ||| m) j
@[simp] theorem State.raiseBits_sprOf (s : State) (k : Nat) (m : Word) (j : Nat) : (s.raiseBits k m).sprOf j = s.sprOf j := State.put_sprOf { s with hwSet := AMap.upd 0 s.hwSet k (fun x => x ||| m) } k (s.reg k ||| m) j
@[simp] theorem State.raiseBits_tblOf (s : State) (k : Nat) (m : Word) (j : Nat) : (s.raiseBits k m).tblOf j = s.tblOf j := State.put_tblOf { s with hwSet := AMap.upd 0 s.hwSet k (fun x => x ||| m) } k (s.reg k ||| m) j
@[simp] theorem State.raiseBits_trk (s : State) (k : Nat) (m : Word) (j : Nat) : (s.raiseBits k m).trk j = s.trk j := State.put_trk { s with hwSet := AMap.upd 0 s.hwSet k (fun x => x ||| m) } k (s.reg k ||| m) j
@[simp] theorem State.raiseBits_slot (s : State) (k : Nat) (m : Word) (j : Nat) : (s.raiseBits k m).slot j = s.slot j := State.put_slot { s with hwSet := AMap.upd 0 s.hwSet k (fun x => x ||| m) } k (s.reg k ||| m) j
@[simp] theorem State.raiseBits_enc (s : State) (k : Nat) (m : Word) (j : Nat) : (s.raiseBits k m).enc j = s.enc j := State.put_enc { s with hwSet := AMap.upd 0 s.hwSet k (fun x => x ||| m) } k (s.reg k ||| m) j
@[simp] theorem State.raiseBits_sig (s : State) (k : Nat) (m : Word) (j : Nat) : (s.raiseBits k m).sig j = s.sig j := State.put_sig { s with hwSet := AMap.upd 0 s.hwSet k (fun x => x ||| m) } k (s.reg k ||| m) j
@[simp] theorem State.raiseBits_core (s : State) (k : Nat) (m : Word) (j : Nat) : (s.raiseBits k m).core j = s.core j := State.put_core { s with hwSet := AMap.upd 0 s.hwSet k (fun x => x ||| m) } k (s.reg k ||| m) j
@[simp] theorem State.raiseBits_flow (s : State) (k : Nat) (m : Word) (j : Nat) : (s.raiseBits k m).flow j = s.flow j := State.put_flow { s with hwSet := AMap.upd 0 s.hwSet k (fun x => x ||| m) } k (s.reg k ||| m) j
@[simp] theorem State.raiseBits_dma (s : State) (k : Nat) (m : Word) (j : Nat) : (s.raiseBits k m).dma j = s.dma j := State.put_dma { s with hwSet := AMap.upd 0 s.hwSet k (fun x => x ||| m) } k (s.reg k ||| m) j
@[simp] theorem State.raiseBits_lane (s : State) (k : Nat) (m : Word) (j : Nat) : (s.raiseBits k m).lane j = s.lane j := State.put_lane { s with hwSet := AMap.upd 0 s.hwSet k (fun x => x ||| m) } k (s.reg k ||| m) j
@[simp] theorem State.raiseBits_lport (s : State) (k : Nat) (m : Word) (j : Nat) : (s.raiseBits k m).lport j = s.lport j := State.put_lport { s with hwSet := AMap.upd 0 s.hwSet k (fun x => x ||| m) } k (s.reg k ||| m) j
@[simp] theorem State.raiseBits_mac (s : State) (k : Nat) (m : Word) (j : Nat) : (s.raiseBits k m).mac j = s.mac j := State.put_mac { s with hwSet := AMap.upd 0 s.hwSet k (fun x => x ||| m) } k (s.reg k ||| m) j
@[simp] theorem State.raiseBits_can (s : State) (k : Nat) (m : Word) (j : Nat) : (s.raiseBits k m).can j = s.can j := State.put_can { s with hwSet := AMap.upd 0 s.hwSet k (fun x => x ||| m) } k (s.reg k ||| m) j
@[simp] theorem State.raiseBits_spi (s : State) (k : Nat) (m : Word) (j : Nat) : (s.raiseBits k m).spi j = s.spi j := State.put_spi { s with hwSet := AMap.upd 0 s.hwSet k (fun x => x ||| m) } k (s.reg k ||| m) j
@[simp] theorem State.raiseBits_now (s : State) (k : Nat) (m : Word) : (s.raiseBits k m).now = s.now := State.put_now { s with hwSet := AMap.upd 0 s.hwSet k (fun x => x ||| m) } k (s.reg k ||| m)

theorem State.raiseBits_reg (s : State) (k : Nat) (m : Word) (j : Nat) :
    (s.raiseBits k m).reg j = if j = k then s.reg k ||| m else s.reg j := State.put_reg { s with hwSet := AMap.upd 0 s.hwSet k (fun x => x ||| m) } k (s.reg k ||| m) j

/-! ### raise -/

@[simp] theorem State.raise_pending (s : State) (k : Nat) (f : Fld) : (s.raise k f).pending = s.pending := s.raiseBits_pending k f.mask
@[simp] theorem State.raise_free (s : State) (k : Nat) (f : Fld) : (s.raise k f).free = s.free := s.raiseBits_free k f.mask
@[simp] theorem State.raise_tb (s : State) (k : Nat) (f : Fld) : (s.raise k f).tb = s.tb := s.raiseBits_tb k f.mask
@[simp] theorem State.raise_swSet (s : State) (k : Nat) (f : Fld) : (s.raise k f).swSet = s.swSet := s.raiseBits_swSet k f.mask
@[simp] theorem State.raise_undef (s : State) (k : Nat) (f : Fld) : (s.raise k f).undef = s.undef := s.raiseBits_undef k f.mask
@[simp] theorem State.raise_mem (s : State) (k : Nat) (f : Fld) : (s.raise k f).mem = s.mem := s.raiseBits_mem k f.mask
@[simp] theorem State.raise_ecc (s : State) (k : Nat) (f : Fld) : (s.raise k f).ecc = s.ecc := s.raiseBits_ecc k f.mask
@[simp] theorem State.raise_pageErr (s : State) (k : Nat) (f : Fld) : (s.raise k f).pageErr = s.pageErr := s.raiseBits_pageErr k f.mask
@[simp] theorem State.raise_rdata (s : State) (k : Nat) (f : Fld) : (s.raise k f).rdata = s.rdata := s.raiseBits_rdata k f.mask
@[simp] theorem State.raise_ch (s : State) (k : Nat) (f : Fld) : (s.raise k f).ch = s.ch := s.raiseBits_ch k f.mask
@[simp] theorem State.raise_rt (s : State) (k : Nat) (f : Fld) : (s.raise k f).rt = s.rt := s.raiseBits_rt k f.mask
@[simp] theorem State.raise_stg (s : State) (k : Nat) (f : Fld) : (s.raise k f).stg = s.stg := s.raiseBits_stg k f.mask
@[simp] theorem State.raise_pr (s : State) (k : Nat) (f : Fld) : (s.raise k f).pr = s.pr := s.raiseBits_pr k f.mask
@[simp] theorem State.raise_lg (s : State) (k : Nat) (f : Fld) : (s.raise k f).lg = s.lg := s.raiseBits_lg k f.mask
@[simp] theorem State.raise_lanes (s : State) (k : Nat) (f : Fld) : (s.raise k f).lanes = s.lanes := s.raiseBits_lanes k f.mask
@[simp] theorem State.raise_path (s : State) (k : Nat) (f : Fld) : (s.raise k f).path = s.path := s.raiseBits_path k f.mask
@[simp] theorem State.raise_md (s : State) (k : Nat) (f : Fld) : (s.raise k f).md = s.md := s.raiseBits_md k f.mask
@[simp] theorem State.raise_up (s : State) (k : Nat) (f : Fld) : (s.raise k f).up = s.up := s.raiseBits_up k f.mask
@[simp] theorem State.raise_ts (s : State) (k : Nat) (f : Fld) : (s.raise k f).ts = s.ts := s.raiseBits_ts k f.mask
@[simp] theorem State.raise_io (s : State) (k : Nat) (f : Fld) : (s.raise k f).io = s.io := s.raiseBits_io k f.mask
@[simp] theorem State.raise_sq1 (s : State) (k : Nat) (f : Fld) : (s.raise k f).sq1 = s.sq1 := s.raiseBits_sq1 k f.mask
@[simp] theorem State.raise_byte (s : State) (k : Nat) (f : Fld) (j : Nat) : (s.raise k f).byte j = s.byte j := s.raiseBits_byte k f.mask j
@[simp] theorem State.raise_eccMask (s : State) (k : Nat) (f : Fld) (j : Nat) : (s.raise k f).eccMask j = s.eccMask j := s.raiseBits_eccMask k f.mask j
@[simp] theorem State.raise_conv (s : State) (k : Nat) (f : Fld) (j : Nat) : (s.raise k f).conv j = s.conv j := s.raiseBits_conv k f.mask j
@[simp] theorem State.raise_chan (s : State) (k : Nat) (f : Fld) (j : Nat) : (s.raise k f).chan j = s.chan j := s.raiseBits_chan k f.mask j
@[simp] theorem State.raise_group (s : State) (k : Nat) (f : Fld) (j : Nat) : (s.raise k f).group j = s.group j := s.raiseBits_group k f.mask j
@[simp] theorem State.raise_eng (s : State) (k : Nat) (f : Fld) (j : Nat) : (s.raise k f).eng j = s.eng j := s.raiseBits_eng k f.mask j
@[simp] theorem State.raise_sbyOf (s : State) (k : Nat) (f : Fld) (j : Nat) : (s.raise k f).sbyOf j = s.sbyOf j := s.raiseBits_sbyOf k f.mask j
@[simp] theorem State.raise_sprOf (s : State) (k : Nat) (f : Fld) (j : Nat) : (s.raise k f).sprOf j = s.sprOf j := s.raiseBits_sprOf k f.mask j
@[simp] theorem State.raise_tblOf (s : State) (k : Nat) (f : Fld) (j : Nat) : (s.raise k f).tblOf j = s.tblOf j := s.raiseBits_tblOf k f.mask j
@[simp] theorem State.raise_trk (s : State) (k : Nat) (f : Fld) (j : Nat) : (s.raise k f).trk j = s.trk j := s.raiseBits_trk k f.mask j
@[simp] theorem State.raise_slot (s : State) (k : Nat) (f : Fld) (j : Nat) : (s.raise k f).slot j = s.slot j := s.raiseBits_slot k f.mask j
@[simp] theorem State.raise_enc (s : State) (k : Nat) (f : Fld) (j : Nat) : (s.raise k f).enc j = s.enc j := s.raiseBits_enc k f.mask j
@[simp] theorem State.raise_sig (s : State) (k : Nat) (f : Fld) (j : Nat) : (s.raise k f).sig j = s.sig j := s.raiseBits_sig k f.mask j
@[simp] theorem State.raise_core (s : State) (k : Nat) (f : Fld) (j : Nat) : (s.raise k f).core j = s.core j := s.raiseBits_core k f.mask j
@[simp] theorem State.raise_flow (s : State) (k : Nat) (f : Fld) (j : Nat) : (s.raise k f).flow j = s.flow j := s.raiseBits_flow k f.mask j
@[simp] theorem State.raise_dma (s : State) (k : Nat) (f : Fld) (j : Nat) : (s.raise k f).dma j = s.dma j := s.raiseBits_dma k f.mask j
@[simp] theorem State.raise_lane (s : State) (k : Nat) (f : Fld) (j : Nat) : (s.raise k f).lane j = s.lane j := s.raiseBits_lane k f.mask j
@[simp] theorem State.raise_lport (s : State) (k : Nat) (f : Fld) (j : Nat) : (s.raise k f).lport j = s.lport j := s.raiseBits_lport k f.mask j
@[simp] theorem State.raise_mac (s : State) (k : Nat) (f : Fld) (j : Nat) : (s.raise k f).mac j = s.mac j := s.raiseBits_mac k f.mask j
@[simp] theorem State.raise_can (s : State) (k : Nat) (f : Fld) (j : Nat) : (s.raise k f).can j = s.can j := s.raiseBits_can k f.mask j
@[simp] theorem State.raise_spi (s : State) (k : Nat) (f : Fld) (j : Nat) : (s.raise k f).spi j = s.spi j := s.raiseBits_spi k f.mask j
@[simp] theorem State.raise_now (s : State) (k : Nat) (f : Fld) : (s.raise k f).now = s.now := s.raiseBits_now k f.mask

theorem State.raise_reg (s : State) (k : Nat) (f : Fld) (j : Nat) :
    (s.raise k f).reg j = if j = k then s.reg k ||| f.mask else s.reg j := s.raiseBits_reg k f.mask j

/-! ### raiseIf -/

@[simp] theorem State.raiseIf_pending (s : State) (c : Bool) (k : Nat) (f : Fld) : (s.raiseIf c k f).pending = s.pending := by
  unfold State.raiseIf; split <;> simp
@[simp] theorem State.raiseIf_free (s : State) (c : Bool) (k : Nat) (f : Fld) : (s.raiseIf c k f).free = s.free := by
  unfold State.raiseIf; split <;> simp
@[simp] theorem State.raiseIf_tb (s : State) (c : Bool) (k : Nat) (f : Fld) : (s.raiseIf c k f).tb = s.tb := by
  unfold State.raiseIf; split <;> simp
@[simp] theorem State.raiseIf_swSet (s : State) (c : Bool) (k : Nat) (f : Fld) : (s.raiseIf c k f).swSet = s.swSet := by
  unfold State.raiseIf; split <;> simp
@[simp] theorem State.raiseIf_undef (s : State) (c : Bool) (k : Nat) (f : Fld) : (s.raiseIf c k f).undef = s.undef := by
  unfold State.raiseIf; split <;> simp
@[simp] theorem State.raiseIf_mem (s : State) (c : Bool) (k : Nat) (f : Fld) : (s.raiseIf c k f).mem = s.mem := by
  unfold State.raiseIf; split <;> simp
@[simp] theorem State.raiseIf_ecc (s : State) (c : Bool) (k : Nat) (f : Fld) : (s.raiseIf c k f).ecc = s.ecc := by
  unfold State.raiseIf; split <;> simp
@[simp] theorem State.raiseIf_pageErr (s : State) (c : Bool) (k : Nat) (f : Fld) : (s.raiseIf c k f).pageErr = s.pageErr := by
  unfold State.raiseIf; split <;> simp
@[simp] theorem State.raiseIf_rdata (s : State) (c : Bool) (k : Nat) (f : Fld) : (s.raiseIf c k f).rdata = s.rdata := by
  unfold State.raiseIf; split <;> simp
@[simp] theorem State.raiseIf_ch (s : State) (c : Bool) (k : Nat) (f : Fld) : (s.raiseIf c k f).ch = s.ch := by
  unfold State.raiseIf; split <;> simp
@[simp] theorem State.raiseIf_rt (s : State) (c : Bool) (k : Nat) (f : Fld) : (s.raiseIf c k f).rt = s.rt := by
  unfold State.raiseIf; split <;> simp
@[simp] theorem State.raiseIf_stg (s : State) (c : Bool) (k : Nat) (f : Fld) : (s.raiseIf c k f).stg = s.stg := by
  unfold State.raiseIf; split <;> simp
@[simp] theorem State.raiseIf_pr (s : State) (c : Bool) (k : Nat) (f : Fld) : (s.raiseIf c k f).pr = s.pr := by
  unfold State.raiseIf; split <;> simp
@[simp] theorem State.raiseIf_lg (s : State) (c : Bool) (k : Nat) (f : Fld) : (s.raiseIf c k f).lg = s.lg := by
  unfold State.raiseIf; split <;> simp
@[simp] theorem State.raiseIf_lanes (s : State) (c : Bool) (k : Nat) (f : Fld) : (s.raiseIf c k f).lanes = s.lanes := by
  unfold State.raiseIf; split <;> simp
@[simp] theorem State.raiseIf_path (s : State) (c : Bool) (k : Nat) (f : Fld) : (s.raiseIf c k f).path = s.path := by
  unfold State.raiseIf; split <;> simp
@[simp] theorem State.raiseIf_md (s : State) (c : Bool) (k : Nat) (f : Fld) : (s.raiseIf c k f).md = s.md := by
  unfold State.raiseIf; split <;> simp
@[simp] theorem State.raiseIf_up (s : State) (c : Bool) (k : Nat) (f : Fld) : (s.raiseIf c k f).up = s.up := by
  unfold State.raiseIf; split <;> simp
@[simp] theorem State.raiseIf_ts (s : State) (c : Bool) (k : Nat) (f : Fld) : (s.raiseIf c k f).ts = s.ts := by
  unfold State.raiseIf; split <;> simp
@[simp] theorem State.raiseIf_io (s : State) (c : Bool) (k : Nat) (f : Fld) : (s.raiseIf c k f).io = s.io := by
  unfold State.raiseIf; split <;> simp
@[simp] theorem State.raiseIf_sq1 (s : State) (c : Bool) (k : Nat) (f : Fld) : (s.raiseIf c k f).sq1 = s.sq1 := by
  unfold State.raiseIf; split <;> simp
@[simp] theorem State.raiseIf_byte (s : State) (c : Bool) (k : Nat) (f : Fld) (j : Nat) : (s.raiseIf c k f).byte j = s.byte j := by
  unfold State.raiseIf; split <;> simp
@[simp] theorem State.raiseIf_eccMask (s : State) (c : Bool) (k : Nat) (f : Fld) (j : Nat) : (s.raiseIf c k f).eccMask j = s.eccMask j := by
  unfold State.raiseIf; split <;> simp
@[simp] theorem State.raiseIf_conv (s : State) (c : Bool) (k : Nat) (f : Fld) (j : Nat) : (s.raiseIf c k f).conv j = s.conv j := by
  unfold State.raiseIf; split <;> simp
@[simp] theorem State.raiseIf_chan (s : State) (c : Bool) (k : Nat) (f : Fld) (j : Nat) : (s.raiseIf c k f).chan j = s.chan j := by
  unfold State.raiseIf; split <;> simp
@[simp] theorem State.raiseIf_group (s : State) (c : Bool) (k : Nat) (f : Fld) (j : Nat) : (s.raiseIf c k f).group j = s.group j := by
  unfold State.raiseIf; split <;> simp
@[simp] theorem State.raiseIf_eng (s : State) (c : Bool) (k : Nat) (f : Fld) (j : Nat) : (s.raiseIf c k f).eng j = s.eng j := by
  unfold State.raiseIf; split <;> simp
@[simp] theorem State.raiseIf_sbyOf (s : State) (c : Bool) (k : Nat) (f : Fld) (j : Nat) : (s.raiseIf c k f).sbyOf j = s.sbyOf j := by
  unfold State.raiseIf; split <;> simp
@[simp] theorem State.raiseIf_sprOf (s : State) (c : Bool) (k : Nat) (f : Fld) (j : Nat) : (s.raiseIf c k f).sprOf j = s.sprOf j := by
  unfold State.raiseIf; split <;> simp
@[simp] theorem State.raiseIf_tblOf (s : State) (c : Bool) (k : Nat) (f : Fld) (j : Nat) : (s.raiseIf c k f).tblOf j = s.tblOf j := by
  unfold State.raiseIf; split <;> simp
@[simp] theorem State.raiseIf_trk (s : State) (c : Bool) (k : Nat) (f : Fld) (j : Nat) : (s.raiseIf c k f).trk j = s.trk j := by
  unfold State.raiseIf; split <;> simp
@[simp] theorem State.raiseIf_slot (s : State) (c : Bool) (k : Nat) (f : Fld) (j : Nat) : (s.raiseIf c k f).slot j = s.slot j := by
  unfold State.raiseIf; split <;> simp
@[simp] theorem State.raiseIf_enc (s : State) (c : Bool) (k : Nat) (f : Fld) (j : Nat) : (s.raiseIf c k f).enc j = s.enc j := by
  unfold State.raiseIf; split <;> simp
@[simp] theorem State.raiseIf_sig (s : State) (c : Bool) (k : Nat) (f : Fld) (j : Nat) : (s.raiseIf c k f).sig j = s.sig j := by
  unfold State.raiseIf; split <;> simp
@[simp] theorem State.raiseIf_core (s : State) (c : Bool) (k : Nat) (f : Fld) (j : Nat) : (s.raiseIf c k f).core j = s.core j := by
  unfold State.raiseIf; split <;> simp
@[simp] theorem State.raiseIf_flow (s : State) (c : Bool) (k : Nat) (f : Fld) (j : Nat) : (s.raiseIf c k f).flow j = s.flow j := by
  unfold State.raiseIf; split <;> simp
@[simp] theorem State.raiseIf_dma (s : State) (c : Bool) (k : Nat) (f : Fld) (j : Nat) : (s.raiseIf c k f).dma j = s.dma j := by
  unfold State.raiseIf; split <;> simp
@[simp] theorem State.raiseIf_lane (s : State) (c : Bool) (k : Nat) (f : Fld) (j : Nat) : (s.raiseIf c k f).lane j = s.lane j := by
  unfold State.raiseIf; split <;> simp
@[simp] theorem State.raiseIf_lport (s : State) (c : Bool) (k : Nat) (f : Fld) (j : Nat) : (s.raiseIf c k f).lport j = s.lport j := by
  unfold State.raiseIf; split <;> simp
@[simp] theorem State.raiseIf_mac (s : State) (c : Bool) (k : Nat) (f : Fld) (j : Nat) : (s.raiseIf c k f).mac j = s.mac j := by
  unfold State.raiseIf; split <;> simp
@[simp] theorem State.raiseIf_can (s : State) (c : Bool) (k : Nat) (f : Fld) (j : Nat) : (s.raiseIf c k f).can j = s.can j := by
  unfold State.raiseIf; split <;> simp
@[simp] theorem State.raiseIf_spi (s : State) (c : Bool) (k : Nat) (f : Fld) (j : Nat) : (s.raiseIf c k f).spi j = s.spi j := by
  unfold State.raiseIf; split <;> simp
@[simp] theorem State.raiseIf_now (s : State) (c : Bool) (k : Nat) (f : Fld) : (s.raiseIf c k f).now = s.now := by
  unfold State.raiseIf; split <;> simp

theorem State.raiseIf_reg (s : State) (c : Bool) (k : Nat) (f : Fld) (j : Nat) :
    (s.raiseIf c k f).reg j = if c = true ∧ j = k then s.reg k ||| f.mask else s.reg j := by
  unfold State.raiseIf; cases c <;> simp [State.raise_reg]

/-! ### lower -/

@[simp] theorem State.lower_pending (s : State) (k : Nat) (f : Fld) : (s.lower k f).pending = s.pending := State.put_pending s k (s.reg k &&& ~~~(f.mask &&& ~~~(AMap.get 0 s.swSet k)))
@[simp] theorem State.lower_free (s : State) (k : Nat) (f : Fld) : (s.lower k f).free = s.free := State.put_free s k (s.reg k &&& ~~~(f.mask &&& ~~~(AMap.get 0 s.swSet k)))
@[simp] theorem State.lower_tb (s : State) (k : Nat) (f : Fld) : (s.lower k f).tb = s.tb := State.put_tb s k (s.reg k &&& ~~~(f.mask &&& ~~~(AMap.get 0 s.swSet k)))
@[simp] theorem State.lower_swSet (s : State) (k : Nat) (f : Fld) : (s.lower k f).swSet = s.swSet := State.put_swSet s k (s.reg k &&& ~~~(f.mask &&& ~~~(AMap.get 0 s.swSet k)))
@[simp] theorem State.lower_undef (s : State) (k : Nat) (f : Fld) : (s.lower k f).undef = s.undef := State.put_undef s k (s.reg k &&& ~~~(f.mask &&& ~~~(AMap.get 0 s.swSet k)))
@[simp] theorem State.lower_mem (s : State) (k : Nat) (f : Fld) : (s.lower k f).mem = s.mem := State.put_mem s k (s.reg k &&& ~~~(f.mask &&& ~~~(AMap.get 0 s.swSet k)))
@[simp] theorem State.lower_ecc (s : State) (k : Nat) (f : Fld) : (s.lower k f).ecc = s.ecc := State.put_ecc s k (s.reg k &&& ~~~(f.mask &&& ~~~(AMap.get 0 s.swSet k)))
@[simp] theorem State.lower_pageErr (s : State) (k : Nat) (f : Fld) : (s.lower k f).pageErr = s.pageErr := State.put_pageErr s k (s.reg k &&& ~~~(f.mask &&& ~~~(AMap.get 0 s.swSet k)))
@[simp] theorem State.lower_rdata (s : State) (k : Nat) (f : Fld) : (s.lower k f).rdata = s.rdata := State.put_rdata s k (s.reg k &&& ~~~(f.mask &&& ~~~(AMap.get 0 s.swSet k)))
@[simp] theorem State.lower_ch (s : State) (k : Nat) (f : Fld) : (s.lower k f).ch = s.ch := State.put_ch s k (s.reg k &&& ~~~(f.mask &&& ~~~(AMap.get 0 s.swSet k)))
@[simp] theorem State.lower_rt (s : State) (k : Nat) (f : Fld) : (s.lower k f).rt = s.rt := State.put_rt s k (s.reg k &&& ~~~(f.mask &&& ~~~(AMap.get 0 s.swSet k)))
@[simp] theorem State.lower_stg (s : State) (k : Nat) (f : Fld) : (s.lower k f).stg = s.stg := State.put_stg s k (s.reg k &&& ~~~(f.mask &&& ~~~(AMap.get 0 s.swSet k)))
@[simp] theorem State.lower_pr (s : State) (k : Nat) (f : Fld) : (s.lower k f).pr = s.pr := State.put_pr s k (s.reg k &&& ~~~(f.mask &&& ~~~(AMap.get 0 s.swSet k)))
@[simp] theorem State.lower_lg (s : State) (k : Nat) (f : Fld) : (s.lower k f).lg = s.lg := State.put_lg s k (s.reg k &&& ~~~(f.mask &&& ~~~(AMap.get 0 s.swSet k)))
@[simp] theorem State.lower_lanes (s : State) (k : Nat) (f : Fld) : (s.lower k f).lanes = s.lanes := State.put_lanes s k (s.reg k &&& ~~~(f.mask &&& ~~~(AMap.get 0 s.swSet k)))
@[simp] theorem State.lower_path (s : State) (k : Nat) (f : Fld) : (s.lower k f).path = s.path := State.put_path s k (s.reg k &&& ~~~(f.mask &&& ~~~(AMap.get 0 s.swSet k)))
@[simp] theorem State.lower_md (s : State) (k : Nat) (f : Fld) : (s.lower k f).md = s.md := State.put_md s k (s.reg k &&& ~~~(f.mask &&& ~~~(AMap.get 0 s.swSet k)))
@[simp] theorem State.lower_up (s : State) (k : Nat) (f : Fld) : (s.lower k f).up = s.up := State.put_up s k (s.reg k &&& ~~~(f.mask &&& ~~~(AMap.get 0 s.swSet k)))
@[simp] theorem State.lower_ts (s : State) (k : Nat) (f : Fld) : (s.lower k f).ts = s.ts := State.put_ts s k (s.reg k &&& ~~~(f.mask &&& ~~~(AMap.get 0 s.swSet k)))
@[simp] theorem State.lower_io (s : State) (k : Nat) (f : Fld) : (s.lower k f).io = s.io := State.put_io s k (s.reg k &&& ~~~(f.mask &&& ~~~(AMap.get 0 s.swSet k)))
@[simp] theorem State.lower_sq1 (s : State) (k : Nat) (f : Fld) : (s.lower k f).sq1 = s.sq1 := State.put_sq1 s k (s.reg k &&& ~~~(f.mask &&& ~~~(AMap.get 0 s.swSet k)))
@[simp] theorem State.lower_byte (s : State) (k : Nat) (f : Fld) (j : Nat) : (s.lower k f).byte j = s.byte j := State.put_byte s k (s.reg k &&& ~~~(f.mask &&& ~~~(AMap.get 0 s.swSet k))) j
@[simp] theorem State.lower_eccMask (s : State) (k : Nat) (f : Fld) (j : Nat) : (s.lower k f).eccMask j = s.eccMask j := State.put_eccMask s k (s.reg k &&& ~~~(f.mask &&& ~~~(AMap.get 0 s.swSet k))) j
@[simp] theorem State.lower_conv (s : State) (k : Nat) (f : Fld) (j : Nat) : (s.lower k f).conv j = s.conv j := State.put_conv s k (s.reg k &&& ~~~(f.mask &&& ~~~(AMap.get 0 s.swSet k))) j
@[simp] theorem State.lower_chan (s : State) (k : Nat) (f : Fld) (j : Nat) : (s.lower k f).chan j = s.chan j := State.put_chan s k (s.reg k &&& ~~~(f.mask &&& ~~~(AMap.get 0 s.swSet k))) j
@[simp] theorem State.lower_group (s : State) (k : Nat) (f : Fld) (j : Nat) : (s.lower k f).group j = s.group j := State.put_group s k (s.reg k &&& ~~~(f.mask &&& ~~~(AMap.get 0 s.swSet k))) j
@[simp] theorem State.lower_eng (s : State) (k : Nat) (f : Fld) (j : Nat) : (s.lower k f).eng j = s.eng j := State.put_eng s k (s.reg k &&& ~~~(f.mask &&& ~~~(AMap.get 0 s.swSet k))) j
@[simp] theorem State.lower_sbyOf (s : State) (k : Nat) (f : Fld) (j : Nat) : (s.lower k f).sbyOf j = s.sbyOf j := State.put_sbyOf s k (s.reg k &&& ~~~(f.mask &&& ~~~(AMap.get 0 s.swSet k))) j
@[simp] theorem State.lower_sprOf (s : State) (k : Nat) (f : Fld) (j : Nat) : (s.lower k f).sprOf j = s.sprOf j := State.put_sprOf s k (s.reg k &&& ~~~(f.mask &&& ~~~(AMap.get 0 s.swSet k))) j
@[simp] theorem State.lower_tblOf (s : State) (k : Nat) (f : Fld) (j : Nat) : (s.lower k f).tblOf j = s.tblOf j := State.put_tblOf s k (s.reg k &&& ~~~(f.mask &&& ~~~(AMap.get 0 s.swSet k))) j
@[simp] theorem State.lower_trk (s : State) (k : Nat) (f : Fld) (j : Nat) : (s.lower k f).trk j = s.trk j := State.put_trk s k (s.reg k &&& ~~~(f.mask &&& ~~~(AMap.get 0 s.swSet k))) j
@[simp] theorem State.lower_slot (s : State) (k : Nat) (f : Fld) (j : Nat) : (s.lower k f).slot j = s.slot j := State.put_slot s k (s.reg k &&& ~~~(f.mask &&& ~~~(AMap.get 0 s.swSet k))) j
@[simp] theorem State.lower_enc (s : State) (k : Nat) (f : Fld) (j : Nat) : (s.lower k f).enc j = s.enc j := State.put_enc s k (s.reg k &&& ~~~(f.mask &&& ~~~(AMap.get 0 s.swSet k))) j
@[simp] theorem State.lower_sig (s : State) (k : Nat) (f : Fld) (j : Nat) : (s.lower k f).sig j = s.sig j := State.put_sig s k (s.reg k &&& ~~~(f.mask &&& ~~~(AMap.get 0 s.swSet k))) j
@[simp] theorem State.lower_core (s : State) (k : Nat) (f : Fld) (j : Nat) : (s.lower k f).core j = s.core j := State.put_core s k (s.reg k &&& ~~~(f.mask &&& ~~~(AMap.get 0 s.swSet k))) j
@[simp] theorem State.lower_flow (s : State) (k : Nat) (f : Fld) (j : Nat) : (s.lower k f).flow j = s.flow j := State.put_flow s k (s.reg k &&& ~~~(f.mask &&& ~~~(AMap.get 0 s.swSet k))) j
@[simp] theorem State.lower_dma (s : State) (k : Nat) (f : Fld) (j : Nat) : (s.lower k f).dma j = s.dma j := State.put_dma s k (s.reg k &&& ~~~(f.mask &&& ~~~(AMap.get 0 s.swSet k))) j
@[simp] theorem State.lower_lane (s : State) (k : Nat) (f : Fld) (j : Nat) : (s.lower k f).lane j = s.lane j := State.put_lane s k (s.reg k &&& ~~~(f.mask &&& ~~~(AMap.get 0 s.swSet k))) j
@[simp] theorem State.lower_lport (s : State) (k : Nat) (f : Fld) (j : Nat) : (s.lower k f).lport j = s.lport j := State.put_lport s k (s.reg k &&& ~~~(f.mask &&& ~~~(AMap.get 0 s.swSet k))) j
@[simp] theorem State.lower_mac (s : State) (k : Nat) (f : Fld) (j : Nat) : (s.lower k f).mac j = s.mac j := State.put_mac s k (s.reg k &&& ~~~(f.mask &&& ~~~(AMap.get 0 s.swSet k))) j
@[simp] theorem State.lower_can (s : State) (k : Nat) (f : Fld) (j : Nat) : (s.lower k f).can j = s.can j := State.put_can s k (s.reg k &&& ~~~(f.mask &&& ~~~(AMap.get 0 s.swSet k))) j
@[simp] theorem State.lower_spi (s : State) (k : Nat) (f : Fld) (j : Nat) : (s.lower k f).spi j = s.spi j := State.put_spi s k (s.reg k &&& ~~~(f.mask &&& ~~~(AMap.get 0 s.swSet k))) j
@[simp] theorem State.lower_now (s : State) (k : Nat) (f : Fld) : (s.lower k f).now = s.now := State.put_now s k (s.reg k &&& ~~~(f.mask &&& ~~~(AMap.get 0 s.swSet k)))

theorem State.lower_reg (s : State) (k : Nat) (f : Fld) (j : Nat) :
    (s.lower k f).reg j = if j = k then s.reg k &&& ~~~(f.mask &&& ~~~(AMap.get 0 s.swSet k)) else s.reg j := State.put_reg s k (s.reg k &&& ~~~(f.mask &&& ~~~(AMap.get 0 s.swSet k))) j

/-! ### count -/

@[simp] theorem State.count_pending (s : State) (k : Nat) (f : Fld) : (s.count k f).pending = s.pending := s.setF_pending k f _
@[simp] theorem State.count_free (s : State) (k : Nat) (f : Fld) : (s.count k f).free = s.free := s.setF_free k f _
@[simp] theorem State.count_tb (s : State) (k : Nat) (f : Fld) : (s.count k f).tb = s.tb := s.setF_tb k f _
@[simp] theorem State.count_swSet (s : State) (k : Nat) (f : Fld) : (s.count k f).swSet = s.swSet := s.setF_swSet k f _
@[simp] theorem State.count_undef (s : State) (k : Nat) (f : Fld) : (s.count k f).undef = s.undef := s.setF_undef k f _
@[simp] theorem State.count_mem (s : State) (k : Nat) (f : Fld) : (s.count k f).mem = s.mem := s.setF_mem k f _
@[simp] theorem State.count_ecc (s : State) (k : Nat) (f : Fld) : (s.count k f).ecc = s.ecc := s.setF_ecc k f _
@[simp] theorem State.count_pageErr (s : State) (k : Nat) (f : Fld) : (s.count k f).pageErr = s.pageErr := s.setF_pageErr k f _
@[simp] theorem State.count_rdata (s : State) (k : Nat) (f : Fld) : (s.count k f).rdata = s.rdata := s.setF_rdata k f _
@[simp] theorem State.count_ch (s : State) (k : Nat) (f : Fld) : (s.count k f).ch = s.ch := s.setF_ch k f _
@[simp] theorem State.count_rt (s : State) (k : Nat) (f : Fld) : (s.count k f).rt = s.rt := s.setF_rt k f _
@[simp] theorem State.count_stg (s : State) (k : Nat) (f : Fld) : (s.count k f).stg = s.stg := s.setF_stg k f _
@[simp] theorem State.count_pr (s : State) (k : Nat) (f : Fld) : (s.count k f).pr = s.pr := s.setF_pr k f _
@[simp] theorem State.count_lg (s : State) (k : Nat) (f : Fld) : (s.count k f).lg = s.lg := s.setF_lg k f _
@[simp] theorem State.count_lanes (s : State) (k : Nat) (f : Fld) : (s.count k f).lanes = s.lanes := s.setF_lanes k f _
@[simp] theorem State.count_path (s : State) (k : Nat) (f : Fld) : (s.count k f).path = s.path := s.setF_path k f _
@[simp] theorem State.count_md (s : State) (k : Nat) (f : Fld) : (s.count k f).md = s.md := s.setF_md k f _
@[simp] theorem State.count_up (s : State) (k : Nat) (f : Fld) : (s.count k f).up = s.up := s.setF_up k f _
@[simp] theorem State.count_ts (s : State) (k : Nat) (f : Fld) : (s.count k f).ts = s.ts := s.setF_ts k f _
@[simp] theorem State.count_io (s : State) (k : Nat) (f : Fld) : (s.count k f).io = s.io := s.setF_io k f _
@[simp] theorem State.count_sq1 (s : State) (k : Nat) (f : Fld) : (s.count k f).sq1 = s.sq1 := s.setF_sq1 k f _
@[simp] theorem State.count_byte (s : State) (k : Nat) (f : Fld) (j : Nat) : (s.count k f).byte j = s.byte j := s.setF_byte k f _ j
@[simp] theorem State.count_eccMask (s : State) (k : Nat) (f : Fld) (j : Nat) : (s.count k f).eccMask j = s.eccMask j := s.setF_eccMask k f _ j
@[simp] theorem State.count_conv (s : State) (k : Nat) (f : Fld) (j : Nat) : (s.count k f).conv j = s.conv j := s.setF_conv k f _ j
@[simp] theorem State.count_chan (s : State) (k : Nat) (f : Fld) (j : Nat) : (s.count k f).chan j = s.chan j := s.setF_chan k f _ j
@[simp] theorem State.count_group (s : State) (k : Nat) (f : Fld) (j : Nat) : (s.count k f).group j = s.group j := s.setF_group k f _ j
@[simp] theorem State.count_eng (s : State) (k : Nat) (f : Fld) (j : Nat) : (s.count k f).eng j = s.eng j := s.setF_eng k f _ j
@[simp] theorem State.count_sbyOf (s : State) (k : Nat) (f : Fld) (j : Nat) : (s.count k f).sbyOf j = s.sbyOf j := s.setF_sbyOf k f _ j
@[simp] theorem State.count_sprOf (s : State) (k : Nat) (f : Fld) (j : Nat) : (s.count k f).sprOf j = s.sprOf j := s.setF_sprOf k f _ j
@[simp] theorem State.count_tblOf (s : State) (k : Nat) (f : Fld) (j : Nat) : (s.count k f).tblOf j = s.tblOf j := s.setF_tblOf k f _ j
@[simp] theorem State.count_trk (s : State) (k : Nat) (f : Fld) (j : Nat) : (s.count k f).trk j = s.trk j := s.setF_trk k f _ j
@[simp] theorem State.count_slot (s : State) (k : Nat) (f : Fld) (j : Nat) : (s.count k f).slot j = s.slot j := s.setF_slot k f _ j
@[simp] theorem State.count_enc (s : State) (k : Nat) (f : Fld) (j : Nat) : (s.count k f).enc j = s.enc j := s.setF_enc k f _ j
@[simp] theorem State.count_sig (s : State) (k : Nat) (f : Fld) (j : Nat) : (s.count k f).sig j = s.sig j := s.setF_sig k f _ j
@[simp] theorem State.count_core (s : State) (k : Nat) (f : Fld) (j : Nat) : (s.count k f).core j = s.core j := s.setF_core k f _ j
@[simp] theorem State.count_flow (s : State) (k : Nat) (f : Fld) (j : Nat) : (s.count k f).flow j = s.flow j := s.setF_flow k f _ j
@[simp] theorem State.count_dma (s : State) (k : Nat) (f : Fld) (j : Nat) : (s.count k f).dma j = s.dma j := s.setF_dma k f _ j
@[simp] theorem State.count_lane (s : State) (k : Nat) (f : Fld) (j : Nat) : (s.count k f).lane j = s.lane j := s.setF_lane k f _ j
@[simp] theorem State.count_lport (s : State) (k : Nat) (f : Fld) (j : Nat) : (s.count k f).lport j = s.lport j := s.setF_lport k f _ j
@[simp] theorem State.count_mac (s : State) (k : Nat) (f : Fld) (j : Nat) : (s.count k f).mac j = s.mac j := s.setF_mac k f _ j
@[simp] theorem State.count_can (s : State) (k : Nat) (f : Fld) (j : Nat) : (s.count k f).can j = s.can j := s.setF_can k f _ j
@[simp] theorem State.count_spi (s : State) (k : Nat) (f : Fld) (j : Nat) : (s.count k f).spi j = s.spi j := s.setF_spi k f _ j
@[simp] theorem State.count_now (s : State) (k : Nat) (f : Fld) : (s.count k f).now = s.now := s.setF_now k f _

theorem State.count_reg (s : State) (k : Nat) (f : Fld) (j : Nat) :
    (s.count k f).reg j = if j = k then f.put (s.reg k) (satInc (2 ^ f.width - 1) (s.fld k f)) else s.reg j := s.setF_reg k f _ j

/-! ### countMod -/

@[simp] theorem State.countMod_pending (s : State) (k : Nat) (f : Fld) : (s.countMod k f).pending = s.pending := s.setF_pending k f _
@[simp] theorem State.countMod_free (s : State) (k : Nat) (f : Fld) : (s.countMod k f).free = s.free := s.setF_free k f _
@[simp] theorem State.countMod_tb (s : State) (k : Nat) (f : Fld) : (s.countMod k f).tb = s.tb := s.setF_tb k f _
@[simp] theorem State.countMod_swSet (s : State) (k : Nat) (f : Fld) : (s.countMod k f).swSet = s.swSet := s.setF_swSet k f _
@[simp] theorem State.countMod_undef (s : State) (k : Nat) (f : Fld) : (s.countMod k f).undef = s.undef := s.setF_undef k f _
@[simp] theorem State.countMod_mem (s : State) (k : Nat) (f : Fld) : (s.countMod k f).mem = s.mem := s.setF_mem k f _
@[simp] theorem State.countMod_ecc (s : State) (k : Nat) (f : Fld) : (s.countMod k f).ecc = s.ecc := s.setF_ecc k f _
@[simp] theorem State.countMod_pageErr (s : State) (k : Nat) (f : Fld) : (s.countMod k f).pageErr = s.pageErr := s.setF_pageErr k f _
@[simp] theorem State.countMod_rdata (s : State) (k : Nat) (f : Fld) : (s.countMod k f).rdata = s.rdata := s.setF_rdata k f _
@[simp] theorem State.countMod_ch (s : State) (k : Nat) (f : Fld) : (s.countMod k f).ch = s.ch := s.setF_ch k f _
@[simp] theorem State.countMod_rt (s : State) (k : Nat) (f : Fld) : (s.countMod k f).rt = s.rt := s.setF_rt k f _
@[simp] theorem State.countMod_stg (s : State) (k : Nat) (f : Fld) : (s.countMod k f).stg = s.stg := s.setF_stg k f _
@[simp] theorem State.countMod_pr (s : State) (k : Nat) (f : Fld) : (s.countMod k f).pr = s.pr := s.setF_pr k f _
@[simp] theorem State.countMod_lg (s : State) (k : Nat) (f : Fld) : (s.countMod k f).lg = s.lg := s.setF_lg k f _
@[simp] theorem State.countMod_lanes (s : State) (k : Nat) (f : Fld) : (s.countMod k f).lanes = s.lanes := s.setF_lanes k f _
@[simp] theorem State.countMod_path (s : State) (k : Nat) (f : Fld) : (s.countMod k f).path = s.path := s.setF_path k f _
@[simp] theorem State.countMod_md (s : State) (k : Nat) (f : Fld) : (s.countMod k f).md = s.md := s.setF_md k f _
@[simp] theorem State.countMod_up (s : State) (k : Nat) (f : Fld) : (s.countMod k f).up = s.up := s.setF_up k f _
@[simp] theorem State.countMod_ts (s : State) (k : Nat) (f : Fld) : (s.countMod k f).ts = s.ts := s.setF_ts k f _
@[simp] theorem State.countMod_io (s : State) (k : Nat) (f : Fld) : (s.countMod k f).io = s.io := s.setF_io k f _
@[simp] theorem State.countMod_sq1 (s : State) (k : Nat) (f : Fld) : (s.countMod k f).sq1 = s.sq1 := s.setF_sq1 k f _
@[simp] theorem State.countMod_byte (s : State) (k : Nat) (f : Fld) (j : Nat) : (s.countMod k f).byte j = s.byte j := s.setF_byte k f _ j
@[simp] theorem State.countMod_eccMask (s : State) (k : Nat) (f : Fld) (j : Nat) : (s.countMod k f).eccMask j = s.eccMask j := s.setF_eccMask k f _ j
@[simp] theorem State.countMod_conv (s : State) (k : Nat) (f : Fld) (j : Nat) : (s.countMod k f).conv j = s.conv j := s.setF_conv k f _ j
@[simp] theorem State.countMod_chan (s : State) (k : Nat) (f : Fld) (j : Nat) : (s.countMod k f).chan j = s.chan j := s.setF_chan k f _ j
@[simp] theorem State.countMod_group (s : State) (k : Nat) (f : Fld) (j : Nat) : (s.countMod k f).group j = s.group j := s.setF_group k f _ j
@[simp] theorem State.countMod_eng (s : State) (k : Nat) (f : Fld) (j : Nat) : (s.countMod k f).eng j = s.eng j := s.setF_eng k f _ j
@[simp] theorem State.countMod_sbyOf (s : State) (k : Nat) (f : Fld) (j : Nat) : (s.countMod k f).sbyOf j = s.sbyOf j := s.setF_sbyOf k f _ j
@[simp] theorem State.countMod_sprOf (s : State) (k : Nat) (f : Fld) (j : Nat) : (s.countMod k f).sprOf j = s.sprOf j := s.setF_sprOf k f _ j
@[simp] theorem State.countMod_tblOf (s : State) (k : Nat) (f : Fld) (j : Nat) : (s.countMod k f).tblOf j = s.tblOf j := s.setF_tblOf k f _ j
@[simp] theorem State.countMod_trk (s : State) (k : Nat) (f : Fld) (j : Nat) : (s.countMod k f).trk j = s.trk j := s.setF_trk k f _ j
@[simp] theorem State.countMod_slot (s : State) (k : Nat) (f : Fld) (j : Nat) : (s.countMod k f).slot j = s.slot j := s.setF_slot k f _ j
@[simp] theorem State.countMod_enc (s : State) (k : Nat) (f : Fld) (j : Nat) : (s.countMod k f).enc j = s.enc j := s.setF_enc k f _ j
@[simp] theorem State.countMod_sig (s : State) (k : Nat) (f : Fld) (j : Nat) : (s.countMod k f).sig j = s.sig j := s.setF_sig k f _ j
@[simp] theorem State.countMod_core (s : State) (k : Nat) (f : Fld) (j : Nat) : (s.countMod k f).core j = s.core j := s.setF_core k f _ j
@[simp] theorem State.countMod_flow (s : State) (k : Nat) (f : Fld) (j : Nat) : (s.countMod k f).flow j = s.flow j := s.setF_flow k f _ j
@[simp] theorem State.countMod_dma (s : State) (k : Nat) (f : Fld) (j : Nat) : (s.countMod k f).dma j = s.dma j := s.setF_dma k f _ j
@[simp] theorem State.countMod_lane (s : State) (k : Nat) (f : Fld) (j : Nat) : (s.countMod k f).lane j = s.lane j := s.setF_lane k f _ j
@[simp] theorem State.countMod_lport (s : State) (k : Nat) (f : Fld) (j : Nat) : (s.countMod k f).lport j = s.lport j := s.setF_lport k f _ j
@[simp] theorem State.countMod_mac (s : State) (k : Nat) (f : Fld) (j : Nat) : (s.countMod k f).mac j = s.mac j := s.setF_mac k f _ j
@[simp] theorem State.countMod_can (s : State) (k : Nat) (f : Fld) (j : Nat) : (s.countMod k f).can j = s.can j := s.setF_can k f _ j
@[simp] theorem State.countMod_spi (s : State) (k : Nat) (f : Fld) (j : Nat) : (s.countMod k f).spi j = s.spi j := s.setF_spi k f _ j
@[simp] theorem State.countMod_now (s : State) (k : Nat) (f : Fld) : (s.countMod k f).now = s.now := s.setF_now k f _

theorem State.countMod_reg (s : State) (k : Nat) (f : Fld) (j : Nat) :
    (s.countMod k f).reg j = if j = k then f.put (s.reg k) (s.fld k f + 1) else s.reg j := s.setF_reg k f _ j

/-! ## Fields after an operation -/

theorem State.fld_def (s : State) (k : Nat) (f : Fld) : s.fld k f = f.get (s.reg k) := (rfl)

theorem State.flag_def (s : State) (k : Nat) (f : Fld) : s.flag k f = (f.get (s.reg k) != 0) := (rfl)

/-- A field that has been written. -/
theorem State.setF_fld (s : State) (k : Nat) (f : Fld) (v : Nat) (h : f.lo + f.width ≤ 32) :
    (s.setF k f v).fld k f = v % 2 ^ f.width := by
  rw [State.fld_def, State.setF_reg, if_pos rfl]; exact Fld.get_put_same f _ v h

/-- A flag the hardware has set. -/
theorem State.raise_flag (s : State) (k : Nat) (f : Fld) (h : f.lo + f.width ≤ 32) (h1 : f.width ≠ 0) :
    (s.raise k f).flag k f = true := by
  rw [State.flag_def, State.raise_reg, if_pos rfl, Fld.get_or_mask f _ h]
  have : 2 ^ 1 ≤ 2 ^ f.width := Nat.pow_le_pow_right (by decide) (by omega)
  simp; omega

/-! ## Reports -/

/-- A report that finds no room counts in Tally's overflow registers, and changes nothing else. -/
theorem State.tallyLost_reg (s : State) (src j : Nat) (h1 : j ≠ R.TALLY_STAT) (h2 : j ≠ R.TALLY_OVF (src / 4)) :
    (s.tallyLost src).reg j = s.reg j := by
  simp [State.tallyLost, State.raise_reg, State.count_reg, h1, h2]

/-- A report leaves every register but Tally's overflow registers and TALLY_STAT. -/
theorem State.enqueue_reg (s : State) (src code cls : Nat) (d : Word) (j : Nat) (h1 : j ≠ R.TALLY_STAT)
    (h2 : j ≠ R.TALLY_OVF (src / 4)) : (s.enqueue src code cls d).reg j = s.reg j := by
  simp only [State.enqueue]
  split
  · split
    · rfl
    · exact s.tallyLost_reg src j h1 h2
  · split <;> rfl

theorem State.info_reg (s : State) (src code : Nat) (d : Word) (j : Nat) (h1 : j ≠ R.TALLY_STAT) (h2 : j ≠ R.TALLY_OVF (src / 4)) :
    (s.info src code d).reg j = s.reg j := s.enqueue_reg src code clsInfo d j h1 h2

/-- A report of a class other than SAFETY is queued and nothing else. -/
theorem State.report_eq (s : State) (src code cls : Nat) (d : Word) (h : cls ≠ clsSafety) :
    s.report src code cls d = s.enqueue src code cls d := by simp [State.report, h]

/-! ### tallyLost -/

@[simp] theorem State.tallyLost_pending (s : State) (src : Nat) : (s.tallyLost src).pending = s.pending := by
  simp [State.tallyLost]
@[simp] theorem State.tallyLost_free (s : State) (src : Nat) : (s.tallyLost src).free = s.free := by
  simp [State.tallyLost]
@[simp] theorem State.tallyLost_tb (s : State) (src : Nat) : (s.tallyLost src).tb = s.tb := by
  simp [State.tallyLost]
@[simp] theorem State.tallyLost_swSet (s : State) (src : Nat) : (s.tallyLost src).swSet = s.swSet := by
  simp [State.tallyLost]
@[simp] theorem State.tallyLost_undef (s : State) (src : Nat) : (s.tallyLost src).undef = s.undef := by
  simp [State.tallyLost]
@[simp] theorem State.tallyLost_mem (s : State) (src : Nat) : (s.tallyLost src).mem = s.mem := by
  simp [State.tallyLost]
@[simp] theorem State.tallyLost_ecc (s : State) (src : Nat) : (s.tallyLost src).ecc = s.ecc := by
  simp [State.tallyLost]
@[simp] theorem State.tallyLost_pageErr (s : State) (src : Nat) : (s.tallyLost src).pageErr = s.pageErr := by
  simp [State.tallyLost]
@[simp] theorem State.tallyLost_rdata (s : State) (src : Nat) : (s.tallyLost src).rdata = s.rdata := by
  simp [State.tallyLost]
@[simp] theorem State.tallyLost_ch (s : State) (src : Nat) : (s.tallyLost src).ch = s.ch := by
  simp [State.tallyLost]
@[simp] theorem State.tallyLost_rt (s : State) (src : Nat) : (s.tallyLost src).rt = s.rt := by
  simp [State.tallyLost]
@[simp] theorem State.tallyLost_stg (s : State) (src : Nat) : (s.tallyLost src).stg = s.stg := by
  simp [State.tallyLost]
@[simp] theorem State.tallyLost_pr (s : State) (src : Nat) : (s.tallyLost src).pr = s.pr := by
  simp [State.tallyLost]
@[simp] theorem State.tallyLost_lg (s : State) (src : Nat) : (s.tallyLost src).lg = s.lg := by
  simp [State.tallyLost]
@[simp] theorem State.tallyLost_lanes (s : State) (src : Nat) : (s.tallyLost src).lanes = s.lanes := by
  simp [State.tallyLost]
@[simp] theorem State.tallyLost_path (s : State) (src : Nat) : (s.tallyLost src).path = s.path := by
  simp [State.tallyLost]
@[simp] theorem State.tallyLost_md (s : State) (src : Nat) : (s.tallyLost src).md = s.md := by
  simp [State.tallyLost]
@[simp] theorem State.tallyLost_up (s : State) (src : Nat) : (s.tallyLost src).up = s.up := by
  simp [State.tallyLost]
@[simp] theorem State.tallyLost_ts (s : State) (src : Nat) : (s.tallyLost src).ts = s.ts := by
  simp [State.tallyLost]
@[simp] theorem State.tallyLost_io (s : State) (src : Nat) : (s.tallyLost src).io = s.io := by
  simp [State.tallyLost]
@[simp] theorem State.tallyLost_sq1 (s : State) (src : Nat) : (s.tallyLost src).sq1 = s.sq1 := by
  simp [State.tallyLost]
@[simp] theorem State.tallyLost_byte (s : State) (src : Nat) (j : Nat) : (s.tallyLost src).byte j = s.byte j := by
  simp [State.tallyLost]
@[simp] theorem State.tallyLost_eccMask (s : State) (src : Nat) (j : Nat) : (s.tallyLost src).eccMask j = s.eccMask j := by
  simp [State.tallyLost]
@[simp] theorem State.tallyLost_conv (s : State) (src : Nat) (j : Nat) : (s.tallyLost src).conv j = s.conv j := by
  simp [State.tallyLost]
@[simp] theorem State.tallyLost_chan (s : State) (src : Nat) (j : Nat) : (s.tallyLost src).chan j = s.chan j := by
  simp [State.tallyLost]
@[simp] theorem State.tallyLost_group (s : State) (src : Nat) (j : Nat) : (s.tallyLost src).group j = s.group j := by
  simp [State.tallyLost]
@[simp] theorem State.tallyLost_eng (s : State) (src : Nat) (j : Nat) : (s.tallyLost src).eng j = s.eng j := by
  simp [State.tallyLost]
@[simp] theorem State.tallyLost_sbyOf (s : State) (src : Nat) (j : Nat) : (s.tallyLost src).sbyOf j = s.sbyOf j := by
  simp [State.tallyLost]
@[simp] theorem State.tallyLost_sprOf (s : State) (src : Nat) (j : Nat) : (s.tallyLost src).sprOf j = s.sprOf j := by
  simp [State.tallyLost]
@[simp] theorem State.tallyLost_tblOf (s : State) (src : Nat) (j : Nat) : (s.tallyLost src).tblOf j = s.tblOf j := by
  simp [State.tallyLost]
@[simp] theorem State.tallyLost_trk (s : State) (src : Nat) (j : Nat) : (s.tallyLost src).trk j = s.trk j := by
  simp [State.tallyLost]
@[simp] theorem State.tallyLost_slot (s : State) (src : Nat) (j : Nat) : (s.tallyLost src).slot j = s.slot j := by
  simp [State.tallyLost]
@[simp] theorem State.tallyLost_enc (s : State) (src : Nat) (j : Nat) : (s.tallyLost src).enc j = s.enc j := by
  simp [State.tallyLost]
@[simp] theorem State.tallyLost_sig (s : State) (src : Nat) (j : Nat) : (s.tallyLost src).sig j = s.sig j := by
  simp [State.tallyLost]
@[simp] theorem State.tallyLost_core (s : State) (src : Nat) (j : Nat) : (s.tallyLost src).core j = s.core j := by
  simp [State.tallyLost]
@[simp] theorem State.tallyLost_flow (s : State) (src : Nat) (j : Nat) : (s.tallyLost src).flow j = s.flow j := by
  simp [State.tallyLost]
@[simp] theorem State.tallyLost_dma (s : State) (src : Nat) (j : Nat) : (s.tallyLost src).dma j = s.dma j := by
  simp [State.tallyLost]
@[simp] theorem State.tallyLost_lane (s : State) (src : Nat) (j : Nat) : (s.tallyLost src).lane j = s.lane j := by
  simp [State.tallyLost]
@[simp] theorem State.tallyLost_lport (s : State) (src : Nat) (j : Nat) : (s.tallyLost src).lport j = s.lport j := by
  simp [State.tallyLost]
@[simp] theorem State.tallyLost_mac (s : State) (src : Nat) (j : Nat) : (s.tallyLost src).mac j = s.mac j := by
  simp [State.tallyLost]
@[simp] theorem State.tallyLost_can (s : State) (src : Nat) (j : Nat) : (s.tallyLost src).can j = s.can j := by
  simp [State.tallyLost]
@[simp] theorem State.tallyLost_spi (s : State) (src : Nat) (j : Nat) : (s.tallyLost src).spi j = s.spi j := by
  simp [State.tallyLost]
@[simp] theorem State.tallyLost_now (s : State) (src : Nat) : (s.tallyLost src).now = s.now := by
  simp [State.tallyLost]

/-! ### enqueue -/

@[simp] theorem State.enqueue_pending (s : State) (src code cls : Nat) (d : Word) : (s.enqueue src code cls d).pending = s.pending := by
  simp only [State.enqueue]; (repeat' split) <;> first | rfl | simp
@[simp] theorem State.enqueue_free (s : State) (src code cls : Nat) (d : Word) : (s.enqueue src code cls d).free = s.free := by
  simp only [State.enqueue]; (repeat' split) <;> first | rfl | simp
@[simp] theorem State.enqueue_tb (s : State) (src code cls : Nat) (d : Word) : (s.enqueue src code cls d).tb = s.tb := by
  simp only [State.enqueue]; (repeat' split) <;> first | rfl | simp
@[simp] theorem State.enqueue_swSet (s : State) (src code cls : Nat) (d : Word) : (s.enqueue src code cls d).swSet = s.swSet := by
  simp only [State.enqueue]; (repeat' split) <;> first | rfl | simp
@[simp] theorem State.enqueue_undef (s : State) (src code cls : Nat) (d : Word) : (s.enqueue src code cls d).undef = s.undef := by
  simp only [State.enqueue]; (repeat' split) <;> first | rfl | simp
@[simp] theorem State.enqueue_mem (s : State) (src code cls : Nat) (d : Word) : (s.enqueue src code cls d).mem = s.mem := by
  simp only [State.enqueue]; (repeat' split) <;> first | rfl | simp
@[simp] theorem State.enqueue_ecc (s : State) (src code cls : Nat) (d : Word) : (s.enqueue src code cls d).ecc = s.ecc := by
  simp only [State.enqueue]; (repeat' split) <;> first | rfl | simp
@[simp] theorem State.enqueue_pageErr (s : State) (src code cls : Nat) (d : Word) : (s.enqueue src code cls d).pageErr = s.pageErr := by
  simp only [State.enqueue]; (repeat' split) <;> first | rfl | simp
@[simp] theorem State.enqueue_rdata (s : State) (src code cls : Nat) (d : Word) : (s.enqueue src code cls d).rdata = s.rdata := by
  simp only [State.enqueue]; (repeat' split) <;> first | rfl | simp
@[simp] theorem State.enqueue_ch (s : State) (src code cls : Nat) (d : Word) : (s.enqueue src code cls d).ch = s.ch := by
  simp only [State.enqueue]; (repeat' split) <;> first | rfl | simp
@[simp] theorem State.enqueue_rt (s : State) (src code cls : Nat) (d : Word) : (s.enqueue src code cls d).rt = s.rt := by
  simp only [State.enqueue]; (repeat' split) <;> first | rfl | simp
@[simp] theorem State.enqueue_stg (s : State) (src code cls : Nat) (d : Word) : (s.enqueue src code cls d).stg = s.stg := by
  simp only [State.enqueue]; (repeat' split) <;> first | rfl | simp
@[simp] theorem State.enqueue_pr (s : State) (src code cls : Nat) (d : Word) : (s.enqueue src code cls d).pr = s.pr := by
  simp only [State.enqueue]; (repeat' split) <;> first | rfl | simp
@[simp] theorem State.enqueue_lanes (s : State) (src code cls : Nat) (d : Word) : (s.enqueue src code cls d).lanes = s.lanes := by
  simp only [State.enqueue]; (repeat' split) <;> first | rfl | simp
@[simp] theorem State.enqueue_path (s : State) (src code cls : Nat) (d : Word) : (s.enqueue src code cls d).path = s.path := by
  simp only [State.enqueue]; (repeat' split) <;> first | rfl | simp
@[simp] theorem State.enqueue_md (s : State) (src code cls : Nat) (d : Word) : (s.enqueue src code cls d).md = s.md := by
  simp only [State.enqueue]; (repeat' split) <;> first | rfl | simp
@[simp] theorem State.enqueue_up (s : State) (src code cls : Nat) (d : Word) : (s.enqueue src code cls d).up = s.up := by
  simp only [State.enqueue]; (repeat' split) <;> first | rfl | simp
@[simp] theorem State.enqueue_ts (s : State) (src code cls : Nat) (d : Word) : (s.enqueue src code cls d).ts = s.ts := by
  simp only [State.enqueue]; (repeat' split) <;> first | rfl | simp
@[simp] theorem State.enqueue_io (s : State) (src code cls : Nat) (d : Word) : (s.enqueue src code cls d).io = s.io := by
  simp only [State.enqueue]; (repeat' split) <;> first | rfl | simp
@[simp] theorem State.enqueue_sq1 (s : State) (src code cls : Nat) (d : Word) : (s.enqueue src code cls d).sq1 = s.sq1 := by
  simp only [State.enqueue]; (repeat' split) <;> first | rfl | simp
@[simp] theorem State.enqueue_byte (s : State) (src code cls : Nat) (d : Word) (j : Nat) : (s.enqueue src code cls d).byte j = s.byte j := by
  simp only [State.enqueue]; (repeat' split) <;> first | rfl | simp
@[simp] theorem State.enqueue_eccMask (s : State) (src code cls : Nat) (d : Word) (j : Nat) : (s.enqueue src code cls d).eccMask j = s.eccMask j := by
  simp only [State.enqueue]; (repeat' split) <;> first | rfl | simp
@[simp] theorem State.enqueue_conv (s : State) (src code cls : Nat) (d : Word) (j : Nat) : (s.enqueue src code cls d).conv j = s.conv j := by
  simp only [State.enqueue]; (repeat' split) <;> first | rfl | simp
@[simp] theorem State.enqueue_chan (s : State) (src code cls : Nat) (d : Word) (j : Nat) : (s.enqueue src code cls d).chan j = s.chan j := by
  simp only [State.enqueue]; (repeat' split) <;> first | rfl | simp
@[simp] theorem State.enqueue_group (s : State) (src code cls : Nat) (d : Word) (j : Nat) : (s.enqueue src code cls d).group j = s.group j := by
  simp only [State.enqueue]; (repeat' split) <;> first | rfl | simp
@[simp] theorem State.enqueue_eng (s : State) (src code cls : Nat) (d : Word) (j : Nat) : (s.enqueue src code cls d).eng j = s.eng j := by
  simp only [State.enqueue]; (repeat' split) <;> first | rfl | simp
@[simp] theorem State.enqueue_sbyOf (s : State) (src code cls : Nat) (d : Word) (j : Nat) : (s.enqueue src code cls d).sbyOf j = s.sbyOf j := by
  simp only [State.enqueue]; (repeat' split) <;> first | rfl | simp
@[simp] theorem State.enqueue_sprOf (s : State) (src code cls : Nat) (d : Word) (j : Nat) : (s.enqueue src code cls d).sprOf j = s.sprOf j := by
  simp only [State.enqueue]; (repeat' split) <;> first | rfl | simp
@[simp] theorem State.enqueue_tblOf (s : State) (src code cls : Nat) (d : Word) (j : Nat) : (s.enqueue src code cls d).tblOf j = s.tblOf j := by
  simp only [State.enqueue]; (repeat' split) <;> first | rfl | simp
@[simp] theorem State.enqueue_trk (s : State) (src code cls : Nat) (d : Word) (j : Nat) : (s.enqueue src code cls d).trk j = s.trk j := by
  simp only [State.enqueue]; (repeat' split) <;> first | rfl | simp
@[simp] theorem State.enqueue_slot (s : State) (src code cls : Nat) (d : Word) (j : Nat) : (s.enqueue src code cls d).slot j = s.slot j := by
  simp only [State.enqueue]; (repeat' split) <;> first | rfl | simp
@[simp] theorem State.enqueue_enc (s : State) (src code cls : Nat) (d : Word) (j : Nat) : (s.enqueue src code cls d).enc j = s.enc j := by
  simp only [State.enqueue]; (repeat' split) <;> first | rfl | simp
@[simp] theorem State.enqueue_sig (s : State) (src code cls : Nat) (d : Word) (j : Nat) : (s.enqueue src code cls d).sig j = s.sig j := by
  simp only [State.enqueue]; (repeat' split) <;> first | rfl | simp
@[simp] theorem State.enqueue_core (s : State) (src code cls : Nat) (d : Word) (j : Nat) : (s.enqueue src code cls d).core j = s.core j := by
  simp only [State.enqueue]; (repeat' split) <;> first | rfl | simp
@[simp] theorem State.enqueue_flow (s : State) (src code cls : Nat) (d : Word) (j : Nat) : (s.enqueue src code cls d).flow j = s.flow j := by
  simp only [State.enqueue]; (repeat' split) <;> first | rfl | simp
@[simp] theorem State.enqueue_dma (s : State) (src code cls : Nat) (d : Word) (j : Nat) : (s.enqueue src code cls d).dma j = s.dma j := by
  simp only [State.enqueue]; (repeat' split) <;> first | rfl | simp
@[simp] theorem State.enqueue_lane (s : State) (src code cls : Nat) (d : Word) (j : Nat) : (s.enqueue src code cls d).lane j = s.lane j := by
  simp only [State.enqueue]; (repeat' split) <;> first | rfl | simp
@[simp] theorem State.enqueue_lport (s : State) (src code cls : Nat) (d : Word) (j : Nat) : (s.enqueue src code cls d).lport j = s.lport j := by
  simp only [State.enqueue]; (repeat' split) <;> first | rfl | simp
@[simp] theorem State.enqueue_mac (s : State) (src code cls : Nat) (d : Word) (j : Nat) : (s.enqueue src code cls d).mac j = s.mac j := by
  simp only [State.enqueue]; (repeat' split) <;> first | rfl | simp
@[simp] theorem State.enqueue_can (s : State) (src code cls : Nat) (d : Word) (j : Nat) : (s.enqueue src code cls d).can j = s.can j := by
  simp only [State.enqueue]; (repeat' split) <;> first | rfl | simp
@[simp] theorem State.enqueue_spi (s : State) (src code cls : Nat) (d : Word) (j : Nat) : (s.enqueue src code cls d).spi j = s.spi j := by
  simp only [State.enqueue]; (repeat' split) <;> first | rfl | simp
@[simp] theorem State.enqueue_now (s : State) (src code cls : Nat) (d : Word) : (s.enqueue src code cls d).now = s.now := by
  simp only [State.enqueue]; (repeat' split) <;> first | rfl | simp

/-! ### info -/

@[simp] theorem State.info_pending (s : State) (src code : Nat) (d : Word) : (s.info src code d).pending = s.pending := s.enqueue_pending src code clsInfo d
@[simp] theorem State.info_free (s : State) (src code : Nat) (d : Word) : (s.info src code d).free = s.free := s.enqueue_free src code clsInfo d
@[simp] theorem State.info_tb (s : State) (src code : Nat) (d : Word) : (s.info src code d).tb = s.tb := s.enqueue_tb src code clsInfo d
@[simp] theorem State.info_swSet (s : State) (src code : Nat) (d : Word) : (s.info src code d).swSet = s.swSet := s.enqueue_swSet src code clsInfo d
@[simp] theorem State.info_undef (s : State) (src code : Nat) (d : Word) : (s.info src code d).undef = s.undef := s.enqueue_undef src code clsInfo d
@[simp] theorem State.info_mem (s : State) (src code : Nat) (d : Word) : (s.info src code d).mem = s.mem := s.enqueue_mem src code clsInfo d
@[simp] theorem State.info_ecc (s : State) (src code : Nat) (d : Word) : (s.info src code d).ecc = s.ecc := s.enqueue_ecc src code clsInfo d
@[simp] theorem State.info_pageErr (s : State) (src code : Nat) (d : Word) : (s.info src code d).pageErr = s.pageErr := s.enqueue_pageErr src code clsInfo d
@[simp] theorem State.info_rdata (s : State) (src code : Nat) (d : Word) : (s.info src code d).rdata = s.rdata := s.enqueue_rdata src code clsInfo d
@[simp] theorem State.info_ch (s : State) (src code : Nat) (d : Word) : (s.info src code d).ch = s.ch := s.enqueue_ch src code clsInfo d
@[simp] theorem State.info_rt (s : State) (src code : Nat) (d : Word) : (s.info src code d).rt = s.rt := s.enqueue_rt src code clsInfo d
@[simp] theorem State.info_stg (s : State) (src code : Nat) (d : Word) : (s.info src code d).stg = s.stg := s.enqueue_stg src code clsInfo d
@[simp] theorem State.info_pr (s : State) (src code : Nat) (d : Word) : (s.info src code d).pr = s.pr := s.enqueue_pr src code clsInfo d
@[simp] theorem State.info_lanes (s : State) (src code : Nat) (d : Word) : (s.info src code d).lanes = s.lanes := s.enqueue_lanes src code clsInfo d
@[simp] theorem State.info_path (s : State) (src code : Nat) (d : Word) : (s.info src code d).path = s.path := s.enqueue_path src code clsInfo d
@[simp] theorem State.info_md (s : State) (src code : Nat) (d : Word) : (s.info src code d).md = s.md := s.enqueue_md src code clsInfo d
@[simp] theorem State.info_up (s : State) (src code : Nat) (d : Word) : (s.info src code d).up = s.up := s.enqueue_up src code clsInfo d
@[simp] theorem State.info_ts (s : State) (src code : Nat) (d : Word) : (s.info src code d).ts = s.ts := s.enqueue_ts src code clsInfo d
@[simp] theorem State.info_io (s : State) (src code : Nat) (d : Word) : (s.info src code d).io = s.io := s.enqueue_io src code clsInfo d
@[simp] theorem State.info_sq1 (s : State) (src code : Nat) (d : Word) : (s.info src code d).sq1 = s.sq1 := s.enqueue_sq1 src code clsInfo d
@[simp] theorem State.info_byte (s : State) (src code : Nat) (d : Word) (j : Nat) : (s.info src code d).byte j = s.byte j := s.enqueue_byte src code clsInfo d j
@[simp] theorem State.info_eccMask (s : State) (src code : Nat) (d : Word) (j : Nat) : (s.info src code d).eccMask j = s.eccMask j := s.enqueue_eccMask src code clsInfo d j
@[simp] theorem State.info_conv (s : State) (src code : Nat) (d : Word) (j : Nat) : (s.info src code d).conv j = s.conv j := s.enqueue_conv src code clsInfo d j
@[simp] theorem State.info_chan (s : State) (src code : Nat) (d : Word) (j : Nat) : (s.info src code d).chan j = s.chan j := s.enqueue_chan src code clsInfo d j
@[simp] theorem State.info_group (s : State) (src code : Nat) (d : Word) (j : Nat) : (s.info src code d).group j = s.group j := s.enqueue_group src code clsInfo d j
@[simp] theorem State.info_eng (s : State) (src code : Nat) (d : Word) (j : Nat) : (s.info src code d).eng j = s.eng j := s.enqueue_eng src code clsInfo d j
@[simp] theorem State.info_sbyOf (s : State) (src code : Nat) (d : Word) (j : Nat) : (s.info src code d).sbyOf j = s.sbyOf j := s.enqueue_sbyOf src code clsInfo d j
@[simp] theorem State.info_sprOf (s : State) (src code : Nat) (d : Word) (j : Nat) : (s.info src code d).sprOf j = s.sprOf j := s.enqueue_sprOf src code clsInfo d j
@[simp] theorem State.info_tblOf (s : State) (src code : Nat) (d : Word) (j : Nat) : (s.info src code d).tblOf j = s.tblOf j := s.enqueue_tblOf src code clsInfo d j
@[simp] theorem State.info_trk (s : State) (src code : Nat) (d : Word) (j : Nat) : (s.info src code d).trk j = s.trk j := s.enqueue_trk src code clsInfo d j
@[simp] theorem State.info_slot (s : State) (src code : Nat) (d : Word) (j : Nat) : (s.info src code d).slot j = s.slot j := s.enqueue_slot src code clsInfo d j
@[simp] theorem State.info_enc (s : State) (src code : Nat) (d : Word) (j : Nat) : (s.info src code d).enc j = s.enc j := s.enqueue_enc src code clsInfo d j
@[simp] theorem State.info_sig (s : State) (src code : Nat) (d : Word) (j : Nat) : (s.info src code d).sig j = s.sig j := s.enqueue_sig src code clsInfo d j
@[simp] theorem State.info_core (s : State) (src code : Nat) (d : Word) (j : Nat) : (s.info src code d).core j = s.core j := s.enqueue_core src code clsInfo d j
@[simp] theorem State.info_flow (s : State) (src code : Nat) (d : Word) (j : Nat) : (s.info src code d).flow j = s.flow j := s.enqueue_flow src code clsInfo d j
@[simp] theorem State.info_dma (s : State) (src code : Nat) (d : Word) (j : Nat) : (s.info src code d).dma j = s.dma j := s.enqueue_dma src code clsInfo d j
@[simp] theorem State.info_lane (s : State) (src code : Nat) (d : Word) (j : Nat) : (s.info src code d).lane j = s.lane j := s.enqueue_lane src code clsInfo d j
@[simp] theorem State.info_lport (s : State) (src code : Nat) (d : Word) (j : Nat) : (s.info src code d).lport j = s.lport j := s.enqueue_lport src code clsInfo d j
@[simp] theorem State.info_mac (s : State) (src code : Nat) (d : Word) (j : Nat) : (s.info src code d).mac j = s.mac j := s.enqueue_mac src code clsInfo d j
@[simp] theorem State.info_can (s : State) (src code : Nat) (d : Word) (j : Nat) : (s.info src code d).can j = s.can j := s.enqueue_can src code clsInfo d j
@[simp] theorem State.info_spi (s : State) (src code : Nat) (d : Word) (j : Nat) : (s.info src code d).spi j = s.spi j := s.enqueue_spi src code clsInfo d j
@[simp] theorem State.info_now (s : State) (src code : Nat) (d : Word) : (s.info src code d).now = s.now := s.enqueue_now src code clsInfo d

end Sys2Proof.Machine
end

