-- ==== Sys2Proof/Laws/Frame.lean ====
section
/-! SUPPORT. The operations that store no byte: each leaves memory as it was. One lemma for each operation that a command which
may store to memory goes through; for every other command `run` says so at once (Laws/Ops.lean). -/

namespace Sys2Proof.Machine

open Sys2Proof

theorem ite_mem {c : Prop} [Decidable c] {s t : State} : (if c then s else t).mem = if c then s.mem else t.mem := apply_ite _ _ _ _

theorem snd_mem_of {α : Type} {p : α × State} {a : α} {t : State} (h : p = (a, t)) : t.mem = p.2.mem := by rw [h]

theorem snd_snd_mem_of {α β : Type} {p : α × β × State} {a : α} {b : β} {t : State} (h : p = (a, b, t)) : t.mem = p.2.2.mem := by rw [h]

theorem fst_mem_of {α : Type} {p : State × α} {a : α} {t : State} (h : p = (t, a)) : t.mem = p.1.mem := by rw [h]

theorem forAll_mem {α : Type} {l : List α} {s : State} {f : State → α → State} (h : ∀ s x, (f s x).mem = s.mem) : (forAll l s f).mem = s.mem := by
  unfold forAll; induction l generalizing s with
  | nil => rfl
  | cons a l ih => simp [List.foldl, ih, h]

theorem forAll_mem' {α : Type} {l : List α} {s : State} {m} {f : State → α → State} (h : ∀ s x, (f s x).mem = s.mem) (hs : s.mem = m) : (forAll l s f).mem = m := (forAll_mem h).trans hs

@[simp] theorem State.updChan_mem {s a1 a2} : (State.updChan s a1 a2).mem = s.mem := by
  simp [State.updChan]

@[simp] theorem State.updEng_mem {s a1 a2} : (State.updEng s a1 a2).mem = s.mem := by
  simp [State.updEng]

@[simp] theorem State.updTrk_mem {s a1 a2} : (State.updTrk s a1 a2).mem = s.mem := by
  simp [State.updTrk]

@[simp] theorem State.updEnc_mem {s a1 a2} : (State.updEnc s a1 a2).mem = s.mem := by
  simp [State.updEnc]

@[simp] theorem State.updSig_mem {s a1 a2} : (State.updSig s a1 a2).mem = s.mem := by
  simp [State.updSig]

@[simp] theorem State.updCore_mem {s a1 a2} : (State.updCore s a1 a2).mem = s.mem := by
  simp [State.updCore]

@[simp] theorem State.updFlow_mem {s a1 a2} : (State.updFlow s a1 a2).mem = s.mem := by
  simp [State.updFlow]

@[simp] theorem State.updSrc_mem {s a1 a2} : (State.updSrc s a1 a2).mem = s.mem := by
  simp [State.updSrc]

@[simp] theorem State.updDma_mem {s a1 a2} : (State.updDma s a1 a2).mem = s.mem := by
  simp [State.updDma]

@[simp] theorem State.updLane_mem {s a1 a2} : (State.updLane s a1 a2).mem = s.mem := by
  simp [State.updLane]

@[simp] theorem State.updLport_mem {s a1 a2} : (State.updLport s a1 a2).mem = s.mem := by
  simp [State.updLport]

@[simp] theorem State.updMac_mem {s a1 a2} : (State.updMac s a1 a2).mem = s.mem := by
  simp [State.updMac]

@[simp] theorem State.updSpi_mem {s a1 a2} : (State.updSpi s a1 a2).mem = s.mem := by
  simp [State.updSpi]

@[simp] theorem State.intEvent_mem {s a1} : (State.intEvent s a1).mem = s.mem := by
  simp only [State.intEvent]; split <;> simp

@[simp] theorem State.sample_mem {s a1} : (State.sample s a1).mem = s.mem := by
  unfold State.sample; repeat' (first | (with_reducible rfl) | extract_lets | split | (simp +zetaDelta [ite_mem]))

@[simp] theorem State.fireFev_mem {s a1 a2 a3 a4 a5} : (State.fireFev s a1 a2 a3 a4 a5).mem = s.mem := by
  simp [State.fireFev]

@[simp] theorem State.fireFace_mem {s a1 a2 a3 a4} : (State.fireFace s a1 a2 a3 a4).mem = s.mem := by
  simp [State.fireFace]

@[simp] theorem State.fireAll_mem {s a1 a2 a3} : (State.fireAll s a1 a2 a3).mem = s.mem := by
  simp [State.fireAll]

@[simp] theorem State.fireGev_mem {s a1 a2} : (State.fireGev s a1 a2).mem = s.mem := by
  simp only [State.fireGev]; split <;> simp

@[simp] theorem State.refuse19_mem {s a1 a2} : (State.refuse19 s a1 a2).mem = s.mem := by
  simp [State.refuse19]

@[simp] theorem State.storeErrorTo_mem {s a1 a2} : (State.storeErrorTo s a1 a2).mem = s.mem := by
  simp [State.storeErrorTo]

@[simp] theorem State.dmaError_mem {s a1 a2 a3} : (State.dmaError s a1 a2 a3).mem = s.mem := by
  simp only [State.dmaError]; split <;> simp

@[simp] theorem State.writeError_mem {s a1 a2} : (State.writeError s a1 a2).mem = s.mem := by
  unfold State.writeError; repeat' (first | (with_reducible rfl) | extract_lets | split | (simp +zetaDelta [ite_mem]))

@[simp] theorem State.shown_mem {s a1 a2 a3} : (State.shown s a1 a2 a3).2.mem = s.mem := by
  simp only [State.shown]; split <;> simp

@[simp] theorem okWr_mem {s} : (okWr s).1.mem = s.mem := by
  simp [okWr]

@[simp] theorem State.applyPattern_mem {s a1 a2} : (State.applyPattern s a1 a2).mem = s.mem := by
  simp only [State.applyPattern]; split <;> simp

@[simp] theorem State.resume_mem {s a1 a2 a3} : (State.resume s a1 a2 a3).mem = s.mem := by
  simp [State.resume]

@[simp] theorem State.holdOff_mem {s a1 a2 a3} : (State.holdOff s a1 a2 a3).mem = s.mem := by
  simp only [State.holdOff]; split <;> simp

@[simp] theorem State.refreshAt_mem {s a1 a2} : (State.refreshAt s a1 a2).mem = s.mem := by
  unfold State.refreshAt; repeat' (first | (with_reducible rfl) | extract_lets | split | (simp +zetaDelta [ite_mem]))

@[simp] theorem State.refresh_mem {s a1} : (State.refresh s a1).mem = s.mem := State.refreshAt_mem

@[simp] theorem State.refreshAllAt_mem {s a1} : (State.refreshAllAt s a1).mem = s.mem := forAll_mem' (fun _ _ => State.refreshAt_mem) rfl

@[simp] theorem State.refreshAll_mem {s} : (State.refreshAll s).mem = s.mem := State.refreshAllAt_mem

@[simp] theorem State.setCause_mem {s a1 a2} : (State.setCause s a1 a2).mem = s.mem := by
  simp [State.setCause]

@[simp] theorem State.allModeCause_mem {s} : (State.allModeCause s).mem = s.mem := by
  unfold State.allModeCause
  repeat' (first | (with_reducible rfl) | (with_reducible refine forAll_mem' (fun _ _ => ?_) ?_) | extract_lets | split | (simp +zetaDelta only [ite_mem, ite_self]; done) | (with_reducible refine (snd_mem_of (by assumption)).trans ?_) | (with_reducible refine (snd_snd_mem_of (by assumption)).trans ?_) | (with_reducible refine (fst_mem_of (by assumption)).trans ?_) | (simp +zetaDelta [ite_mem]))

@[simp] theorem State.setMode_mem {s a1} : (State.setMode s a1).mem = s.mem := by
  simp only [State.setMode]; split <;> simp

@[simp] theorem State.holdTrigger_mem {s a1} : (State.holdTrigger s a1).mem = s.mem := by
  unfold State.holdTrigger; repeat' (first | (with_reducible rfl) | extract_lets | split | (simp +zetaDelta [ite_mem]))

@[simp] theorem State.limpCause_mem {s a1} : (State.limpCause s a1).mem = s.mem := by
  simp only [State.limpCause]; split <;> simp

@[simp] theorem State.report_mem {s a1 a2 a3 a4} : (State.report s a1 a2 a3 a4).mem = s.mem := by
  unfold State.report; repeat' (first | (with_reducible rfl) | extract_lets | split | (simp +zetaDelta [ite_mem]))

@[simp] theorem State.clearFlags_mem {s a1 a2} : (State.clearFlags s a1 a2).mem = s.mem := by
  unfold State.clearFlags
  repeat' (first | (with_reducible rfl) | (with_reducible refine forAll_mem' (fun _ _ => ?_) ?_) | extract_lets | split | (simp +zetaDelta only [ite_mem, ite_self]; done) | (with_reducible refine (snd_mem_of (by assumption)).trans ?_) | (with_reducible refine (snd_snd_mem_of (by assumption)).trans ?_) | (with_reducible refine (fst_mem_of (by assumption)).trans ?_) | (simp +zetaDelta [ite_mem]))

@[simp] theorem State.setFlags_mem {s a1 a2} : (State.setFlags s a1 a2).mem = s.mem := by
  simp [State.setFlags]

@[simp] theorem State.fieldWrite_mem {s a1 a2} : (State.fieldWrite s a1 a2).mem = s.mem := by
  simp [State.fieldWrite]

@[simp] theorem State.noteCe_mem {s a1 a2} : (State.noteCe s a1 a2).mem = s.mem := by
  simp [State.noteCe]

@[simp] theorem State.noteUe_mem {s a1 a2 a3} : (State.noteUe s a1 a2 a3).mem = s.mem := by
  simp [State.noteUe]

@[simp] theorem State.deliverCode_mem {s a1 a2 a3} : (State.deliverCode s a1 a2 a3).2.2.mem = s.mem := by
  simp only [State.deliverCode]; split <;> simp

@[simp] theorem State.deliver_mem {s a1 a2} : (State.deliver s a1 a2).2.2.mem = s.mem := State.deliverCode_mem

@[simp] theorem State.deliverMem_mem {s a1} : (State.deliverMem s a1).2.2.mem = s.mem := by
  simp [State.deliverMem]

@[simp] theorem State.deliverPage_mem {s a1} : (State.deliverPage s a1).2.mem = s.mem := by
  unfold State.deliverPage; repeat' (first | (with_reducible rfl) | extract_lets | split | (simp +zetaDelta [ite_mem]))

@[simp] theorem State.eccWrite_mem {s a1} : (State.eccWrite s a1).mem = s.mem := by
  simp only [State.eccWrite]; split <;> simp

@[simp] theorem State.setLaneState_mem {s a1 a2} : (State.setLaneState s a1 a2).mem = s.mem := by
  simp [State.setLaneState]

@[simp] theorem State.endIfFull_mem {s a1} : (State.endIfFull s a1).mem = s.mem := by
  unfold State.endIfFull; repeat' (first | (with_reducible rfl) | extract_lets | split | (simp +zetaDelta [ite_mem]))

@[simp] theorem State.startCore_mem {s a1 a2 a3} : (State.startCore s a1 a2 a3).mem = s.mem := by
  simp [State.startCore]

@[simp] theorem State.missTrigger_mem {s a1 a2} : (State.missTrigger s a1 a2).mem = s.mem := by
  simp only [State.missTrigger]; split <;> simp

@[simp] theorem State.queueTrigger_mem {s a1 a2} : (State.queueTrigger s a1 a2).mem = s.mem := by
  simp [State.queueTrigger]

@[simp] theorem State.takeTrigger_mem {s a1 a2 a3 a4 a5 a6} : (State.takeTrigger s a1 a2 a3 a4 a5 a6).mem = s.mem := by
  unfold State.takeTrigger; repeat' (first | (with_reducible rfl) | extract_lets | split | (simp +zetaDelta [ite_mem]))

@[simp] theorem State.queueWaiting_mem {s a1} : (State.queueWaiting s a1).mem = s.mem := by
  unfold State.queueWaiting; repeat' (first | (with_reducible rfl) | extract_lets | split | (simp +zetaDelta [ite_mem]))

@[simp] theorem State.dropRecord_mem {s a1} : (State.dropRecord s a1).mem = s.mem := by
  simp only [State.dropRecord]; split <;> simp

@[simp] theorem State.meetCond_mem {s a1 a2} : (State.meetCond s a1 a2).mem = s.mem := by
  unfold State.meetCond
  repeat' (first | (with_reducible rfl) | (with_reducible refine forAll_mem' (fun _ _ => ?_) ?_) | extract_lets | split | (simp +zetaDelta only [ite_mem, ite_self]; done) | (with_reducible refine (snd_mem_of (by assumption)).trans ?_) | (with_reducible refine (snd_snd_mem_of (by assumption)).trans ?_) | (with_reducible refine (fst_mem_of (by assumption)).trans ?_) | (simp +zetaDelta [ite_mem]))

@[simp] theorem State.sendFrame_mem {s a1 a2 a3 a4 a5 a6 a7 a8 a9} : (State.sendFrame s a1 a2 a3 a4 a5 a6 a7 a8 a9).mem = s.mem := by
  unfold State.sendFrame; repeat' (first | (with_reducible rfl) | extract_lets | split | (simp +zetaDelta [ite_mem]))

@[simp] theorem State.captureTime_mem {s a1 a2} : (State.captureTime s a1 a2).2.mem = s.mem := by
  simp [State.captureTime]

@[simp] theorem State.captureVtime_mem {s a1 a2} : (State.captureVtime s a1 a2).2.mem = s.mem := by
  simp [State.captureVtime]

@[simp] theorem State.captureTp_mem {s a1 a2} : (State.captureTp s a1 a2).2.mem = s.mem := by
  simp [State.captureTp]

@[simp] theorem State.requestRun_mem {s a1} : (State.requestRun s a1).mem = s.mem := by
  simp [State.requestRun]

@[simp] theorem State.loadBound_mem {s a1 a2} : (State.loadBound s a1 a2).mem = s.mem := by
  unfold State.loadBound
  repeat' (first | (with_reducible rfl) | (with_reducible refine forAll_mem' (fun _ _ => ?_) ?_) | extract_lets | split | (simp +zetaDelta only [ite_mem, ite_self]; done) | (with_reducible refine (snd_mem_of (by assumption)).trans ?_) | (with_reducible refine (snd_snd_mem_of (by assumption)).trans ?_) | (with_reducible refine (fst_mem_of (by assumption)).trans ?_) | (simp +zetaDelta [ite_mem]))

@[simp] theorem State.publish_mem {s a1} : (State.publish s a1).mem = s.mem := by
  unfold State.publish; repeat' (first | (with_reducible rfl) | extract_lets | split | (simp +zetaDelta [ite_mem]))

@[simp] theorem State.setQuals_mem {s a1 a2} : (State.setQuals s a1 a2).mem = s.mem := by
  unfold State.setQuals
  repeat' (first | (with_reducible rfl) | (with_reducible refine forAll_mem' (fun _ _ => ?_) ?_) | extract_lets | split | (simp +zetaDelta only [ite_mem, ite_self]; done) | (with_reducible refine (snd_mem_of (by assumption)).trans ?_) | (with_reducible refine (snd_snd_mem_of (by assumption)).trans ?_) | (with_reducible refine (fst_mem_of (by assumption)).trans ?_) | (simp +zetaDelta [ite_mem]))

@[simp] theorem State.noisePulse_mem {s a1} : (State.noisePulse s a1).mem = s.mem := by
  simp [State.noisePulse]

@[simp] theorem State.trkInfo_mem {s a1 a2} : (State.trkInfo s a1 a2).mem = s.mem := by
  simp [State.trkInfo]

@[simp] theorem State.fireSlot_mem {s a1 a2 a3 a4} : (State.fireSlot s a1 a2 a3 a4).mem = s.mem := by
  simp [State.fireSlot]

@[simp] theorem State.armSlot_mem {s a1 a2} : (State.armSlot s a1 a2).mem = s.mem := by
  simp [State.armSlot]

@[simp] theorem State.encAt_mem {s a1 a2} : (State.encAt s a1 a2).mem = s.mem := by
  simp [State.encAt]

@[simp] theorem State.encRestart_mem {s a1 a2} : (State.encRestart s a1 a2).mem = s.mem := by
  unfold State.encRestart; repeat' (first | (with_reducible rfl) | extract_lets | split | (simp +zetaDelta [ite_mem]))

@[simp] theorem State.settleAngle_mem {s a1 a2} : (State.settleAngle s a1 a2).mem = s.mem := by
  unfold State.settleAngle
  repeat' (first | (with_reducible rfl) | (with_reducible refine forAll_mem' (fun _ _ => ?_) ?_) | extract_lets | split | (simp +zetaDelta only [ite_mem, ite_self]; done) | (with_reducible refine (snd_mem_of (by assumption)).trans ?_) | (with_reducible refine (snd_snd_mem_of (by assumption)).trans ?_) | (with_reducible refine (fst_mem_of (by assumption)).trans ?_) | (simp +zetaDelta [ite_mem]))

@[simp] theorem State.forwardTo_mem {s a1 a2} : (State.forwardTo s a1 a2).mem = s.mem := by
  unfold State.forwardTo
  repeat' (first | (with_reducible rfl) | (with_reducible refine forAll_mem' (fun _ _ => ?_) ?_) | extract_lets | split | (simp +zetaDelta only [ite_mem, ite_self]; done) | (with_reducible refine (snd_mem_of (by assumption)).trans ?_) | (with_reducible refine (snd_snd_mem_of (by assumption)).trans ?_) | (with_reducible refine (fst_mem_of (by assumption)).trans ?_) | (simp +zetaDelta [ite_mem]))

@[simp] theorem State.restartPub_mem {s a1 a2} : (State.restartPub s a1 a2).mem = s.mem := by
  simp [State.restartPub]

@[simp] theorem State.setTLast_mem {s a1 a2} : (State.setTLast s a1 a2).mem = s.mem := by
  simp [State.setTLast]

@[simp] theorem State.takePeriod_mem {s a1 a2 a3} : (State.takePeriod s a1 a2 a3).mem = s.mem := by
  simp [State.takePeriod]

@[simp] theorem State.keepWas_mem {s a1 a2 a3} : (State.keepWas s a1 a2 a3).mem = s.mem := rfl

@[simp] theorem State.noteGate_mem {s a1 a2} : (State.noteGate s a1 a2).mem = s.mem := rfl

@[simp] theorem State.becomeValid_mem {s a1 a2} : (State.becomeValid s a1 a2).mem = s.mem := by
  unfold State.becomeValid
  repeat' (first | (with_reducible rfl) | (with_reducible refine forAll_mem' (fun _ _ => ?_) ?_) | extract_lets | split | (simp +zetaDelta only [ite_mem, ite_self]; done) | (with_reducible refine (snd_mem_of (by assumption)).trans ?_) | (with_reducible refine (snd_snd_mem_of (by assumption)).trans ?_) | (with_reducible refine (fst_mem_of (by assumption)).trans ?_) | (simp +zetaDelta [ite_mem]))

@[simp] theorem State.loseValid_mem {s a1 a2 a3} : (State.loseValid s a1 a2 a3).mem = s.mem := by
  unfold State.loseValid
  repeat' (first | (with_reducible rfl) | (with_reducible refine forAll_mem' (fun _ _ => ?_) ?_) | extract_lets | split | (simp +zetaDelta only [ite_mem, ite_self]; done) | (with_reducible refine (snd_mem_of (by assumption)).trans ?_) | (with_reducible refine (snd_snd_mem_of (by assumption)).trans ?_) | (with_reducible refine (fst_mem_of (by assumption)).trans ?_) | (simp +zetaDelta [ite_mem]))

@[simp] theorem State.resample_mem {s a1} : (State.resample s a1).mem = s.mem := by
  unfold State.resample; repeat' (first | (with_reducible rfl) | extract_lets | split | (simp +zetaDelta [ite_mem]))

@[simp] theorem State.completeSource_mem {s a1} : (State.completeSource s a1).mem = s.mem := by
  unfold State.completeSource; repeat' (first | (with_reducible rfl) | extract_lets | split | (simp +zetaDelta [ite_mem]))

@[simp] theorem State.freeTubOf_mem {s a1} : (State.freeTubOf s a1).mem = s.mem := by
  simp [State.freeTubOf]

@[simp] theorem State.coreReset_mem {s a1 a2} : (State.coreReset s a1 a2).mem = s.mem := by
  unfold State.coreReset
  repeat' (first | (with_reducible rfl) | (with_reducible refine forAll_mem' (fun _ _ => ?_) ?_) | extract_lets | split | (simp +zetaDelta only [ite_mem, ite_self]; done) | (with_reducible refine (snd_mem_of (by assumption)).trans ?_) | (with_reducible refine (snd_snd_mem_of (by assumption)).trans ?_) | (with_reducible refine (fst_mem_of (by assumption)).trans ?_) | (simp +zetaDelta [ite_mem]))

@[simp] theorem State.loseHewer_mem {s a1} : (State.loseHewer s a1).mem = s.mem := by
  simp [State.loseHewer]

@[simp] theorem State.lockUp_mem {s a1 a2} : (State.lockUp s a1 a2).mem = s.mem := by
  unfold State.lockUp; repeat' (first | (with_reducible rfl) | extract_lets | split | (simp +zetaDelta [ite_mem]))

@[simp] theorem State.amendReport_mem {s a1 a2 a3} : (State.amendReport s a1 a2 a3).mem = s.mem := by
  unfold State.amendReport; repeat' (first | (with_reducible rfl) | extract_lets | split | (simp +zetaDelta [ite_mem]))

@[simp] theorem State.escalate_mem {s a1} : (State.escalate s a1).mem = s.mem := by
  unfold State.escalate
  repeat' (first | (with_reducible rfl) | (with_reducible refine forAll_mem' (fun _ _ => ?_) ?_) | extract_lets | split | (simp +zetaDelta only [ite_mem, ite_self]; done) | (with_reducible refine (snd_mem_of (by assumption)).trans ?_) | (with_reducible refine (snd_snd_mem_of (by assumption)).trans ?_) | (with_reducible refine (fst_mem_of (by assumption)).trans ?_) | (simp +zetaDelta [ite_mem]))

theorem latch_mem {s : State} {n k : Nat} {srcs : List Nat} {d : Word} {x : Time} {p : Nat} :
    (((forAll srcs ((s.setF k CH_PROT_STAT.LATCHED 1).setF k CH_PROT_STAT.CYC 0) (fun s i => s.setF k (latField i) 1)).info n
      0x0020 d).fireFace (n / 16) p x false).mem = s.mem := by
  rw [State.fireFace_mem, State.info_mem]
  exact forAll_mem' (fun _ _ => by simp) (by simp)

@[simp] theorem State.enterLatched_mem {s : State} {n : Nat} {srcs : List Nat} : (s.enterLatched n srcs).mem = s.mem := latch_mem

@[simp] theorem State.trip_mem {s a1 a2 a3} : (State.trip s a1 a2 a3).mem = s.mem := by
  unfold State.trip; repeat' (first | (with_reducible rfl) | extract_lets | split | (simp +zetaDelta [ite_mem]))

@[simp] theorem State.assert_mem {s a1 a2} : (State.assert s a1 a2).mem = s.mem := by
  unfold State.assert; repeat' (first | (with_reducible rfl) | extract_lets | split | (simp +zetaDelta [ite_mem]))

@[simp] theorem State.setFieldBit_mem {s a1 a2 a3 a4} : (State.setFieldBit s a1 a2 a3 a4).mem = s.mem := by
  simp [State.setFieldBit]

@[simp] theorem State.putSlice_mem {s a1 a2} : (State.putSlice s a1 a2).mem = s.mem := by
  simp [State.putSlice]

@[simp] theorem State.cmpActive_mem {s a1 a2} : (State.cmpActive s a1 a2).mem = s.mem := by
  simp [State.cmpActive]

@[simp] theorem State.setStandIn_mem {s a1 a2 a3} : (State.setStandIn s a1 a2 a3).mem = s.mem := by
  simp [State.setStandIn]

@[simp] theorem State.endStandIn_mem {s a1 a2} : (State.endStandIn s a1 a2).mem = s.mem := by
  unfold State.endStandIn
  repeat' (first | (with_reducible rfl) | (with_reducible refine forAll_mem' (fun _ _ => ?_) ?_) | extract_lets | split | (simp +zetaDelta only [ite_mem, ite_self]; done) | (with_reducible refine (snd_mem_of (by assumption)).trans ?_) | (with_reducible refine (snd_snd_mem_of (by assumption)).trans ?_) | (with_reducible refine (fst_mem_of (by assumption)).trans ?_) | (simp +zetaDelta [ite_mem]))

@[simp] theorem State.beginStandIn_mem {s a1 a2} : (State.beginStandIn s a1 a2).mem = s.mem := by
  unfold State.beginStandIn
  repeat' (first | (with_reducible rfl) | (with_reducible refine forAll_mem' (fun _ _ => ?_) ?_) | extract_lets | split | (simp +zetaDelta only [ite_mem, ite_self]; done) | (with_reducible refine (snd_mem_of (by assumption)).trans ?_) | (with_reducible refine (snd_snd_mem_of (by assumption)).trans ?_) | (with_reducible refine (fst_mem_of (by assumption)).trans ?_) | (simp +zetaDelta [ite_mem]))

@[simp] theorem State.standInNow_mem {s a1} : (State.standInNow s a1).mem = s.mem := by
  unfold State.standInNow
  repeat' (first | (with_reducible rfl) | (with_reducible refine forAll_mem' (fun _ _ => ?_) ?_) | extract_lets | split | (simp +zetaDelta only [ite_mem, ite_self]; done) | (with_reducible refine (snd_mem_of (by assumption)).trans ?_) | (with_reducible refine (snd_snd_mem_of (by assumption)).trans ?_) | (with_reducible refine (fst_mem_of (by assumption)).trans ?_) | (simp +zetaDelta [ite_mem]))

@[simp] theorem State.standInResult_mem {s a1 a2} : (State.standInResult s a1 a2).mem = s.mem := by
  unfold State.standInResult
  repeat' (first | (with_reducible rfl) | (with_reducible refine forAll_mem' (fun _ _ => ?_) ?_) | extract_lets | split | (simp +zetaDelta only [ite_mem, ite_self]; done) | (with_reducible refine (snd_mem_of (by assumption)).trans ?_) | (with_reducible refine (snd_snd_mem_of (by assumption)).trans ?_) | (with_reducible refine (fst_mem_of (by assumption)).trans ?_) | (simp +zetaDelta [ite_mem]))

@[simp] theorem State.decDiscard_mem {s a1} : (State.decDiscard s a1).mem = s.mem := by
  simp [State.decDiscard]

@[simp] theorem State.decStale_mem {s a1} : (State.decStale s a1).mem = s.mem := by
  unfold State.decStale; repeat' (first | (with_reducible rfl) | extract_lets | split | (simp +zetaDelta [ite_mem]))

@[simp] theorem State.deliverResult_mem {s a1 a2 a3} : (State.deliverResult s a1 a2 a3).mem = s.mem := by
  unfold State.deliverResult; repeat' (first | (with_reducible rfl) | extract_lets | split | (simp +zetaDelta [ite_mem]))

@[simp] theorem State.scramble_mem {s a1} : (State.scramble s a1).mem = s.mem := by
  simp [State.scramble]

@[simp] theorem State.scrambleTo_mem {s k v} : (State.scrambleTo s k v).mem = s.mem := by
  simp [State.scrambleTo]

@[simp] theorem State.activate_mem {s a1 a2 a3} : (State.activate s a1 a2 a3).mem = s.mem := by
  unfold State.activate
  repeat' (first | (with_reducible rfl) | (with_reducible refine forAll_mem' (fun _ _ => ?_) ?_) | extract_lets | split | (simp +zetaDelta only [ite_mem, ite_self]; done) | (with_reducible refine (snd_mem_of (by assumption)).trans ?_) | (with_reducible refine (snd_snd_mem_of (by assumption)).trans ?_) | (with_reducible refine (fst_mem_of (by assumption)).trans ?_) | (simp +zetaDelta [ite_mem]))

@[simp] theorem State.scrubWord_mem {s a1 a2} : (State.scrubWord s a1 a2).mem = s.mem := by
  simp only [State.scrubWord]; split <;> simp

@[simp] theorem State.scrubPassDone_mem {s a1} : (State.scrubPassDone s a1).mem = s.mem := by
  simp [State.scrubPassDone]

@[simp] theorem State.clearPending_mem {s a1} : (State.clearPending s a1).mem = s.mem := by
  simp [State.clearPending]

@[simp] theorem State.taken_mem {s a1 a2} : (State.taken s a1 a2).mem = s.mem := by
  simp [State.taken]

@[simp] theorem State.dmaTo_mem {s a1 a2} : (State.dmaTo s a1 a2).mem = s.mem := by
  simp [State.dmaTo]

@[simp] theorem State.dmaDone_mem {s a1} : (State.dmaDone s a1).mem = s.mem := by
  simp [State.dmaDone]

@[simp] theorem State.dmaSettle_mem {s a1} : (State.dmaSettle s a1).mem = s.mem := by
  unfold State.dmaSettle; repeat' (first | (with_reducible rfl) | extract_lets | split | (simp +zetaDelta [ite_mem]))

@[simp] theorem State.wdogPause_mem {s} : (State.wdogPause s).mem = s.mem := by
  simp only [State.wdogPause]; split <;> simp

@[simp] theorem State.pcieRequest_mem {s a1 a2 a3} : (State.pcieRequest s a1 a2 a3).2.mem = s.mem := by
  simp [State.pcieRequest]

@[simp] theorem State.corerAcked_mem {s a1 a2} : (State.corerAcked s a1 a2).mem = s.mem := by
  simp only [State.corerAcked]; split <;> simp

@[simp] theorem State.readBackDone_mem {s a1 a2} : (State.readBackDone s a1 a2).mem = s.mem := by
  simp [State.readBackDone]

@[simp] theorem State.readBackData_mem {s a1} : (State.readBackData s a1).mem = s.mem := by
  simp only [State.readBackData]; split <;> simp

@[simp] theorem State.readBackReply_mem {s a1} : (State.readBackReply s a1).mem = s.mem := by
  unfold State.readBackReply; repeat' (first | (with_reducible rfl) | extract_lets | split | (simp +zetaDelta [ite_mem]))

@[simp] theorem State.spiFill_mem {s a1} : (State.spiFill s a1).mem = s.mem := by
  simp [State.spiFill]

@[simp] theorem State.spiPop_mem {s a1} : (State.spiPop s a1).2.mem = s.mem := by
  simp only [State.spiPop]; split <;> simp

@[simp] theorem State.stage_mem {s a1 a2} : (State.stage s a1 a2).mem = s.mem := by
  unfold State.stage; repeat' (first | (with_reducible rfl) | extract_lets | split | (simp +zetaDelta [ite_mem]))

@[simp] theorem State.sendBlock_mem {s a1 a2} : (State.sendBlock s a1 a2).mem = s.mem := by
  simp [State.sendBlock]

@[simp] theorem State.abortCopy_mem {s a1 a2} : (State.abortCopy s a1 a2).mem = s.mem := by
  unfold State.abortCopy; repeat' (first | split | simp)

@[simp] theorem State.forward_mem {s a1 a2} : (State.forward s a1 a2).mem = s.mem := by
  unfold State.forward; repeat' (first | (with_reducible rfl) | extract_lets | split | (simp +zetaDelta [ite_mem]))

@[simp] theorem State.acceptSeq_mem {s a1} : (State.acceptSeq s a1).2.mem = s.mem := by
  unfold State.acceptSeq; repeat' (first | (with_reducible rfl) | extract_lets | split | (simp +zetaDelta [ite_mem]))

@[simp] theorem State.arrive_mem {s a1 a2} : (State.arrive s a1 a2).2.mem = s.mem := by
  unfold State.arrive; repeat' (first | (with_reducible rfl) | extract_lets | split | (simp +zetaDelta [ite_mem]))

@[simp] theorem State.msixSend_mem {s a1} : (State.msixSend s a1).mem = s.mem := by
  simp only [State.msixSend]; split <;> simp

@[simp] theorem State.msixRetry_mem {s} : (State.msixRetry s).mem = s.mem := by
  unfold State.msixRetry
  repeat' (first | (with_reducible rfl) | (with_reducible refine forAll_mem' (fun _ _ => ?_) ?_) | extract_lets | split | (simp +zetaDelta only [ite_mem, ite_self]; done) | (with_reducible refine (snd_mem_of (by assumption)).trans ?_) | (with_reducible refine (snd_snd_mem_of (by assumption)).trans ?_) | (with_reducible refine (fst_mem_of (by assumption)).trans ?_) | (simp +zetaDelta [ite_mem]))

@[simp] theorem State.msixWrite_mem {s a1 a2} : (State.msixWrite s a1 a2).mem = s.mem := by
  simp [State.msixWrite]

@[simp] theorem State.setTubFree_mem {s a1} : (State.setTubFree s a1).mem = s.mem := by
  simp [State.setTubFree]

@[simp] theorem State.setTubTag_mem {s a1 a2} : (State.setTubTag s a1 a2).mem = s.mem := by
  simp [State.setTubTag]

@[simp] theorem State.tubAllocate_mem {s a1} : (State.tubAllocate s a1).2.mem = s.mem := by
  simp only [State.tubAllocate]; split <;> simp

theorem foldl_snd_mem {α β : Type} {f : α × State → β → α × State} (h : ∀ x b, (f x b).2.mem = x.2.mem) {l : List β}
    {x : α × State} : (l.foldl f x).2.mem = x.2.mem := by
  induction l generalizing x with
  | nil => rfl
  | cons b l ih => exact ih.trans (h x b)

@[simp] theorem State.readBytes_mem {s a1 a2} : (State.readBytes s a1 a2).2.mem = s.mem := by
  unfold State.readBytes
  extract_lets
  split
  rename_i h
  refine (snd_mem_of h).trans ?_
  refine (foldl_snd_mem ?_).trans rfl
  intro x b
  split
  rename_i h
  exact (snd_snd_mem_of h).trans deliverMem_mem

@[simp] theorem State.updBytes_mem {s a1 a2} : (State.updBytes s a1 a2).2.mem = s.mem := by
  simp [State.updBytes]

@[simp] theorem State.updRefuse_mem {s a1} : (State.updRefuse s a1).mem = s.mem := by
  simp [State.updRefuse]

@[simp] theorem State.updEnd_mem {s} : (State.updEnd s).mem = s.mem := by
  simp [State.updEnd]

@[simp] theorem State.updSection_mem {s a1} : (State.updSection s a1).2.mem = s.mem := by
  unfold State.updSection
  repeat' (first | (with_reducible rfl) | (with_reducible refine forAll_mem' (fun _ _ => ?_) ?_) | extract_lets | split | (simp +zetaDelta only [ite_mem, ite_self]; done) | (with_reducible refine (snd_mem_of (by assumption)).trans ?_) | (with_reducible refine (snd_snd_mem_of (by assumption)).trans ?_) | (with_reducible refine (fst_mem_of (by assumption)).trans ?_) | (simp +zetaDelta [ite_mem]))

theorem wordWrite_mem {a : Access} {k : Nat} {w : Word} {s : State} {act : Word → State → Wr} (h : ∀ w s, (act w s).1.mem = s.mem) :
    (wordWrite a k w s act).1.mem = s.mem := by
  have e : ∀ (b : Bool) (p : Prop) [Decidable p] (u : State) (v v' : Word),
      (if b then act v u else if p then (u, true) else act v' u).1.mem = u.mem := by
    intro b p _ u v v'; cases b <;> by_cases hp : p <;> simp [h, hp]
  unfold wordWrite
  split
  · rfl
  · split
    · rw [h]; split <;> simp
    · simp [e]

@[simp] theorem stageSetting_mem {k : Nat} {v : Word} {s : State} : (stageSetting k v s).mem = s.mem := by
  unfold stageSetting; split
  · simp
  · exact wordWrite_mem (fun _ _ => by simp)

@[simp] theorem stageSettings_mem {n b} {s : State} : (stageSettings n b s).mem = s.mem := by
  induction n generalizing b s with
  | zero => rfl
  | succ n ih => exact ih.trans (by split <;> simp)

@[simp] theorem State.readEntry_mem {s a1 a2} : (State.readEntry s a1 a2).2.2.mem = s.mem := by
  simp [State.readEntry]

@[simp] theorem State.readReg_mem {s a1 a2 a3 a4} : (State.readReg s a1 a2 a3 a4).2.mem = s.mem := by
  unfold State.readReg
  repeat' (first | (with_reducible rfl) | (with_reducible refine forAll_mem' (fun _ _ => ?_) ?_) | extract_lets | split | (simp +zetaDelta only [ite_mem, ite_self]; done) | (with_reducible refine (snd_mem_of (by assumption)).trans ?_) | (with_reducible refine (snd_snd_mem_of (by assumption)).trans ?_) | (with_reducible refine (fst_mem_of (by assumption)).trans ?_) | (simp +zetaDelta [ite_mem]))

@[simp] theorem State.freeRead_mem {s} : (State.freeRead s).2.2.mem = s.mem := by
  simp [State.freeRead]

@[simp] theorem codeRead_mem {o n : Nat} {r : Word × Bool × State} : (codeRead o n r).2.2.mem = r.2.2.mem := rfl

@[simp] theorem State.readLoop_mem {s a1} : (State.readLoop s a1).2.2.mem = s.mem := by
  unfold State.readLoop; repeat' (first | (with_reducible rfl) | extract_lets | split | (simp +zetaDelta [ite_mem]))

@[simp] theorem State.readBlock_mem {s a1 a2 a3} : (State.readBlock s a1 a2 a3).2.2.mem = s.mem := by
  unfold State.readBlock
  repeat' (first | (with_reducible rfl) | (with_reducible refine forAll_mem' (fun _ _ => ?_) ?_) | extract_lets | split | (simp +zetaDelta only [ite_mem, ite_self]; done) | (with_reducible refine (snd_mem_of (by assumption)).trans ?_) | (with_reducible refine (snd_snd_mem_of (by assumption)).trans ?_) | (with_reducible refine (fst_mem_of (by assumption)).trans ?_) | (simp +zetaDelta [ite_mem]))

@[simp] theorem State.deviceRead_mem {s a1 a2} : (State.deviceRead s a1 a2).2.2.mem = s.mem := by
  unfold State.deviceRead
  repeat' (first | (with_reducible rfl) | (with_reducible refine forAll_mem' (fun _ _ => ?_) ?_) | extract_lets | split | (simp +zetaDelta only [ite_mem, ite_self]; done) | (with_reducible refine (snd_mem_of (by assumption)).trans ?_) | (with_reducible refine (snd_snd_mem_of (by assumption)).trans ?_) | (with_reducible refine (fst_mem_of (by assumption)).trans ?_) | (simp +zetaDelta [ite_mem]))

@[simp] theorem State.busReadWords_mem {a x n} {s : State} : (State.busReadWords a n x s).2.2.mem = s.mem := by
  induction n generalizing x s with
  | zero => rfl
  | succ n ih =>
    unfold State.busReadWords
    repeat' (first | (with_reducible rfl) | (with_reducible refine forAll_mem' (fun _ _ => ?_) ?_) | extract_lets | split | (simp +zetaDelta only [ite_mem, ite_self]; done) | (with_reducible refine (snd_mem_of (by assumption)).trans ?_) | (with_reducible refine (snd_snd_mem_of (by assumption)).trans ?_) | (with_reducible refine (fst_mem_of (by assumption)).trans ?_) | refine ih.trans ?_ | (simp +zetaDelta [ite_mem]))

@[simp] theorem State.linkRequest_mem {s a1 a2 a3 a4 a5} : (State.linkRequest s a1 a2 a3 a4 a5).2.mem = s.mem := by
  simp [State.linkRequest]

@[simp] theorem State.pciePost_mem {s a1 a2} : (State.pciePost s a1 a2).2.mem = s.mem := by
  simp [State.pciePost]

@[simp] theorem State.pcieError_mem {s a1} : (State.pcieError s a1).mem = s.mem := by
  simp [State.pcieError]

@[simp] theorem State.configWrite_mem {s a1 a2} : (State.configWrite s a1 a2).mem = s.mem := by
  unfold State.configWrite; repeat' (first | (with_reducible rfl) | extract_lets | split | (simp +zetaDelta [ite_mem]))

@[simp] theorem State.fetch_mem {s a1} : (State.fetch s a1).2.mem = s.mem := by
  unfold State.fetch
  repeat' (first | (with_reducible rfl) | (with_reducible refine forAll_mem' (fun _ _ => ?_) ?_) | extract_lets | split | (simp +zetaDelta only [ite_mem, ite_self]; done) | (with_reducible refine (snd_mem_of (by assumption)).trans ?_) | (with_reducible refine (snd_snd_mem_of (by assumption)).trans ?_) | (with_reducible refine (fst_mem_of (by assumption)).trans ?_) | (simp +zetaDelta [ite_mem]))

@[simp] theorem State.pend_mem {s a1 a2} : (State.pend s a1 a2).mem = s.mem := by
  simp [State.pend]

@[simp] theorem State.sendLoad_mem {s a1 a2} : (State.sendLoad s a1 a2).mem = s.mem := by
  unfold State.sendLoad
  repeat' (first | (with_reducible rfl) | (with_reducible refine forAll_mem' (fun _ _ => ?_) ?_) | extract_lets | split | (simp +zetaDelta only [ite_mem, ite_self]; done) | (with_reducible refine (snd_mem_of (by assumption)).trans ?_) | (with_reducible refine (snd_snd_mem_of (by assumption)).trans ?_) | (with_reducible refine (fst_mem_of (by assumption)).trans ?_) | (simp +zetaDelta [ite_mem]))

@[simp] theorem State.present_mem {s a1 a2 a3} : (State.present s a1 a2 a3).mem = s.mem := rfl

@[simp] theorem State.presentNone_mem {s} : (State.presentNone s).mem = s.mem := rfl

@[simp] theorem State.presentBoth_mem {s a1 a2 a3} : (State.presentBoth s a1 a2 a3).mem = s.mem := by
  unfold State.presentBoth; split <;> simp

@[simp] theorem State.accessIssued_mem {s a1} : (State.accessIssued s a1).mem = s.mem := by
  unfold State.accessIssued; split <;> simp

@[simp] theorem State.startLoad_mem {s a1 a2} : (State.startLoad s a1 a2).mem = s.mem := by
  unfold State.startLoad; split <;> simp

@[simp] theorem State.freshPc_mem {s a1} : (State.freshPc s a1).mem = s.mem := by
  simp [State.freshPc]

@[simp] theorem State.toHandler_mem {s a1 a2 a3} : (State.toHandler s a1 a2 a3).mem = s.mem := by
  unfold State.toHandler
  repeat' (first | (with_reducible rfl) | (with_reducible refine forAll_mem' (fun _ _ => ?_) ?_) | extract_lets | split | (simp +zetaDelta only [ite_mem, ite_self]; done) | (with_reducible refine (snd_mem_of (by assumption)).trans ?_) | (with_reducible refine (snd_snd_mem_of (by assumption)).trans ?_) | (with_reducible refine (fst_mem_of (by assumption)).trans ?_) | (simp +zetaDelta [ite_mem]))

@[simp] theorem State.atHandler_mem {s a1 a2 a3 a4} : (State.atHandler s a1 a2 a3 a4).mem = s.mem := by
  simp [State.atHandler]

@[simp] theorem State.stackFault_mem {s a1 a2 a3} : (State.stackFault s a1 a2 a3).mem = s.mem := by
  unfold State.stackFault
  repeat' (first | (with_reducible rfl) | (with_reducible refine forAll_mem' (fun _ _ => ?_) ?_) | extract_lets | split | (simp +zetaDelta only [ite_mem, ite_self]; done) | (with_reducible refine (snd_mem_of (by assumption)).trans ?_) | (with_reducible refine (snd_snd_mem_of (by assumption)).trans ?_) | (with_reducible refine (fst_mem_of (by assumption)).trans ?_) | (simp +zetaDelta [ite_mem]))

@[simp] theorem State.leaveEmergency_mem {s a1} : (State.leaveEmergency s a1).mem = s.mem := by
  simp [State.leaveEmergency]

@[simp] theorem State.retire_mem {s a1 a2} : (State.retire s a1 a2).mem = s.mem := by
  simp [State.retire]

@[simp] theorem State.writeX_mem {s a1 a2 a3 a4} : (State.writeX s a1 a2 a3 a4).mem = s.mem := by
  simp [State.writeX]

@[simp] theorem State.runCsr_mem {s a1 a2 a3 a4 a5 a6} : (State.runCsr s a1 a2 a3 a4 a5 a6).mem = s.mem := by
  simp [State.runCsr]

@[simp] theorem State.loadDone_mem {s a1 a2 a3} : (State.loadDone s a1 a2 a3).mem = s.mem := by
  unfold State.loadDone; repeat' (first | (with_reducible rfl) | extract_lets | split | (simp +zetaDelta [ite_mem]))

@[simp] theorem State.dropStore_mem {s a1} : (State.dropStore s a1).mem = s.mem := by
  simp [State.dropStore]

@[simp] theorem State.tagStore_mem {s a1 a2} : (State.tagStore s a1 a2).mem = s.mem := by
  simp [State.tagStore]

@[simp] theorem State.holdCore_mem {s a1 a2 a3} : (State.holdCore s a1 a2 a3).mem = s.mem := by
  simp [State.holdCore]

@[simp] theorem State.beginSlice_mem {s a1 a2 a3 a4} : (State.beginSlice s a1 a2 a3 a4).mem = s.mem := by
  simp only [State.beginSlice]; split <;> simp

@[simp] theorem State.quiesceOther_mem {s a1 a2 a3} : (State.quiesceOther s a1 a2 a3).mem = s.mem := by
  unfold State.quiesceOther; repeat' (first | (with_reducible rfl) | extract_lets | split | (simp +zetaDelta [ite_mem]))

@[simp] theorem State.beginAt_mem {s a1 a2 a3 a4} : (State.beginAt s a1 a2 a3 a4).mem = s.mem := by
  unfold State.beginAt
  repeat' (first | (with_reducible rfl) | (with_reducible refine forAll_mem' (fun _ _ => ?_) ?_) | extract_lets | split | (simp +zetaDelta only [ite_mem, ite_self]; done) | (with_reducible refine (snd_mem_of (by assumption)).trans ?_) | (with_reducible refine (snd_snd_mem_of (by assumption)).trans ?_) | (with_reducible refine (fst_mem_of (by assumption)).trans ?_) | (simp +zetaDelta [ite_mem]))

@[simp] theorem State.beginAhead_mem {s a1 a2} : (State.beginAhead s a1 a2).mem = s.mem := by
  unfold State.beginAhead
  repeat' (first | (with_reducible rfl) | (with_reducible refine forAll_mem' (fun _ _ => ?_) ?_) | extract_lets | split | (simp +zetaDelta only [ite_mem, ite_self]; done) | (with_reducible refine (snd_mem_of (by assumption)).trans ?_) | (with_reducible refine (snd_snd_mem_of (by assumption)).trans ?_) | (with_reducible refine (fst_mem_of (by assumption)).trans ?_) | (simp +zetaDelta [ite_mem]))

@[simp] theorem State.beginPredicted_mem {s a1 a2 a3 a4} : (State.beginPredicted s a1 a2 a3 a4).mem = s.mem := by
  simp [State.beginPredicted]

@[simp] theorem State.descComplete_mem {s a1 a2} : (State.descComplete s a1 a2).mem = s.mem := by
  unfold State.descComplete; repeat' (first | (with_reducible rfl) | extract_lets | split | (simp +zetaDelta [ite_mem]))

@[simp] theorem State.readOtp_mem {s a1} : (State.readOtp s a1).mem = s.mem := by
  unfold State.readOtp
  repeat' (first | (with_reducible rfl) | (with_reducible refine forAll_mem' (fun _ _ => ?_) ?_) | extract_lets | split | (simp +zetaDelta only [ite_mem, ite_self]; done) | (with_reducible refine (snd_mem_of (by assumption)).trans ?_) | (with_reducible refine (snd_snd_mem_of (by assumption)).trans ?_) | (with_reducible refine (fst_mem_of (by assumption)).trans ?_) | (simp +zetaDelta [ite_mem]))

@[simp] theorem State.slotVerdict_mem {s a1 a2} : (State.slotVerdict s a1 a2).mem = s.mem := by
  simp only [State.slotVerdict]; split <;> simp

@[simp] theorem State.loadToHold_mem {s} : (State.loadToHold s).mem = s.mem := by
  simp only [State.loadToHold]; split <;> simp

@[simp] theorem State.scrubRestart_mem {s} : (State.scrubRestart s).mem = s.mem := rfl

@[simp] theorem State.showRate_mem {s} : (State.showRate s).mem = s.mem := by
  simp [State.showRate]

@[simp] theorem State.noImage_mem {s} : (State.noImage s).mem = s.mem := by
  simp only [State.noImage]; split <;> simp

theorem trim_mem {key : Nat → Nat → Nat} {s : State} {e : Nat × Option Word} :
    (match e.2 with | some v => s.activate (key (e.1 / 8) (e.1 % 8)) v s.now | none => s).mem = s.mem := by
  split
  · exact State.activate_mem
  · rfl

@[simp] theorem State.applyTrims_mem {s} : (State.applyTrims s).mem = s.mem := by
  unfold State.applyTrims
  exact forAll_mem' (fun _ _ => trim_mem) (forAll_mem' (fun _ _ => trim_mem)
    (forAll_mem' (fun _ _ => trim_mem) (forAll_mem fun _ _ => trim_mem)))

@[simp] theorem State.loadModeCfg_mem {s} : (State.loadModeCfg s).mem = s.mem := by
  simp [State.loadModeCfg]

@[simp] theorem State.resetChannelDomain_mem {s} : (State.resetChannelDomain s).mem = s.mem := by
  unfold State.resetChannelDomain
  extract_lets
  refine State.showRate_mem.trans ?_
  repeat' (first | (with_reducible rfl) | (with_reducible refine forAll_mem' (fun _ _ => ?_) ?_) | extract_lets | split | (simp +zetaDelta only [ite_mem, ite_self]; done) | (with_reducible refine (snd_mem_of (by assumption)).trans ?_) | (with_reducible refine (snd_snd_mem_of (by assumption)).trans ?_) | (with_reducible refine (fst_mem_of (by assumption)).trans ?_) | (simp +zetaDelta [ite_mem]))

@[simp] theorem State.loadDeputy_mem {s} : (State.loadDeputy s).mem = s.mem := by
  simp only [State.loadDeputy]; split <;> simp

@[simp] theorem State.slotLoaded_mem {s a1} : (State.slotLoaded s a1).mem = s.mem := by
  unfold State.slotLoaded; repeat' (first | (with_reducible rfl) | extract_lets | split | (simp +zetaDelta [ite_mem]))

@[simp] theorem State.macRead_mem {m x n} {s : State} : (State.macRead m n x s).2.mem = s.mem := by
  induction n generalizing x s with
  | zero => rfl
  | succ n ih =>
    unfold State.macRead
    repeat' (first | (with_reducible rfl) | (with_reducible refine forAll_mem' (fun _ _ => ?_) ?_) | extract_lets | split | (simp +zetaDelta only [ite_mem, ite_self]; done) | (with_reducible refine (snd_mem_of (by assumption)).trans ?_) | (with_reducible refine (snd_snd_mem_of (by assumption)).trans ?_) | (with_reducible refine (fst_mem_of (by assumption)).trans ?_) | refine ih.trans ?_ | (simp +zetaDelta [ite_mem]))

@[simp] theorem State.macDiscard_mem {s a1} : (State.macDiscard s a1).mem = s.mem := by
  simp [State.macDiscard]

@[simp] theorem State.nextDesc_mem {s a1 a2 a3} : (State.nextDesc s a1 a2 a3).2.mem = s.mem := by
  unfold State.nextDesc
  repeat' (first | (with_reducible rfl) | (with_reducible refine forAll_mem' (fun _ _ => ?_) ?_) | extract_lets | split | (simp +zetaDelta only [ite_mem, ite_self]; done) | (with_reducible refine (snd_mem_of (by assumption)).trans ?_) | (with_reducible refine (snd_snd_mem_of (by assumption)).trans ?_) | (with_reducible refine (fst_mem_of (by assumption)).trans ?_) | (simp +zetaDelta [ite_mem]))

@[simp] theorem State.corerReceive_mem {s a1 a2} : (State.corerReceive s a1 a2).mem = s.mem := by
  unfold State.corerReceive; repeat' (first | (with_reducible rfl) | extract_lets | split | (simp +zetaDelta [ite_mem]))

@[simp] theorem State.creditsNow_mem {s a1} : (State.creditsNow s a1).mem = s.mem := by
  simp [State.creditsNow]

@[simp] theorem State.macSend_mem {s a1 a2 a3} : (State.macSend s a1 a2 a3).mem = s.mem := by
  simp [State.macSend]

end Sys2Proof.Machine
end

