-- ==== Sys2Proof/Laws/Memory.lean ====
section
/-! SUPPORT. Memory: a byte after a write, and the canonical form. Every operation that may store to memory keeps the form. -/

namespace Sys2Proof.Machine

open Sys2Proof

/-! ## Reading after writing -/

theorem State.byte_setByte (s : State) (a x : Nat) (b : Byte) : (s.setByte a b).byte x = if x = a then b else s.byte x :=
  AMap.get_set 0 s.mem a x b

theorem leWord_bytes (w : Word) : leWord (byteOf w 0) (byteOf w 1) (byteOf w 2) (byteOf w 3) = w := by
  apply BitVec.eq_of_getLsbD_eq
  intro i hi
  simp only [leWord, byteOf, BitVec.getLsbD_append, BitVec.truncate_eq_setWidth, BitVec.getLsbD_setWidth,
    BitVec.getLsbD_ushiftRight]
  by_cases h0 : i < 8
  · simp [h0]
  · by_cases h1 : i - 8 < 8
    · simp [h0, h1, show 8 + (i - 8) = i by omega]
    · by_cases h2 : i - 8 - 8 < 8
      · simp [h0, h1, h2, show 16 + (i - 8 - 8) = i by omega]
      · simp [h0, h1, h2, show i - 8 - 8 - 8 < 8 by omega, show 24 + (i - 8 - 8 - 8) = i by omega]

theorem State.byte_setWord (s : State) (a x : Nat) (w : Word) (h : x < a ∨ a + 4 ≤ x) : (s.setWord a w).byte x = s.byte x := by
  have h0 : x ≠ a := by omega
  have h1 : x ≠ a + 1 := by omega
  have h2 : x ≠ a + 2 := by omega
  have h3 : x ≠ a + 3 := by omega
  simp [State.setWord, State.byte_setByte, h0, h1, h2, h3]

/-- The word read at an address after a word is written there. -/
theorem State.word_setWord (s : State) (a : Nat) (w : Word) : (s.setWord a w).word a = w := by
  simp [State.word, State.setWord, State.byte_setByte, leWord_bytes]

/-! ## The canonical form -/

theorem wf_of_mem {m m' : List Host.Cell} (h : m = m') (w : Memory.wf m') : Memory.wf m := h ▸ w

@[simp] theorem wf_ite {c : Prop} [Decidable c] {a b : List Host.Cell} : Memory.wf (if c then a else b) = if c then Memory.wf a else Memory.wf b := apply_ite _ _ _ _

@[simp] theorem wf_nil : Memory.wf [] = true := (rfl)

theorem forAll_wf {α : Type} {l : List α} {s : State} {f : State → α → State} (h : ∀ s x, Memory.wf s.mem → Memory.wf (f s x).mem)
    (w : Memory.wf s.mem) : Memory.wf (forAll l s f).mem := by
  unfold forAll; induction l generalizing s with
  | nil => exact w
  | cons a l ih => exact ih (h s a w)

@[simp] theorem keepsBytes_mem {s : State} {r : Wr} : (keepsBytes s r).1.mem = s.mem := (rfl)

@[simp] theorem State.reset_mem : State.reset.mem = [] := (rfl)

@[simp] theorem okWr_fst {s : State} : (okWr s).1 = s := (rfl)

theorem pitOnly_wf {a : Access} {x : Nat} {s : State} {f : State → Wr} (h : ∀ s, Memory.wf s.mem → Memory.wf (f s).1.mem)
    (w : Memory.wf s.mem) : Memory.wf (pitOnly a x s f).1.mem := by
  unfold pitOnly; split
  · exact h s w
  · simpa using w

@[simp] theorem State.setByte_wf {s a1 a2} (w : Memory.wf s.mem) : Memory.wf (State.setByte s a1 a2).mem := by
  exact AMap.wf_set _ _ _ _ w

@[simp] theorem State.setWord_wf {s a1 a2} (w : Memory.wf s.mem) : Memory.wf (State.setWord s a1 a2).mem := by
  unfold State.setWord
  repeat' (first | (with_reducible assumption) | (with_reducible refine forAll_wf (fun _ _ _ => ?_) ?_) | extract_lets | split | (with_reducible refine State.setByte_wf ?_) | (with_reducible refine pitOnly_wf (fun _ _ => ?_) ?_) | (with_reducible refine wf_of_mem (snd_mem_of (by assumption)) ?_) | (with_reducible refine wf_of_mem (snd_snd_mem_of (by assumption)) ?_) | (with_reducible refine wf_of_mem (fst_mem_of (by assumption)) ?_) | (simp +zetaDelta [*, ite_mem]))

@[simp] theorem State.writeMemWord_wf {s a1 a2} (w : Memory.wf s.mem) : Memory.wf (State.writeMemWord s a1 a2).mem := by
  unfold State.writeMemWord
  repeat' (first | (with_reducible assumption) | (with_reducible refine forAll_wf (fun _ _ _ => ?_) ?_) | extract_lets | split | (with_reducible refine State.setWord_wf ?_) | (with_reducible refine pitOnly_wf (fun _ _ => ?_) ?_) | (with_reducible refine wf_of_mem (snd_mem_of (by assumption)) ?_) | (with_reducible refine wf_of_mem (snd_snd_mem_of (by assumption)) ?_) | (with_reducible refine wf_of_mem (fst_mem_of (by assumption)) ?_) | (simp +zetaDelta [*, ite_mem]))

@[simp] theorem State.writeMemNarrow_wf {s a1 a2 a3 a4} (w : Memory.wf s.mem) : Memory.wf (State.writeMemNarrow s a1 a2 a3 a4).1.mem := by
  unfold State.writeMemNarrow
  repeat' (first | (with_reducible assumption) | (with_reducible refine forAll_wf (fun _ _ _ => ?_) ?_) | extract_lets | split | (with_reducible refine State.setByte_wf ?_) | (with_reducible refine State.setWord_wf ?_) | (with_reducible refine pitOnly_wf (fun _ _ => ?_) ?_) | (with_reducible refine wf_of_mem (snd_mem_of (by assumption)) ?_) | (with_reducible refine wf_of_mem (snd_snd_mem_of (by assumption)) ?_) | (with_reducible refine wf_of_mem (fst_mem_of (by assumption)) ?_) | (simp +zetaDelta [*, ite_mem]))

@[simp] theorem State.writeMem_wf {s a1 a2 a3} (w : Memory.wf s.mem) : Memory.wf (State.writeMem s a1 a2 a3).1.mem := by
  unfold State.writeMem
  repeat' (first | (with_reducible assumption) | (with_reducible refine forAll_wf (fun _ _ _ => ?_) ?_) | extract_lets | split | (with_reducible refine State.writeMemWord_wf ?_) | (with_reducible refine State.writeMemNarrow_wf ?_) | (with_reducible refine pitOnly_wf (fun _ _ => ?_) ?_) | (with_reducible refine wf_of_mem (snd_mem_of (by assumption)) ?_) | (with_reducible refine wf_of_mem (snd_snd_mem_of (by assumption)) ?_) | (with_reducible refine wf_of_mem (fst_mem_of (by assumption)) ?_) | (simp +zetaDelta [*, ite_mem]))

@[simp] theorem State.writeCodeword_wf {s a1 a2 a3} (w : Memory.wf s.mem) : Memory.wf (State.writeCodeword s a1 a2 a3).mem := by
  unfold State.writeCodeword
  repeat' (first | (with_reducible assumption) | (with_reducible refine forAll_wf (fun _ _ _ => ?_) ?_) | extract_lets | split | (with_reducible refine State.setByte_wf ?_) | (with_reducible refine pitOnly_wf (fun _ _ => ?_) ?_) | (with_reducible refine wf_of_mem (snd_mem_of (by assumption)) ?_) | (with_reducible refine wf_of_mem (snd_snd_mem_of (by assumption)) ?_) | (with_reducible refine wf_of_mem (fst_mem_of (by assumption)) ?_) | (simp +zetaDelta [*, ite_mem]))

@[simp] theorem State.writeRecord_wf {s a1 a2 a3} (w : Memory.wf s.mem) : Memory.wf (State.writeRecord s a1 a2 a3).mem := by
  unfold State.writeRecord
  repeat' (first | (with_reducible assumption) | (with_reducible refine forAll_wf (fun _ _ _ => ?_) ?_) | extract_lets | split | (with_reducible refine State.writeCodeword_wf ?_) | (with_reducible refine pitOnly_wf (fun _ _ => ?_) ?_) | (with_reducible refine wf_of_mem (snd_mem_of (by assumption)) ?_) | (with_reducible refine wf_of_mem (snd_snd_mem_of (by assumption)) ?_) | (with_reducible refine wf_of_mem (fst_mem_of (by assumption)) ?_) | (simp +zetaDelta [*, ite_mem]))

@[simp] theorem State.laneSignal_wf {s a1 a2 a3} (w : Memory.wf s.mem) : Memory.wf (State.laneSignal s a1 a2 a3).mem := by
  unfold State.laneSignal
  repeat' (first | (with_reducible assumption) | (with_reducible refine forAll_wf (fun _ _ _ => ?_) ?_) | extract_lets | split | (with_reducible refine State.writeRecord_wf ?_) | (with_reducible refine pitOnly_wf (fun _ _ => ?_) ?_) | (with_reducible refine wf_of_mem (snd_mem_of (by assumption)) ?_) | (with_reducible refine wf_of_mem (snd_snd_mem_of (by assumption)) ?_) | (with_reducible refine wf_of_mem (fst_mem_of (by assumption)) ?_) | (simp +zetaDelta [*, ite_mem]))

@[simp] theorem State.signalToLanes_wf {s a1 a2 a3 a4} (w : Memory.wf s.mem) : Memory.wf (State.signalToLanes s a1 a2 a3 a4).mem := by
  unfold State.signalToLanes
  repeat' (first | (with_reducible assumption) | (with_reducible refine forAll_wf (fun _ _ _ => ?_) ?_) | extract_lets | split | (with_reducible refine State.laneSignal_wf ?_) | (with_reducible refine pitOnly_wf (fun _ _ => ?_) ?_) | (with_reducible refine wf_of_mem (snd_mem_of (by assumption)) ?_) | (with_reducible refine wf_of_mem (snd_snd_mem_of (by assumption)) ?_) | (with_reducible refine wf_of_mem (fst_mem_of (by assumption)) ?_) | (simp +zetaDelta [*, ite_mem]))

@[simp] theorem State.resultToLanes_wf {s a1 a2 a3} (w : Memory.wf s.mem) : Memory.wf (State.resultToLanes s a1 a2 a3).mem := by
  unfold State.resultToLanes
  repeat' (first | (with_reducible assumption) | (with_reducible refine forAll_wf (fun _ _ _ => ?_) ?_) | extract_lets | split | (with_reducible refine State.writeRecord_wf ?_) | (with_reducible refine pitOnly_wf (fun _ _ => ?_) ?_) | (with_reducible refine wf_of_mem (snd_mem_of (by assumption)) ?_) | (with_reducible refine wf_of_mem (snd_snd_mem_of (by assumption)) ?_) | (with_reducible refine wf_of_mem (fst_mem_of (by assumption)) ?_) | (simp +zetaDelta [*, ite_mem]))

@[simp] theorem State.acceptSignal_wf {s a1 a2 a3} (w : Memory.wf s.mem) : Memory.wf (State.acceptSignal s a1 a2 a3).mem := by
  unfold State.acceptSignal
  repeat' (first | (with_reducible assumption) | (with_reducible refine forAll_wf (fun _ _ _ => ?_) ?_) | extract_lets | split | (with_reducible refine State.signalToLanes_wf ?_) | (with_reducible refine pitOnly_wf (fun _ _ => ?_) ?_) | (with_reducible refine wf_of_mem (snd_mem_of (by assumption)) ?_) | (with_reducible refine wf_of_mem (snd_snd_mem_of (by assumption)) ?_) | (with_reducible refine wf_of_mem (fst_mem_of (by assumption)) ?_) | (simp +zetaDelta [*, ite_mem]))

@[simp] theorem State.deviceSignal_wf {s a1 a2 a3} (w : Memory.wf s.mem) : Memory.wf (State.deviceSignal s a1 a2 a3).mem := by
  unfold State.deviceSignal
  repeat' (first | (with_reducible assumption) | (with_reducible refine forAll_wf (fun _ _ _ => ?_) ?_) | extract_lets | split | (with_reducible refine State.acceptSignal_wf ?_) | (with_reducible refine pitOnly_wf (fun _ _ => ?_) ?_) | (with_reducible refine wf_of_mem (snd_mem_of (by assumption)) ?_) | (with_reducible refine wf_of_mem (snd_snd_mem_of (by assumption)) ?_) | (with_reducible refine wf_of_mem (fst_mem_of (by assumption)) ?_) | (simp +zetaDelta [*, ite_mem]))

@[simp] theorem writeSigValue_wf {a0 a1 a2 s} (w : Memory.wf s.mem) : Memory.wf (writeSigValue a0 a1 a2 s).1.mem := by
  unfold writeSigValue
  repeat' (first | (with_reducible assumption) | (with_reducible refine forAll_wf (fun _ _ _ => ?_) ?_) | extract_lets | split | (with_reducible refine State.acceptSignal_wf ?_) | (with_reducible refine pitOnly_wf (fun _ _ => ?_) ?_) | (with_reducible refine wf_of_mem (snd_mem_of (by assumption)) ?_) | (with_reducible refine wf_of_mem (snd_snd_mem_of (by assumption)) ?_) | (with_reducible refine wf_of_mem (fst_mem_of (by assumption)) ?_) | (simp +zetaDelta [*, ite_mem]))

@[simp] theorem State.statusWrite_wf {s a1 a2} (w : Memory.wf s.mem) : Memory.wf (State.statusWrite s a1 a2).mem := by
  unfold State.statusWrite
  repeat' (first | (with_reducible assumption) | (with_reducible refine forAll_wf (fun _ _ _ => ?_) ?_) | extract_lets | split | (with_reducible refine State.signalToLanes_wf ?_) | (with_reducible refine pitOnly_wf (fun _ _ => ?_) ?_) | (with_reducible refine wf_of_mem (snd_mem_of (by assumption)) ?_) | (with_reducible refine wf_of_mem (snd_snd_mem_of (by assumption)) ?_) | (with_reducible refine wf_of_mem (fst_mem_of (by assumption)) ?_) | (simp +zetaDelta [*, ite_mem]))

@[simp] theorem writeSigStatus_wf {a0 a1 a2 s} (w : Memory.wf s.mem) : Memory.wf (writeSigStatus a0 a1 a2 s).1.mem := by
  refine pitOnly_wf (fun s w => ?_) w
  split
  · simp [w]
  · show Memory.wf (State.markUndef (ite _ _ _) _).mem
    rw [State.markUndef_mem]
    split
    · exact State.statusWrite_wf w
    · rw [State.setQuals_mem]; exact w

@[simp] theorem State.receiveSignal_wf {s a1 a2 a3} (w : Memory.wf s.mem) : Memory.wf (State.receiveSignal s a1 a2 a3).mem := by
  unfold State.receiveSignal
  repeat' (first | (with_reducible assumption) | (with_reducible refine forAll_wf (fun _ _ _ => ?_) ?_) | extract_lets | split | (with_reducible refine State.signalToLanes_wf ?_) | (with_reducible refine pitOnly_wf (fun _ _ => ?_) ?_) | (with_reducible refine wf_of_mem (snd_mem_of (by assumption)) ?_) | (with_reducible refine wf_of_mem (snd_snd_mem_of (by assumption)) ?_) | (with_reducible refine wf_of_mem (fst_mem_of (by assumption)) ?_) | (simp +zetaDelta [*, ite_mem]))

@[simp] theorem State.publishAngle_wf {s a1} (w : Memory.wf s.mem) : Memory.wf (State.publishAngle s a1).mem := by
  unfold State.publishAngle
  repeat' (first | (with_reducible assumption) | (with_reducible refine forAll_wf (fun _ _ _ => ?_) ?_) | extract_lets | split | (with_reducible refine State.deviceSignal_wf ?_) | (with_reducible refine pitOnly_wf (fun _ _ => ?_) ?_) | (with_reducible refine wf_of_mem (snd_mem_of (by assumption)) ?_) | (with_reducible refine wf_of_mem (snd_snd_mem_of (by assumption)) ?_) | (with_reducible refine wf_of_mem (fst_mem_of (by assumption)) ?_) | (simp +zetaDelta [*, ite_mem]))

@[simp] theorem State.acceptPulse_wf {s a1 a2 a3 a4 a5} (w : Memory.wf s.mem) : Memory.wf (State.acceptPulse s a1 a2 a3 a4 a5).mem := by
  unfold State.acceptPulse
  repeat' (first | (with_reducible assumption) | (with_reducible refine forAll_wf (fun _ _ _ => ?_) ?_) | extract_lets | split | (with_reducible refine State.publishAngle_wf ?_) | (with_reducible refine pitOnly_wf (fun _ _ => ?_) ?_) | (with_reducible refine wf_of_mem (snd_mem_of (by assumption)) ?_) | (with_reducible refine wf_of_mem (snd_snd_mem_of (by assumption)) ?_) | (with_reducible refine wf_of_mem (fst_mem_of (by assumption)) ?_) | (simp +zetaDelta [*, ite_mem]))

@[simp] theorem State.classify_wf {s a1 a2 a3} (w : Memory.wf s.mem) : Memory.wf (State.classify s a1 a2 a3).mem := by
  unfold State.classify
  repeat' (first | (with_reducible assumption) | (with_reducible refine forAll_wf (fun _ _ _ => ?_) ?_) | extract_lets | split | (with_reducible refine State.acceptPulse_wf ?_) | (with_reducible refine pitOnly_wf (fun _ _ => ?_) ?_) | (with_reducible refine wf_of_mem (snd_mem_of (by assumption)) ?_) | (with_reducible refine wf_of_mem (snd_snd_mem_of (by assumption)) ?_) | (with_reducible refine wf_of_mem (fst_mem_of (by assumption)) ?_) | (simp +zetaDelta [*, ite_mem]))

@[simp] theorem State.pulseAction_wf {s a1 a2} (w : Memory.wf s.mem) : Memory.wf (State.pulseAction s a1 a2).mem := by
  unfold State.pulseAction
  repeat' (first | (with_reducible assumption) | (with_reducible refine forAll_wf (fun _ _ _ => ?_) ?_) | extract_lets | split | (with_reducible refine State.acceptPulse_wf ?_) | (with_reducible refine State.classify_wf ?_) | (with_reducible refine pitOnly_wf (fun _ _ => ?_) ?_) | (with_reducible refine wf_of_mem (snd_mem_of (by assumption)) ?_) | (with_reducible refine wf_of_mem (snd_snd_mem_of (by assumption)) ?_) | (with_reducible refine wf_of_mem (fst_mem_of (by assumption)) ?_) | (simp +zetaDelta [*, ite_mem]))

@[simp] theorem State.scramblePage_wf {s a1} (w : Memory.wf s.mem) : Memory.wf (State.scramblePage s a1).mem := by
  unfold State.scramblePage
  refine forAll_wf (fun s i w => ?_) w
  split
  rename_i h
  refine State.setWord_wf (wf_of_mem (snd_mem_of h) ?_)
  simpa using w

@[simp] theorem State.scrubPage_wf {s a1} (w : Memory.wf s.mem) : Memory.wf (State.scrubPage s a1).mem := by
  unfold State.scrubPage
  repeat' (first | (with_reducible assumption) | (with_reducible refine forAll_wf (fun _ _ _ => ?_) ?_) | extract_lets | split | (with_reducible refine State.scramblePage_wf ?_) | (with_reducible refine pitOnly_wf (fun _ _ => ?_) ?_) | (with_reducible refine wf_of_mem (snd_mem_of (by assumption)) ?_) | (with_reducible refine wf_of_mem (snd_snd_mem_of (by assumption)) ?_) | (with_reducible refine wf_of_mem (fst_mem_of (by assumption)) ?_) | (simp +zetaDelta [*, ite_mem]))

@[simp] theorem writeUpdArea_wf {a0 a1 a2 s} (w : Memory.wf s.mem) : Memory.wf (writeUpdArea a0 a1 a2 s).1.mem := by
  unfold writeUpdArea
  repeat' (first | (with_reducible assumption) | (with_reducible refine forAll_wf (fun _ _ _ => ?_) ?_) | extract_lets | split | (with_reducible refine State.writeMem_wf ?_) | (with_reducible refine pitOnly_wf (fun _ _ => ?_) ?_) | (with_reducible refine wf_of_mem (snd_mem_of (by assumption)) ?_) | (with_reducible refine wf_of_mem (snd_snd_mem_of (by assumption)) ?_) | (with_reducible refine wf_of_mem (fst_mem_of (by assumption)) ?_) | (simp +zetaDelta [*, ite_mem]))

@[simp] theorem writeUpdWindow_wf {a0 a1 a2 s} (w : Memory.wf s.mem) : Memory.wf (writeUpdWindow a0 a1 a2 s).1.mem := by
  unfold writeUpdWindow
  repeat' (first | (with_reducible assumption) | (with_reducible refine forAll_wf (fun _ _ _ => ?_) ?_) | extract_lets | split | (with_reducible refine writeUpdArea_wf ?_) | (with_reducible refine pitOnly_wf (fun _ _ => ?_) ?_) | (with_reducible refine wf_of_mem (snd_mem_of (by assumption)) ?_) | (with_reducible refine wf_of_mem (snd_snd_mem_of (by assumption)) ?_) | (with_reducible refine wf_of_mem (fst_mem_of (by assumption)) ?_) | (simp +zetaDelta [*, ite_mem]))

@[simp] theorem writeBytes_wf {a0 a1 a2 s} (w : Memory.wf s.mem) : Memory.wf (writeBytes a0 a1 a2 s).mem := by
  induction a0 generalizing a1 a2 s with
  | zero => exact w
  | succ n ih =>
    unfold writeBytes; split
    · exact w
    · split <;> (apply ih; simp [w])

@[simp] theorem State.powerReset_wf {s a1} (w : Memory.wf s.mem) : Memory.wf (State.powerReset s a1).mem := by
  unfold State.powerReset
  repeat' (first | (with_reducible assumption) | (with_reducible refine forAll_wf (fun _ _ _ => ?_) ?_) | extract_lets | split | (with_reducible refine pitOnly_wf (fun _ _ => ?_) ?_) | (with_reducible refine wf_of_mem (snd_mem_of (by assumption)) ?_) | (with_reducible refine wf_of_mem (snd_snd_mem_of (by assumption)) ?_) | (with_reducible refine wf_of_mem (fst_mem_of (by assumption)) ?_) | (simp +zetaDelta [*, ite_mem]))

@[simp] theorem writePrivate_wf {a0 a1 a2 a3 s} (w : Memory.wf s.mem) : Memory.wf (writePrivate a0 a1 a2 a3 s).1.mem := by
  unfold writePrivate
  repeat' (first | (with_reducible assumption) | (with_reducible refine forAll_wf (fun _ _ _ => ?_) ?_) | extract_lets | split | (with_reducible refine State.writeMem_wf ?_) | (with_reducible refine pitOnly_wf (fun _ _ => ?_) ?_) | (with_reducible refine wf_of_mem (snd_mem_of (by assumption)) ?_) | (with_reducible refine wf_of_mem (snd_snd_mem_of (by assumption)) ?_) | (with_reducible refine wf_of_mem (fst_mem_of (by assumption)) ?_) | (simp +zetaDelta [*, ite_mem]))

@[simp] theorem writeBlock_wf {a0 a1 a2 s} (w : Memory.wf s.mem) : Memory.wf (writeBlock a0 a1 a2 s).1.mem := by
  unfold writeBlock
  repeat' (first | (with_reducible assumption) | (with_reducible refine forAll_wf (fun _ _ _ => ?_) ?_) | extract_lets | split | (with_reducible refine writeUpdWindow_wf ?_) | (with_reducible refine pitOnly_wf (fun _ _ => ?_) ?_) | (with_reducible refine wf_of_mem (snd_mem_of (by assumption)) ?_) | (with_reducible refine wf_of_mem (snd_snd_mem_of (by assumption)) ?_) | (with_reducible refine wf_of_mem (fst_mem_of (by assumption)) ?_) | (simp +zetaDelta [*, ite_mem]))

@[simp] theorem deviceWrite_wf {a0 a1 a2 s} (w : Memory.wf s.mem) : Memory.wf (deviceWrite a0 a1 a2 s).1.mem := by
  unfold deviceWrite
  repeat' (first | (with_reducible assumption) | (with_reducible refine forAll_wf (fun _ _ _ => ?_) ?_) | extract_lets | split | (with_reducible refine State.writeMem_wf ?_) | (with_reducible refine writeSigValue_wf ?_) | (with_reducible refine writeSigStatus_wf ?_) | (with_reducible refine writeUpdArea_wf ?_) | (with_reducible refine writePrivate_wf ?_) | (with_reducible refine writeBlock_wf ?_) | (with_reducible refine pitOnly_wf (fun _ _ => ?_) ?_) | (with_reducible refine wf_of_mem (snd_mem_of (by assumption)) ?_) | (with_reducible refine wf_of_mem (snd_snd_mem_of (by assumption)) ?_) | (with_reducible refine wf_of_mem (fst_mem_of (by assumption)) ?_) | (simp +zetaDelta [*, ite_mem]))

theorem exchange_wf {α : Type} [DecidableEq α] {d : α} {b n : Nat} {m : AMap α} (w : AMap.wf d m = true) : AMap.wf d (exchange b n m) = true := by
  rw [AMap.wf_iff] at w ⊢
  obtain ⟨hd, hp⟩ := w
  refine ⟨?_, ?_⟩
  · intro e he
    simp only [exchange, List.mem_append, List.mem_map, List.mem_filter, decide_eq_true_eq] at he
    rcases he with ((⟨h, -⟩ | ⟨x, ⟨h, -⟩, rfl⟩) | ⟨x, ⟨h, -⟩, rfl⟩) | ⟨h, -⟩ <;> first | exact hd _ h | exact hd x h
  · simp only [exchange, List.pairwise_append, List.pairwise_map]
    have f := fun p => hp.filter (p := p)
    refine ⟨⟨⟨f _, ?_, ?_⟩, ?_, ?_⟩, f _, ?_⟩
    · refine (List.Pairwise.and_mem.1 (f _)).imp ?_
      rintro x y ⟨hx, hy, h⟩
      simp only [List.mem_filter, decide_eq_true_eq] at hx hy
      omega
    · simp only [List.mem_map, List.mem_filter, decide_eq_true_eq]
      rintro x ⟨-, h⟩ y ⟨z, ⟨-, h'⟩, rfl⟩
      omega
    · exact (f _).imp (by intro x y h; omega)
    · simp only [List.mem_append, List.mem_map, List.mem_filter, decide_eq_true_eq]
      rintro x (⟨-, h⟩ | ⟨z, ⟨-, h⟩, rfl⟩) y ⟨z', ⟨-, h'⟩, rfl⟩ <;> simp only <;> omega
    · simp only [List.mem_append, List.mem_map, List.mem_filter, decide_eq_true_eq]
      rintro x ((⟨-, h⟩ | ⟨z, ⟨-, h⟩, rfl⟩) | ⟨z, ⟨-, h⟩, rfl⟩) y ⟨-, h'⟩ <;> (try simp only) <;> omega

@[simp] theorem State.swapBanks_wf {s : State} {p rd : Nat} (w : Memory.wf s.mem) : Memory.wf (s.swapBanks p rd).mem := by
  unfold State.swapBanks
  extract_lets k s1 s2 s3
  have h1 : Memory.wf s1.mem := exchange_wf w
  clear_value s1
  simp +zetaDelta [h1]

@[simp] theorem State.fillSystem_wf {s : State} (w : Memory.wf s.mem) : Memory.wf s.fillSystem.mem := AMap.wf_filter _ _ _ w

theorem State.nextInstr_mem {s : State} {p : Nat} {x : Fetched} {t : State} (h : s.nextInstr p = some (x, t)) : t.mem = s.mem := by
  unfold State.nextInstr at h
  split at h
  · split at h
    · rename_i h'
      extract_lets i at h
      split at h
      · cases h
      · cases h; exact (snd_mem_of h').trans State.fetch_mem
    · cases h
  · cases h

theorem State.readFrame_mem {s : State} {p : Nat} {l : List Nat} {t : State} : (s.readFrame p l t).2.2.mem = t.mem := by
  induction l generalizing t with
  | nil => rfl
  | cons va l ih =>
    unfold State.readFrame
    split
    · split
      · rename_i h
        split
        rename_i h'
        exact (snd_snd_mem_of h').trans (ih.trans ((snd_snd_mem_of h).trans State.deviceRead_mem))
      · rename_i h; exact (snd_snd_mem_of h).trans State.deviceRead_mem
      · rename_i h; exact (snd_snd_mem_of h).trans State.deviceRead_mem
    · rfl

/-- A write over the bus keeps the form. -/
theorem State.busWrite_wf {s : State} {a : Access} {x : Nat} {v : Word} {r : Wr} (h : s.busWrite a x v = .ok r)
    (w : Memory.wf s.mem) : Memory.wf r.1.mem := by
  unfold State.busWrite at h
  split at h
  · cases h
  · cases h; exact deviceWrite_wf w

theorem wf_getD {o : Option State} {s : State} (h : ∀ t, o = some t → Memory.wf t.mem) (w : Memory.wf s.mem) :
    Memory.wf (o.getD s).mem := by
  cases o with
  | none => exact w
  | some t => exact h t rfl

end Sys2Proof.Machine
end

