-- ==== Sys2Proof/Laws/Canonical.lean ====
section
/-! SUPPORT. The canonical form of memory through the processors, LOAD and the bus masters, and through the four ways a command
runs: what each keeps, for the invariant that every step keeps. -/

namespace Sys2Proof.Machine

open Sys2Proof

@[simp] theorem State.writeFrame_wf {s a1 a2 a3 a4} (w : Memory.wf s.mem) : Memory.wf (State.writeFrame s a1 a2 a3 a4).mem := by
  unfold State.writeFrame
  repeat' (first | (with_reducible assumption) | (with_reducible refine forAll_wf (fun _ _ _ => ?_) ?_) | extract_lets | split | (with_reducible refine deviceWrite_wf ?_) | (with_reducible refine pitOnly_wf (fun _ _ => ?_) ?_) | (with_reducible refine wf_of_mem (snd_mem_of (by assumption)) ?_) | (with_reducible refine wf_of_mem (snd_snd_mem_of (by assumption)) ?_) | (with_reducible refine wf_of_mem (fst_mem_of (by assumption)) ?_) | (simp +zetaDelta [*, ite_mem]))

@[simp] theorem State.enterNormal_wf {s a1 a2} (w : Memory.wf s.mem) : Memory.wf (State.enterNormal s a1 a2).2.mem := by
  unfold State.enterNormal
  repeat' (first | (with_reducible assumption) | (with_reducible refine forAll_wf (fun _ _ _ => ?_) ?_) | extract_lets | split | (with_reducible refine State.writeFrame_wf ?_) | (with_reducible refine pitOnly_wf (fun _ _ => ?_) ?_) | (with_reducible refine wf_of_mem (snd_mem_of (by assumption)) ?_) | (with_reducible refine wf_of_mem (snd_snd_mem_of (by assumption)) ?_) | (with_reducible refine wf_of_mem (fst_mem_of (by assumption)) ?_) | (simp +zetaDelta [*, ite_mem]))

@[simp] theorem State.enterEmergency_wf {s a1 a2} (w : Memory.wf s.mem) : Memory.wf (State.enterEmergency s a1 a2).mem := by
  unfold State.enterEmergency
  repeat' (first | (with_reducible assumption) | (with_reducible refine forAll_wf (fun _ _ _ => ?_) ?_) | extract_lets | split | (with_reducible refine State.writeFrame_wf ?_) | (with_reducible refine pitOnly_wf (fun _ _ => ?_) ?_) | (with_reducible refine wf_of_mem (snd_mem_of (by assumption)) ?_) | (with_reducible refine wf_of_mem (snd_snd_mem_of (by assumption)) ?_) | (with_reducible refine wf_of_mem (fst_mem_of (by assumption)) ?_) | (simp +zetaDelta [*, ite_mem]))

@[simp] theorem State.enter_wf {s a1 a2} (w : Memory.wf s.mem) : Memory.wf (State.enter s a1 a2).mem := by
  unfold State.enter
  repeat' (first | (with_reducible assumption) | (with_reducible refine forAll_wf (fun _ _ _ => ?_) ?_) | extract_lets | split | (with_reducible refine State.enterNormal_wf ?_) | (with_reducible refine State.enterEmergency_wf ?_) | (with_reducible refine pitOnly_wf (fun _ _ => ?_) ?_) | (with_reducible refine wf_of_mem (snd_mem_of (by assumption)) ?_) | (with_reducible refine wf_of_mem (snd_snd_mem_of (by assumption)) ?_) | (with_reducible refine wf_of_mem (fst_mem_of (by assumption)) ?_) | (simp +zetaDelta [*, ite_mem]))

@[simp] theorem State.trap_wf {s a1 a2 a3} (w : Memory.wf s.mem) : Memory.wf (State.trap s a1 a2 a3).mem := by
  unfold State.trap
  repeat' (first | (with_reducible assumption) | (with_reducible refine forAll_wf (fun _ _ _ => ?_) ?_) | extract_lets | split | (with_reducible refine State.enter_wf ?_) | (with_reducible refine pitOnly_wf (fun _ _ => ?_) ?_) | (with_reducible refine wf_of_mem (snd_mem_of (by assumption)) ?_) | (with_reducible refine wf_of_mem (snd_snd_mem_of (by assumption)) ?_) | (with_reducible refine wf_of_mem (fst_mem_of (by assumption)) ?_) | (simp +zetaDelta [*, ite_mem]))

@[simp] theorem State.storeTrap_wf {s a1 a2} (w : Memory.wf s.mem) : Memory.wf (State.storeTrap s a1 a2).mem := by
  unfold State.storeTrap
  repeat' (first | (with_reducible assumption) | (with_reducible refine forAll_wf (fun _ _ _ => ?_) ?_) | extract_lets | split | (with_reducible refine State.enter_wf ?_) | (with_reducible refine pitOnly_wf (fun _ _ => ?_) ?_) | (with_reducible refine wf_of_mem (snd_mem_of (by assumption)) ?_) | (with_reducible refine wf_of_mem (snd_snd_mem_of (by assumption)) ?_) | (with_reducible refine wf_of_mem (fst_mem_of (by assumption)) ?_) | (simp +zetaDelta [*, ite_mem]))

@[simp] theorem State.interrupt_wf {s a1 a2 a3} (w : Memory.wf s.mem) : Memory.wf (State.interrupt s a1 a2 a3).mem := by
  unfold State.interrupt
  repeat' (first | (with_reducible assumption) | (with_reducible refine forAll_wf (fun _ _ _ => ?_) ?_) | extract_lets | split | (with_reducible refine State.enterNormal_wf ?_) | (with_reducible refine pitOnly_wf (fun _ _ => ?_) ?_) | (with_reducible refine wf_of_mem (snd_mem_of (by assumption)) ?_) | (with_reducible refine wf_of_mem (snd_snd_mem_of (by assumption)) ?_) | (with_reducible refine wf_of_mem (fst_mem_of (by assumption)) ?_) | (simp +zetaDelta [*, ite_mem]))

@[simp] theorem State.framePopped_mem {s a1 a2 a3} : (State.framePopped s a1 a2 a3).mem = s.mem := rfl

@[simp] theorem State.frameLoad_wf {s a1 a2} (w : Memory.wf s.mem) : Memory.wf (State.frameLoad s a1 a2).mem := by
  unfold State.frameLoad
  extract_lets
  split
  · exact State.trap_wf w
  · rw [State.startLoad_mem]; exact w

@[simp] theorem State.popFrame_wf {s a1} (w : Memory.wf s.mem) : Memory.wf (State.popFrame s a1).mem := by
  unfold State.popFrame
  extract_lets c sp
  split
  · exact State.trap_wf w
  · split
    · exact w
    · split
      · split
        · exact State.frameLoad_wf w
        · rw [State.framePopped_mem]; exact w
      · split
        · rename_i h; exact State.trap_wf (wf_of_mem ((snd_snd_mem_of h).trans State.readFrame_mem) w)
        · rename_i h; rw [State.framePopped_mem]; exact wf_of_mem ((snd_snd_mem_of h).trans State.readFrame_mem) w

@[simp] theorem State.runFp_wf {s a1 a2 a3 a4 a5 a6 a7 a8} (w : Memory.wf s.mem) : Memory.wf (State.runFp s a1 a2 a3 a4 a5 a6 a7 a8).mem := by
  unfold State.runFp
  repeat' (first | (with_reducible assumption) | (with_reducible refine forAll_wf (fun _ _ _ => ?_) ?_) | extract_lets | split | (with_reducible refine State.trap_wf ?_) | (with_reducible refine pitOnly_wf (fun _ _ => ?_) ?_) | (with_reducible refine wf_of_mem (snd_mem_of (by assumption)) ?_) | (with_reducible refine wf_of_mem (snd_snd_mem_of (by assumption)) ?_) | (with_reducible refine wf_of_mem (fst_mem_of (by assumption)) ?_) | (simp +zetaDelta [*, ite_mem]))

@[simp] theorem State.runOrdinary_wf {s a1 a2} (w : Memory.wf s.mem) : Memory.wf (State.runOrdinary s a1 a2).mem := by
  unfold State.runOrdinary
  repeat' (first | (with_reducible assumption) | (with_reducible refine forAll_wf (fun _ _ _ => ?_) ?_) | extract_lets | split | (with_reducible refine State.trap_wf ?_) | (with_reducible refine State.runFp_wf ?_) | (with_reducible refine pitOnly_wf (fun _ _ => ?_) ?_) | (with_reducible refine wf_of_mem (snd_mem_of (by assumption)) ?_) | (with_reducible refine wf_of_mem (snd_snd_mem_of (by assumption)) ?_) | (with_reducible refine wf_of_mem (fst_mem_of (by assumption)) ?_) | (simp +zetaDelta [*, ite_mem]))

@[simp] theorem State.issueLoad_wf {s a1 a2 a3 a4 a5 a6 a7} (w : Memory.wf s.mem) : Memory.wf (State.issueLoad s a1 a2 a3 a4 a5 a6 a7).mem := by
  unfold State.issueLoad
  extract_lets c x l
  clear_value l
  split
  · exact State.trap_wf w
  · split
    · exact State.trap_wf w
    · split
      · exact State.trap_wf w
      · split
        · exact w
        · rw [State.startLoad_mem]; exact w
        · rw [State.pend_mem]; exact w

@[simp] theorem State.loadFault_wf {s a1 a2 a3 a4} (w : Memory.wf s.mem) (w1 : Memory.wf a1.mem) : Memory.wf (State.loadFault s a1 a2 a3 a4).mem := by
  unfold State.loadFault
  repeat' (first | (with_reducible assumption) | (with_reducible refine forAll_wf (fun _ _ _ => ?_) ?_) | extract_lets | split | (with_reducible refine State.enter_wf ?_) | (with_reducible refine pitOnly_wf (fun _ _ => ?_) ?_) | (with_reducible refine wf_of_mem (snd_mem_of (by assumption)) ?_) | (with_reducible refine wf_of_mem (snd_snd_mem_of (by assumption)) ?_) | (with_reducible refine wf_of_mem (fst_mem_of (by assumption)) ?_) | (simp +zetaDelta [*, ite_mem]))

@[simp] theorem State.issueStore_wf {s a1 a2 a3 a4 a5} (w : Memory.wf s.mem) : Memory.wf (State.issueStore s a1 a2 a3 a4 a5).mem := by
  unfold State.issueStore
  extract_lets
  split
  · exact State.trap_wf w
  · split
    · exact State.trap_wf w
    · split
      · exact State.trap_wf w
      · split
        · simpa using w
        · exact w

@[simp] theorem State.cross_wf {s a1 a2 a3} (w : Memory.wf s.mem) : Memory.wf (State.cross s a1 a2 a3).mem := by
  unfold State.cross
  repeat' (first | (with_reducible assumption) | (with_reducible refine forAll_wf (fun _ _ _ => ?_) ?_) | extract_lets | split | (with_reducible refine State.trap_wf ?_) | (with_reducible refine pitOnly_wf (fun _ _ => ?_) ?_) | (with_reducible refine wf_of_mem (snd_mem_of (by assumption)) ?_) | (with_reducible refine wf_of_mem (snd_snd_mem_of (by assumption)) ?_) | (with_reducible refine wf_of_mem (fst_mem_of (by assumption)) ?_) | (simp +zetaDelta [*, ite_mem]))

@[simp] theorem State.crossReturn_wf {s a1 a2} (w : Memory.wf s.mem) : Memory.wf (State.crossReturn s a1 a2).mem := by
  unfold State.crossReturn
  repeat' (first | (with_reducible assumption) | (with_reducible refine forAll_wf (fun _ _ _ => ?_) ?_) | extract_lets | split | (with_reducible refine State.trap_wf ?_) | (with_reducible refine pitOnly_wf (fun _ _ => ?_) ?_) | (with_reducible refine wf_of_mem (snd_mem_of (by assumption)) ?_) | (with_reducible refine wf_of_mem (snd_snd_mem_of (by assumption)) ?_) | (with_reducible refine wf_of_mem (fst_mem_of (by assumption)) ?_) | (simp +zetaDelta [*, ite_mem]))

@[simp] theorem State.sysCall_wf {s a1 a2} (w : Memory.wf s.mem) : Memory.wf (State.sysCall s a1 a2).mem := by
  unfold State.sysCall
  repeat' (first | (with_reducible assumption) | (with_reducible refine forAll_wf (fun _ _ _ => ?_) ?_) | extract_lets | split | (with_reducible refine State.trap_wf ?_) | (with_reducible refine pitOnly_wf (fun _ _ => ?_) ?_) | (with_reducible refine wf_of_mem (snd_mem_of (by assumption)) ?_) | (with_reducible refine wf_of_mem (snd_snd_mem_of (by assumption)) ?_) | (with_reducible refine wf_of_mem (fst_mem_of (by assumption)) ?_) | (simp +zetaDelta [*, ite_mem]))

@[simp] theorem State.sysReturn_wf {s a1 a2} (w : Memory.wf s.mem) : Memory.wf (State.sysReturn s a1 a2).mem := by
  unfold State.sysReturn
  repeat' (first | (with_reducible assumption) | (with_reducible refine forAll_wf (fun _ _ _ => ?_) ?_) | extract_lets | split | (with_reducible refine State.trap_wf ?_) | (with_reducible refine pitOnly_wf (fun _ _ => ?_) ?_) | (with_reducible refine wf_of_mem (snd_mem_of (by assumption)) ?_) | (with_reducible refine wf_of_mem (snd_snd_mem_of (by assumption)) ?_) | (with_reducible refine wf_of_mem (fst_mem_of (by assumption)) ?_) | (simp +zetaDelta [*, ite_mem]))

@[simp] theorem State.quiesceHewer_wf {s a1 a2 a3} (w : Memory.wf s.mem) : Memory.wf (State.quiesceHewer s a1 a2 a3).mem := by
  unfold State.quiesceHewer
  repeat' (first | (with_reducible assumption) | (with_reducible refine forAll_wf (fun _ _ _ => ?_) ?_) | extract_lets | split | (with_reducible refine State.swapBanks_wf ?_) | (with_reducible refine pitOnly_wf (fun _ _ => ?_) ?_) | (with_reducible refine wf_of_mem (snd_mem_of (by assumption)) ?_) | (with_reducible refine wf_of_mem (snd_snd_mem_of (by assumption)) ?_) | (with_reducible refine wf_of_mem (fst_mem_of (by assumption)) ?_) | (simp +zetaDelta [*, ite_mem]))

@[simp] theorem State.beginCp_wf {s a1 a2 a3 a4 a5 a6} (w : Memory.wf s.mem) : Memory.wf (State.beginCp s a1 a2 a3 a4 a5 a6).mem := by
  unfold State.beginCp
  repeat' (first | (with_reducible assumption) | (with_reducible refine forAll_wf (fun _ _ _ => ?_) ?_) | extract_lets | split | (with_reducible refine State.trap_wf ?_) | (with_reducible refine pitOnly_wf (fun _ _ => ?_) ?_) | (with_reducible refine wf_of_mem (snd_mem_of (by assumption)) ?_) | (with_reducible refine wf_of_mem (snd_snd_mem_of (by assumption)) ?_) | (with_reducible refine wf_of_mem (fst_mem_of (by assumption)) ?_) | (simp +zetaDelta [*, ite_mem]))

@[simp] theorem State.coproc_wf {s a1 a2} (w : Memory.wf s.mem) : Memory.wf (State.coproc s a1 a2).mem := by
  unfold State.coproc
  repeat' (first | (with_reducible assumption) | (with_reducible refine forAll_wf (fun _ _ _ => ?_) ?_) | extract_lets | split | (with_reducible refine State.beginCp_wf ?_) | (with_reducible refine wf_of_mem (State.nextInstr_mem (by assumption)) ?_) | (with_reducible refine pitOnly_wf (fun _ _ => ?_) ?_) | (with_reducible refine wf_of_mem (snd_mem_of (by assumption)) ?_) | (with_reducible refine wf_of_mem (snd_snd_mem_of (by assumption)) ?_) | (with_reducible refine wf_of_mem (fst_mem_of (by assumption)) ?_) | (simp +zetaDelta [*, ite_mem]))

@[simp] theorem State.fillAll_wf {s} (w : Memory.wf s.mem) : Memory.wf (State.fillAll s).mem := by
  unfold State.fillAll
  repeat' (first | (with_reducible assumption) | (with_reducible refine forAll_wf (fun _ _ _ => ?_) ?_) | extract_lets | split | (with_reducible refine pitOnly_wf (fun _ _ => ?_) ?_) | (with_reducible refine wf_of_mem (snd_mem_of (by assumption)) ?_) | (with_reducible refine wf_of_mem (snd_snd_mem_of (by assumption)) ?_) | (with_reducible refine wf_of_mem (fst_mem_of (by assumption)) ?_) | (simp +zetaDelta [*, ite_mem]))

@[simp] theorem State.loadSection_wf {s a1 a2} (w : Memory.wf s.mem) : Memory.wf (State.loadSection s a1 a2).mem := by
  unfold State.loadSection
  repeat' (first | (with_reducible assumption) | (with_reducible refine forAll_wf (fun _ _ _ => ?_) ?_) | extract_lets | split | (with_reducible refine writeBytes_wf ?_) | (with_reducible refine pitOnly_wf (fun _ _ => ?_) ?_) | (with_reducible refine wf_of_mem (snd_mem_of (by assumption)) ?_) | (with_reducible refine wf_of_mem (snd_snd_mem_of (by assumption)) ?_) | (with_reducible refine wf_of_mem (fst_mem_of (by assumption)) ?_) | (simp +zetaDelta [*, ite_mem]))

theorem State.applyAt_wf {s a k v} (w : Memory.wf s.mem) : Memory.wf (State.applyAt s a k v).mem := by
  unfold State.applyAt
  split
  · exact w
  · split
    · simpa using w
    · split
      · refine wf_of_mem (wordWrite_mem fun v t => ?_) w
        dsimp only [okWr]
        split <;> simp
      · exact deviceWrite_wf w

theorem State.applyLocal_wf {s a1 a2} (w : Memory.wf s.mem) : Memory.wf (State.applyLocal s a1 a2).mem := by
  unfold State.applyLocal
  split
  · exact w
  · split
    · exact State.applyAt_wf w
    · exact w

@[simp] theorem State.applySetting_wf {s a1 a2} (w : Memory.wf s.mem) : Memory.wf (State.applySetting s a1 a2).mem := by
  unfold State.applySetting
  split
  · exact State.applyLocal_wf w
  · exact State.applyAt_wf w

@[simp] theorem State.applySettings_wf {s a1} (w : Memory.wf s.mem) : Memory.wf (State.applySettings s a1).mem := by
  unfold State.applySettings
  repeat' (first | (with_reducible assumption) | (with_reducible refine forAll_wf (fun _ _ _ => ?_) ?_) | extract_lets | split | (with_reducible refine State.applySetting_wf ?_) | (with_reducible refine pitOnly_wf (fun _ _ => ?_) ?_) | (with_reducible refine wf_of_mem (snd_mem_of (by assumption)) ?_) | (with_reducible refine wf_of_mem (snd_snd_mem_of (by assumption)) ?_) | (with_reducible refine wf_of_mem (fst_mem_of (by assumption)) ?_) | (simp +zetaDelta [*, ite_mem]))

@[simp] theorem State.loadSections_wf {cws hdr l s} (w : Memory.wf s.mem) : Memory.wf (State.loadSections cws hdr l s).2.mem := by
  induction l generalizing s with
  | nil => exact w
  | cons x l ih =>
    unfold State.loadSections
    extract_lets
    split
    · exact ih (State.loadSection_wf w)
    · exact State.loadSection_wf w

@[simp] theorem State.loadSlot_wf {s a1 a2} (w : Memory.wf s.mem) : Memory.wf (State.loadSlot s a1 a2).2.mem := by
  unfold State.loadSlot
  extract_lets hdr img
  have r := State.loadSections_wf (cws := a2) (hdr := hdr) (l := imgTable img) w
  clear_value img
  split
  · rename_i h; rw [h] at r; exact r
  · rename_i h
    rw [h] at r
    split
    · exact r
    · split
      · exact r
      · extract_lets
        split
        · exact State.applySettings_wf r
        · exact State.applySettings_wf r

@[simp] theorem State.fallBack_wf {s} (w : Memory.wf s.mem) : Memory.wf (State.fallBack s).mem := by
  unfold State.fallBack
  repeat' (first | (with_reducible assumption) | (with_reducible refine forAll_wf (fun _ _ _ => ?_) ?_) | extract_lets | split | (with_reducible refine State.fillAll_wf ?_) | (with_reducible refine pitOnly_wf (fun _ _ => ?_) ?_) | (with_reducible refine wf_of_mem (snd_mem_of (by assumption)) ?_) | (with_reducible refine wf_of_mem (snd_snd_mem_of (by assumption)) ?_) | (with_reducible refine wf_of_mem (fst_mem_of (by assumption)) ?_) | (simp +zetaDelta [*, ite_mem]))

theorem copyUp_wf {α : Type} [DecidableEq α] {d : α} {b n : Nat} {m : AMap α} (w : AMap.wf d m = true) : AMap.wf d (copyUp b n m) = true := by
  rw [AMap.wf_iff] at w ⊢
  obtain ⟨hd, hp⟩ := w
  refine ⟨?_, ?_⟩
  · intro e he
    simp only [copyUp, List.mem_append, List.mem_map, List.mem_filter, decide_eq_true_eq] at he
    rcases he with (⟨h, -⟩ | ⟨x, ⟨h, -⟩, rfl⟩) | ⟨h, -⟩ <;> first | exact hd _ h | exact hd x h
  · simp only [copyUp, List.pairwise_append, List.pairwise_map]
    have f := fun p => hp.filter (p := p)
    refine ⟨⟨f _, ?_, ?_⟩, f _, ?_⟩
    · exact (f _).imp (by intro x y h; omega)
    · simp only [List.mem_map, List.mem_filter, decide_eq_true_eq]
      rintro x ⟨-, h⟩ y ⟨z, ⟨-, h'⟩, rfl⟩
      omega
    · simp only [List.mem_append, List.mem_map, List.mem_filter, decide_eq_true_eq]
      rintro x (⟨-, h⟩ | ⟨z, ⟨-, h⟩, rfl⟩) y ⟨-, h'⟩ <;> (try simp only) <;> omega

@[simp] theorem State.copyDeputy_wf {s : State} (w : Memory.wf s.mem) : Memory.wf s.copyDeputy.mem := by
  unfold State.copyDeputy
  refine forAll_wf (fun s x w => ?_) (copyUp_wf w)
  have h := State.deliverMem_mem (s := s) (a1 := x.1)
  split <;> rename_i e <;> rw [e] at h
  · rw [State.setEcc_mem]; exact State.setWord_wf (wf_of_mem h w)
  · exact wf_of_mem h w

theorem advance_wf {dt} {s : State} (w : Memory.wf s.mem) : Memory.wf (s.advance dt).mem := by simpa using w

theorem runMem_wf {dt s f t} (w : Memory.wf s.mem) (hf : ∀ s, Memory.wf s.mem → Memory.wf (f s).mem) (h : runMem dt s f = .next t) : Memory.wf t.mem := by
  cases h; exact hf _ (advance_wf w)

theorem run_wf {dt s f t} (w : Memory.wf s.mem) (h : run dt s f = .next t) : Memory.wf t.mem := by
  cases h; exact w

theorem runMemE_wf {dt s f t} (w : Memory.wf s.mem) (hf : ∀ s t, Memory.wf s.mem → f s = .ok t → Memory.wf t.mem) (h : runMemE dt s f = .next t) : Memory.wf t.mem := by
  unfold runMemE at h
  split at h
  · rename_i u h'; cases h; exact hf _ u (advance_wf w) h'
  · cases h

theorem runE_wf {dt s f t} (w : Memory.wf s.mem) (h : runE dt s f = .next t) : Memory.wf t.mem := by
  refine runMemE_wf w (f := fun t => match f t with | .ok u => .ok (u.memoryOf s) | .error e => .error e) ?_ h
  intro a b _ h
  revert h
  cases f a with
  | ok u => intro h; cases h; exact w
  | error e => intro h; cases h

theorem runChan_wf {dt s a k f t} (w : Memory.wf s.mem) (h : runChan dt s a k f = .next t) : Memory.wf t.mem := runE_wf w h

theorem State.drainStore_wf {s : State} {p b t} (h : s.drainStore p b = .ok t) (w : Memory.wf s.mem) : Memory.wf t.mem := by
  unfold State.drainStore at h
  dsimp only at h
  repeat' split at h
  all_goals (first | cases h)
  all_goals first | (rename_i hb; simpa using State.busWrite_wf hb w)| simp [*] | skip

theorem State.busWriteWords_wf {a ws x} {s : State} {r} (h : State.busWriteWords a ws x s = .ok r) (w : Memory.wf s.mem) : Memory.wf r.1.mem := by
  induction ws generalizing x s with
  | nil => cases h; exact w
  | cons v ws ih =>
    unfold State.busWriteWords at h
    split at h
    · split at h
      · rename_i hb; exact ih h (State.busWrite_wf hb w)
      · exact State.busWrite_wf h w
    · cases h; exact w

theorem State.macWrite_wf {m n bs x} {s : State} {r} (h : State.macWrite m n bs x s = .ok r) (w : Memory.wf s.mem) : Memory.wf r.1.mem := by
  induction n generalizing bs x s with
  | zero => cases h; exact w
  | succ v ih =>
    cases bs with
    | nil => cases h; exact w
    | cons b bs =>
      rw [State.macWrite] at h
      · split at h
        · split at h
          · rename_i hb; exact ih h (State.busWrite_wf hb w)
          · exact State.busWrite_wf h w
        · cases h; exact w
      · nofun

theorem State.dmaWrite_wf {c l bs} {s : State} {r} (h : State.dmaWrite c l bs s = .ok r) (w : Memory.wf s.mem) : Memory.wf r.2.2.mem := by
  induction l generalizing bs s with
  | nil => cases h; exact w
  | cons v ws ih =>
    unfold State.dmaWrite at h
    split at h
    · split at h
      · rename_i hb; exact ih h (State.busWrite_wf hb w)
      · rename_i hb; cases h; exact State.busWrite_wf hb w
      · cases h
    · cases h; exact w

@[simp] theorem State.descDone_mem {s a1 a2 a3} : (State.descDone s a1 a2 a3).mem = s.mem := by
  unfold State.descDone
  dsimp only
  split <;> simp

theorem State.finishDesc_wf {s : State} {m rx q d len time err t} (h : s.finishDesc m rx q d len time err = .ok t) (w : Memory.wf s.mem) : Memory.wf t.mem := by
  unfold State.finishDesc at h
  extract_lets w1 at h
  split at h
  · cases h
  · rename_i h1
    split at h
    · cases h
    · rename_i h2
      cases h
      rw [State.descDone_mem]
      exact State.busWriteWords_wf h2 (State.busWriteWords_wf h1 w)

theorem State.receiveFrame_wf {s : State} {u f act} (h : ∀ s, Memory.wf s.mem → Memory.wf (act s).mem) (w : Memory.wf s.mem) : Memory.wf (s.receiveFrame u f act).mem := by
  unfold State.receiveFrame
  split
  rename_i h'
  have := wf_of_mem ((snd_mem_of h').trans State.arrive_mem) w
  split
  · exact h _ this
  · exact this

theorem onInstr_wf {dt p s act t} (w : Memory.wf s.mem) (ha : ∀ s x t, Memory.wf s.mem → act s x = some t → Memory.wf t.mem) (h : onInstr dt p s act = .next t) : Memory.wf t.mem := by
  refine runMem_wf w (fun s w => ?_) h
  split
  · rename_i h'
    exact wf_getD (fun t => ha _ _ t (wf_of_mem (State.nextInstr_mem h') w)) w
  · exact w

end Sys2Proof.Machine
end

