-- ==== Sys2Proof/Laws/Errors.lean ====
section
/-! SUPPORT. What the delivery of a word with an error can change: the counts and flags of memory integrity, what Tally holds, and where
the report is one of the class SAFETY, the mode and the bridges' causes; no engine and no other register. -/

namespace Sys2Proof.Machine

open Sys2Proof Sys2Proof.Safety

/-- A step of the machine that leaves every engine, and every register but those of `p`. -/
def Within (p : Nat → Prop) (s t : State) : Prop := (∀ j, t.eng j = s.eng j) ∧ RegsBut p s t

theorem Within.refl {p : Nat → Prop} (s : State) : Within p s s := ⟨fun _ => rfl, fun _ _ => rfl⟩
theorem Within.trans {p : Nat → Prop} {s t u : State} (h : Within p s t) (g : Within p t u) : Within p s u :=
  ⟨fun j => (g.1 j).trans (h.1 j), fun k hk => (g.2 k hk).trans (h.2 k hk)⟩
theorem Within.mono {p q : Nat → Prop} {s t : State} (h : Within p s t) (hp : ∀ k, p k → q k) : Within q s t :=
  ⟨h.1, fun k hk => h.2 k (fun x => hk (hp k x))⟩
theorem Within.forAll {α : Type} {p : Nat → Prop} {f : State → α → State} (l : List α)
    (h : ∀ s x, x ∈ l → Within p s (f s x)) (s : State) : Within p s (forAll l s f) := by
  induction l generalizing s with
  | nil => exact .refl s
  | cons x l ih => exact (h s x (by simp)).trans (ih (fun s y hy => h s y (by simp [hy])) _)

theorem ne_of (p : Nat → Prop) {k i : Nat} (h : p k) (hi : ¬ p i) : i ≠ k := fun x => hi (by rw [x]; exact h)

theorem raise_within {p : Nat → Prop} (s : State) (k : Nat) (f : Fld) (h : p k) : Within p s (s.raise k f) :=
  ⟨fun j => s.raise_eng k f j, fun i hi => by rw [State.raise_reg, if_neg (ne_of p h hi)]⟩
theorem raiseIf_within {p : Nat → Prop} (s : State) (c : Bool) (k : Nat) (f : Fld) (h : p k) : Within p s (s.raiseIf c k f) := by
  unfold State.raiseIf
  split
  · exact raise_within s k f h
  · exact .refl s
theorem setF_within {p : Nat → Prop} (s : State) (k : Nat) (f : Fld) (v : Nat) (h : p k) : Within p s (s.setF k f v) :=
  ⟨fun j => s.setF_eng k f v j, fun i hi => by rw [State.setF_reg, if_neg (ne_of p h hi)]⟩
theorem count_within {p : Nat → Prop} (s : State) (k : Nat) (f : Fld) (h : p k) : Within p s (s.count k f) := setF_within s k f _ h
theorem setReg_within {p : Nat → Prop} (s : State) (k : Nat) (w : Word) (h : p k) : Within p s (s.setReg k w) :=
  ⟨fun j => s.setReg_eng k w j, fun i hi => by rw [State.setReg_reg, if_neg (ne_of p h hi)]⟩

/-- A report that goes no further than Tally. -/
theorem enqueue_within {p : Nat → Prop} (s : State) (src code cls : Nat) (d : Word) (h : ∀ k, TallyReg k → p k) (hs : src < 512) :
    Within p s (s.enqueue src code cls d) :=
  ⟨fun j => s.enqueue_eng src code cls d j, fun k hk => s.enqueue_reg src code cls d k (fun x => hk (h k (.inl x)))
    (fun x => hk (h k (.inr ⟨src / 4, by omega, x⟩)))⟩

/-- Bringing a channel in line changes its own outputs and at most SUPP of it. -/
theorem refreshAt_within {p : Nat → Prop} (s : State) (n : Nat) (t : Time) (h : p (R.CH_PROT_STAT n)) : Within p s (s.refreshAt n t) := by
  unfold State.refreshAt
  extract_lets r
  split
  · unfold State.applyPattern
    split
    dsimp only
    split <;> exact .refl _
  · split
    · unfold State.holdOff
      extract_lets c pend c1 s1
      split
      · exact .refl _
      · exact Within.trans (t := s1) (.refl _) (raiseIf_within _ _ _ _ h)
    · split <;> exact .refl _

theorem setCause_within {p : Nat → Prop} (s : State) (l : Nat) (f : Fld) (h : p (R.BR_SAFE_STAT l)) : Within p s (s.setCause l f) :=
  setReg_within s _ _ h
theorem setChan_within {p : Nat → Prop} (s : State) (n : Nat) (c : Channel) : Within p s (s.setChan n c) := ⟨fun _ => rfl, fun _ _ => rfl⟩

/-- Every bridge takes the MODE cause. -/
theorem allModeCause_within (s : State) : Within ModeReg s s.allModeCause := by
  unfold State.allModeCause
  extract_lets s1
  have h1 : Within ModeReg s s1 := by
    refine Within.forAll _ (fun s l hl => ?_) s
    have hl : l < 128 := List.mem_range.mp (List.mem_filter.mp hl).1
    exact (setCause_within s l _ (.inr (.inr (.inl ⟨l, hl, .inl rfl⟩)))).trans (setChan_within _ _ _)
  refine h1.trans (Within.forAll _ (fun s n hn => refreshAt_within s n _ ?_) s1)
  exact .inr (.inr (.inl ⟨n, List.mem_range.mp hn, .inr rfl⟩))

theorem setMode_within (s : State) (m : Nat) : Within ModeReg s (s.setMode m) := by
  unfold State.setMode
  extract_lets old s1
  split
  · exact .refl s
  · exact (setF_within s _ _ _ (.inl rfl)).trans (enqueue_within _ _ _ _ _ (fun k h => .inr (.inr (.inr h))) (by omega))

/-- What a HOLD trigger can change (R332, R334). -/
theorem holdTrigger_within (s : State) (bit : Nat) : Within ModeReg s (s.holdTrigger bit) := by
  unfold State.holdTrigger
  extract_lets m s1
  have h1 : Within ModeReg s s1 := setF_within s _ _ _ (.inl rfl)
  refine h1.trans ?_
  split
  · exact Within.trans (t := { s1 with md := { s1.md with holdInLoad := true } }) (.refl _) (allModeCause_within _)
  · split
    · exact ((setF_within s1 _ _ _ (.inl rfl)).trans (setMode_within _ _)).trans (allModeCause_within _)
    · exact .refl _

/-- What a report can change (R288, R293, R334). -/
theorem report_within (s : State) (src code cls : Nat) (d : Word) (hs : src < 512) : Within ErrorReg s (s.report src code cls d) := by
  have hT : ∀ k, TallyReg k → ErrorReg k := fun k h => .inr (.inr (.inr (.inr (.inr (.inr (.inr (.inr h)))))))
  have hM : ∀ k, ModeReg k → ErrorReg k := fun k h => .inr (.inr (.inr (.inr (.inr h))))
  unfold State.report
  split
  · extract_lets g was s1 s2 s3
    have h1 : Within ErrorReg s s1 := ⟨fun j => s.raiseBits_eng _ _ j, fun k hk => by
      rw [State.raiseBits_reg, if_neg (fun x => hk (.inr (.inr (.inr (.inr (.inl x))))))]⟩
    have h2 : Within ErrorReg s1 s2 := by
      simp only [s2]
      unfold State.fireGev
      split <;> exact .refl _
    have h3 : Within ErrorReg s2 s3 := enqueue_within _ _ _ _ _ hT hs
    have h := (h1.trans h2).trans h3
    split
    · exact h.trans ((holdTrigger_within _ _).mono hM)
    · exact h
  · exact enqueue_within _ _ _ _ _ hT hs

theorem region_lt {a r : Nat} (h : regionOf a = some r) : r < 20 := by
  revert h
  unfold regionOf
  repeat' split
  all_goals (intro h; simp at h; try omega)

/-- What the delivery of a codeword can change (R276, R278). -/
theorem deliverCode_within (s : State) (a : Nat) (w : Word) (m : BitVec 39) : Within ErrorReg s (s.deliverCode a w m).2.2 := by
  unfold State.deliverCode
  split
  · exact .refl s
  · rename_i r _ h
    have hr := region_lt h
    exact ((count_within s _ _ (.inl ⟨r, hr, rfl⟩)).trans (raise_within _ _ _ (.inr (.inl rfl)))).trans
      (report_within _ _ _ _ _ (by omega))
  · rename_i r _ h
    have hr := region_lt h
    exact ((((count_within s _ _ (.inl ⟨r, hr, rfl⟩)).trans (raise_within _ _ _ (.inr (.inl rfl)))).trans
      (setReg_within _ _ _ (.inr (.inr (.inl rfl))))).trans (setReg_within _ _ _ (.inr (.inr (.inr (.inl rfl)))))).trans
      (report_within _ _ _ _ _ (by omega))
  · exact .refl s

end Sys2Proof.Machine
end

