-- ==== Sys2Proof/Laws/Loop.lean ====
section
/-! SUPPORT. Loop engines: what the end of a run, the move to the next step and the flags of LE_STAT leave alone. -/

namespace Sys2Proof.Machine

open Sys2Proof Sys2Proof.Safety

theorem State.updEng_eng (s : State) (k : Nat) (f : Engine → Engine) (j : Nat) :
    (s.updEng k f).eng j = if j = k then f (s.eng k) else s.eng j := by
  rw [State.updEng_eq, State.setEng_eng]

@[simp] theorem State.updEng_reg (s : State) (k : Nat) (f : Engine → Engine) (j : Nat) : (s.updEng k f).reg j = s.reg j := (rfl)
@[simp] theorem State.updSprOf_reg (s : State) (k : Nat) (f : HandOver → HandOver) (j : Nat) :
    (s.updSprOf k f).reg j = s.reg j := (rfl)
@[simp] theorem State.updSprOf_eng (s : State) (k : Nat) (f : HandOver → HandOver) (j : Nat) :
    (s.updSprOf k f).eng j = s.eng j := (rfl)
@[simp] theorem State.fireFace_reg (s : State) (f p : Nat) (i : Time) (b : Bool) (j : Nat) : (s.fireFace f p i b).reg j = s.reg j := (rfl)
@[simp] theorem State.fireFace_eng (s : State) (f p : Nat) (i : Time) (b : Bool) (j : Nat) : (s.fireFace f p i b).eng j = s.eng j := (rfl)

@[simp] theorem State.leRaise_eng (s : State) (e : Nat) (f : Fld) (j : Nat) : (s.leRaise e f).eng j = s.eng j := by
  unfold State.leRaise; split <;> simp
@[simp] theorem State.leRaiseIf_eng (s : State) (c : Bool) (e : Nat) (f : Fld) (j : Nat) :
    (s.leRaiseIf c e f).eng j = s.eng j := by
  unfold State.leRaiseIf; split <;> simp

/-- LE_STAT of its channel is the one register a flag of an engine changes. -/
theorem State.leRaise_reg (s : State) (e : Nat) (f : Fld) (j : Nat) (h : j ≠ R.LE_STAT (s.engChan e)) :
    (s.leRaise e f).reg j = s.reg j := by
  unfold State.leRaise; split
  · rw [State.raise_reg, if_neg h]
  · rfl
theorem State.leRaiseIf_reg (s : State) (c : Bool) (e : Nat) (f : Fld) (j : Nat) (h : j ≠ R.LE_STAT (s.engChan e)) :
    (s.leRaiseIf c e f).reg j = s.reg j := by
  unfold State.leRaiseIf; split
  · exact s.leRaise_reg e f j h
  · rfl

/-- Two engines hold the same working registers and ACC. -/
def Engine.sameWork (a b : Engine) : Prop := a.w = b.w ∧ a.acc = b.acc

/-- Comparing the outputs of a shared run leaves every engine but for the outputs it holds. -/
theorem State.compareOuts_eng (s : State) (n j : Nat) :
    ((s.compareOuts n).eng j).sameWork (s.eng j) ∧ ((s.compareOuts n).eng j).run = (s.eng j).run := by
  unfold State.compareOuts
  extract_lets f x s1 k s2 s3 s4
  split
  · have h1 : ∀ i, (s1.eng i).sameWork (s.eng i) ∧ (s1.eng i).run = (s.eng i).run := by
      intro i
      simp only [s1, State.updEng_eng]
      split <;> (try split) <;> simp_all [Engine.sameWork]
    split
    · exact h1 j
    · have : s4.eng j = s1.eng j := by simp [s4, s3, s2]
      rw [State.updSprOf_eng, this]; exact h1 j
  · simp [Engine.sameWork]

/-- The registers that comparing the outputs of a shared run may change. -/
theorem State.compareOuts_reg (s : State) (n j : Nat) (h1 : j ≠ R.FACE_SPR_STAT (n / 16)) (h2 : j ≠ R.TALLY_STAT)
    (h3 : j ≠ R.TALLY_OVF ((0x80 + n / 16) / 4)) : (s.compareOuts n).reg j = s.reg j := by
  unfold State.compareOuts
  extract_lets f x s1 k s2 s3 s4
  split
  · split
    · rfl
    · rw [State.updSprOf_reg, State.info_reg _ _ _ _ _ h2 h3, State.raise_reg, if_neg h1, State.count_reg, if_neg h1]
      rfl
  · rfl

/-- Writing the engine-state words with new check bits changes no register and no engine. -/
@[simp] theorem State.putMasks_reg (s : State) (e : Nat) (l : List (Nat × BitVec 39)) (j : Nat) : (s.putMasks e l).reg j = s.reg j :=
  forAll_same (g := fun s : State => s.reg j) (fun s _ => State.setEcc_reg s _ _ j) _ s
@[simp] theorem State.putMasks_eng (s : State) (e : Nat) (l : List (Nat × BitVec 39)) (j : Nat) : (s.putMasks e l).eng j = s.eng j :=
  forAll_same (g := fun s : State => s.eng j) (fun s _ => State.setEcc_eng s _ _ j) _ s
@[simp] theorem State.cleanEngine_reg (s : State) (e j : Nat) : (s.cleanEngine e).reg j = s.reg j := State.putMasks_reg s e _ j
@[simp] theorem State.cleanEngine_eng (s : State) (e j : Nat) : (s.cleanEngine e).eng j = s.eng j := State.putMasks_eng s e _ j

/-- Reading an engine-state word without errors changes nothing. -/
theorem State.readWork_clean (s : State) (e o : Nat) (h : s.eccMask (engineKey e o) = 0) : s.readWork e o = s := by
  unfold State.readWork
  simp [h]

/-- The end of a run, while no write and no hand-over waits for it: the run is over and the engine keeps its registers. -/
theorem State.endRun_eng (s : State) (e : Nat) (hw : (s.eng e).waiting = []) (hl : (s.eng e).loadAtEnd = false) (j : Nat) :
    ((s.endRun e).eng j).sameWork (s.eng j) ∧ ((s.endRun e).eng j).run = if j = e then none else (s.eng j).run := by
  unfold State.endRun
  extract_lets n q eff p
  split
  · rename_i h
    refine ⟨⟨rfl, rfl⟩, ?_⟩
    split
    · subst j; exact h
    · rfl
  · rename_i r h
    extract_lets q' done s1 s2 s3
    have hd : done.w = (s.eng e).w ∧ done.acc = (s.eng e).acc ∧ done.run = none := by
      simp only [done, q', q, hw, List.foldl_nil, and_self]
    have h1 : ∀ i, (s1.eng i).sameWork (s.eng i) ∧ (s1.eng i).run = if i = e then none else (s.eng i).run := by
      intro i
      simp only [s1, State.setEng_eng]
      split
      · subst i; exact ⟨⟨hd.1, hd.2.1⟩, hd.2.2⟩
      · rw [State.putMasks_eng]; exact ⟨⟨rfl, rfl⟩, rfl⟩
    have h2 : s2 = s1 := by simp only [s2, q, hl]; rfl
    have h3 : ∀ i, s3.eng i = s1.eng i := by
      intro i
      simp only [s3, h2]
      split <;> simp
    obtain ⟨⟨a, b⟩, c⟩ := s3.compareOuts_eng n j
    obtain ⟨⟨a', b'⟩, c'⟩ := h1 j
    rw [h3] at a b c
    exact ⟨⟨a.trans a', b.trans b'⟩, c.trans c'⟩

/-- The registers the end of a run may change. -/
theorem State.endRun_reg (s : State) (e : Nat) (j : Nat) (h0 : j ≠ R.LE_STAT (s.engChan e))
    (h1 : j ≠ R.FACE_SPR_STAT (s.engChan e / 16)) (h2 : j ≠ R.TALLY_STAT)
    (h3 : j ≠ R.TALLY_OVF ((0x80 + s.engChan e / 16) / 4)) (hl : (s.eng e).loadAtEnd = false) :
    (s.endRun e).reg j = s.reg j := by
  unfold State.endRun
  extract_lets n q eff p
  split
  · rfl
  · extract_lets q' done s1 s2 s3
    have e1 : s2.reg j = s.reg j := by
      simp only [s2, q, hl]; exact State.putMasks_reg _ _ _ _
    have e2 : s3.reg j = s2.reg j := by
      simp only [s3]; split
      · rw [State.fireFace_reg, State.countMod_reg, if_neg h0]
      · rfl
    rw [State.compareOuts_reg _ _ _ h1 h2 h3, e2, e1]

/-- The registers in which an error delivered to an engine shows are none of those that name its channel. -/
theorem sprStat_not_error {f : Nat} (h : f < 8) : ¬ ErrorReg (R.FACE_SPR_STAT f) := by
  unfold ErrorReg ModeReg TallyReg R.FACE_SPR_STAT R.MI_ERR_CNT R.MI_STAT R.MI_UE_LO R.MI_UE_HI R.TALLY_SAFE R.MODE_STAT R.MODE_REL
    R.BR_SAFE_STAT R.CH_PROT_STAT R.TALLY_STAT R.TALLY_OVF chBase faceBase
  omega

/-- The read of the step an engine stands at delivers its two words. -/
def State.stepRead (s : State) (e : Nat) (r : Run) : State :=
  let a := stepAddr (s.engChan e) r.pc
  if r.cleanAt r.pc then s else
    forAll [0, 1] s (fun s h => (s.deliverCode (a h) (r.stepWord r.pc h) (r.stepMask r.pc h)).2.2)

theorem State.stepRead_within (s : State) (e : Nat) (r : Run) : Within (fun k => r.cleanAt r.pc = false ∧ ErrorReg k) s (s.stepRead e r) := by
  unfold State.stepRead
  dsimp only
  split
  · exact .refl s
  · rename_i h
    exact Within.forAll _ (fun s i _ => (deliverCode_within s _ _ _).mono fun k hk => ⟨by simpa using h, hk⟩) s

theorem State.checkBad_eq (s : State) (e : Nat) {r : Run} (h : (s.eng e).run = some r) :
    s.checkBad e = if r.badAt r.pc = true then ((s.stepRead e r).leRaise e LE_STAT.MEMERR).endRun e else s.stepRead e r := by
  unfold State.checkBad
  rw [h]; rfl

theorem State.stepRead_engChan (s : State) (e : Nat) (r : Run) (he : e < 136) : (s.stepRead e r).engChan e = s.engChan e := by
  unfold State.engChan
  split
  · rfl
  · rw [State.fld_def, State.fld_def, (s.stepRead_within e r).2 _ (fun x => sprStat_not_error (by omega) x.2)]

/-- The run after a move by `k` steps: it stands there, or it is over after step 31 or before an unreadable step. -/
def Run.moved (r : Run) (k : Nat) : Option Run :=
  if r.pc + k ≤ 31 ∧ r.badAt (r.pc + k) = false then some { r with pc := r.pc + k } else none

/-- The move to the next step, while no write and no hand-over waits for the end of the run: every engine keeps its registers. -/
theorem State.nextStep_eng (s : State) (e k : Nat) {r : Run} (h : (s.eng e).run = some r) (hw : (s.eng e).waiting = [])
    (hl : (s.eng e).loadAtEnd = false) (j : Nat) :
    ((s.nextStep e k).eng j).sameWork (s.eng j) ∧
    ((s.nextStep e k).eng j).run = if j = e then r.moved k else (s.eng j).run := by
  unfold State.nextStep
  rw [h]
  dsimp only
  split
  · rename_i hk
    have h1 : ∀ i, (s.updEng e (fun q => { q with run := some { r with pc := r.pc + k } })).eng i =
        if i = e then { s.eng e with run := some { r with pc := r.pc + k } } else s.eng i := fun i => State.updEng_eng _ _ _ _
    generalize s.updEng e (fun q => { q with run := some { r with pc := r.pc + k } }) = s1 at *
    have hr : (s1.eng e).run = some { r with pc := r.pc + k } := by rw [h1, if_pos rfl]
    rw [State.checkBad_eq s1 e hr]
    have h2 := (s1.stepRead_within e { r with pc := r.pc + k }).1
    generalize s1.stepRead e { r with pc := r.pc + k } = s2 at *
    have hb : Run.badAt { r with pc := r.pc + k } (r.pc + k) = r.badAt (r.pc + k) := rfl
    split
    · rename_i h3
      have h3 : r.badAt (r.pc + k) = true := h3
      have := State.endRun_eng (s2.leRaise e LE_STAT.MEMERR) e (by rw [State.leRaise_eng, h2, h1, if_pos rfl]; exact hw)
        (by rw [State.leRaise_eng, h2, h1, if_pos rfl]; exact hl) j
      simp only [State.leRaise_eng, h2, h1] at this
      refine ⟨?_, this.2.trans ?_⟩
      · refine ⟨this.1.1.trans ?_, this.1.2.trans ?_⟩ <;> (split <;> simp_all)
      · split
        · simp [Run.moved, h3]
        · rfl
    · rename_i h3
      have h3 : r.badAt (r.pc + k) = false := Bool.not_eq_true _ ▸ h3
      simp only [h2, h1]
      constructor
      · split <;> simp_all [Engine.sameWork]
      · split
        · simp [Run.moved, h3, hk]
        · rfl
  · rename_i hk
    obtain ⟨a, b⟩ := s.endRun_eng e hw hl j
    refine ⟨a, b.trans ?_⟩
    simp [Run.moved, hk]

/-- The registers the move to the next step may change. -/
theorem State.nextStep_reg (s : State) (e k : Nat) {r : Run} (h : (s.eng e).run = some r) (he : e < 136) (j : Nat)
    (h0 : j ≠ R.LE_STAT (s.engChan e)) (h1 : j ≠ R.FACE_SPR_STAT (s.engChan e / 16)) (h2 : j ≠ R.TALLY_STAT)
    (h3 : j ≠ R.TALLY_OVF ((0x80 + s.engChan e / 16) / 4)) (h4 : R.LE_STAT (s.engChan e) ≠ R.FACE_SPR_STAT (e - 128))
    (h5 : r.cleanAt (r.pc + k) = false → ¬ ErrorReg j) (hl : (s.eng e).loadAtEnd = false) : (s.nextStep e k).reg j = s.reg j := by
  unfold State.nextStep
  rw [h]
  dsimp only
  split
  · have e1 : ∀ i, (s.updEng e (fun q => { q with run := some { r with pc := r.pc + k } })).reg i = s.reg i := fun _ => rfl
    have e2 : (s.updEng e (fun q => { q with run := some { r with pc := r.pc + k } })).engChan e = s.engChan e := rfl
    have hr : ((s.updEng e (fun q => { q with run := some { r with pc := r.pc + k } })).eng e).run = some { r with pc := r.pc + k } := by
      rw [State.updEng_eng, if_pos rfl]
    have hl1 : ((s.updEng e (fun q => { q with run := some { r with pc := r.pc + k } })).eng e).loadAtEnd = false := by
      rw [State.updEng_eng, if_pos rfl]; exact hl
    generalize s.updEng e (fun q => { q with run := some { r with pc := r.pc + k } }) = s1 at *
    rw [State.checkBad_eq s1 e hr]
    have hl2 := (s1.stepRead_within e { r with pc := r.pc + k }).1 e
    have e3 := (s1.stepRead_within e { r with pc := r.pc + k }).2 j (fun x => h5 x.1 x.2)
    have e4 := (s1.stepRead_engChan e { r with pc := r.pc + k } he).trans e2
    generalize s1.stepRead e { r with pc := r.pc + k } = s2 at *
    split
    · have e5 : (s2.leRaise e LE_STAT.MEMERR).engChan e = s.engChan e := by
        rw [← e4]
        unfold State.engChan
        split
        · rfl
        · rw [State.fld_def, State.fld_def, State.leRaise_reg _ _ _ _ (by rw [e4]; exact fun x => h4 x.symm)]
      rw [State.endRun_reg _ _ _ (by rw [e5]; exact h0) (by rw [e5]; exact h1) h2 (by rw [e5]; exact h3)
          (by rw [State.leRaise_eng, hl2]; exact hl1),
        State.leRaise_reg _ _ _ _ (by rw [e4]; exact h0), e3, e1]
    · rw [e3, e1]
  · exact s.endRun_reg e j h0 h1 h2 h3 hl

/-- A run that goes on to a step free of errors only moves its program counter. -/
theorem State.nextStep_go (s : State) (e k : Nat) {r : Run} (h : (s.eng e).run = some r) (h1 : r.pc + k ≤ 31)
    (h2 : r.badAt (r.pc + k) = false) (h3 : r.cleanAt (r.pc + k) = true) :
    s.nextStep e k = s.updEng e (fun q => { q with run := some { r with pc := r.pc + k } }) := by
  unfold State.nextStep
  rw [h]
  dsimp only
  rw [if_pos h1, State.checkBad_eq _ _ (r := { r with pc := r.pc + k }) (by rw [State.updEng_eng, if_pos rfl])]
  have h2 : Run.badAt { r with pc := r.pc + k } (r.pc + k) = false := h2
  have h3 : Run.cleanAt { r with pc := r.pc + k } (r.pc + k) = true := h3
  simp only [h2, State.stepRead, h3, if_true]
  rfl

/-- Every word of the engine's own state that a step reads is one of its ten. -/
theorem State.stepReads_word (s : State) (e : Nat) (st : LoopStep) (o : Nat) (h : o ∈ s.stepReads e st) : ∃ i, i < 10 ∧ o = 4 * i := by
  have src : ∀ c, o ∈ sourceWords c → ∃ i, i < 10 ∧ o = 4 * i := by
    intro c hc
    unfold sourceWords at hc
    split at hc
    · exact ⟨c - 16, by omega, by simpa using hc⟩
    · split at hc
      · rcases (by simpa using hc : o = 32 ∨ o = 36) with rfl | rfl
        · exact ⟨8, by omega, rfl⟩
        · exact ⟨9, by omega, rfl⟩
      · cases hc
  have acc : o ∈ [0x20, 0x24] → ∃ i, i < 10 ∧ o = 4 * i := fun hc => by
    rcases (by simpa using hc : o = 32 ∨ o = 36) with rfl | rfl
    · exact ⟨8, by omega, rfl⟩
    · exact ⟨9, by omega, rfl⟩
  have two : ∀ b : Bool, ∀ c, o ∈ (if b then sourceWords c else []) → ∃ i, i < 10 ∧ o = 4 * i := fun b c hc => by
    cases b
    · cases hc
    · exact src c hc
  unfold State.stepReads at h
  extract_lets a b held acc' at h
  split at h
  · split at h
    · rcases List.mem_append.1 h with h | h
      · exact two _ _ h
      · obtain ⟨i, hi, rfl⟩ := List.mem_map.1 h
        have : i < xfmReads (st.aux % 8) := by simpa using hi
        refine ⟨i, ?_, rfl⟩
        unfold xfmReads at this
        split at this <;> omega
    · cases h
  · simp only [List.mem_append] at h
    rcases h with ((h | h) | h) | h
    · exact two _ _ h
    · exact two _ _ h
    · simp only [held] at h
      split at h
      · split at h
        · exact ⟨st.dst, by omega, by simpa using h⟩
        · split at h
          · exact acc h
          · cases h
      · cases h
    · simp only [acc'] at h
      split at h
      · exact acc h
      · cases h

/-- A step of an engine whose own state holds no error reads it as it is. -/
theorem State.readWords_clean (s : State) (e : Nat) (st : LoopStep) (h : ∀ i, i < 10 → s.eccMask (engineKey e (4 * i)) = 0) :
    s.readWords e st = s := by
  unfold State.readWords
  have key : ∀ l : List Nat, (∀ o, o ∈ l → ∃ i, i < 10 ∧ o = 4 * i) → forAll l s (fun s o => s.readWork e o) = s := by
    intro l
    induction l with
    | nil => intro _; rfl
    | cons o l ih =>
      intro hl
      obtain ⟨i, hi, rfl⟩ := hl o (by simp)
      show forAll l (s.readWork e (4 * i)) _ = s
      rw [s.readWork_clean e _ (h i hi)]
      exact ih fun x hx => hl x (by simp [hx])
  exact key _ (s.stepReads_word e st)

/-- A step of a run that goes on to one free of errors: its effect, then the next step. -/
theorem State.atStep_go (s : State) (e : Nat) {is : LoopStep → Bool} {f : State → Run → LoopStep → State × Nat} {r r' : Run}
    (h : (s.eng e).run = some r) (hc : ∀ i, i < 10 → s.eccMask (engineKey e (4 * i)) = 0) (hi : is r.step = true)
    (hr : ((f s r r.step).1.eng e).run = some r')
    (h1 : r'.pc + (f s r r.step).2 ≤ 31) (h2 : r'.badAt (r'.pc + (f s r r.step).2) = false)
    (h3 : r'.cleanAt (r'.pc + (f s r r.step).2) = true) :
    s.atStep e is f =
      (f s r r.step).1.updEng e (fun q => { q with run := some { r' with pc := r'.pc + (f s r r.step).2 } }) := by
  unfold State.atStep
  rw [h]
  dsimp only
  rw [if_pos hi, s.readWords_clean e _ hc]
  exact State.nextStep_go _ _ _ hr h1 h2 h3

end Sys2Proof.Machine
end

