-- ==== Sys2Proof/Laws/LoopSteps.lean ====
section
/-! SUPPORT. The steps of a loop program: what the shared forms of a step do to the engine, and what they leave alone. -/

namespace Sys2Proof.Machine

open Sys2Proof Sys2Proof.Safety

theorem leStat_ne (n f : Nat) : R.LE_STAT n ≠ R.FACE_SPR_STAT f := by
  unfold R.LE_STAT R.FACE_SPR_STAT chBase faceBase; omega

theorem sat32_lim (v : Int) : (sat32 v).1 = lim32 v := by
  show clampInt min32 max32 v = _
  have h1 : min32 = -2147483648 := by decide
  have h2 : max32 = 2147483647 := by decide
  simp only [clampInt, lim32, limited, h1, h2]
  by_cases a : v < -2147483648
  · simp only [a, if_true]; omega
  · by_cases b : 2147483647 < v
    · simp only [a, b, if_false, if_true]; omega
    · simp only [a, b, if_false]; omega
theorem sval_wordOf_lim (v : Int) : sval (wordOf (lim32 v)) = lim32 v := by
  simp only [sval, wordOf, lim32, limited, BitVec.toInt_ofInt, Int.bmod]; omega
theorem lim32_toInt (w : Word) : lim32 w.toInt = w.toInt := by
  have := BitVec.toInt_lt (x := w); have := BitVec.le_toInt (x := w)
  simp only [lim32, limited]; omega

/-- What the effect of a step does to its engine, which is left with the working registers `w` and the accumulator `a`. -/
structure StepFacts (s t : State) (e : Nat) (w : Nat → Word) (a : Int) : Prop where
  w : ∀ i, i < 8 → t.wreg e i = w i
  acc : (t.eng e).acc = a
  run : (t.eng e).run = (s.eng e).run
  waiting : (t.eng e).waiting = (s.eng e).waiting
  load : (t.eng e).loadAtEnd = (s.eng e).loadAtEnd
  other : ∀ j, j ≠ e → t.eng j = s.eng j
  reg : ∀ k, k ≠ R.LE_STAT (s.engChan e) → t.reg k = s.reg k
  chan : t.engChan e = s.engChan e

/-- What writing the 32-bit result `v` to the destination of a step does. -/
abbrev DestFacts (s t : State) (e : Nat) (st : LoopStep) (v : Int) : Prop :=
  StepFacts s t e (fun i => if i = st.dst then BitVec.ofInt 32 v else s.wreg e i) (if st.dst = 9 then v else (s.eng e).acc)

theorem engChan_of {s t : State} {e : Nat} (h : ∀ k, k ≠ R.LE_STAT (s.engChan e) → t.reg k = s.reg k) :
    t.engChan e = s.engChan e := by
  unfold State.engChan
  split
  · rfl
  · rw [State.fld_def, State.fld_def, h _ (leStat_ne _ _).symm]

theorem dest_facts (s : State) (e : Nat) (st : LoopStep) (v : Int) (h : sval (wordOf v) = v) :
    DestFacts s (s.dest e st (wordOf v)) e st v := by
  have key : ∀ k, (s.dest e st (wordOf v)).reg k = s.reg k := by
    intro k; unfold State.dest; split
    · rfl
    · split <;> rfl
  refine ⟨?_, ?_, ?_, ?_, ?_, ?_, fun k _ => key k, engChan_of fun k _ => key k⟩
  · intro i hi
    unfold State.dest State.wreg
    split
    · simp only [State.setW, State.updEng_eng, State.setEcc_eng, if_pos, AMap.get_set]; rfl
    · split
      · rename_i h1 h2
        simp only [State.setAcc, State.updEng_eng, State.setEcc_eng, if_pos]
        rw [if_neg (by omega)]
      · rw [if_neg (by omega)]
  · unfold State.dest
    split
    · rename_i h1
      rw [if_neg (by omega)]
      simp only [State.setW, State.updEng_eng, State.setEcc_eng, if_pos]
    · split
      · simp only [State.setAcc, State.updEng_eng, State.setEcc_eng, if_pos, h]
      · rfl
  · unfold State.dest; split
    · simp only [State.setW, State.updEng_eng, State.setEcc_eng, if_pos]
    · split
      · simp only [State.setAcc, State.updEng_eng, State.setEcc_eng, if_pos]
      · rfl
  · unfold State.dest; split
    · simp only [State.setW, State.updEng_eng, State.setEcc_eng, if_pos]
    · split
      · simp only [State.setAcc, State.updEng_eng, State.setEcc_eng, if_pos]
      · rfl
  · unfold State.dest; split
    · simp only [State.setW, State.updEng_eng, State.setEcc_eng, if_pos]
    · split
      · simp only [State.setAcc, State.updEng_eng, State.setEcc_eng, if_pos]
      · rfl
  · intro j hj
    unfold State.dest; split
    · simp only [State.setW, State.updEng_eng, State.setEcc_eng, if_neg hj]
    · split
      · simp only [State.setAcc, State.updEng_eng, State.setEcc_eng, if_neg hj]
      · rfl

/-- A state that has only flags of LE_STAT set, before the destination is written. -/
theorem StepFacts.after {s s' t : State} {e : Nat} {w : Nat → Word} {x : Int} (h : StepFacts s' t e w x)
    (he : ∀ j, s'.eng j = s.eng j) (hr : ∀ k, k ≠ R.LE_STAT (s.engChan e) → s'.reg k = s.reg k) : StepFacts s t e w x := by
  have hc := engChan_of hr
  obtain ⟨a, b, c, d, l, f, g, i⟩ := h
  simp only [he, hc] at *
  exact ⟨a, b, c, d, l, f, fun k hk => (g k hk).trans (hr k hk), i⟩

theorem wreg_of {s s' : State} {e : Nat} (h : s'.eng e = s.eng e) (i : Nat) : s'.wreg e i = s.wreg e i := by
  simp only [State.wreg, h]

theorem DestFacts.after {s s' t : State} {e : Nat} {st : LoopStep} {v : Int} (h : DestFacts s' t e st v)
    (he : ∀ j, s'.eng j = s.eng j) (hr : ∀ k, k ≠ R.LE_STAT (s.engChan e) → s'.reg k = s.reg k) : DestFacts s t e st v := by
  have := StepFacts.after h he hr
  simpa only [wreg_of (he e), he] using this

theorem destWord_facts (s : State) (e : Nat) (st : LoopStep) (w : Word) : DestFacts s (s.dest e st w) e st w.toInt := by
  have := dest_facts s e st w.toInt (by simp [sval, wordOf])
  simpa only [wordOf, BitVec.ofInt_toInt] using this

theorem destSat_facts (s : State) (e : Nat) (st : LoopStep) (v : Int) : DestFacts s (s.destSat e st v) e st (lim32 v) := by
  have := dest_facts (s.leRaiseIf (sat32 v).2 e LE_STAT.SAT) e st (lim32 v) (sval_wordOf_lim v)
  rw [← sat32_lim] at *
  exact this.after (by simp) (fun k hk => State.leRaiseIf_reg _ _ _ _ _ hk)

/-- A step of a running engine, from what its effect does. -/
theorem atStep_next {s : State} {e : Nat} {is : LoopStep → Bool} {f : State → Run → LoopStep → State × Nat} {r : Run}
    {w : Nat → Word} {a : Int} (he : e < 136) (hr : Running s e r) (ho : is r.step = true) (hf : StepFacts s (f s r r.step).1 e w a) :
    StepLeft (s.atStep e is f) e w a ∧ StepWent (s.atStep e is f) e r (f s r r.step).2 ∧
    (∀ j, j ≠ e → ((s.atStep e is f).eng j).w = (s.eng j).w ∧ ((s.atStep e is f).eng j).acc = (s.eng j).acc ∧
      ((s.atStep e is f).eng j).run = (s.eng j).run) ∧
    RegsBut (fun k => StepReg (s.engChan e) k ∨ (¬ ProgramClean s e ∧ ErrorReg k)) s (s.atStep e is f) := by
  obtain ⟨h1, h2, h3, h4⟩ := hr
  have hs : s.atStep e is f = (f s r r.step).1.nextStep e (f s r r.step).2 := by
    unfold State.atStep
    rw [h1]; simp [ho, s.readWords_clean e r.step h4]
  have hn := (f s r r.step).1.nextStep_eng e (f s r r.step).2 (hf.run.trans h1) (hf.waiting.trans h2) (hf.load.trans h3)
  rw [hs]
  refine ⟨⟨?_, ?_⟩, ?_, ?_, ?_⟩
  · intro i hi
    rw [← hf.w i hi]
    unfold State.wreg
    rw [(hn e).1.1]
  · rw [(hn e).1.2, hf.acc]
  · unfold StepWent
    rw [(hn e).2, if_pos rfl]; rfl
  · intro j hj
    obtain ⟨⟨a, b⟩, c⟩ := hn j
    rw [if_neg hj] at c
    rw [hf.other j hj] at a b c
    exact ⟨a, b, c⟩
  · intro k hk
    simp only [StepReg, not_or] at hk
    obtain ⟨hk, hc⟩ := hk
    rw [State.nextStep_reg _ _ _ (hf.run.trans h1) he _ (by rw [hf.chan]; exact hk.1) (by rw [hf.chan]; exact hk.2.1) hk.2.2.1
      (by rw [hf.chan]; exact hk.2.2.2) (leStat_ne _ _) (fun h x => hc ⟨fun g => ?_, x⟩)
      (hf.load.trans h3), hf.reg k hk.1]
    rw [g r h1] at h; cases h

/-- A plain step of a running engine, from what its effect does. -/
theorem plainStep_next {s : State} {e op : Nat} {f : State → Run → LoopStep → State} {r : Run} {w : Nat → Word} {a : Int}
    (he : e < 136) (hr : Running s e r) (ho : r.step.op = op) (hf : StepFacts s (f s r r.step) e w a) :
    StepLeft (s.plainStep e op f) e w a ∧ StepWent (s.plainStep e op f) e r 1 ∧
    (∀ j, j ≠ e → ((s.plainStep e op f).eng j).w = (s.eng j).w ∧ ((s.plainStep e op f).eng j).acc = (s.eng j).acc ∧
      ((s.plainStep e op f).eng j).run = (s.eng j).run) ∧
    RegsBut (fun k => StepReg (s.engChan e) k ∨ (¬ ProgramClean s e ∧ ErrorReg k)) s (s.plainStep e op f) :=
  atStep_next (f := fun s r st => (f s r st, 1)) he hr (by simp [ho]) hf

@[simp] theorem State.advance_wreg (s : State) (dt e i : Nat) : (s.advance dt).wreg e i = s.wreg e i := by simp [State.wreg]
@[simp] theorem State.advance_engChan (s : State) (dt e : Nat) : (s.advance dt).engChan e = s.engChan e := by
  simp [State.engChan, State.fld_def]
theorem wordA_advance (s : State) (dt e : Nat) (r : Run) : wordA (s.advance dt) e r = wordA s e r := by
  simp [wordA, State.source]
theorem wordB_advance (s : State) (dt e : Nat) (r : Run) : wordB (s.advance dt) e r = wordB s e r := by
  simp [wordB, State.source]

theorem run_step {s : State} {dt e : Nat} {r : Run} {w : Nat → Word} {a : Int} {k : Nat} {f : State → State} (hr : Running s e r)
    (hf : Running (s.advance dt) e r → StepLeft (f (s.advance dt)) e w a ∧ StepWent (f (s.advance dt)) e r k ∧
    (∀ j, j ≠ e → ((f (s.advance dt)).eng j).w = ((s.advance dt).eng j).w ∧ ((f (s.advance dt)).eng j).acc = ((s.advance dt).eng j).acc ∧
      ((f (s.advance dt)).eng j).run = ((s.advance dt).eng j).run) ∧
    RegsBut (fun k => StepReg ((s.advance dt).engChan e) k ∨ (¬ ProgramClean (s.advance dt) e ∧ ErrorReg k))
      (s.advance dt) (f (s.advance dt))) :
    ∃ t, run dt s f = .next t ∧ StepLeft t e w a ∧ StepWent t e r k ∧ StepFrame s t e := by
  have hr' : Running (s.advance dt) e r := by simpa [Running, WorkClean, State.eccMask] using hr
  obtain ⟨a, b, c, d⟩ := hf hr'
  refine ⟨_, rfl, a, b, ?_, ?_, ?_⟩
  · intro j hj; simpa using c j hj
  · intro i hk
    have := d i (by simpa [ProgramClean] using hk)
    exact this.trans (by simp)
  · intro x; rfl

/-- A plain step that writes a 32-bit result. -/
theorem dest_step {s : State} {dt e op : Nat} {f : State → Run → LoopStep → State} {r : Run} {v : Int}
    (he : e < 136) (hr : Running s e r) (ho : r.step.op = op)
    (hf : Running (s.advance dt) e r → DestFacts (s.advance dt) (f (s.advance dt) r r.step) e r.step v) :
    ∃ t, run dt s (fun s => s.plainStep e op f) = .next t ∧ StepWrote s t e r v ∧ StepWent t e r 1 ∧ StepFrame s t e := by
  have := run_step (dt := dt) (f := fun s => s.plainStep e op f) hr fun hr' => plainStep_next he hr' ho (hf hr')
  simpa only [StepWrote, State.advance_wreg, State.advance_eng] using this

theorem source_of {s s' : State} {e : Nat} (h : s'.eng e = s.eng e) (r : Run) (st : LoopStep) (c : Nat) :
    s'.source e r st c = s.source e r st c := by simp only [State.source, h]

/-- Reading the sources sets at most SAT. -/
theorem srcA_eq (s : State) (e : Nat) (r : Run) : s.srcA e r r.step =
    (wordA s e r, s.leRaiseIf (s.source e r r.step r.step.sa).2 e LE_STAT.SAT) := (rfl)
theorem srcB_eq (s : State) (e : Nat) (r : Run) : s.srcB e r r.step =
    (wordB s e r, s.leRaiseIf (s.source e r r.step r.step.sb).2 e LE_STAT.SAT) := (rfl)
theorem wordA_flag (s : State) (c : Bool) (e : Nat) (r : Run) (f : Fld) : wordA (s.leRaiseIf c e f) e r = wordA s e r := by
  simp only [wordA, source_of (State.leRaiseIf_eng s c e f e)]
theorem wordB_flag (s : State) (c : Bool) (e : Nat) (r : Run) (f : Fld) : wordB (s.leRaiseIf c e f) e r = wordB s e r := by
  simp only [wordB, source_of (State.leRaiseIf_eng s c e f e)]

theorem afterFlag {s : State} {c : Bool} {e : Nat} {f : Fld} {t : State} {st : LoopStep} {v : Int}
    (h : DestFacts (s.leRaiseIf c e f) t e st v) : DestFacts s t e st v :=
  h.after (by simp) (fun k hk => State.leRaiseIf_reg _ _ _ _ _ hk)

/-- A step with two sources. -/
theorem binary_next {s : State} {dt e op : Nat} {r : Run} {g : LoopStep → Int → Int → Int} (he : e < 136) (hr : Running s e r) (ho : r.step.op = op) :
    ∃ t, run dt s (fun s => s.binary e op g) = .next t ∧
      StepWrote s t e r (lim32 (g r.step (wordA s e r).toInt (wordB s e r).toInt)) ∧ StepWent t e r 1 ∧ StepFrame s t e := by
  refine dest_step he hr ho fun hr' => ?_
  simp only [srcA_eq, srcB_eq, wordB_flag]
  rw [← wordA_advance s dt, ← wordB_advance s dt]
  exact afterFlag (afterFlag (destSat_facts _ _ _ _))

theorem bitwise_next {s : State} {dt e op : Nat} {r : Run} {g : Word → Word → Word} (he : e < 136) (hr : Running s e r) (ho : r.step.op = op) :
    ∃ t, run dt s (fun s => s.bitwise e op g) = .next t ∧
      StepWrote s t e r (g (wordA s e r) (wordB s e r)).toInt ∧ StepWent t e r 1 ∧ StepFrame s t e := by
  refine dest_step he hr ho fun hr' => ?_
  simp only [srcA_eq, srcB_eq, wordB_flag]
  rw [← wordA_advance s dt, ← wordB_advance s dt]
  exact afterFlag (afterFlag (destWord_facts _ _ _ _))

theorem unary_next {s : State} {dt e op : Nat} {r : Run} {g : LoopStep → Int → Int} (he : e < 136) (hr : Running s e r) (ho : r.step.op = op) :
    ∃ t, run dt s (fun s => s.unary e op g) = .next t ∧
      StepWrote s t e r (lim32 (g r.step (wordA s e r).toInt)) ∧ StepWent t e r 1 ∧ StepFrame s t e := by
  refine dest_step he hr ho fun hr' => ?_
  simp only [srcA_eq]
  rw [← wordA_advance s dt]
  exact afterFlag (destSat_facts _ _ _ _)

theorem lim48_eq (v : Int) : (sat48 v).1 = lim48 v := by
  show clampInt min48 max48 v = _
  simp only [clampInt, lim48, limited, min48, max48]
  by_cases a : v < -2 ^ 47
  · simp only [a, if_true]; omega
  · by_cases b : 2 ^ 47 - 1 < v
    · simp only [a, b, if_false, if_true]; omega
    · simp only [a, b, if_false]; omega


theorem setAcc_facts (s : State) (e : Nat) (v : Int) : StepFacts s (s.setAcc e v) e (s.wreg e) v := by
  have key : ∀ k, (s.setAcc e v).reg k = s.reg k := fun k => rfl
  have he : ∀ j, (s.setAcc e v).eng j = if j = e then { s.eng e with acc := v } else s.eng j := fun j => by
    rw [State.setAcc, State.updEng_eng, State.setEcc_eng, State.setEcc_eng, State.setEcc_eng, State.setEcc_eng]
  refine ⟨fun i _ => ?_, ?_, ?_, ?_, ?_, fun j hj => ?_, fun k _ => key k, engChan_of fun k _ => key k⟩
  · simp only [State.wreg, he, if_pos]
  all_goals simp only [he, if_pos]
  simp only [if_neg hj]

theorem accFlag {s : State} {c : Bool} {e : Nat} {f : Fld} {t : State} {w : Nat → Word} {v : Int}
    (h : StepFacts (s.leRaiseIf c e f) t e w v) : StepFacts s t e w v :=
  h.after (by simp) (fun k hk => State.leRaiseIf_reg _ _ _ _ _ hk)

theorem wreg_flag (s : State) (c : Bool) (e : Nat) (f : Fld) (i : Nat) : (s.leRaiseIf c e f).wreg e i = s.wreg e i :=
  wreg_of (State.leRaiseIf_eng s c e f e) i

theorem accSat_facts (s : State) (e : Nat) (v : Int) : StepFacts s (s.accSat e v) e (s.wreg e) (lim48 v) := by
  have := setAcc_facts (s.leRaiseIf (sat48 v).2 e LE_STAT.SAT) e (lim48 v)
  rw [← lim48_eq] at *
  have h2 := accFlag this
  have : (s.leRaiseIf (sat48 v).2 e LE_STAT.SAT).wreg e = s.wreg e := funext (wreg_flag _ _ _ _)
  rwa [this] at h2

theorem acc_step {s : State} {dt e op : Nat} {f : State → Run → LoopStep → State} {r : Run} {w : Nat → Word} {v : Int}
    (he : e < 136) (hr : Running s e r) (ho : r.step.op = op) (hf : StepFacts (s.advance dt) (f (s.advance dt) r r.step) e w v) :
    ∃ t, run dt s (fun s => s.plainStep e op f) = .next t ∧ StepLeft t e w v ∧ StepWent t e r 1 ∧ StepFrame s t e :=
  run_step (dt := dt) (f := fun s => s.plainStep e op f) hr fun hr' => plainStep_next he hr' ho hf

theorem mac_facts (s : State) (e : Nat) (r : Run) (sign : Int) :
    let x := lim48 ((s.eng e).acc + sign * shiftRounded ((wordA s e r).toInt * (wordB s e r).toInt) (31 - r.step.sh))
    StepFacts s (let (a, s) := s.srcA e r r.step
      let (b, s) := s.srcB e r r.step
      let s := s.accSat e ((s.eng e).acc + sign * roundShift (sval a * sval b) (31 - r.step.sh))
      if r.step.dst ≤ 7 ∨ r.step.dst = 9 then s.destSat e r.step (s.eng e).acc else s) e
      (fun i => if i = r.step.dst then BitVec.ofInt 32 (lim32 x) else s.wreg e i) (if r.step.dst = 9 then lim32 x else x) := by
  intro x
  simp only [srcA_eq, srcB_eq, wordB_flag]
  refine accFlag (c := (s.source e r r.step r.step.sa).2) (f := LE_STAT.SAT) (accFlag (c := ((s.leRaiseIf (s.source e r r.step r.step.sa).2 e LE_STAT.SAT).source e r r.step r.step.sb).2) (f := LE_STAT.SAT) ?_)
  simp only [State.leRaiseIf_eng]
  generalize hs2 : State.leRaiseIf (s.leRaiseIf _ e LE_STAT.SAT) _ e LE_STAT.SAT = s2
  have hw : s2.wreg e = s.wreg e := by subst hs2; exact funext fun i => (wreg_flag _ _ _ _ _).trans (wreg_flag _ _ _ _ _)
  have h3 := accSat_facts s2 e ((s.eng e).acc + sign * roundShift (sval (wordA s e r) * sval (wordB s e r)) (31 - r.step.sh))
  generalize State.accSat s2 e ((s.eng e).acc + sign * roundShift (sval (wordA s e r) * sval (wordB s e r)) (31 - r.step.sh)) = s3 at *
  have hx : (s3.eng e).acc = x := h3.acc
  rw [hx]
  split
  · have h4 := destSat_facts s3 e r.step x
    refine ⟨fun i hi => ?_, ?_, h4.run.trans h3.run, h4.waiting.trans h3.waiting, h4.load.trans h3.load,
      fun j hj => (h4.other j hj).trans (h3.other j hj), fun k hk => (h4.reg k (by rw [h3.chan]; exact hk)).trans (h3.reg k hk),
      h4.chan.trans h3.chan⟩
    · rw [h4.w i hi, h3.w i hi, hw]
    · rw [h4.acc, hx]
  · refine ⟨fun i hi => ?_, ?_, h3.run, h3.waiting, h3.load, h3.other, h3.reg, h3.chan⟩
    · rw [h3.w i hi, hw, if_neg (by omega)]
    · rw [hx, if_neg (by omega)]

end Sys2Proof.Machine
end

