-- ==== Sys2Proof/Laws/PageCode.lean ====
section
/-! SUPPORT. The page code on a codeword of zeros, and a slot whose image is empty. -/

namespace Sys2Proof

theorem gfMul_zero (b : Nat) : gfMul 0 b = 0 := by
  have h : ∀ l : List Nat, l.foldl (fun (x : Nat × Nat) i => (if b.testBit i then x.1 ^^^ x.2 else x.1, gfStep x.2)) (0, 0) = (0, 0) := by
    intro l
    induction l with
    | nil => rfl
    | cons i l ih =>
      have : (if b.testBit i then 0 ^^^ 0 else 0, gfStep 0) = (0, 0) := by split <;> rfl
      rw [List.foldl_cons, this, ih]
  have := h (List.range 14)
  simpa [gfMul] using congrArg Prod.fst this

theorem syndromeOf_zeros (n j : Nat) : syndromeOf (List.replicate n false) j = 0 := by
  simp only [syndromeOf]
  induction n with
  | zero => rfl
  | succ n ih => simpa [List.replicate_succ, gfMul_zero] using ih

theorem bitsOf_zeros (n : Nat) : bitsOf (List.replicate n 0#8) = List.replicate (8 * n) false := by
  induction n with
  | zero => rfl
  | succ n ih =>
    rw [List.replicate_succ, bitsOf, List.flatMap_cons, ← bitsOf, ih, Nat.mul_succ, Nat.add_comm, ← List.replicate_append_replicate]; rfl

/-- A codeword of zeros holds zeros (R279: the parity of zero data is zero). -/
theorem pageDecode_zeros (t : Nat) (ht : t ≤ 80) : pageDecode t (List.replicate (codewordBytes t) 0#8) = .good (List.replicate 1024 0#8) := by
  have hn : min (8192 + 14 * t) (8 * codewordBytes t) = 8192 + 14 * t := by simp only [codewordBytes, parityBytes]; omega
  have hz : zeroBits t (List.replicate (codewordBytes t) 0#8) = 8192 + 14 * t := by
    rw [zeroBits, bitsOf_zeros, List.take_replicate, hn, List.filter_replicate]; exact List.length_replicate
  have hc : min 1024 (codewordBytes t) = 1024 := by simp only [codewordBytes]; omega
  have h : ¬ 8192 + 14 * t ≤ t := by omega
  simp only [pageDecode, hz, if_neg h, bitsOf_zeros, List.take_replicate, hn, syndromeOf_zeros, hc]
  rw [if_pos]
  simp

namespace Machine

/-- A slot whose header and table name nothing holds no byte. -/
theorem imageBytes_nil (cws : List (List Byte)) : imageBytes cws [] = [] := rfl

theorem imgTable_nil : imgTable [] = [] := rfl

@[simp] theorem State.loadModeCfg_md (s : State) : s.loadModeCfg.md = s.md := rfl

/-- After a system reset, settings of no entries leave every state of the modes but the header. -/
theorem State.applySettings_powerOn (s : State) (img : List Byte) (hi : imgSettings img = []) (hp : s.md.powerOn = false) :
    (s.applySettings img).md.powerOn = false := by
  simp [State.applySettings, hi, hp, forAll]

theorem loadSlot_empty (s : State) (b : Nat) (cws : List (List Byte)) (hb : (s.slotInfo b).bytes = []) (hp : s.md.powerOn = false) :
    (s.loadSlot b cws).1 = 0 := by
  have hi : imgSettings [] = [] := rfl
  simp [State.loadSlot, hb, imageBytes_nil, imgTable_nil, hi, State.loadSections, s.applySettings_powerOn [] hi hp]

end Machine

end Sys2Proof
end

