-- ==== Sys2Proof/Laws/Writes.lean ====
section
/-! SUPPORT. What a register write can do: the access checks, the write of a clean word, and the fields by their types. -/

namespace Sys2Proof.Machine

open Sys2Proof Sys2Proof.Safety

/-- The state with another set of undefined registers, and of staged values that a bad write left undefined. -/
def State.undefAs (s : State) (d : AMap Bool) (c : AMap Bool) : State := { s with undef := d, stg := { s.stg with clean := c } }

@[simp] theorem State.undefAs_pending (s : State) (d c : AMap Bool) : (s.undefAs d c).pending = s.pending := (rfl)
@[simp] theorem State.undefAs_free (s : State) (d c : AMap Bool) : (s.undefAs d c).free = s.free := (rfl)
@[simp] theorem State.undefAs_tb (s : State) (d c : AMap Bool) : (s.undefAs d c).tb = s.tb := (rfl)
@[simp] theorem State.undefAs_regs (s : State) (d c : AMap Bool) : (s.undefAs d c).regs = s.regs := (rfl)
@[simp] theorem State.undefAs_hwSet (s : State) (d c : AMap Bool) : (s.undefAs d c).hwSet = s.hwSet := (rfl)
@[simp] theorem State.undefAs_swSet (s : State) (d c : AMap Bool) : (s.undefAs d c).swSet = s.swSet := (rfl)
@[simp] theorem State.undefAs_mem (s : State) (d c : AMap Bool) : (s.undefAs d c).mem = s.mem := (rfl)
@[simp] theorem State.undefAs_ecc (s : State) (d c : AMap Bool) : (s.undefAs d c).ecc = s.ecc := (rfl)
@[simp] theorem State.undefAs_pageErr (s : State) (d c : AMap Bool) : (s.undefAs d c).pageErr = s.pageErr := (rfl)
@[simp] theorem State.undefAs_rdata (s : State) (d c : AMap Bool) : (s.undefAs d c).rdata = s.rdata := (rfl)
@[simp] theorem State.undefAs_ch (s : State) (d c : AMap Bool) : (s.undefAs d c).ch = s.ch := (rfl)
@[simp] theorem State.undefAs_rt (s : State) (d c : AMap Bool) : (s.undefAs d c).rt = s.rt := (rfl)
@[simp] theorem State.undefAs_stg_words (s : State) (d c : AMap Bool) : (s.undefAs d c).stg.words = s.stg.words := (rfl)
@[simp] theorem State.undefAs_stg_order (s : State) (d c : AMap Bool) : (s.undefAs d c).stg.order = s.stg.order := (rfl)
@[simp] theorem State.undefAs_stg_applyAt (s : State) (d c : AMap Bool) : (s.undefAs d c).stg.applyAt = s.stg.applyAt := (rfl)
@[simp] theorem State.undefAs_pr (s : State) (d c : AMap Bool) : (s.undefAs d c).pr = s.pr := (rfl)
@[simp] theorem State.undefAs_mv (s : State) (d c : AMap Bool) : (s.undefAs d c).mv = s.mv := (rfl)
@[simp] theorem State.undefAs_lg (s : State) (d c : AMap Bool) : (s.undefAs d c).lg = s.lg := (rfl)
@[simp] theorem State.undefAs_lanes (s : State) (d c : AMap Bool) : (s.undefAs d c).lanes = s.lanes := (rfl)
@[simp] theorem State.undefAs_path (s : State) (d c : AMap Bool) : (s.undefAs d c).path = s.path := (rfl)
@[simp] theorem State.undefAs_md (s : State) (d c : AMap Bool) : (s.undefAs d c).md = s.md := (rfl)
@[simp] theorem State.undefAs_up (s : State) (d c : AMap Bool) : (s.undefAs d c).up = s.up := (rfl)
@[simp] theorem State.undefAs_ts (s : State) (d c : AMap Bool) : (s.undefAs d c).ts = s.ts := (rfl)
@[simp] theorem State.undefAs_io (s : State) (d c : AMap Bool) : (s.undefAs d c).io = s.io := (rfl)
@[simp] theorem State.undefAs_sq1 (s : State) (d c : AMap Bool) : (s.undefAs d c).sq1 = s.sq1 := (rfl)
@[simp] theorem State.undefAs_reg (s : State) (d c : AMap Bool) (j : Nat) : (s.undefAs d c).reg j = s.reg j := (rfl)
@[simp] theorem State.undefAs_byte (s : State) (d c : AMap Bool) (j : Nat) : (s.undefAs d c).byte j = s.byte j := (rfl)
@[simp] theorem State.undefAs_eccMask (s : State) (d c : AMap Bool) (j : Nat) : (s.undefAs d c).eccMask j = s.eccMask j := (rfl)
@[simp] theorem State.undefAs_conv (s : State) (d c : AMap Bool) (j : Nat) : (s.undefAs d c).conv j = s.conv j := (rfl)
@[simp] theorem State.undefAs_chan (s : State) (d c : AMap Bool) (j : Nat) : (s.undefAs d c).chan j = s.chan j := (rfl)
@[simp] theorem State.undefAs_group (s : State) (d c : AMap Bool) (j : Nat) : (s.undefAs d c).group j = s.group j := (rfl)
@[simp] theorem State.undefAs_eng (s : State) (d c : AMap Bool) (j : Nat) : (s.undefAs d c).eng j = s.eng j := (rfl)
@[simp] theorem State.undefAs_sbyOf (s : State) (d c : AMap Bool) (j : Nat) : (s.undefAs d c).sbyOf j = s.sbyOf j := (rfl)
@[simp] theorem State.undefAs_sprOf (s : State) (d c : AMap Bool) (j : Nat) : (s.undefAs d c).sprOf j = s.sprOf j := (rfl)
@[simp] theorem State.undefAs_tblOf (s : State) (d c : AMap Bool) (j : Nat) : (s.undefAs d c).tblOf j = s.tblOf j := (rfl)
@[simp] theorem State.undefAs_trk (s : State) (d c : AMap Bool) (j : Nat) : (s.undefAs d c).trk j = s.trk j := (rfl)
@[simp] theorem State.undefAs_slot (s : State) (d c : AMap Bool) (j : Nat) : (s.undefAs d c).slot j = s.slot j := (rfl)
@[simp] theorem State.undefAs_enc (s : State) (d c : AMap Bool) (j : Nat) : (s.undefAs d c).enc j = s.enc j := (rfl)
@[simp] theorem State.undefAs_sig (s : State) (d c : AMap Bool) (j : Nat) : (s.undefAs d c).sig j = s.sig j := (rfl)
@[simp] theorem State.undefAs_core (s : State) (d c : AMap Bool) (j : Nat) : (s.undefAs d c).core j = s.core j := (rfl)
@[simp] theorem State.undefAs_flow (s : State) (d c : AMap Bool) (j : Nat) : (s.undefAs d c).flow j = s.flow j := (rfl)
@[simp] theorem State.undefAs_src (s : State) (d c : AMap Bool) (j : Nat) : (s.undefAs d c).src j = s.src j := (rfl)
@[simp] theorem State.undefAs_dma (s : State) (d c : AMap Bool) (j : Nat) : (s.undefAs d c).dma j = s.dma j := (rfl)
@[simp] theorem State.undefAs_lane (s : State) (d c : AMap Bool) (j : Nat) : (s.undefAs d c).lane j = s.lane j := (rfl)
@[simp] theorem State.undefAs_lport (s : State) (d c : AMap Bool) (j : Nat) : (s.undefAs d c).lport j = s.lport j := (rfl)
@[simp] theorem State.undefAs_mac (s : State) (d c : AMap Bool) (j : Nat) : (s.undefAs d c).mac j = s.mac j := (rfl)
@[simp] theorem State.undefAs_can (s : State) (d c : AMap Bool) (j : Nat) : (s.undefAs d c).can j = s.can j := (rfl)
@[simp] theorem State.undefAs_spi (s : State) (d c : AMap Bool) (j : Nat) : (s.undefAs d c).spi j = s.spi j := (rfl)
@[simp] theorem State.undefAs_now (s : State) (d c : AMap Bool) : (s.undefAs d c).now = s.now := (rfl)

@[simp] theorem State.undefAs_fld (s : State) (d c : AMap Bool) (k : Nat) (f : Fld) : (s.undefAs d c).fld k f = s.fld k f := (rfl)
@[simp] theorem State.undefAs_flag (s : State) (d c : AMap Bool) (k : Nat) (f : Fld) : (s.undefAs d c).flag k f = s.flag k f := (rfl)

/-- A clean word acts, on a state in which at most the sets of undefined registers and staged values differ. -/
theorem wordWrite_clean {a : Access} {k : Nat} {w : Word} (ha : PitWord a) (hc : CleanWord k w = true) (s : State)
    (act : Word → State → Wr) : ∃ d c, wordWrite a k w s act = act w (s.undefAs d c) := by
  unfold wordWrite
  unfold CleanWord at hc
  split
  · rename_i h; rw [h] at hc; cases hc
  · rename_i r idx h
    rw [h] at hc
    rw [if_pos ⟨ha.2, by simpa using hc⟩]
    split
    · exact ⟨_, s.stg.clean, rfl⟩
    · exact ⟨s.undef, _, rfl⟩

/-- Pit world passes the check of R19. -/
theorem pitOnly_pit {a : Access} (ha : PitWord a) (addr : Nat) (s : State) (f : State → Wr) : pitOnly a addr s f = f s := by
  unfold pitOnly; rw [ha.1]

/-- A Pit-world write of a clean word to a register of Pit world. -/
theorem pit_write {a : Access} {k : Nat} {w : Word} (ha : PitWord a) (hc : CleanWord k w = true) (act : Word → State → State) (s : State) :
    ∃ d c, settle a k (pitOnly a k s (fun s => wordWrite a k w s (fun w s => okWr (act w s)))) = act w (s.undefAs d c) := by
  obtain ⟨d, c, h⟩ := wordWrite_clean ha hc s (fun w s => okWr (act w s))
  exact ⟨d, c, by rw [pitOnly_pit ha, h]; rfl⟩

@[simp] theorem settle_okWr (a : Access) (addr : Nat) (s : State) : settle a addr (okWr s) = s := (rfl)
@[simp] theorem settle_ok (a : Access) (addr : Nat) (s : State) : settle a addr (s, true) = s := (rfl)
theorem supOnly_sup {a : Access} (h : a.sup = true) (s : State) (f : State → Wr) : supOnly a s f = f s := by
  unfold supOnly; rw [h]; rfl

/-! ## Fields by their types -/

theorem State.setFlags_shape (s : State) (k : Nat) (m : Word) :
    ∃ src hw sw, s.setFlags k m =
      { s.setReg k (s.reg k ||| m) with mv := { s.mv with sources := src }, hwSet := hw, swSet := sw } := by
  obtain ⟨a, b, h⟩ := State.put_shape { s with swSet := AMap.upd 0 s.swSet k (fun x => x ||| m) } k (s.reg k ||| m)
  exact ⟨a, b, _, h⟩

/-- A step that changes only registers, interrupt sources and the record of this instant. -/
def RegsOnly (s t : State) : Prop := ∃ regs src hw sw, t = { s with regs := regs, mv := { s.mv with sources := src }, hwSet := hw, swSet := sw }

theorem RegsOnly.refl (s : State) : RegsOnly s s := ⟨s.regs, s.mv.sources, s.hwSet, s.swSet, rfl⟩
theorem RegsOnly.trans {s t u : State} (h : RegsOnly s t) (g : RegsOnly t u) : RegsOnly s u := by
  obtain ⟨a, b, c, d, rfl⟩ := h
  obtain ⟨a', b', c', d', rfl⟩ := g
  exact ⟨a', b', c', d', rfl⟩
theorem State.put_only (s : State) (k : Nat) (w : Word) : RegsOnly s (s.put k w) := by
  obtain ⟨a, b, h⟩ := s.put_shape k w
  exact ⟨_, a, b, s.swSet, h⟩
theorem State.setF_only (s : State) (k : Nat) (f : Fld) (v : Nat) : RegsOnly s (s.setF k f v) := s.put_only k _
theorem State.setFlags_only (s : State) (k : Nat) (m : Word) : RegsOnly s (s.setFlags k m) := by
  obtain ⟨a, b, c, h⟩ := s.setFlags_shape k m
  exact ⟨_, a, b, c, h⟩
theorem State.clearFlags_only (s : State) (k : Nat) (m : Word) : RegsOnly s (s.clearFlags k m) := by
  unfold State.clearFlags
  dsimp only
  refine (s.put_only k (s.reg k &&& ~~~(m &&& ~~~AMap.get 0 s.hwSet k))).trans ?_
  refine forAll_induct (P := RegsOnly _) (fun t x ht => ht.trans ?_) _ (RegsOnly.refl _)
  split
  · exact RegsOnly.refl _
  · exact t.setF_only _ _ _
theorem State.fieldWrite_only (s : State) (k : Nat) (w : Word) : RegsOnly s (s.fieldWrite k w) :=
  ((s.put_only k _).trans (State.setFlags_only _ k _)).trans (State.clearFlags_only _ k _)

@[simp] theorem State.setFlags_pending (s : State) (k : Nat) (m : Word) : (s.setFlags k m).pending = s.pending := by
  obtain ⟨_, _, _, _, h⟩ := s.setFlags_only k m; rw [h]
@[simp] theorem State.setFlags_free (s : State) (k : Nat) (m : Word) : (s.setFlags k m).free = s.free := by
  obtain ⟨_, _, _, _, h⟩ := s.setFlags_only k m; rw [h]
@[simp] theorem State.setFlags_tb (s : State) (k : Nat) (m : Word) : (s.setFlags k m).tb = s.tb := by
  obtain ⟨_, _, _, _, h⟩ := s.setFlags_only k m; rw [h]
@[simp] theorem State.setFlags_undef (s : State) (k : Nat) (m : Word) : (s.setFlags k m).undef = s.undef := by
  obtain ⟨_, _, _, _, h⟩ := s.setFlags_only k m; rw [h]
@[simp] theorem State.setFlags_ecc (s : State) (k : Nat) (m : Word) : (s.setFlags k m).ecc = s.ecc := by
  obtain ⟨_, _, _, _, h⟩ := s.setFlags_only k m; rw [h]
@[simp] theorem State.setFlags_pageErr (s : State) (k : Nat) (m : Word) : (s.setFlags k m).pageErr = s.pageErr := by
  obtain ⟨_, _, _, _, h⟩ := s.setFlags_only k m; rw [h]
@[simp] theorem State.setFlags_rdata (s : State) (k : Nat) (m : Word) : (s.setFlags k m).rdata = s.rdata := by
  obtain ⟨_, _, _, _, h⟩ := s.setFlags_only k m; rw [h]
@[simp] theorem State.setFlags_ch (s : State) (k : Nat) (m : Word) : (s.setFlags k m).ch = s.ch := by
  obtain ⟨_, _, _, _, h⟩ := s.setFlags_only k m; rw [h]
@[simp] theorem State.setFlags_rt (s : State) (k : Nat) (m : Word) : (s.setFlags k m).rt = s.rt := by
  obtain ⟨_, _, _, _, h⟩ := s.setFlags_only k m; rw [h]
@[simp] theorem State.setFlags_stg (s : State) (k : Nat) (m : Word) : (s.setFlags k m).stg = s.stg := by
  obtain ⟨_, _, _, _, h⟩ := s.setFlags_only k m; rw [h]
@[simp] theorem State.setFlags_pr (s : State) (k : Nat) (m : Word) : (s.setFlags k m).pr = s.pr := by
  obtain ⟨_, _, _, _, h⟩ := s.setFlags_only k m; rw [h]
@[simp] theorem State.setFlags_lg (s : State) (k : Nat) (m : Word) : (s.setFlags k m).lg = s.lg := by
  obtain ⟨_, _, _, _, h⟩ := s.setFlags_only k m; rw [h]
@[simp] theorem State.setFlags_lanes (s : State) (k : Nat) (m : Word) : (s.setFlags k m).lanes = s.lanes := by
  obtain ⟨_, _, _, _, h⟩ := s.setFlags_only k m; rw [h]
@[simp] theorem State.setFlags_path (s : State) (k : Nat) (m : Word) : (s.setFlags k m).path = s.path := by
  obtain ⟨_, _, _, _, h⟩ := s.setFlags_only k m; rw [h]
@[simp] theorem State.setFlags_md (s : State) (k : Nat) (m : Word) : (s.setFlags k m).md = s.md := by
  obtain ⟨_, _, _, _, h⟩ := s.setFlags_only k m; rw [h]
@[simp] theorem State.setFlags_up (s : State) (k : Nat) (m : Word) : (s.setFlags k m).up = s.up := by
  obtain ⟨_, _, _, _, h⟩ := s.setFlags_only k m; rw [h]
@[simp] theorem State.setFlags_ts (s : State) (k : Nat) (m : Word) : (s.setFlags k m).ts = s.ts := by
  obtain ⟨_, _, _, _, h⟩ := s.setFlags_only k m; rw [h]
@[simp] theorem State.setFlags_io (s : State) (k : Nat) (m : Word) : (s.setFlags k m).io = s.io := by
  obtain ⟨_, _, _, _, h⟩ := s.setFlags_only k m; rw [h]
@[simp] theorem State.setFlags_sq1 (s : State) (k : Nat) (m : Word) : (s.setFlags k m).sq1 = s.sq1 := by
  obtain ⟨_, _, _, _, h⟩ := s.setFlags_only k m; rw [h]
@[simp] theorem State.setFlags_byte (s : State) (k : Nat) (m : Word) (j : Nat) : (s.setFlags k m).byte j = s.byte j := by
  obtain ⟨_, _, _, _, h⟩ := s.setFlags_only k m; rw [h]; rfl
@[simp] theorem State.setFlags_eccMask (s : State) (k : Nat) (m : Word) (j : Nat) : (s.setFlags k m).eccMask j = s.eccMask j := by
  obtain ⟨_, _, _, _, h⟩ := s.setFlags_only k m; rw [h]; rfl
@[simp] theorem State.setFlags_conv (s : State) (k : Nat) (m : Word) (j : Nat) : (s.setFlags k m).conv j = s.conv j := by
  obtain ⟨_, _, _, _, h⟩ := s.setFlags_only k m; rw [h]; rfl
@[simp] theorem State.setFlags_chan (s : State) (k : Nat) (m : Word) (j : Nat) : (s.setFlags k m).chan j = s.chan j := by
  obtain ⟨_, _, _, _, h⟩ := s.setFlags_only k m; rw [h]; rfl
@[simp] theorem State.setFlags_group (s : State) (k : Nat) (m : Word) (j : Nat) : (s.setFlags k m).group j = s.group j := by
  obtain ⟨_, _, _, _, h⟩ := s.setFlags_only k m; rw [h]; rfl
@[simp] theorem State.setFlags_eng (s : State) (k : Nat) (m : Word) (j : Nat) : (s.setFlags k m).eng j = s.eng j := by
  obtain ⟨_, _, _, _, h⟩ := s.setFlags_only k m; rw [h]; rfl
@[simp] theorem State.setFlags_sbyOf (s : State) (k : Nat) (m : Word) (j : Nat) : (s.setFlags k m).sbyOf j = s.sbyOf j := by
  obtain ⟨_, _, _, _, h⟩ := s.setFlags_only k m; rw [h]; rfl
@[simp] theorem State.setFlags_sprOf (s : State) (k : Nat) (m : Word) (j : Nat) : (s.setFlags k m).sprOf j = s.sprOf j := by
  obtain ⟨_, _, _, _, h⟩ := s.setFlags_only k m; rw [h]; rfl
@[simp] theorem State.setFlags_tblOf (s : State) (k : Nat) (m : Word) (j : Nat) : (s.setFlags k m).tblOf j = s.tblOf j := by
  obtain ⟨_, _, _, _, h⟩ := s.setFlags_only k m; rw [h]; rfl
@[simp] theorem State.setFlags_trk (s : State) (k : Nat) (m : Word) (j : Nat) : (s.setFlags k m).trk j = s.trk j := by
  obtain ⟨_, _, _, _, h⟩ := s.setFlags_only k m; rw [h]; rfl
@[simp] theorem State.setFlags_slot (s : State) (k : Nat) (m : Word) (j : Nat) : (s.setFlags k m).slot j = s.slot j := by
  obtain ⟨_, _, _, _, h⟩ := s.setFlags_only k m; rw [h]; rfl
@[simp] theorem State.setFlags_enc (s : State) (k : Nat) (m : Word) (j : Nat) : (s.setFlags k m).enc j = s.enc j := by
  obtain ⟨_, _, _, _, h⟩ := s.setFlags_only k m; rw [h]; rfl
@[simp] theorem State.setFlags_sig (s : State) (k : Nat) (m : Word) (j : Nat) : (s.setFlags k m).sig j = s.sig j := by
  obtain ⟨_, _, _, _, h⟩ := s.setFlags_only k m; rw [h]; rfl
@[simp] theorem State.setFlags_core (s : State) (k : Nat) (m : Word) (j : Nat) : (s.setFlags k m).core j = s.core j := by
  obtain ⟨_, _, _, _, h⟩ := s.setFlags_only k m; rw [h]; rfl
@[simp] theorem State.setFlags_flow (s : State) (k : Nat) (m : Word) (j : Nat) : (s.setFlags k m).flow j = s.flow j := by
  obtain ⟨_, _, _, _, h⟩ := s.setFlags_only k m; rw [h]; rfl
@[simp] theorem State.setFlags_dma (s : State) (k : Nat) (m : Word) (j : Nat) : (s.setFlags k m).dma j = s.dma j := by
  obtain ⟨_, _, _, _, h⟩ := s.setFlags_only k m; rw [h]; rfl
@[simp] theorem State.setFlags_lane (s : State) (k : Nat) (m : Word) (j : Nat) : (s.setFlags k m).lane j = s.lane j := by
  obtain ⟨_, _, _, _, h⟩ := s.setFlags_only k m; rw [h]; rfl
@[simp] theorem State.setFlags_lport (s : State) (k : Nat) (m : Word) (j : Nat) : (s.setFlags k m).lport j = s.lport j := by
  obtain ⟨_, _, _, _, h⟩ := s.setFlags_only k m; rw [h]; rfl
@[simp] theorem State.setFlags_mac (s : State) (k : Nat) (m : Word) (j : Nat) : (s.setFlags k m).mac j = s.mac j := by
  obtain ⟨_, _, _, _, h⟩ := s.setFlags_only k m; rw [h]; rfl
@[simp] theorem State.setFlags_can (s : State) (k : Nat) (m : Word) (j : Nat) : (s.setFlags k m).can j = s.can j := by
  obtain ⟨_, _, _, _, h⟩ := s.setFlags_only k m; rw [h]; rfl
@[simp] theorem State.setFlags_spi (s : State) (k : Nat) (m : Word) (j : Nat) : (s.setFlags k m).spi j = s.spi j := by
  obtain ⟨_, _, _, _, h⟩ := s.setFlags_only k m; rw [h]; rfl
@[simp] theorem State.setFlags_now (s : State) (k : Nat) (m : Word) : (s.setFlags k m).now = s.now := by
  obtain ⟨_, _, _, _, h⟩ := s.setFlags_only k m; rw [h]; rfl
@[simp] theorem State.clearFlags_pending (s : State) (k : Nat) (m : Word) : (s.clearFlags k m).pending = s.pending := by
  obtain ⟨_, _, _, _, h⟩ := s.clearFlags_only k m; rw [h]
@[simp] theorem State.clearFlags_free (s : State) (k : Nat) (m : Word) : (s.clearFlags k m).free = s.free := by
  obtain ⟨_, _, _, _, h⟩ := s.clearFlags_only k m; rw [h]
@[simp] theorem State.clearFlags_tb (s : State) (k : Nat) (m : Word) : (s.clearFlags k m).tb = s.tb := by
  obtain ⟨_, _, _, _, h⟩ := s.clearFlags_only k m; rw [h]
@[simp] theorem State.clearFlags_undef (s : State) (k : Nat) (m : Word) : (s.clearFlags k m).undef = s.undef := by
  obtain ⟨_, _, _, _, h⟩ := s.clearFlags_only k m; rw [h]
@[simp] theorem State.clearFlags_ecc (s : State) (k : Nat) (m : Word) : (s.clearFlags k m).ecc = s.ecc := by
  obtain ⟨_, _, _, _, h⟩ := s.clearFlags_only k m; rw [h]
@[simp] theorem State.clearFlags_pageErr (s : State) (k : Nat) (m : Word) : (s.clearFlags k m).pageErr = s.pageErr := by
  obtain ⟨_, _, _, _, h⟩ := s.clearFlags_only k m; rw [h]
@[simp] theorem State.clearFlags_rdata (s : State) (k : Nat) (m : Word) : (s.clearFlags k m).rdata = s.rdata := by
  obtain ⟨_, _, _, _, h⟩ := s.clearFlags_only k m; rw [h]
@[simp] theorem State.clearFlags_ch (s : State) (k : Nat) (m : Word) : (s.clearFlags k m).ch = s.ch := by
  obtain ⟨_, _, _, _, h⟩ := s.clearFlags_only k m; rw [h]
@[simp] theorem State.clearFlags_rt (s : State) (k : Nat) (m : Word) : (s.clearFlags k m).rt = s.rt := by
  obtain ⟨_, _, _, _, h⟩ := s.clearFlags_only k m; rw [h]
@[simp] theorem State.clearFlags_stg (s : State) (k : Nat) (m : Word) : (s.clearFlags k m).stg = s.stg := by
  obtain ⟨_, _, _, _, h⟩ := s.clearFlags_only k m; rw [h]
@[simp] theorem State.clearFlags_pr (s : State) (k : Nat) (m : Word) : (s.clearFlags k m).pr = s.pr := by
  obtain ⟨_, _, _, _, h⟩ := s.clearFlags_only k m; rw [h]
@[simp] theorem State.clearFlags_lg (s : State) (k : Nat) (m : Word) : (s.clearFlags k m).lg = s.lg := by
  obtain ⟨_, _, _, _, h⟩ := s.clearFlags_only k m; rw [h]
@[simp] theorem State.clearFlags_lanes (s : State) (k : Nat) (m : Word) : (s.clearFlags k m).lanes = s.lanes := by
  obtain ⟨_, _, _, _, h⟩ := s.clearFlags_only k m; rw [h]
@[simp] theorem State.clearFlags_path (s : State) (k : Nat) (m : Word) : (s.clearFlags k m).path = s.path := by
  obtain ⟨_, _, _, _, h⟩ := s.clearFlags_only k m; rw [h]
@[simp] theorem State.clearFlags_md (s : State) (k : Nat) (m : Word) : (s.clearFlags k m).md = s.md := by
  obtain ⟨_, _, _, _, h⟩ := s.clearFlags_only k m; rw [h]
@[simp] theorem State.clearFlags_up (s : State) (k : Nat) (m : Word) : (s.clearFlags k m).up = s.up := by
  obtain ⟨_, _, _, _, h⟩ := s.clearFlags_only k m; rw [h]
@[simp] theorem State.clearFlags_ts (s : State) (k : Nat) (m : Word) : (s.clearFlags k m).ts = s.ts := by
  obtain ⟨_, _, _, _, h⟩ := s.clearFlags_only k m; rw [h]
@[simp] theorem State.clearFlags_io (s : State) (k : Nat) (m : Word) : (s.clearFlags k m).io = s.io := by
  obtain ⟨_, _, _, _, h⟩ := s.clearFlags_only k m; rw [h]
@[simp] theorem State.clearFlags_sq1 (s : State) (k : Nat) (m : Word) : (s.clearFlags k m).sq1 = s.sq1 := by
  obtain ⟨_, _, _, _, h⟩ := s.clearFlags_only k m; rw [h]
@[simp] theorem State.clearFlags_byte (s : State) (k : Nat) (m : Word) (j : Nat) : (s.clearFlags k m).byte j = s.byte j := by
  obtain ⟨_, _, _, _, h⟩ := s.clearFlags_only k m; rw [h]; rfl
@[simp] theorem State.clearFlags_eccMask (s : State) (k : Nat) (m : Word) (j : Nat) : (s.clearFlags k m).eccMask j = s.eccMask j := by
  obtain ⟨_, _, _, _, h⟩ := s.clearFlags_only k m; rw [h]; rfl
@[simp] theorem State.clearFlags_conv (s : State) (k : Nat) (m : Word) (j : Nat) : (s.clearFlags k m).conv j = s.conv j := by
  obtain ⟨_, _, _, _, h⟩ := s.clearFlags_only k m; rw [h]; rfl
@[simp] theorem State.clearFlags_chan (s : State) (k : Nat) (m : Word) (j : Nat) : (s.clearFlags k m).chan j = s.chan j := by
  obtain ⟨_, _, _, _, h⟩ := s.clearFlags_only k m; rw [h]; rfl
@[simp] theorem State.clearFlags_group (s : State) (k : Nat) (m : Word) (j : Nat) : (s.clearFlags k m).group j = s.group j := by
  obtain ⟨_, _, _, _, h⟩ := s.clearFlags_only k m; rw [h]; rfl
@[simp] theorem State.clearFlags_eng (s : State) (k : Nat) (m : Word) (j : Nat) : (s.clearFlags k m).eng j = s.eng j := by
  obtain ⟨_, _, _, _, h⟩ := s.clearFlags_only k m; rw [h]; rfl
@[simp] theorem State.clearFlags_sbyOf (s : State) (k : Nat) (m : Word) (j : Nat) : (s.clearFlags k m).sbyOf j = s.sbyOf j := by
  obtain ⟨_, _, _, _, h⟩ := s.clearFlags_only k m; rw [h]; rfl
@[simp] theorem State.clearFlags_sprOf (s : State) (k : Nat) (m : Word) (j : Nat) : (s.clearFlags k m).sprOf j = s.sprOf j := by
  obtain ⟨_, _, _, _, h⟩ := s.clearFlags_only k m; rw [h]; rfl
@[simp] theorem State.clearFlags_tblOf (s : State) (k : Nat) (m : Word) (j : Nat) : (s.clearFlags k m).tblOf j = s.tblOf j := by
  obtain ⟨_, _, _, _, h⟩ := s.clearFlags_only k m; rw [h]; rfl
@[simp] theorem State.clearFlags_trk (s : State) (k : Nat) (m : Word) (j : Nat) : (s.clearFlags k m).trk j = s.trk j := by
  obtain ⟨_, _, _, _, h⟩ := s.clearFlags_only k m; rw [h]; rfl
@[simp] theorem State.clearFlags_slot (s : State) (k : Nat) (m : Word) (j : Nat) : (s.clearFlags k m).slot j = s.slot j := by
  obtain ⟨_, _, _, _, h⟩ := s.clearFlags_only k m; rw [h]; rfl
@[simp] theorem State.clearFlags_enc (s : State) (k : Nat) (m : Word) (j : Nat) : (s.clearFlags k m).enc j = s.enc j := by
  obtain ⟨_, _, _, _, h⟩ := s.clearFlags_only k m; rw [h]; rfl
@[simp] theorem State.clearFlags_sig (s : State) (k : Nat) (m : Word) (j : Nat) : (s.clearFlags k m).sig j = s.sig j := by
  obtain ⟨_, _, _, _, h⟩ := s.clearFlags_only k m; rw [h]; rfl
@[simp] theorem State.clearFlags_core (s : State) (k : Nat) (m : Word) (j : Nat) : (s.clearFlags k m).core j = s.core j := by
  obtain ⟨_, _, _, _, h⟩ := s.clearFlags_only k m; rw [h]; rfl
@[simp] theorem State.clearFlags_flow (s : State) (k : Nat) (m : Word) (j : Nat) : (s.clearFlags k m).flow j = s.flow j := by
  obtain ⟨_, _, _, _, h⟩ := s.clearFlags_only k m; rw [h]; rfl
@[simp] theorem State.clearFlags_dma (s : State) (k : Nat) (m : Word) (j : Nat) : (s.clearFlags k m).dma j = s.dma j := by
  obtain ⟨_, _, _, _, h⟩ := s.clearFlags_only k m; rw [h]; rfl
@[simp] theorem State.clearFlags_lane (s : State) (k : Nat) (m : Word) (j : Nat) : (s.clearFlags k m).lane j = s.lane j := by
  obtain ⟨_, _, _, _, h⟩ := s.clearFlags_only k m; rw [h]; rfl
@[simp] theorem State.clearFlags_lport (s : State) (k : Nat) (m : Word) (j : Nat) : (s.clearFlags k m).lport j = s.lport j := by
  obtain ⟨_, _, _, _, h⟩ := s.clearFlags_only k m; rw [h]; rfl
@[simp] theorem State.clearFlags_mac (s : State) (k : Nat) (m : Word) (j : Nat) : (s.clearFlags k m).mac j = s.mac j := by
  obtain ⟨_, _, _, _, h⟩ := s.clearFlags_only k m; rw [h]; rfl
@[simp] theorem State.clearFlags_can (s : State) (k : Nat) (m : Word) (j : Nat) : (s.clearFlags k m).can j = s.can j := by
  obtain ⟨_, _, _, _, h⟩ := s.clearFlags_only k m; rw [h]; rfl
@[simp] theorem State.clearFlags_spi (s : State) (k : Nat) (m : Word) (j : Nat) : (s.clearFlags k m).spi j = s.spi j := by
  obtain ⟨_, _, _, _, h⟩ := s.clearFlags_only k m; rw [h]; rfl
@[simp] theorem State.clearFlags_now (s : State) (k : Nat) (m : Word) : (s.clearFlags k m).now = s.now := by
  obtain ⟨_, _, _, _, h⟩ := s.clearFlags_only k m; rw [h]; rfl
@[simp] theorem State.fieldWrite_pending (s : State) (k : Nat) (w : Word) : (s.fieldWrite k w).pending = s.pending := by
  obtain ⟨_, _, _, _, h⟩ := s.fieldWrite_only k w; rw [h]
@[simp] theorem State.fieldWrite_free (s : State) (k : Nat) (w : Word) : (s.fieldWrite k w).free = s.free := by
  obtain ⟨_, _, _, _, h⟩ := s.fieldWrite_only k w; rw [h]
@[simp] theorem State.fieldWrite_tb (s : State) (k : Nat) (w : Word) : (s.fieldWrite k w).tb = s.tb := by
  obtain ⟨_, _, _, _, h⟩ := s.fieldWrite_only k w; rw [h]
@[simp] theorem State.fieldWrite_undef (s : State) (k : Nat) (w : Word) : (s.fieldWrite k w).undef = s.undef := by
  obtain ⟨_, _, _, _, h⟩ := s.fieldWrite_only k w; rw [h]
@[simp] theorem State.fieldWrite_ecc (s : State) (k : Nat) (w : Word) : (s.fieldWrite k w).ecc = s.ecc := by
  obtain ⟨_, _, _, _, h⟩ := s.fieldWrite_only k w; rw [h]
@[simp] theorem State.fieldWrite_pageErr (s : State) (k : Nat) (w : Word) : (s.fieldWrite k w).pageErr = s.pageErr := by
  obtain ⟨_, _, _, _, h⟩ := s.fieldWrite_only k w; rw [h]
@[simp] theorem State.fieldWrite_rdata (s : State) (k : Nat) (w : Word) : (s.fieldWrite k w).rdata = s.rdata := by
  obtain ⟨_, _, _, _, h⟩ := s.fieldWrite_only k w; rw [h]
@[simp] theorem State.fieldWrite_ch (s : State) (k : Nat) (w : Word) : (s.fieldWrite k w).ch = s.ch := by
  obtain ⟨_, _, _, _, h⟩ := s.fieldWrite_only k w; rw [h]
@[simp] theorem State.fieldWrite_rt (s : State) (k : Nat) (w : Word) : (s.fieldWrite k w).rt = s.rt := by
  obtain ⟨_, _, _, _, h⟩ := s.fieldWrite_only k w; rw [h]
@[simp] theorem State.fieldWrite_stg (s : State) (k : Nat) (w : Word) : (s.fieldWrite k w).stg = s.stg := by
  obtain ⟨_, _, _, _, h⟩ := s.fieldWrite_only k w; rw [h]
@[simp] theorem State.fieldWrite_pr (s : State) (k : Nat) (w : Word) : (s.fieldWrite k w).pr = s.pr := by
  obtain ⟨_, _, _, _, h⟩ := s.fieldWrite_only k w; rw [h]
@[simp] theorem State.fieldWrite_lg (s : State) (k : Nat) (w : Word) : (s.fieldWrite k w).lg = s.lg := by
  obtain ⟨_, _, _, _, h⟩ := s.fieldWrite_only k w; rw [h]
@[simp] theorem State.fieldWrite_lanes (s : State) (k : Nat) (w : Word) : (s.fieldWrite k w).lanes = s.lanes := by
  obtain ⟨_, _, _, _, h⟩ := s.fieldWrite_only k w; rw [h]
@[simp] theorem State.fieldWrite_path (s : State) (k : Nat) (w : Word) : (s.fieldWrite k w).path = s.path := by
  obtain ⟨_, _, _, _, h⟩ := s.fieldWrite_only k w; rw [h]
@[simp] theorem State.fieldWrite_md (s : State) (k : Nat) (w : Word) : (s.fieldWrite k w).md = s.md := by
  obtain ⟨_, _, _, _, h⟩ := s.fieldWrite_only k w; rw [h]
@[simp] theorem State.fieldWrite_up (s : State) (k : Nat) (w : Word) : (s.fieldWrite k w).up = s.up := by
  obtain ⟨_, _, _, _, h⟩ := s.fieldWrite_only k w; rw [h]
@[simp] theorem State.fieldWrite_ts (s : State) (k : Nat) (w : Word) : (s.fieldWrite k w).ts = s.ts := by
  obtain ⟨_, _, _, _, h⟩ := s.fieldWrite_only k w; rw [h]
@[simp] theorem State.fieldWrite_io (s : State) (k : Nat) (w : Word) : (s.fieldWrite k w).io = s.io := by
  obtain ⟨_, _, _, _, h⟩ := s.fieldWrite_only k w; rw [h]
@[simp] theorem State.fieldWrite_sq1 (s : State) (k : Nat) (w : Word) : (s.fieldWrite k w).sq1 = s.sq1 := by
  obtain ⟨_, _, _, _, h⟩ := s.fieldWrite_only k w; rw [h]
@[simp] theorem State.fieldWrite_byte (s : State) (k : Nat) (w : Word) (j : Nat) : (s.fieldWrite k w).byte j = s.byte j := by
  obtain ⟨_, _, _, _, h⟩ := s.fieldWrite_only k w; rw [h]; rfl
@[simp] theorem State.fieldWrite_eccMask (s : State) (k : Nat) (w : Word) (j : Nat) : (s.fieldWrite k w).eccMask j = s.eccMask j := by
  obtain ⟨_, _, _, _, h⟩ := s.fieldWrite_only k w; rw [h]; rfl
@[simp] theorem State.fieldWrite_conv (s : State) (k : Nat) (w : Word) (j : Nat) : (s.fieldWrite k w).conv j = s.conv j := by
  obtain ⟨_, _, _, _, h⟩ := s.fieldWrite_only k w; rw [h]; rfl
@[simp] theorem State.fieldWrite_chan (s : State) (k : Nat) (w : Word) (j : Nat) : (s.fieldWrite k w).chan j = s.chan j := by
  obtain ⟨_, _, _, _, h⟩ := s.fieldWrite_only k w; rw [h]; rfl
@[simp] theorem State.fieldWrite_group (s : State) (k : Nat) (w : Word) (j : Nat) : (s.fieldWrite k w).group j = s.group j := by
  obtain ⟨_, _, _, _, h⟩ := s.fieldWrite_only k w; rw [h]; rfl
@[simp] theorem State.fieldWrite_eng (s : State) (k : Nat) (w : Word) (j : Nat) : (s.fieldWrite k w).eng j = s.eng j := by
  obtain ⟨_, _, _, _, h⟩ := s.fieldWrite_only k w; rw [h]; rfl
@[simp] theorem State.fieldWrite_sbyOf (s : State) (k : Nat) (w : Word) (j : Nat) : (s.fieldWrite k w).sbyOf j = s.sbyOf j := by
  obtain ⟨_, _, _, _, h⟩ := s.fieldWrite_only k w; rw [h]; rfl
@[simp] theorem State.fieldWrite_sprOf (s : State) (k : Nat) (w : Word) (j : Nat) : (s.fieldWrite k w).sprOf j = s.sprOf j := by
  obtain ⟨_, _, _, _, h⟩ := s.fieldWrite_only k w; rw [h]; rfl
@[simp] theorem State.fieldWrite_tblOf (s : State) (k : Nat) (w : Word) (j : Nat) : (s.fieldWrite k w).tblOf j = s.tblOf j := by
  obtain ⟨_, _, _, _, h⟩ := s.fieldWrite_only k w; rw [h]; rfl
@[simp] theorem State.fieldWrite_trk (s : State) (k : Nat) (w : Word) (j : Nat) : (s.fieldWrite k w).trk j = s.trk j := by
  obtain ⟨_, _, _, _, h⟩ := s.fieldWrite_only k w; rw [h]; rfl
@[simp] theorem State.fieldWrite_slot (s : State) (k : Nat) (w : Word) (j : Nat) : (s.fieldWrite k w).slot j = s.slot j := by
  obtain ⟨_, _, _, _, h⟩ := s.fieldWrite_only k w; rw [h]; rfl
@[simp] theorem State.fieldWrite_enc (s : State) (k : Nat) (w : Word) (j : Nat) : (s.fieldWrite k w).enc j = s.enc j := by
  obtain ⟨_, _, _, _, h⟩ := s.fieldWrite_only k w; rw [h]; rfl
@[simp] theorem State.fieldWrite_sig (s : State) (k : Nat) (w : Word) (j : Nat) : (s.fieldWrite k w).sig j = s.sig j := by
  obtain ⟨_, _, _, _, h⟩ := s.fieldWrite_only k w; rw [h]; rfl
@[simp] theorem State.fieldWrite_core (s : State) (k : Nat) (w : Word) (j : Nat) : (s.fieldWrite k w).core j = s.core j := by
  obtain ⟨_, _, _, _, h⟩ := s.fieldWrite_only k w; rw [h]; rfl
@[simp] theorem State.fieldWrite_flow (s : State) (k : Nat) (w : Word) (j : Nat) : (s.fieldWrite k w).flow j = s.flow j := by
  obtain ⟨_, _, _, _, h⟩ := s.fieldWrite_only k w; rw [h]; rfl
@[simp] theorem State.fieldWrite_dma (s : State) (k : Nat) (w : Word) (j : Nat) : (s.fieldWrite k w).dma j = s.dma j := by
  obtain ⟨_, _, _, _, h⟩ := s.fieldWrite_only k w; rw [h]; rfl
@[simp] theorem State.fieldWrite_lane (s : State) (k : Nat) (w : Word) (j : Nat) : (s.fieldWrite k w).lane j = s.lane j := by
  obtain ⟨_, _, _, _, h⟩ := s.fieldWrite_only k w; rw [h]; rfl
@[simp] theorem State.fieldWrite_lport (s : State) (k : Nat) (w : Word) (j : Nat) : (s.fieldWrite k w).lport j = s.lport j := by
  obtain ⟨_, _, _, _, h⟩ := s.fieldWrite_only k w; rw [h]; rfl
@[simp] theorem State.fieldWrite_mac (s : State) (k : Nat) (w : Word) (j : Nat) : (s.fieldWrite k w).mac j = s.mac j := by
  obtain ⟨_, _, _, _, h⟩ := s.fieldWrite_only k w; rw [h]; rfl
@[simp] theorem State.fieldWrite_can (s : State) (k : Nat) (w : Word) (j : Nat) : (s.fieldWrite k w).can j = s.can j := by
  obtain ⟨_, _, _, _, h⟩ := s.fieldWrite_only k w; rw [h]; rfl
@[simp] theorem State.fieldWrite_spi (s : State) (k : Nat) (w : Word) (j : Nat) : (s.fieldWrite k w).spi j = s.spi j := by
  obtain ⟨_, _, _, _, h⟩ := s.fieldWrite_only k w; rw [h]; rfl
@[simp] theorem State.fieldWrite_now (s : State) (k : Nat) (w : Word) : (s.fieldWrite k w).now = s.now := by
  obtain ⟨_, _, _, _, h⟩ := s.fieldWrite_only k w; rw [h]; rfl

theorem State.setFlags_reg (s : State) (k : Nat) (m : Word) (j : Nat) : (s.setFlags k m).reg j = if j = k then s.reg k ||| m else s.reg j :=
  State.put_reg { s with swSet := AMap.upd 0 s.swSet k (fun x => x ||| m) } k _ j

/-- The counters cleared with a flag of register `k` are kept in no register but these. -/
def ClearedReg (k j : Nat) : Prop := ∃ x, x ∈ clearedWith k ∧ x.2.1 = j

theorem forAll_reg {α : Type} {f : State → α → State} {j : Nat} (l : List α) (h : ∀ s x, x ∈ l → (f s x).reg j = s.reg j) (s : State) :
    (forAll l s f).reg j = s.reg j := by
  induction l generalizing s with
  | nil => rfl
  | cons x l ih => rw [forAll_cons, ih (fun s y hy => h s y (.tail _ hy)), h s x (.head _)]

theorem State.clearFlags_reg (s : State) (k : Nat) (m : Word) (j : Nat) (hj : ¬ ClearedReg k j) :
    (s.clearFlags k m).reg j = if j = k then s.reg k &&& ~~~(m &&& ~~~(AMap.get 0 s.hwSet k)) else s.reg j := by
  unfold State.clearFlags
  rw [forAll_reg, State.put_reg]
  intro t x hx
  split
  · rfl
  · rw [State.setF_reg, if_neg]
    rintro rfl
    exact hj ⟨x, hx, rfl⟩

/-- The registers a whole-word write leaves alone. -/
theorem State.fieldWrite_reg_other (s : State) (k : Nat) (w : Word) (j : Nat) (h : j ≠ k) (hj : ¬ ClearedReg k j) :
    (s.fieldWrite k w).reg j = s.reg j := by
  unfold State.fieldWrite
  dsimp only
  rw [State.clearFlags_reg _ _ _ _ hj, if_neg h, State.setFlags_reg, if_neg h, State.put_reg, if_neg h]

/-! ## Storing a code word -/

theorem State.eccWrite_shape (s : State) (a : Nat) :
    (∃ m, s.eccWrite a = { s with ecc := m }) ∨ (∃ m, s.eccWrite a = (s.setEcc a m).setF R.MI_INJ_CTL MI_INJ_CTL.ARM 0) := by
  unfold State.eccWrite
  dsimp only
  split
  · exact .inr ⟨_, rfl⟩
  · exact .inl ⟨_, rfl⟩

/-- Storing a word changes of the registers at most the arming of an injection (R287). -/
theorem State.eccWrite_reg (s : State) (a j : Nat) (h : j ≠ R.MI_INJ_CTL) : (s.eccWrite a).reg j = s.reg j := by
  rcases s.eccWrite_shape a with ⟨m, e⟩ | ⟨m, e⟩ <;> rw [e]
  · rfl
  · exact (State.setF_reg _ _ _ _ j).trans (if_neg h)

@[simp] theorem State.eccWrite_pending (s : State) (a : Nat) : (s.eccWrite a).pending = s.pending := by
  rcases s.eccWrite_shape a with ⟨m, e⟩ | ⟨m, e⟩ <;> rw [e]
  exact State.setF_pending _ _ _ _
@[simp] theorem State.eccWrite_free (s : State) (a : Nat) : (s.eccWrite a).free = s.free := by
  rcases s.eccWrite_shape a with ⟨m, e⟩ | ⟨m, e⟩ <;> rw [e]
  exact State.setF_free _ _ _ _
@[simp] theorem State.eccWrite_tb (s : State) (a : Nat) : (s.eccWrite a).tb = s.tb := by
  rcases s.eccWrite_shape a with ⟨m, e⟩ | ⟨m, e⟩ <;> rw [e]
  exact State.setF_tb _ _ _ _
@[simp] theorem State.eccWrite_swSet (s : State) (a : Nat) : (s.eccWrite a).swSet = s.swSet := by
  rcases s.eccWrite_shape a with ⟨m, e⟩ | ⟨m, e⟩ <;> rw [e]
  exact State.setF_swSet _ _ _ _
@[simp] theorem State.eccWrite_undef (s : State) (a : Nat) : (s.eccWrite a).undef = s.undef := by
  rcases s.eccWrite_shape a with ⟨m, e⟩ | ⟨m, e⟩ <;> rw [e]
  exact State.setF_undef _ _ _ _
@[simp] theorem State.eccWrite_pageErr (s : State) (a : Nat) : (s.eccWrite a).pageErr = s.pageErr := by
  rcases s.eccWrite_shape a with ⟨m, e⟩ | ⟨m, e⟩ <;> rw [e]
  exact State.setF_pageErr _ _ _ _
@[simp] theorem State.eccWrite_rdata (s : State) (a : Nat) : (s.eccWrite a).rdata = s.rdata := by
  rcases s.eccWrite_shape a with ⟨m, e⟩ | ⟨m, e⟩ <;> rw [e]
  exact State.setF_rdata _ _ _ _
@[simp] theorem State.eccWrite_ch (s : State) (a : Nat) : (s.eccWrite a).ch = s.ch := by
  rcases s.eccWrite_shape a with ⟨m, e⟩ | ⟨m, e⟩ <;> rw [e]
  exact State.setF_ch _ _ _ _
@[simp] theorem State.eccWrite_rt (s : State) (a : Nat) : (s.eccWrite a).rt = s.rt := by
  rcases s.eccWrite_shape a with ⟨m, e⟩ | ⟨m, e⟩ <;> rw [e]
  exact State.setF_rt _ _ _ _
@[simp] theorem State.eccWrite_stg (s : State) (a : Nat) : (s.eccWrite a).stg = s.stg := by
  rcases s.eccWrite_shape a with ⟨m, e⟩ | ⟨m, e⟩ <;> rw [e]
  exact State.setF_stg _ _ _ _
@[simp] theorem State.eccWrite_pr (s : State) (a : Nat) : (s.eccWrite a).pr = s.pr := by
  rcases s.eccWrite_shape a with ⟨m, e⟩ | ⟨m, e⟩ <;> rw [e]
  exact State.setF_pr _ _ _ _
@[simp] theorem State.eccWrite_lg (s : State) (a : Nat) : (s.eccWrite a).lg = s.lg := by
  rcases s.eccWrite_shape a with ⟨m, e⟩ | ⟨m, e⟩ <;> rw [e]
  exact State.setF_lg _ _ _ _
@[simp] theorem State.eccWrite_lanes (s : State) (a : Nat) : (s.eccWrite a).lanes = s.lanes := by
  rcases s.eccWrite_shape a with ⟨m, e⟩ | ⟨m, e⟩ <;> rw [e]
  exact State.setF_lanes _ _ _ _
@[simp] theorem State.eccWrite_path (s : State) (a : Nat) : (s.eccWrite a).path = s.path := by
  rcases s.eccWrite_shape a with ⟨m, e⟩ | ⟨m, e⟩ <;> rw [e]
  exact State.setF_path _ _ _ _
@[simp] theorem State.eccWrite_md (s : State) (a : Nat) : (s.eccWrite a).md = s.md := by
  rcases s.eccWrite_shape a with ⟨m, e⟩ | ⟨m, e⟩ <;> rw [e]
  exact State.setF_md _ _ _ _
@[simp] theorem State.eccWrite_up (s : State) (a : Nat) : (s.eccWrite a).up = s.up := by
  rcases s.eccWrite_shape a with ⟨m, e⟩ | ⟨m, e⟩ <;> rw [e]
  exact State.setF_up _ _ _ _
@[simp] theorem State.eccWrite_ts (s : State) (a : Nat) : (s.eccWrite a).ts = s.ts := by
  rcases s.eccWrite_shape a with ⟨m, e⟩ | ⟨m, e⟩ <;> rw [e]
  exact State.setF_ts _ _ _ _
@[simp] theorem State.eccWrite_io (s : State) (a : Nat) : (s.eccWrite a).io = s.io := by
  rcases s.eccWrite_shape a with ⟨m, e⟩ | ⟨m, e⟩ <;> rw [e]
  exact State.setF_io _ _ _ _
@[simp] theorem State.eccWrite_sq1 (s : State) (a : Nat) : (s.eccWrite a).sq1 = s.sq1 := by
  rcases s.eccWrite_shape a with ⟨m, e⟩ | ⟨m, e⟩ <;> rw [e]
  exact State.setF_sq1 _ _ _ _
@[simp] theorem State.eccWrite_conv (s : State) (a : Nat) (j : Nat) : (s.eccWrite a).conv j = s.conv j := by
  rcases s.eccWrite_shape a with ⟨m, e⟩ | ⟨m, e⟩ <;> rw [e]
  · rfl
  · exact State.setF_conv _ _ _ _ j
@[simp] theorem State.eccWrite_chan (s : State) (a : Nat) (j : Nat) : (s.eccWrite a).chan j = s.chan j := by
  rcases s.eccWrite_shape a with ⟨m, e⟩ | ⟨m, e⟩ <;> rw [e]
  · rfl
  · exact State.setF_chan _ _ _ _ j
@[simp] theorem State.eccWrite_group (s : State) (a : Nat) (j : Nat) : (s.eccWrite a).group j = s.group j := by
  rcases s.eccWrite_shape a with ⟨m, e⟩ | ⟨m, e⟩ <;> rw [e]
  · rfl
  · exact State.setF_group _ _ _ _ j
@[simp] theorem State.eccWrite_eng (s : State) (a : Nat) (j : Nat) : (s.eccWrite a).eng j = s.eng j := by
  rcases s.eccWrite_shape a with ⟨m, e⟩ | ⟨m, e⟩ <;> rw [e]
  · rfl
  · exact State.setF_eng _ _ _ _ j
@[simp] theorem State.eccWrite_sbyOf (s : State) (a : Nat) (j : Nat) : (s.eccWrite a).sbyOf j = s.sbyOf j := by
  rcases s.eccWrite_shape a with ⟨m, e⟩ | ⟨m, e⟩ <;> rw [e]
  · rfl
  · exact State.setF_sbyOf _ _ _ _ j
@[simp] theorem State.eccWrite_sprOf (s : State) (a : Nat) (j : Nat) : (s.eccWrite a).sprOf j = s.sprOf j := by
  rcases s.eccWrite_shape a with ⟨m, e⟩ | ⟨m, e⟩ <;> rw [e]
  · rfl
  · exact State.setF_sprOf _ _ _ _ j
@[simp] theorem State.eccWrite_tblOf (s : State) (a : Nat) (j : Nat) : (s.eccWrite a).tblOf j = s.tblOf j := by
  rcases s.eccWrite_shape a with ⟨m, e⟩ | ⟨m, e⟩ <;> rw [e]
  · rfl
  · exact State.setF_tblOf _ _ _ _ j
@[simp] theorem State.eccWrite_trk (s : State) (a : Nat) (j : Nat) : (s.eccWrite a).trk j = s.trk j := by
  rcases s.eccWrite_shape a with ⟨m, e⟩ | ⟨m, e⟩ <;> rw [e]
  · rfl
  · exact State.setF_trk _ _ _ _ j
@[simp] theorem State.eccWrite_slot (s : State) (a : Nat) (j : Nat) : (s.eccWrite a).slot j = s.slot j := by
  rcases s.eccWrite_shape a with ⟨m, e⟩ | ⟨m, e⟩ <;> rw [e]
  · rfl
  · exact State.setF_slot _ _ _ _ j
@[simp] theorem State.eccWrite_enc (s : State) (a : Nat) (j : Nat) : (s.eccWrite a).enc j = s.enc j := by
  rcases s.eccWrite_shape a with ⟨m, e⟩ | ⟨m, e⟩ <;> rw [e]
  · rfl
  · exact State.setF_enc _ _ _ _ j
@[simp] theorem State.eccWrite_sig (s : State) (a : Nat) (j : Nat) : (s.eccWrite a).sig j = s.sig j := by
  rcases s.eccWrite_shape a with ⟨m, e⟩ | ⟨m, e⟩ <;> rw [e]
  · rfl
  · exact State.setF_sig _ _ _ _ j
@[simp] theorem State.eccWrite_core (s : State) (a : Nat) (j : Nat) : (s.eccWrite a).core j = s.core j := by
  rcases s.eccWrite_shape a with ⟨m, e⟩ | ⟨m, e⟩ <;> rw [e]
  · rfl
  · exact State.setF_core _ _ _ _ j
@[simp] theorem State.eccWrite_flow (s : State) (a : Nat) (j : Nat) : (s.eccWrite a).flow j = s.flow j := by
  rcases s.eccWrite_shape a with ⟨m, e⟩ | ⟨m, e⟩ <;> rw [e]
  · rfl
  · exact State.setF_flow _ _ _ _ j
@[simp] theorem State.eccWrite_dma (s : State) (a : Nat) (j : Nat) : (s.eccWrite a).dma j = s.dma j := by
  rcases s.eccWrite_shape a with ⟨m, e⟩ | ⟨m, e⟩ <;> rw [e]
  · rfl
  · exact State.setF_dma _ _ _ _ j
@[simp] theorem State.eccWrite_lane (s : State) (a : Nat) (j : Nat) : (s.eccWrite a).lane j = s.lane j := by
  rcases s.eccWrite_shape a with ⟨m, e⟩ | ⟨m, e⟩ <;> rw [e]
  · rfl
  · exact State.setF_lane _ _ _ _ j
@[simp] theorem State.eccWrite_lport (s : State) (a : Nat) (j : Nat) : (s.eccWrite a).lport j = s.lport j := by
  rcases s.eccWrite_shape a with ⟨m, e⟩ | ⟨m, e⟩ <;> rw [e]
  · rfl
  · exact State.setF_lport _ _ _ _ j
@[simp] theorem State.eccWrite_mac (s : State) (a : Nat) (j : Nat) : (s.eccWrite a).mac j = s.mac j := by
  rcases s.eccWrite_shape a with ⟨m, e⟩ | ⟨m, e⟩ <;> rw [e]
  · rfl
  · exact State.setF_mac _ _ _ _ j
@[simp] theorem State.eccWrite_can (s : State) (a : Nat) (j : Nat) : (s.eccWrite a).can j = s.can j := by
  rcases s.eccWrite_shape a with ⟨m, e⟩ | ⟨m, e⟩ <;> rw [e]
  · rfl
  · exact State.setF_can _ _ _ _ j
@[simp] theorem State.eccWrite_spi (s : State) (a : Nat) (j : Nat) : (s.eccWrite a).spi j = s.spi j := by
  rcases s.eccWrite_shape a with ⟨m, e⟩ | ⟨m, e⟩ <;> rw [e]
  · rfl
  · exact State.setF_spi _ _ _ _ j
@[simp] theorem State.eccWrite_now (s : State) (a : Nat) : (s.eccWrite a).now = s.now := by
  rcases s.eccWrite_shape a with ⟨m, e⟩ | ⟨m, e⟩ <;> rw [e]
  · rfl
  · exact State.setF_now _ _ _ _

end Sys2Proof.Machine
end

