-- ==== Sys2Proof/WellFormed.lean ====
section
/-! DEFINITION. Well-formed commands: the limits the manual sets to what a command can carry beside those its operand types
state already: access sizes and masters (R20, R297), register addresses (R6, R30), frame headers (R392), CAN frames (R416),
Ethernet frames (R407), and the levels a reading can have. -/

namespace Sys2Proof

/-- An access size of one, two or four bytes. -/
def sizeOk (n : Nat) : Bool := n == 1 || n == 2 || n == 4

/-- A master of R297: a processor, a DMA channel, the PCIe host, or a cascade device. -/
def masterOk (m : Nat) : Bool :=
  decide (m < 7) || (decide (0x10 ≤ m) && decide (m < 0x50)) || m == 0x50 || (decide (0x58 ≤ m) && decide (m < 0x60))

/-- A well-formed access. -/
def Access.wf (a : Access) : Bool := masterOk a.master && sizeOk a.size

/-- A well-formed shaft-link frame: every header field fits its bits (R392). -/
def Frame.wf (fr : Frame) : Bool :=
  decide (fr.type < 128) && decide (fr.src < 8) && decide (fr.dst < 8) && decide (fr.ttl < 16) &&
  decide (fr.seq < 65536) && decide (fr.tag < 65536) && decide (fr.status < 256) && decide (fr.payload.length ≤ 16383)

/-- Data bytes a data length code stands for (ISO 11898-1). -/
def dlcBytes (fdf : Bool) (dlc : Nat) : Nat :=
  if dlc ≤ 8 then dlc
  else if fdf then
    match dlc with
    | 9 => 12 | 10 => 16 | 11 => 20 | 12 => 24 | 13 => 32 | 14 => 48 | _ => 64
  else 8

/-- A well-formed CAN frame: the identifier fits its format, remote frames are classical and carry no data (R416). -/
def CanFrame.wf (fr : CanFrame) : Bool :=
  decide (fr.id < if fr.ide then 536870912 else 2048) && decide (fr.dlc < 16) && !(fr.rtr && fr.fdf) &&
  (if fr.rtr then fr.data.isEmpty else fr.data.length == dlcBytes fr.fdf fr.dlc)

/-- An access one Deputy copy presents is well formed. -/
def DepAccess.wf (x : DepAccess) : Bool := sizeOk x.size

/-- An absent or a well-formed access of a copy. -/
def depOk : Option DepAccess → Bool
  | none => true
  | some x => x.wf

/-- An Ethernet frame with its FCS is at least 64 bytes long. -/
def etherOk (bytes : List Byte) : Bool := decide (64 ≤ bytes.length)

/-- A register address is a word address (R6). -/
def wordAddrOk (addr : Word) : Bool := addr.toNat % 4 == 0

/-- A data codeword as the flash or the host store delivers it is 1,280 bytes at most; a slot is a list of codewords. -/
def codewordsOk (l : List (List Byte)) : Bool := l.all (fun c => decide (c.length ≤ 1280))

/-- A command is well formed. -/
def Instr.wf : Instr → Bool
  | .registerWrite _ a addr _ => a.wf && wordAddrOk addr
  | .stagingWrite _ a addr _ => a.wf && wordAddrOk addr
  | .deputyMismatch _ x y _ => depOk x && depOk y
  | .deputyTimeout _ x y _ => depOk x && depOk y
  | .loadSlotCheck _ x y => codewordsOk x && codewordsOk y
  | .loadSectionsDone _ x y => codewordsOk x && codewordsOk y
  | .canaryMeasurement _ _ _ _ code => decide (code < 65536)
  | .frameSig _ _ fr => fr.wf
  | .frameGev _ _ fr => fr.wf
  | .frameHeartbeat _ _ fr _ => fr.wf
  | .frameGmark _ _ fr => fr.wf
  | .frameStgCheck _ _ fr => fr.wf
  | .frameStgResult _ _ fr => fr.wf
  | .frameStgGroup _ _ fr => fr.wf
  | .frameStgApply _ _ fr => fr.wf
  | .frameStgConfirm _ _ fr => fr.wf
  | .frameStgCommit _ _ fr => fr.wf
  | .frameStgCancel _ _ fr => fr.wf
  | .frameTsReq _ _ fr => fr.wf
  | .frameTsGrant _ _ fr => fr.wf
  | .frameWr _ _ fr => fr.wf
  | .frameRd _ _ fr => fr.wf
  | .frameRdRsp _ _ fr => fr.wf
  | .frameWrRsp _ _ fr => fr.wf
  | .unknownFrameType _ _ fr => fr.wf
  | .macFrameReceive _ _ bytes => etherOk bytes
  | .pcieInboundAccess _ _ _ _ size _ => sizeOk size
  | .canFrameReceive _ _ fr _ => fr.wf
  | .chAdcSwtrig _ a _ _ => a.wf
  | .executeInstruction _ _ => true
  | .coreLoad _ _ => true
  | .loadDataReturn _ _ => true
  | .coreStore _ _ => true
  | .storeBufferDrain _ _ => true
  | .storeError _ _ => true
  | .fence _ _ => true
  | .fenceI _ _ => true
  | .ecall _ _ => true
  | .ebreak _ _ => true
  | .srtn _ _ => true
  | .xcall _ _ => true
  | .xrtn _ _ => true
  | .ertn _ _ => true
  | .quiesce _ _ => true
  | .wait _ _ => true
  | .interruptEntry _ _ => true
  | .cpSincos _ _ => true
  | .cpAtan2 _ _ => true
  | .cpSqrt _ _ => true
  | .cpRecip _ _ => true
  | .cpClarke _ _ => true
  | .cpIclarke _ _ => true
  | .cpPark _ _ => true
  | .cpIpark _ _ => true
  | .cpResult _ _ => true
  | .deputyAgreement _ _ _ => true
  | .deputySelfTestDone _ _ _ => true
  | .deputyResyncDone _ => true
  | .freeRunRequest _ _ => true
  | .conversionStartRequest _ _ => true
  | .samplingInstant _ _ => true
  | .conversionEnd _ _ _ => true
  | .resultDelivery _ _ => true
  | .sbyTakeOver _ a _ _ => a.wf
  | .sbyReturn _ a _ _ => a.wf
  | .sbyAbandon _ a _ _ => a.wf
  | .comparatorInputCrossing _ _ _ _ => true
  | .comparatorOutputChange _ _ _ => true
  | .commitArrival _ _ => true
  | .loopRunStart _ _ => true
  | .legWaitTimeout _ _ => true
  | .stNop _ _ => true
  | .stEnd _ _ => true
  | .stMov _ _ => true
  | .stAdd _ _ => true
  | .stSub _ _ => true
  | .stNeg _ _ => true
  | .stAbs _ _ => true
  | .stMin _ _ => true
  | .stMax _ _ => true
  | .stLim _ _ => true
  | .stShl _ _ => true
  | .stShr _ _ => true
  | .stMul _ _ => true
  | .stMac _ _ => true
  | .stMsu _ _ => true
  | .stAclr _ _ => true
  | .stAcca _ _ => true
  | .stAccl _ _ => true
  | .stAclm _ _ => true
  | .stRda _ _ => true
  | .stTbl _ _ => true
  | .stClarke _ _ => true
  | .stPark _ _ => true
  | .stIpark _ _ => true
  | .stIclarke _ _ => true
  | .stFwd _ _ => true
  | .stInv _ _ => true
  | .stSvpwm _ _ => true
  | .stSincos _ _ => true
  | .stCmt _ _ => true
  | .stCmtt _ _ => true
  | .stPub _ _ => true
  | .stSkc _ _ => true
  | .stAnd _ _ => true
  | .stOr _ _ => true
  | .stXor _ _ => true
  | .stBadop _ _ => true
  | .engineStateWrite _ a _ _ _ => a.wf
  | .accLo _ a _ _ => a.wf
  | .accHi _ a _ _ => a.wf
  | .pubQueueDrain _ _ => true
  | .tableWrite _ a _ _ _ _ _ => a.wf
  | .tblOpen _ a _ _ _ => a.wf
  | .tblCommit _ a _ _ _ => a.wf
  | .tblAbandon _ a _ _ _ => a.wf
  | .tableCheckDone _ _ _ => true
  | .sprTakeOver _ a _ _ => a.wf
  | .sprReturn _ a _ _ => a.wf
  | .sprAbandon _ a _ _ => a.wf
  | .carrierPeriodBoundary _ _ => true
  | .trailingEdge _ _ => true
  | .outputEdge _ _ _ => true
  | .eventCompareMatch _ _ _ => true
  | .fltAssert _ _ => true
  | .fltDeassert _ _ => true
  | .blankingWindowEnd _ _ => true
  | .protClear _ a _ _ => a.wf
  | .bridgeClear _ a _ _ => a.wf
  | .safeDtExpiry _ _ => true
  | .calibrationDone _ => true
  | .refLoss _ => true
  | .refValid _ _ => true
  | .holdoverEnd _ => true
  | .tbTimeLoRead _ a => a.wf
  | .tbVtimeLoRead _ a => a.wf
  | .angTpLoRead _ a _ => a.wf
  | .tbRateWrite _ a _ => a.wf
  | .tbAdjWrite _ a _ => a.wf
  | .tbStep _ a _ => a.wf
  | .tbVtOfsHiWrite _ a _ => a.wf
  | .adjDrained _ => true
  | .taHiWrite _ a _ _ => a.wf
  | .taCtlWrite _ a _ _ => a.wf
  | .timerAlarmFire _ _ => true
  | .cascLockAcquired _ => true
  | .angPulse _ _ _ => true
  | .angPulseAction _ _ => true
  | .coast _ _ => true
  | .angStall _ _ => true
  | .angPublish _ _ => true
  | .aevFire _ _ => true
  | .encOutputEdge _ _ => true
  | .signalValueWrite _ a _ _ => a.wf
  | .signalStatusWrite _ a _ _ => a.wf
  | .boundInputLoad _ _ _ => true
  | .publishQueueSend _ => true
  | .markedResend _ => true
  | .signalRefresh _ => true
  | .signalAgeExpiry _ _ => true
  | .fevEvent _ _ _ => true
  | .gevEvent _ _ => true
  | .faceFevFire _ a _ _ _ => a.wf
  | .gevFire _ a _ _ => a.wf
  | .stgCheckCmd _ a _ => a.wf
  | .stgArmCmd _ a _ => a.wf
  | .stgCancelCmd _ a _ => a.wf
  | .stgDiscardCmd _ a _ => a.wf
  | .stgCheckDone _ => true
  | .stgArmDone _ => true
  | .shiftChangeApply _ => true
  | .cascConfirmTimeout _ => true
  | .intDoorbell _ a _ => a.wf
  | .intPendWrite _ a _ _ => a.wf
  | .srcCfgWrite _ a _ _ => a.wf
  | .coalesceTimeout _ _ => true
  | .tgtComplete _ a _ _ => a.wf
  | .dmaCfgWrite _ a _ _ => a.wf
  | .dmaStart _ a _ _ => a.wf
  | .dmaStop _ a _ _ => a.wf
  | .dmaFlush _ a _ _ => a.wf
  | .dmaPointerWrite _ a _ _ _ => a.wf
  | .dmaRequest _ _ => true
  | .dmaBurstIssue _ _ => true
  | .dmaReadResponse _ _ => true
  | .dmaWriteResponse _ _ => true
  | .dmaDescriptorRead _ _ => true
  | .scrubRead _ _ => true
  | .tallyHeldReport _ => true
  | .tallyTake _ => true
  | .tallyTail _ a _ => a.wf
  | .tallySafeWrite _ a _ => a.wf
  | .tubCfg _ a _ => a.wf
  | .tubAlloc _ a => a.wf
  | .tubFree _ a _ => a.wf
  | .tubGive _ a _ => a.wf
  | .signalLaneRecord _ _ => true
  | .triggerCondition _ _ _ => true
  | .swtrig _ a _ _ => a.wf
  | .rel _ a _ _ => a.wf
  | .rearmEnd _ _ => true
  | .laneEnable _ a _ _ => a.wf
  | .laneDisable _ a _ _ => a.wf
  | .drainWrite _ _ => true
  | .pathWriteDone _ _ => true
  | .corerAck _ _ _ => true
  | .corerRto _ _ => true
  | .pathErrClear _ a _ => a.wf
  | .go _ a _ => a.wf
  | .storeReadDone _ _ => true
  | .modeRequestRun _ a _ => a.wf
  | .modeRequestLimp _ a _ => a.wf
  | .modeRequestHold _ a _ => a.wf
  | .modeRequestPark _ a _ => a.wf
  | .safeNAssert _ _ => true
  | .releaseOpen _ a _ => a.wf
  | .releaseComplete _ a _ => a.wf
  | .releaseWindowExpiry _ => true
  | .parkEntry _ => true
  | .parkTimeout _ => true
  | .wake _ _ => true
  | .powerOn _ _ _ => true
  | .brownOut _ _ => true
  | .resetNAssert _ => true
  | .softwareSystemReset _ a _ => a.wf
  | .softwareCoreReset _ a _ => a.wf
  | .coreStart _ _ => true
  | .loadStart _ _ => true
  | .modeEntry _ => true
  | .wdogKick _ a _ => a.wf
  | .deviceWatchdogExpiry _ => true
  | .cwdogEnable _ _ a _ => a.wf
  | .cwdogKick _ _ a _ => a.wf
  | .coreWatchdogExpiry _ _ => true
  | .updateWindowWrite _ a _ _ => a.wf
  | .verifyHdr _ a _ => a.wf
  | .verifySect _ a _ => a.wf
  | .updStage _ a _ => a.wf
  | .updClear _ a _ => a.wf
  | .verifyHdrDone _ => true
  | .verifySectDone _ => true
  | .updStageDone _ => true
  | .sliceDue _ _ => true
  | .tsReqGo _ a _ => a.wf
  | .sliceEnd _ _ _ _ => true
  | .sliceQuiesceTimeout _ _ => true
  | .sliceGrantTimeout _ => true
  | .loopbackMismatch _ _ _ => true
  | .serviceWithdraw _ a _ => a.wf
  | .serviceReturn _ a _ => a.wf
  | .debugAccessEnable _ _ => true
  | .laneLock _ _ _ => true
  | .laneUnlock _ _ _ => true
  | .portTimeout _ _ => true
  | .shlIdle _ _ _ => true
  | .shlTime _ _ _ _ _ => true
  | .shlCal _ _ _ => true
  | .wakeBlock _ _ => true
  | .shlAbort _ _ _ _ => true
  | .frameTransmit _ _ => true
  | .partialFrameTimeout _ _ _ _ => true
  | .remoteAccessTimeout _ _ => true
  | .heartbeatSend _ => true
  | .presenceTimeout _ _ => true
  | .isolation _ => true
  | .isolationHoldExpiry _ => true
  | .calRequestSend _ => true
  | .timeBlockSend _ => true
  | .shlWake _ a _ => a.wf
  | .macFrameTransmit _ _ => true
  | .ringEnable _ a _ _ _ _ => a.wf
  | .macLinkChange _ _ _ => true
  | .pcieOutboundCompletion _ _ _ => true
  | .pcieCompletionTimeout _ _ => true
  | .pcieMsixSend _ a _ => a.wf
  | .pcieLinkChange _ _ _ _ => true
  | .canCtlEnable _ a _ _ => a.wf
  | .canTxreq _ a _ _ => a.wf
  | .canTxabort _ a _ _ => a.wf
  | .canRxpop _ a _ _ => a.wf
  | .canFrameSent _ _ => true
  | .canBusOff _ _ => true
  | .xspiRead _ a _ => a.wf
  | .xspiWrite _ a _ => a.wf
  | .xspiProgram _ a _ => a.wf
  | .xspiErase _ a _ => a.wf
  | .xspiCommandDone _ _ => true
  | .gspiTxd _ a _ _ => a.wf
  | .gspiRx _ a _ => a.wf
  | .gspiFrameDone _ _ _ => true
  | .gspiPoll _ _ _ _ => true
  | .dapRead _ _ _ _ => true
  | .dapWrite _ _ _ _ _ => true
  | .dapStatus _ _ => true
  | .dapHalt _ _ => true
  | .dapResume _ _ => true
  | .dapSingleStep _ _ => true
  | .dapWakeRequest _ => true
  | .dapSystemReset _ => true
  | .jtagIdcode _ => true
  | .jtagSamplePreload _ => true
  | .jtagExtest _ => true
  | .jtagHighz _ => true
  | .jtagClamp _ => true
  | .jtagScan _ => true
  | .jtagBypass _ => true
  | .referenceSelect _ _ => true
  | .firstReferenceValid _ => true
  | .fvrefReady _ _ => true
  | .aevRearm _ _ => true
  | .scrubPassOverrun _ _ => true
  | .unknownControlBlock _ _ _ => true
  | .canBusError _ _ _ _ => true
  | .canBusOffRecovery _ _ => true
  | .testLogicReset _ => true

end Sys2Proof
end

