-- ==== Sys2Proof/Tests/Slice0.lean ====
section
/-! SUPPORT. Tests of the model: commands that the checks of WellFormed.lean refuse, and for each statement a concrete state and
operands that meet the hypotheses of its clauses, on which the command completes. A reset state has mode LOAD, device time 0 and
every register at its reset value. -/

namespace Sys2Proof.Tests

open Sys2Proof Sys2Proof.Machine Sys2Proof.Safety

-- One theorem at a time: each evaluates a run of its own, and together they would need more memory than there is.
set_option Elab.async false

/-! ## Helpers -/

/-- The reset state after these changes, the first one first. -/
def built (l : List (State → State)) : State := l.foldl (fun s f => f s) State.reset

/-- Field `f` of the register at `k` holds `v`. -/
def fl (k : Nat) (f : Fld) (v : Nat) : State → State := fun s => s.setReg k (f.put (s.reg k) v)

/-- The register at `k` holds `w`. -/
def rg (k : Nat) (w : Word) : State → State := fun s => s.setReg k w

/-- Device time is `n`. -/
def at_ (n : Time) : State → State := fun s => { s with tb := { s.tb with dev := n } }

/-- The mode is `m`. -/
def inMode (m : Nat) : State → State := fl R.MODE_STAT MODE_STAT.MODE m

/-- The command answers a next state that satisfies `p`. -/
def after (c : Instr) (s : State) (p : State → Bool) : Bool :=
  match Machine.exec c s with
  | .next t => p t
  | _ => false

/-- The command answers a next state. -/
def goes (c : Instr) (s : State) : Bool := after c s (fun _ => true)

/-- Its registers are changed by `g`, and what it has in flight by `h`. -/
def crg (p : Nat) (g : Core → Core) : State → State := fun s => s.updCore p g
def cfl (p : Nat) (h : CoreFlow → CoreFlow) : State → State := fun s => s.updFlow p h

/-- A store of 9 to the last word of system RAM. -/
def buffered : BufStore := { addr := 0x203FFFFC, va := 0x203FFFFC, size := 4, data := 9, world := .pit, sup := true }

/-- Device 0 with this role, both ports UP, and these changes. -/
def linked (role : Nat) (l : List (State → State)) : State :=
  built ([fun s => { s with io := { s.io with link := { role := role } } }, fl (R.SHL_PORT 0) SHL_PORT.UP 1, fl (R.SHL_PORT 1) SHL_PORT.UP 1] ++ l)

/-- Whole words by the Judge in Pit world, Supervisor level; and by Hewer 2 and DMA channel 0 in Bank world. -/
def pit : Access := { master := 4, world := .pit, sup := true, size := 4 }
def bank : Access := { master := 2, world := .bank, sup := true, size := 4 }
def bankDma : Access := { master := 16, world := .bank, sup := true, size := 4 }

theorem test_pitWord : PitWord pit := ⟨rfl, rfl⟩
theorem test_pitSup : PitSup pit := ⟨rfl, rfl, rfl⟩

/-- A frame from device 2 for device `dst` with nothing but its payload. -/
def bare (dst : Nat) (payload : List Word) : Frame :=
  { express := true, type := 3, src := 2, world := .pit, odir := false, dst := dst, bcast := false, turned := false, ttl := 8, seq := 0,
    addr := 0, tag := 0, status := 0, payload := payload, crc := 0 }

/-- A classical CAN frame with a standard identifier. -/
def canFr (id dlc : Nat) (data : List Byte) : CanFrame :=
  { ide := false, rtr := false, fdf := false, id := id, brs := false, esi := false, dlc := dlc, data := data }

/-! ## WellFormed: each check refuses a command -/

theorem test_wf_access : (Instr.tubAlloc 0 pit).wf = true ∧ (Instr.tubAlloc 0 { pit with size := 3 }).wf = false ∧
    (Instr.tubAlloc 0 { pit with master := 7 }).wf = false ∧ (Instr.tubAlloc 0 { pit with master := 0x4F }).wf = true ∧
    (Instr.tubAlloc 0 { pit with master := 0x51 }).wf = false := by decide +kernel

theorem test_wf_wordAddr : (Instr.registerWrite 0 pit 0x04000000 0).wf = true ∧ (Instr.registerWrite 0 pit 0x04000002 0).wf = false ∧
    (Instr.stagingWrite 0 pit 0x04000001 0).wf = false := by decide +kernel

theorem test_wf_frame : (Instr.frameSig 0 0 (bare 7 [])).wf = true ∧ (Instr.frameSig 0 0 (bare 8 [])).wf = false ∧
    (Instr.frameSig 0 0 { bare 7 [] with ttl := 16 }).wf = false ∧ (Instr.frameSig 0 0 { bare 7 [] with type := 128 }).wf = false ∧
    (Instr.frameSig 0 0 { bare 7 [] with src := 8 }).wf = false ∧ (Instr.frameSig 0 0 { bare 7 [] with seq := 65536 }).wf = false ∧
    (Instr.frameSig 0 0 { bare 7 [] with tag := 65536 }).wf = false ∧
    (Instr.frameSig 0 0 { bare 7 [] with status := 256 }).wf = false := by decide +kernel

theorem test_wf_can : (Instr.canFrameReceive 0 0 (canFr 0x7FF 1 [9]) 0).wf = true ∧
    (Instr.canFrameReceive 0 0 (canFr 0x800 1 [9]) 0).wf = false ∧ (Instr.canFrameReceive 0 0 (canFr 1 2 [9]) 0).wf = false ∧
    (Instr.canFrameReceive 0 0 (canFr 1 16 []) 0).wf = false ∧
    (Instr.canFrameReceive 0 0 { canFr 1 1 [9] with rtr := true } 0).wf = false ∧
    (Instr.canFrameReceive 0 0 { canFr 1 0 [] with rtr := true, fdf := true } 0).wf = false := by decide +kernel

theorem test_wf_other : (Instr.deputyMismatch 0 (some ⟨true, .pit, 0, 3, 0⟩) none true).wf = false ∧
    (Instr.deputyMismatch 0 (some ⟨true, .pit, 0, 4, 0⟩) none true).wf = true ∧
    (Instr.loadSlotCheck 0 [List.replicate 1281 0] []).wf = false ∧ (Instr.loadSlotCheck 0 [List.replicate 1280 0] []).wf = true ∧
    (Instr.canaryMeasurement 0 0 .vdda 0 65536).wf = false ∧ (Instr.canaryMeasurement 0 0 .vdda 0 65535).wf = true ∧
    (Instr.macFrameReceive 0 0 (List.replicate 63 0)).wf = false ∧ (Instr.macFrameReceive 0 0 (List.replicate 64 0)).wf = true ∧
    (Instr.pcieInboundAccess 0 .bar0 true 0 3 0).wf = false ∧ (Instr.pcieInboundAccess 0 .bar0 true 0 2 0).wf = true := by
  decide +kernel

/-! ## Steps and registers -/

theorem test_step : (Machine.step { State.reset with pending := [.firstReferenceValid 0] }) =
    Machine.exec (.firstReferenceValid 0) State.reset ∧ Machine.step State.reset = .next State.reset ∧
    goes (.firstReferenceValid 0) State.reset = true ∧ Memory.wf State.reset.mem = true := ⟨rfl, rfl, by decide +kernel, by decide +kernel⟩

theorem test_secDed : (errorSyndrome 0 = 0 ∧ errorOdd 0 = false) ∧ (errorSyndrome 1 = 0 ∧ errorOdd 1 = true) ∧
    (errorSyndrome 2 = 1 ∧ errorOdd 2 = true) ∧ (errorSyndrome (1#39 <<< 38) = 38 ∧ errorOdd (1#39 <<< 38) = true) ∧
    (errorSyndrome (1#39 ^^^ 1#39 <<< 38 ^^^ 1#39 <<< 1) = 39 ∧ errorOdd (1#39 ^^^ 1#39 <<< 38 ^^^ 1#39 <<< 1) = true) ∧
    (errorSyndrome 3 = 1 ∧ errorOdd 3 = false) := by decide +kernel

theorem test_registerWrites :
    (CleanWord R.TB_STEP_LO 5 = true ∧ goes (.registerWrite 0 pit (BitVec.ofNat 32 R.TB_STEP_LO) 5) State.reset = true) ∧
    (CleanWord R.MI_STAT 1 = true ∧ AMap.get 0 State.reset.hwSet R.MI_STAT = 0 ∧
      goes (.registerWrite 0 pit (BitVec.ofNat 32 R.MI_STAT) 1) State.reset = true) ∧
    (CleanWord R.IDREV 0 = true ∧ goes (.registerWrite 0 pit (BitVec.ofNat 32 R.IDREV) 0) State.reset = true) ∧
    (CleanWord (R.GSPI_PEXP 7 3) 1 = true ∧ (State.reset.flow bank.master).storeErr = none ∧ State.reset.lg.held = [] ∧
      State.reset.lg.queue.length < 16 ∧
      after (.registerWrite 0 bank (BitVec.ofNat 32 (R.GSPI_PEXP 7 3)) 1) State.reset (fun t => t.lg.queue.length == 1) = true) ∧
    after (.registerWrite 0 bankDma (BitVec.ofNat 32 R.MI_INJ_LO) 1) State.reset (fun t => t.flag (R.DMA_STAT 0) DMA_STAT.ERR) = true ∧
    after (.registerWrite 0 bankDma 0x1FFFFFFC 1) State.reset (fun t => t.flag (R.DMA_STAT 0) DMA_STAT.ERR) = true := by
  decide +kernel

/-! ## Loop engines -/

/-- A run that stands at step 0 of a program whose first step is this one, IMM 7. -/
def runOf (op dst sa sb sh aux : Nat) : Run :=
  { program := [(7, encodeStepHi { op := op, dst := dst, sa := sa, sb := sb, sh := sh, aux := aux, imm := 7 })] }

/-- Engine 3 runs it. -/
def running (r : Run) (l : List (State → State)) : State :=
  built ((fun s => s.setEng 3 { run := some r, w := [(1, 5)], acc := 9 }) :: l)

theorem test_running (r : Run) : Running (running r []) 3 r := ⟨rfl, rfl, rfl, fun _ _ => rfl⟩

/-- The operation of each arithmetic step, and its command at engine 3. -/
def arithmetic : List (Nat × Instr) :=
  [(0x03, .stAdd 0 3), (0x04, .stSub 0 3), (0x0C, .stMul 0 3), (0x07, .stMin 0 3), (0x08, .stMax 0 3), (0x1A, .stAnd 0 3),
   (0x1B, .stOr 0 3), (0x1C, .stXor 0 3), (0x02, .stMov 0 3), (0x05, .stNeg 0 3), (0x06, .stAbs 0 3), (0x0A, .stShl 0 3),
   (0x0B, .stShr 0 3), (0x13, .stRda 0 3), (0x09, .stLim 0 3), (0x0D, .stMac 0 3), (0x0E, .stMsu 0 3), (0x0F, .stAclr 0 3),
   (0x10, .stAcca 0 3), (0x11, .stAccl 0 3), (0x12, .stAclm 0 3)]

theorem test_arithmeticSteps : ∀ x ∈ arithmetic, (runOf x.1 2 32 17 3 0).step.op = x.1 ∧
    after x.2 (running (runOf x.1 2 32 17 3 0) []) (fun t => (t.eng 3).run == some { runOf x.1 2 32 17 3 0 with pc := 1 }) = true := by
  decide +kernel

theorem test_steering : ∀ x ∈ [(0x00, Instr.stNop 0 3), (0x1D, .stBadop 0 3), (0x3F, .stBadop 0 3), (0x19, .stSkc 0 3)],
    (runOf x.1 2 32 17 3 0).step.op = x.1 ∧ GoesOn (runOf x.1 2 32 17 3 0) 1 ∧
    (running (runOf x.1 2 32 17 3 0) []).takesEffect 3 = true ∧ goes x.2 (running (runOf x.1 2 32 17 3 0) []) = true := by
  unfold GoesOn; decide +kernel

theorem test_steering_end : (runOf 1 0 0 0 0 0).step.op = 1 ∧ (running (runOf 1 0 0 0 0 0) []).takesEffect 3 = true ∧
    after (.stEnd 0 3) (running (runOf 1 0 0 0 0 0) []) (fun t => (t.eng 3).run == none && t.fld (R.LE_STAT 3) LE_STAT.RUN_CNT == 1) = true ∧
    skcHolds ((runOf 0x19 0 32 32 2 0).step.aux % 8) 7 7 = true := by decide +kernel

theorem test_sending : (∀ x ∈ [(0x16, Instr.stCmt 0 3), (0x17, .stCmtt 0 3)], (runOf x.1 0 32 0 0 0).step.op = x.1 ∧
      (running (runOf x.1 0 32 0 0 0) []).leaderOf 3 = 3 ∧
      after x.2 (running (runOf x.1 0 32 0 0 0) []) (fun t => (t.chan 3).commits.length == 1) = true ∧
      after x.2 (running (runOf x.1 0 32 0 0 7) []) (fun t => t.flag (R.LE_STAT 3) LE_STAT.CMT_REJ) = true) ∧
    after (.stPub 0 3) (running (runOf 0x18 0 32 0 0 0) []) (fun t => (t.eng 3).pubq == [⟨7, 7, 0⟩]) = true := by decide +kernel

theorem test_transforms : ∀ x ∈ [(0, Instr.stClarke 0 3), (1, .stPark 0 3), (2, .stIpark 0 3), (3, .stIclarke 0 3), (4, .stFwd 0 3),
      (5, .stInv 0 3), (6, .stSvpwm 0 3), (7, .stSincos 0 3)],
    (runOf 0x15 0 32 0 0 x.1).step.op = 0x15 ∧ (runOf 0x15 0 32 0 0 x.1).step.aux % 8 = x.1 ∧
    (running (runOf 0x15 0 32 0 0 x.1) [fl (R.FACE_XU_CFG 0) FACE_XU_CFG.OWNER0 3]).ownsUnit 3 = true ∧
    (running (runOf 0x15 0 32 0 0 x.1) [fl (R.FACE_XU_CFG 0) FACE_XU_CFG.OWNER0 4, fl (R.FACE_XU_CFG 0) FACE_XU_CFG.OWNER1 4]).ownsUnit 3
      = false ∧
    goes x.2 (running (runOf 0x15 0 32 0 0 x.1) [fl (R.FACE_XU_CFG 0) FACE_XU_CFG.OWNER0 3]) = true := by decide +kernel

/-- Engine 3 and the spare of its face run a pair: the spare waits at a transform until engine 3 has passed it. -/
def paired (pc : Nat) : State :=
  let r := { runOf 0x15 0 32 0 0 1 with pair := true }
  running { r with pc := pc } [fl (R.FACE_SPR_STAT 0) FACE_SPR_STAT.STATE 1, fl (R.FACE_SPR_STAT 0) FACE_SPR_STAT.CUR_TARGET 3,
    fun s => s.setEng 128 { run := some r }]

theorem test_transform_waits : (paired 0).xfmWaits 128 = true ∧ (paired 1).xfmWaits 128 = false ∧
    after (.stPark 0 128) (paired 0) (fun t => (t.eng 128).run == ((paired 0).eng 128).run) = true := by decide +kernel

/-- A step TBL of a table of `2 ^ l` intervals, bank 1. -/
def tblRun (l : Nat) : Run := { runOf 0x14 2 32 0 0 4 with banks := [(4, 1 + 2 * l)] }

theorem test_table : ∀ l ∈ [1, 9], (tblRun l).step.op = 0x14 ∧ 1 ≤ AMap.get 2 (tblRun l).banks 4 / 2 ∧ AMap.get 2 (tblRun l).banks 4 / 2 ≤ 9 ∧
    (running (tblRun l) []).eccMask (tableAddr 0 4 1 0) = 0 ∧ (running (tblRun l) []).eccMask (tableAddr 0 4 1 1) = 0 ∧
    after (.stTbl 0 3) (running (tblRun l) [rg (tableAddr 0 4 1 0) 12, rg (tableAddr 0 4 1 1) 12]) (fun t => t.wreg 3 2 == 12) = true := by
  decide +kernel

/-- Engine 3 runs a step with these working registers and accumulator. -/
def runsWith (r : Run) (w : AMap Word) (acc : Int) (l : List (State → State)) : State :=
  built ((fun s => s.setEng 3 { run := some r, w := w, acc := acc }) :: l)

/-- What sets SAT, XFM_REJ, MEMERR: a sum, a read of ACCS, an engine that owns no unit, a bad table entry. -/
theorem test_stepFlags :
    let sat := fun (t : State) => t.flag (R.LE_STAT 3) LE_STAT.SAT
    let own := fl (R.FACE_XU_CFG 0) FACE_XU_CFG.OWNER0 3
    let x := runOf 0x15 0 32 0 0 0
    after (.stAdd 0 3) (runsWith (runOf 3 2 32 17 0 0) [(1, 0x7FFFFFFF)] 0 []) (fun t => sat t && t.wreg 3 2 == 0x7FFFFFFF) = true ∧
    after (.stAdd 0 3) (runsWith (runOf 3 2 32 17 0 0) [(1, 5)] 0 []) (fun t => !sat t) = true ∧
    after (.stMov 0 3) (runsWith (runOf 2 2 33 0 0 0) [] 0x80000000 []) (fun t => sat t && t.wreg 3 2 == 0x7FFFFFFF) = true ∧
    goes (.stClarke 0 3) (runsWith x [(0, 0x80000000)] 0 [own]) = true ∧
    after (.stClarke 0 3) (runsWith x [] 0 [fl (R.FACE_XU_CFG 0) FACE_XU_CFG.OWNER0 4, fl (R.FACE_XU_CFG 0) FACE_XU_CFG.OWNER1 4])
      (fun t => t.flag (R.LE_STAT 3) LE_STAT.XFM_REJ) = true ∧
    after (.stTbl 0 3) (running (tblRun 1) [fun s => s.setEcc (tableAddr 0 4 1 0) 3])
      (fun t => t.flag (R.LE_STAT 3) LE_STAT.MEMERR && t.wreg 3 2 == 0x7FFFFFFF) = true := by decide +kernel

theorem test_table_bad : ∃ x, eccRead 0 3 = .bad x := ⟨(eccRead 0 3).word, by decide +kernel⟩

/-- Writes that wait for the end of the run: the later of two of a working register prevails. -/
theorem test_end_writes :
    let s := running (runOf 1 0 0 0 0 0) [fun s => s.updEng 3 (fun q => { q with waiting := [.w 2 7, .acc 1 (some 4), .w 2 8] })]
    (s.eng 3).loadAtEnd = false ∧
    after (.stEnd 0 3) s (fun t => t.wreg 3 2 == 8 && t.wreg 3 1 == 5 && (t.eng 3).acc == 0x100000004 && (t.eng 3).waiting == []) = true := by
  decide +kernel

theorem test_engineState : goes (.engineStateWrite 0 pit 3 7 5) State.reset = true ∧
    after (.engineStateWrite 0 pit 3 7 5) (running (runOf 0 0 0 0 0 0) []) (fun t => (t.eng 3).waiting == [.w 7 5]) = true ∧
    goes (.accLo 0 pit 3 5) State.reset = true ∧ goes (.accHi 0 pit 3 5) State.reset = true := by decide +kernel

/-- A run of channel 3 has been requested. -/
def requested (l : List (State → State)) : State := built ((fun s => s.setEng 3 { starts := 1 }) :: l)

theorem test_runStart : (requested []).eng 3 = { starts := 1 } ∧
    ((requested [fl (R.FACE_CG_STAT ((requested []).cgOf 3)) FACE_CG_STAT.RUN 1]).groupRuns ((requested []).cgOf 3) = true ∧
      ∀ x ∈ (requested []).enginesOf 3, ((requested []).eng x).run = none) ∧
    after (.loopRunStart 0 3) (requested [fl (R.FACE_CG_STAT ((requested []).cgOf 3)) FACE_CG_STAT.RUN 1])
      (fun t => (t.eng 3).run.isSome && (t.eng 3).starts == 0) = true ∧
    after (.loopRunStart 0 3) (built [fun s => s.setEng 3 { starts := 1, run := some {} }]) (fun t => t.flag (R.LE_STAT 3) LE_STAT.OVR) = true ∧
    after (.legWaitTimeout 0 3) (built [at_ 20000, fun s => s.setEng 3 { firstAt := some 0 }])
      (fun t => (t.eng 3).legMiss && (t.eng 3).starts == 1) = true := by decide +kernel

theorem test_runStart_words : ∀ i h, (requested []).eccMask (stepAddr 3 i h) = 0 := fun _ _ => rfl

/-- A command of a table: in each case its word is clean, and the command completes when it is accepted and when it is rejected. -/
theorem test_tables :
    let k := R.FACE_TBL_STAT 2 5
    let opened := built [fl k FACE_TBL_STAT.OUTSTANDING 1]
    let checking := built [fl k FACE_TBL_STAT.CHECKING 1, fun s => s.setTblOf 69 { captured := 1 }]
    after (.tableWrite 0 pit 2 5 true 512 7) opened (fun t => t.reg (tableAddr 2 5 1 512) == 7) = true ∧
    after (.tableWrite 0 pit 2 5 false 0 7) opened (fun t => t.flag k FACE_TBL_STAT.WR_REJ) = true ∧
    CleanWord (R.FACE_TBL_CTL 2 5) (FACE_TBL_CTL.OPEN.put 0 1) = true ∧
    after (.tblOpen 0 pit 2 5 1) State.reset (fun t => t.flag k FACE_TBL_STAT.OUTSTANDING) = true ∧
    CleanWord (R.FACE_TBL_CTL 2 5) (FACE_TBL_CTL.COMMIT.put 0 1) = true ∧
    after (.tblCommit 0 pit 2 5 0) opened (fun t => t.flag k FACE_TBL_STAT.CHECKING) = true ∧
    CleanWord (R.FACE_TBL_CTL 2 5) (FACE_TBL_CTL.ABANDON.put 0 1) = true ∧
    after (.tblAbandon 0 pit 2 5 0) opened (fun t => !t.flag k FACE_TBL_STAT.OUTSTANDING) = true ∧
    checking.flag k FACE_TBL_STAT.CHECKING = true ∧ checking.ecc = [] ∧
    after (.tableCheckDone 0 2 5) checking (fun t => t.flag k FACE_TBL_STAT.FAIL && !t.flag k FACE_TBL_STAT.CHECKING) = true ∧
    after (.tableCheckDone 0 2 5) (checking.setReg (R.FACE_TBL_CRC 2 5) (crc32 (List.replicate 12 0)))
      (fun t => t.fld k FACE_TBL_STAT.ACTIVE == 1 && !t.flag k FACE_TBL_STAT.FAIL) = true := by decide +kernel

/-! ## Channels -/

theorem test_requests :
    let sw := built [fl (R.CH_ADC_CFG 9) CH_ADC_CFG.SRC 2]
    let free := built [fl (R.CH_ADC_CFG 9) CH_ADC_CFG.SRC 3, fun s => s.setChan 9 { freeNext := some 0 }]
    (CleanWord (R.CH_ADC_SWTRIG 9) 1 = true ∧ CH_ADC_SWTRIG.GO.get 1 = 1 ∧ sw.adcSrc 9 ≠ 0 ∧
      after (.chAdcSwtrig 0 pit 9 1) sw (fun t => (t.conv 9).reqs.length == 1) = true) ∧
    ((free.chan 9).freeNext = some 0 ∧ Time.reached free.now 0 = true ∧ free.adcSrc 9 = 3 ∧ free.inPeriod 9 (0 + free.smpDly 9) = true ∧
      free.adcInterval 9 ≠ 0 ∧ after (.freeRunRequest 0 9) free (fun t => (t.conv 9).reqs.length == 1) = true) := by decide +kernel

theorem test_conversionStart :
    let r : StartReq := { inst := 0, sched := false }
    let s := fun (c : Nat) (busy : Bool) => built [fun s => s.setConv c { reqs := [r], accepted := if busy then some r else none }]
    ∀ c ∈ [Conv.own 127, .sby 7], ((s c.key false).conv c.key).nextReq (s c.key false).now = some r ∧ (s c.key false).mode ≠ mPark ∧
      ((s c.key false).conv c.key).busyAt 0 = false ∧ ((s c.key true).conv c.key).busyAt 0 = true ∧
      after (.conversionStartRequest 0 c) (s c.key false) (fun t => (t.conv c.key).accepted.isSome) = true ∧
      after (.conversionStartRequest 0 c) (s c.key true) (fun t => t.flag (R.CH_ADC_STAT (t.convChan c.key)) CH_ADC_STAT.OVR) = true := by
  decide +kernel

theorem test_conversionDisplaces :
    let r : StartReq := { inst := 0, sched := true }
    let s := built [at_ 100000, fun s => s.setConv 5 { reqs := [r], accepted := some { r with inst := 90000, at_ := 80000 } }]
    (s.conv 5).nextReq s.now = some r ∧ (s.conv 5).busyAt 0 = false ∧ (s.conv 5).displaced = true ∧
    after (.conversionStartRequest 0 (.own 5)) s (fun t => t.fld (R.CH_ADC_STAT 5) CH_ADC_STAT.OVR_CNT == 1) = true := by decide +kernel

theorem test_samplingAndEnd :
    let r : StartReq := { inst := 0, sched := true }
    let s := built [fl (R.FACE_CG_STAT 0) FACE_CG_STAT.RUN 1, fun s => s.setConv 5 { accepted := some r }]
    let q : Sample := { inst := 0, chan := 5, gain := 0, gsettle := false, short := false, mark := 0 }
    let u := built [at_ 8000, fun s => s.setConv 5 { sample := some q }]
    ((s.conv 5).accepted = some r ∧ Time.reached s.now r.inst = true ∧ s.groupRuns (s.cgOf (s.convChan 5)) = true ∧
      after (.samplingInstant 0 (.own 5)) s (fun t => (t.conv 5).sample.isSome) = true) ∧
    ((u.conv 5).sample = some q ∧ Time.reached u.now (q.inst + 8000) = true ∧ q.chan < 128 ∧
      after (.conversionEnd 0 (.own 5) 0x7FFF) u (fun t => t.flag (R.CH_ADC_STAT 5) CH_ADC_STAT.CLIP &&
        t.fld (R.CH_RESULT 5) CH_RESULT.SEQ == 1 && (t.chan 5).results.length == 1) = true) := by decide +kernel

/-- The path samples +0.75 of full scale: the code is not that of the pins. -/
theorem test_internal_source :
    let q : Sample := { inst := 0, chan := 5, gain := 0, gsettle := false, short := false, mark := 0, insel := 2 }
    let s := built [at_ 8000, fun s => s.setConv 5 { sample := some q }]
    (s.conv 5).sample = some q ∧ goes (.conversionEnd 0 (.own 5) 0) s = true := by decide +kernel

theorem test_delivery :
    let x : Corrected := { value := 3, clip := true, short := false, gsettle := false, sby := false, inst := 0 }
    let s := built [fun s => s.setChan 5 { results := [x] }]
    (s.chan 5).results = [x] ∧ (s.chan 5).decCnt = 0 ∧ (s.chan 5).decSum = 0 ∧ (s.chan 5).decFlags = 0 ∧ (s.chan 5).decFrom = none ∧
    s.decOf 5 = 0 ∧ after (.resultDelivery 0 5) s (fun t => (t.eng 5).result == 0x30000 && (t.eng 5).resultFlg == 1) = true := by
  decide +kernel

theorem test_standby :
    let busy := built [fl (R.FACE_SBY_STAT 3) FACE_SBY_STAT.PEND 1]
    let st := fun (n : Nat) => built [fl (R.FACE_SBY_STAT 3) FACE_SBY_STAT.STATE n, fl (R.CH_ADC_CFG 48) CH_ADC_CFG.ACQ 16]
    (∀ code ∈ [1, 2, 3], CleanWord (R.FACE_SBY_CTL 3) (FACE_SBY_CTL.CMD.put 0 code) = true) ∧ (st 0).sliceOn 0 3 = none ∧
    (st 0).adcSrc 48 ≠ 3 ∧ 16 ≤ (st 0).acqNs 48 ∧
    after (.sbyTakeOver 0 pit 3 0) (st 0) (fun t => (t.sbyOf 3).pend == 1) = true ∧
    after (.sbyReturn 0 pit 3 0) (st 2) (fun t => (t.sbyOf 3).pend == 2) = true ∧
    after (.sbyAbandon 0 pit 3 0) (st 1) (fun t => (t.sbyOf 3).pend == 3) = true ∧
    after (.sbyAbandon 0 pit 3 0) busy (fun t => t.flag (R.FACE_SBY_STAT 3) FACE_SBY_STAT.CMD_REJECT) = true := by decide +kernel

theorem test_spare :
    let st := fun (n : Nat) => built [fl (R.FACE_SPR_STAT 3) FACE_SPR_STAT.STATE n, fl (R.LE_CFG 48) LE_CFG.START 1]
    (∀ code ∈ [1, 2, 3], CleanWord (R.FACE_SPR_CTL 3) (FACE_SPR_CTL.CMD.put 0 code) = true) ∧ (st 0).sliceOn 2 3 = none ∧
    (st 0).leStart 48 ≠ 0 ∧
    after (.sprTakeOver 0 pit 3 0) (st 0) (fun t => (t.sprOf 3).pend == 1) = true ∧
    after (.sprReturn 0 pit 3 0) (st 2) (fun t => (t.sprOf 3).pend == 2) = true ∧
    after (.sprAbandon 0 pit 3 0) (st 3) (fun t => (t.sprOf 3).pend == 3) = true ∧
    after (.sprReturn 0 pit 3 0) (st 0) (fun t => t.flag (R.FACE_SPR_STAT 3) FACE_SPR_STAT.CMD_REJECT) = true := by decide +kernel

/-- Group 0 runs in a period of `len` tq that began at 0. -/
def carrier (len : Nat) (l : List (State → State)) : State :=
  built ([fl (R.FACE_CG_STAT 0) FACE_CG_STAT.RUN 1, rg (R.FACE_CG_PERIOD 0) (BitVec.ofNat 32 len), fun s => s.setGroup 0 { len := len }] ++ l)

theorem test_commits :
    let c : Commit := { frac := false, value := 60000 }
    let s := fun (e : Nat) => carrier 100000 [at_ 50000, fun s => s.setChan 5 { commits := [c], eCur := e }]
    let stopped := built [fun s => s.setChan 5 { commits := [c] }]
    (∀ e ∈ [70000, 51000], ((s e).chan 5).commits = [c] ∧ (s e).permitted 5 = true ∧ (s e).groupRuns ((s e).cgOf 5) = true ∧
      Time.reached (s e).now ((s e).nextBoundary ((s e).cgOf 5)) = false) ∧
    after (.commitArrival 0 5) (s 70000) (fun t => (t.chan 5).eCur == 60000 && t.flag (R.CH_COMMIT_STAT 5) CH_COMMIT_STAT.SAME) = true ∧
    after (.commitArrival 0 5) (s 51000) (fun t => t.flag (R.CH_COMMIT_STAT 5) CH_COMMIT_STAT.LATE) = true ∧
    stopped.groupRuns (stopped.cgOf 5) = false ∧
    after (.commitArrival 0 5) stopped (fun t => t.reg (R.CH_DUTY_LIVE 5) == 60000) = true := by decide +kernel

theorem test_commit_blocked :
    let c : Commit := { frac := false, value := 60000 }
    let s := carrier 100000 [inMode 1, at_ 50000, fun s => s.setChan 5 { commits := [c], eCur := 70000 }]
    s.mode = mCommission ∧ s.bankBit (R.MODE_PERMIT 0) 5 = false ∧ Time.reached s.now (s.nextBoundary (s.cgOf 5)) = false ∧
    after (.commitArrival 0 5) s (fun t => t.flag (R.LE_STAT 5) LE_STAT.CMT_BLK && (t.chan 5).eCur == 70000) = true := by decide +kernel

theorem test_comparators :
    let s := built [fl (R.CH_CMP_CFG 5) CH_CMP_CFG.B_EN 1, fun s => s.setChan 5 { cmpB := { raw := true, since := some 0 } }, at_ 20000]
    (s.mode ≠ mPark ∧ s.cmpEn 5 true = true ∧ goes (.comparatorInputCrossing 0 5 .b 40) s = true) ∧
    s.testedCmp 5 = none ∧ (((s.chan 5).cmp true).since = some 0 ∧ Time.reached s.now (0 + BitVec.ofNat 64 (s.cmpFilt 5 true)) = true ∧
      after (.comparatorOutputChange 0 5 .b) s (fun t => t.flag (R.CH_CMP_STAT 5) CH_CMP_STAT.B_HIT) = true) := by decide +kernel

theorem test_periods :
    let s := carrier 100000 [at_ 100000]
    let u := carrier 100000 [at_ 40000, rg (R.CH_PWM_EVC1 5) 30000, fun s => s.setChan 5 { eCur := 40000 }]
    (s.boundaryDue 0 = true ∧ s.corrHeld 0 (s.nextBoundary 0) = false ∧
      after (.carrierPeriodBoundary 0 0) s (fun t => (t.group 0).start == 100000) = true) ∧
    (u.trailOpen 5 = true ∧ Time.reached u.now ((u.group (u.cgOf 5)).start + BitVec.ofNat 64 (u.chan 5).eCur) = true ∧
      after (.trailingEdge 0 5) u (fun t => (t.chan 5).fired) = true) ∧
    (u.evcOpen 5 1 = true ∧ Time.reached u.now ((u.group (u.cgOf 5)).start + BitVec.ofNat 64 (u.evcOf 5 1)) = true ∧
      after (.eventCompareMatch 0 5 1) u (fun t => (t.chan 5).evc1) = true) := by decide +kernel

theorem test_edges :
    let s := fun (e : Edge) (low : Bool) => built [fun s => s.setChan 5 { edges := [e], outL := low, row := 5 }]
    let up : Edge := { side := .hi, on := true, due := 0 }
    (((s up false).chan 5).dueEdge .hi (s up false).now = some up ∧
      ((s up false).chan 5).edges.any (fun x => x.side == Side.hi.other && !x.on && !x.supp && Time.reached up.due x.due) = false) ∧
    after (.outputEdge 0 5 .hi) (s up false) (fun t => (t.chan 5).outH) = true ∧
    after (.outputEdge 0 5 .hi) (s up true) (fun t => !(t.chan 5).outH && (t.chan 5).heldOf .hi) = true ∧
    after (.outputEdge 0 5 .hi) (s { up with supp := true } false) (fun t => t.flag (R.CH_PROT_STAT 5) CH_PROT_STAT.SUPP) = true ∧
    after (.outputEdge 0 5 .lo) (s { up with side := .lo, on := false } true) (fun t => !(t.chan 5).outL) = true ∧
    goes (.safeDtExpiry 0 5) (built [fun s => s.setChan 5 { safeOnAt := some 0, row := 1 }]) = true := by decide +kernel

/-- Channel 5, whose fault input is high and latches it, with these changes. -/
def armed (c : Channel) (l : List (State → State)) : State :=
  built ([fl (R.CH_PROT_CFG 5) CH_PROT_CFG.FLT_ACT 2, fun s => s.setChan 5 c] ++ l)

theorem test_trips :
    let free := fun (s : State) => s.isSafe 5 = false ∧ s.escLegs (s.leaderOf 5) = 0
    let s := armed { fltLow := false, outH := true, row := 5 } [fl (R.BR_SAFE_CFG 5) BR_SAFE_CFG.ESC_LEGS 0]
    let b := armed { fltLow := false, outH := true, row := 5, blankEnd := some 1000 } []
    let e := armed { fltLow := true, row := 5, blankEnd := some 0 } []
    ((s.chan 5).fltLow = false ∧ s.blankOpen 5 = false ∧ s.srcAction 5 0 = 2 ∧ s.flag (R.CH_PROT_STAT 5) CH_PROT_STAT.LATCHED = false ∧
      free s ∧ (s.chan 5).row ≠ 2 ∧
      after (.fltAssert 0 5) s (fun t => t.flag (R.CH_PROT_STAT 5) CH_PROT_STAT.LAT_FLT && !(t.chan 5).outH) = true) ∧
    (b.blankOpen 5 = true ∧ after (.fltAssert 0 5) b (fun t => t.flag (R.CH_PROT_STAT 5) CH_PROT_STAT.BLANKED_HIT) = true) ∧
    goes (.fltDeassert 0 5) s = true ∧
    ((e.chan 5).blankEnd = some 0 ∧ Time.reached e.now 0 = true ∧ (e.enabledActive 5).filter (e.srcBlanked 5) ≠ [] ∧
      e.flag (R.CH_PROT_STAT 5) CH_PROT_STAT.LATCHED = false ∧ e.flag (R.CH_PROT_STAT 5) CH_PROT_STAT.CYC = false ∧
      after (.blankingWindowEnd 0 5) e (fun t => t.flag (R.CH_PROT_STAT 5) CH_PROT_STAT.TRIP) = true) := by decide +kernel

theorem test_clears :
    let s := armed { fltLow := false } [fl (R.CH_PROT_STAT 5) CH_PROT_STAT.LATCHED 1, fl (R.BR_SAFE_STAT 5) BR_SAFE_STAT.ESC 1]
    s.faceOut (5 / 16) = false ∧
    (CleanWord (R.CH_PROT_CLR 5) 1 = true ∧ CH_PROT_CLR.CLR.get 1 = 1 ∧ s.enabledActive 5 = [] ∧
      after (.protClear 0 pit 5 1) s (fun t => t.flag (R.CH_PROT_STAT 5) CH_PROT_STAT.CYC) = true ∧
      after (.protClear 0 pit 5 1) State.reset (fun t => t.flag (R.CH_PROT_STAT 5) CH_PROT_STAT.CLR_REJECT) = true) ∧
    (CleanWord (R.BR_SAFE_CLR 5) 1 = true ∧ BR_SAFE_CLR.CLR.get 1 = 1 ∧ (∀ m ∈ s.legsOf 5, s.enabledActive m = []) ∧
      after (.bridgeClear 0 pit 5 1) s (fun t => !t.flag (R.BR_SAFE_STAT 5) BR_SAFE_STAT.ESC) = true ∧
      after (.bridgeClear 0 pit 5 1) State.reset (fun t => t.flag (R.BR_SAFE_STAT 5) BR_SAFE_STAT.CLR_REJECT) = true) := by decide +kernel

/-! ## Time and angle -/

theorem test_time :
    let s := built [fl R.TB_STAT TB_STAT.CAL_OK 1, fun s => { s with tb := { s.tb with counting := true } }]
    (s.tb.counting = true ∧ s.flag R.TB_STAT TB_STAT.CAL_OK = true ∧ s.md.refBad = false ∧ s.subordinate = false ∧ s.tb.adjRem = 0 ∧
      s.tb.phase = 0 ∧ (s.advance 12).now = 12) := by decide +kernel

theorem test_reference :
    let on := built [fun s => { s with tb := { s.tb with counting := true } }]
    let lost := built [fun s => { s with tb := { s.tb with counting := true }, md := { s.md with refBad := true } }]
    let sub := built [fun s => { s with tb := { s.tb with cascSeen := true, cascKnown := true, cascErr := 8 }, io := { s.io with link := { role := 2 } } }]
    (State.reset.tb.counting = false ∧ State.reset.tb.refChosen = false ∧
      after (.referenceSelect 0 false) State.reset (fun t => t.tb.refChosen && t.flag R.TB_STAT TB_STAT.REF_SRC) = true ∧
      after (.referenceSelect 0 false) on (fun t => !t.flag R.TB_STAT TB_STAT.REF_SRC) = true) ∧
    goes (.firstReferenceValid 0) State.reset = true ∧
    (on.tb.counting = true ∧ after (.calibrationDone 0) on (fun t => t.flag R.TB_STAT TB_STAT.CAL_OK) = true) ∧
    (on.md.refBad = false ∧ after (.refLoss 0) on (fun t => t.flag R.TB_STAT TB_STAT.HOLDOVER) = true) ∧
    (lost.md.refBad = true ∧ after (.refValid 0 100) lost (fun t => !t.md.refBad) = true) ∧
    (on.tb.phase = 0 ∧ goes (.holdoverEnd 0) on = true) ∧
    (sub.subordinate = true ∧ sub.tb.cascSeen = true ∧ sub.tb.cascKnown = true ∧ -8 ≤ sub.tb.cascErr ∧ sub.tb.cascErr ≤ 8 ∧
      after (.cascLockAcquired 0) sub (fun t => t.flag R.TB_STAT TB_STAT.CASC_LOCK) = true) := by decide +kernel

theorem test_timeRegisters :
    let s := built [at_ 0x1200000034]
    let sub := built [fun s => { s with io := { s.io with link := { role := 2 } } }]
    (AMap.get false s.undef R.TB_TIME_LO = false ∧ after (.tbTimeLoRead 0 pit) s (fun t => AMap.get 0 t.rdata 4 == 0x34) = true) ∧
    (AMap.get false s.undef R.TB_VTIME_LO = false ∧ goes (.tbVtimeLoRead 0 pit) s = true) ∧
    (AMap.get false s.undef (R.ANG_TP_LO 15) = false ∧ goes (.angTpLoRead 0 pit 15) s = true) ∧
    (CleanWord R.TB_RATE 5 = true ∧ after (.tbRateWrite 0 pit 5) s (fun t => t.reg R.TB_RATE == 5) = true ∧
      after (.tbRateWrite 0 pit 5) sub (fun t => t.flag R.TB_STAT TB_STAT.ADJ_REJ) = true) ∧
    (CleanWord R.TB_ADJ 5 = true ∧ after (.tbAdjWrite 0 pit 5) sub (fun t => t.flag R.TB_STAT TB_STAT.ADJ_REJ) = true ∧
      after (.tbAdjWrite 0 pit 0) s (fun t => t.tb.adjRem == 0) = true) ∧
    (CleanWord R.TB_CTL (TB_CTL.STEP.put 0 1) = true ∧ s.stepAllowed = true ∧ sub.stepAllowed = false ∧
      after (.tbStep 0 pit 0) s (fun t => t.now == 0) = true ∧
      after (.tbStep 0 pit 0) sub (fun t => t.flag R.TB_STAT TB_STAT.STEP_REJ) = true) ∧
    (CleanWord R.TB_VT_OFS_HI 3 = true ∧ after (.tbVtOfsHiWrite 0 pit 3) s (fun t => t.reg R.TB_VT_OFS_HI == 3) = true) ∧
    (s.adjLeft = 0 ∧ s.tb.adjRem = 0 ∧ goes (.adjDrained 0) s = true) := by decide +kernel

theorem test_alarms :
    let s := fun (r : Word) => built [fl (R.TA_CTL 15) TA_CTL.EN 1, rg (R.TA_REPEAT 15) r]
    (s 0).mode ≠ mPark ∧ ((s 0).flag (R.TA_CTL 15) TA_CTL.EN = true ∧ Time.reached (s 0).now ((s 0).taTarget 15) = true) ∧
    after (.timerAlarmFire 0 15) (s 0) (fun t => t.flag (R.TA_CTL 15) TA_CTL.FIRED && !t.flag (R.TA_CTL 15) TA_CTL.EN) = true ∧
    after (.timerAlarmFire 0 15) (s 10000) (fun t => t.taTarget 15 == 10000) = true := by decide +kernel

theorem test_alarm_writes :
    (CleanWord (R.TA_HI 15) 7 = true ∧ State.reset.flag (R.TA_CTL 15) TA_CTL.EN = false ∧
      after (.taHiWrite 0 pit 15 7) State.reset (fun t => t.taTarget 15 == 0x700000000) = true) ∧
    (CleanWord (R.TA_CTL 15) 0 = true ∧ TA_CTL.EN.get 0 = 0 ∧ goes (.taCtlWrite 0 pit 15 0) State.reset = true) := by decide +kernel

theorem test_pulses :
    let k := R.ANG_CFG 15
    let on := fun (q : Tracker) (st : Nat) => built [fl k ANG_CFG.EN 1, fl k ANG_CFG.N_POS 60, fl k ANG_CFG.G 1, fl k ANG_CFG.EDGE 0,
      fl k ANG_CFG.FILT 0, fl k ANG_CFG.WHEEL 0, fl (R.ANG_STAT 15) ANG_STAT.STATE st, fun s => s.setTrk 15 q, at_ 4100000]
    let due : Tracker := { pulses := [4000000], tLast := 3000000, tp := 1000000 }
    (on {} 0).mode ≠ mPark ∧ (((on {} 0).flag k ANG_CFG.EN = true ∧ true ≠ (on {} 0).flag k ANG_CFG.EDGE) ∧
      after (.angPulse 0 15 true) (on {} 0) (fun t => (t.trk 15).pulses == [4100000]) = true ∧
      after (.angPulse 0 15 true) (on { lastPulse := some 4090000 } 0) (fun t => t.flag (R.ANG_STAT 15) ANG_STAT.NOISE) = true) ∧
    ((∀ st ∈ [0, 1, 3], (on due st).trkState 15 = st ∧ (on due st).actionDue 15 = true) ∧
      (on due 3).extraTooth 15 = false ∧ 6 * due.tp ≤ 10 * interval due.tLast 4000000 ∧ 10 * interval due.tLast 4000000 < 16 * due.tp ∧
      2 * interval due.tLast 4000000 < (2 * (on due 3).gapOf 15 + 1) * due.tp ∧ due.cnt + 1 < 2 * (on due 3).nPos 15) ∧
    after (.angPulseAction 0 15) (on due 0) (fun t => t.trkState 15 == 1) = true ∧
    after (.angPulseAction 0 15) (on due 1) (fun t => t.trkState 15 == 2 && (t.trk 15).tp == 1000000) = true ∧
    after (.angPulseAction 0 15) (on due 3) (fun t => t.trkState 15 == 3 && t.trkPos 15 == 1) = true := by decide +kernel

theorem test_edge_waits :
    let s := built [fl R.STG_STATUS STG_STATUS.ARMED 1, fl (R.ANG_CFG 15) ANG_CFG.EN 1]
    s.applyDue = true ∧ after (.angPulse 0 15 true) s (fun t => (t.trk 15).edges == [(0, true)] && (t.trk 15).pulses == []) = true := by
  decide +kernel

theorem test_coastAndStall :
    let k := R.ANG_CFG 15
    let s := built [fl k ANG_CFG.EN 1, fl k ANG_CFG.N_POS 60, fl k ANG_CFG.COAST_LIM 8, fl (R.ANG_STAT 15) ANG_STAT.STATE 3,
      fl (R.ANG_POS 15) ANG_POS.VALID 1, fun s => s.setTrk 15 { tp := 1000 }, at_ 9000]
    (s.actionDue 15 = false ∧ s.trkState 15 = 3 ∧ s.trkCoast 15 = false ∧
      16 * s.toNextTooth 15 * (s.trk 15).tp ≤ 10 * interval (s.trk 15).tLast s.now ∧
      after (.coast 0 15) s (fun t => t.trkCoast 15) = true) ∧
    (s.fld k ANG_CFG.COAST_LIM * (s.trk 15).tp ≤ interval (s.trk 15).tLast s.now ∧
      after (.angStall 0 15) s (fun t => t.trkState 15 == 0 && t.flag (R.ANG_STAT 15) ANG_STAT.STALLED) = true) := by decide +kernel

theorem test_angleUses :
    let p := built [fl (R.ANG_POS 15) ANG_POS.VALID 1, fl (R.ANG_PUB 15) ANG_PUB.EN 1, fl (R.ANG_CFG 15) ANG_CFG.N_POS 4,
      fun s => s.setTrk 15 { tp := 1000, nextPub := some 0 }, at_ 3000]
    let slot := fun (armed : Nat) (turn : Int) => built [fl (R.ANG_POS 15) ANG_POS.VALID 1, fl (R.ANG_CFG 15) ANG_CFG.N_POS 4,
      fl (R.AEV_CFG 63) AEV_CFG.EN 1, fl (R.AEV_CFG 63) AEV_CFG.TRK 15, fl (R.AEV_STAT 63) AEV_STAT.ARMED armed,
      fun s => s.setSlot 63 { turn := turn }, fun s => s.setTrk 15 { tp := 1000 }, at_ 3000]
    let e := built [fl (R.ANG_POS 15) ANG_POS.VALID 1, fl (R.ANG_CFG 15) ANG_CFG.N_POS 4, fl (R.ENC_CFG 7) ENC_CFG.EN 1,
      fl (R.ENC_CFG 7) ENC_CFG.TRK 15, fl (R.ENC_CFG 7) ENC_CFG.DIV 1, fun s => s.setTrk 15 { tp := 1000 }, at_ 3000]
    ((p.trk 15).nextPub = some 0 ∧ Time.reached p.now 0 = true ∧ p.trkValid 15 = true ∧
      after (.angPublish 0 15) p (fun t => (t.sig 0).published) = true) ∧
    ((slot 1 0).slotArmed 63 = true ∧ (slot 1 0).slotTrk 63 = 15 ∧ (slot 1 0).slotTarget 63 ≤ (slot 1 0).angleAt 15 (slot 1 0).now ∧
      after (.aevFire 0 63) (slot 1 0) (fun t => t.fld (R.AEV_STAT 63) AEV_STAT.FIRE_CNT == 1) = true) ∧
    ((slot 0 0).slotArmed 63 = false ∧ (slot 0 0).slotTarget 63 + 2 ^ 23 ≤ (slot 0 0).angleAt 15 (slot 0 0).now ∧
      after (.aevRearm 0 63) (slot 0 0) (fun t => t.slotArmed 63) = true) ∧
    (e.flag (R.ENC_CFG 7) ENC_CFG.EN = true ∧ e.fld (R.ENC_CFG 7) ENC_CFG.TRK = 15 ∧ Time.reached e.now (e.enc 7).burstAt = true ∧
      (e.enc 7).at_ < e.encQuarter 7 (e.angleAt 15 e.now) ∧
      after (.encOutputEdge 0 7) e (fun t => (t.enc 7).at_ == 1) = true) := by decide +kernel

/-! ## Signals, events and staging -/

theorem test_signalWrites :
    let own := built [rg (R.SIG_OWNMAP 0) 0, rg (R.SIG_OWNMAP 15) 0]
    let other := State.reset
    localMaster pit = true ∧ own.ownsSig 131071 = true ∧ other.ownsSig 131071 = false ∧
    after (.signalValueWrite 0 pit 131071 7) own (fun t => (t.sig 131071).value == 7) = true ∧
    after (.signalValueWrite 0 pit 131071 7) other (fun t => t.flag R.SIG_STAT SIG_STAT.FOREIGN_WR) = true ∧
    after (.signalStatusWrite 0 pit 0 0x20) own (fun t => (t.sig 0).qual == 1) = true := by decide +kernel

/-- FOREIGN_CNT is of 16 bits: 255 is not its end. -/
theorem test_foreign_count :
    let s := fun (n : Nat) => built [fl R.SIG_STAT SIG_STAT.FOREIGN_CNT n]
    after (.signalValueWrite 0 pit 131071 7) (s 255) (fun t => t.fld R.SIG_STAT SIG_STAT.FOREIGN_CNT == 256) = true ∧
    after (.signalStatusWrite 0 pit 131071 7) (s 65535) (fun t => t.fld R.SIG_STAT SIG_STAT.FOREIGN_CNT == 65535) = true := by decide +kernel

theorem test_signalTraffic :
    let l : BoundLoad := { input := 15, value := 7 }
    let p : Publish := { sig := 131071, value := 7, qual := 1 }
    let mine := rg (R.SIG_OWNMAP 15) 0
    let b := built [fun s => s.setEng 127 { loads := [l], pubq := [p] }]
    let q := built [fun s => { s with rt := { s.rt with pubq := [⟨3, 7, 0⟩], marked := [9] } }, fl R.SIG_REFRESH SIG_REFRESH.MS 1, at_ 200000000]
    let old := built [at_ 6000000001]
    ((b.eng 127).loads.find? (fun l => l.input == (15 : Fin 16).val) = some l ∧
      after (.boundInputLoad 0 127 15) (fl (R.LE_BIND 127 15) LE_BIND.EN 1 b) (fun t => AMap.get 0 (t.eng 127).inputs 15 == 7) = true ∧
      after (.boundInputLoad 0 127 15) b (fun t => AMap.get 0 (t.eng 127).inputs 15 == 0 && (t.eng 127).loads == []) = true) ∧
    ((b.eng 127).pubq = [p] ∧ (mine b).ownsSig p.sig = true ∧
      after (.pubQueueDrain 0 127) (mine b) (fun t => (t.sig 131071).value == 7 && (t.sig 131071).qual == 1) = true) ∧
    (b.ownsSig p.sig = false ∧ goes (.pubQueueDrain 0 127) b = false) ∧
    (q.ecc = [] ∧ q.rt.pubq ≠ [] ∧ after (.publishQueueSend 0) q (fun t => t.rt.pubq == []) = true) ∧
    (q.rt.marked = [9] ∧ q.rt.pubq.length < 2048 ∧ after (.markedResend 0) q (fun t => t.rt.marked == [] && t.rt.pubq.length == 2) = true) ∧
    (q.refreshTq ≠ 0 ∧ Time.reached q.now q.refreshDue = true ∧
      after (.signalRefresh 0) q (fun t => t.rt.marked == [] && t.refreshDue == 400000000) = true) ∧
    (old.ownsSig 131071 = false ∧ old.ageLimit < old.sigAge 131071 ∧ after (.signalAgeExpiry 0 131071) old (fun t => t.sigStale 131071) = true) := by
  decide +kernel

theorem test_fev :
    let e := fun (soft : Bool) => ({ face := 7, chan := 63, inst := 0, sched := false, soft := soft } : Event)
    let s := fun (soft : Bool) (en gate : Nat) => built [fl (R.FEV_CFG 7 63) FEV_CFG.EN en, fl (R.FEV_CFG 7 63) FEV_CFG.GATE gate, at_ 401,
      fl (R.CH_ADC_CFG 127) CH_ADC_CFG.SRC 1, fl (R.CH_ADC_CFG 127) CH_ADC_CFG.FEV 63,
      fun s => { s with rt := { s.rt with fev := [e soft], fevLast := [(511, some 400)] } }]
    (∀ soft ∈ [false, true], (s soft 1 0).rt.fev.find? (fun x => (x.face == (7 : Fin 8).val && x.chan == (63 : Fin 64).val) && x.due (s soft 1 0).now)
      = some (e soft)) ∧
    (AMap.get none (s true 1 0).rt.fevLast (fevKey 7 63) = some 400 ∧ within2ns 400 (e true).inst = true ∧
      after (.fevEvent 0 7 63) (s true 1 0) (fun t => t.flag (R.FEV_STAT 7 63) FEV_STAT.MERGE) = true) ∧
    after (.fevEvent 0 7 63) (s false 1 0) (fun t => t.flag (R.FEV_STAT 7 63) FEV_STAT.FIRED && (t.conv 127).reqs.length == 1) = true ∧
    after (.fevEvent 0 7 63) (s false 1 1) (fun t => t.flag (R.FEV_STAT 7 63) FEV_STAT.GATED) = true ∧
    after (.fevEvent 0 7 63) (s false 0 0) (fun t => t.reg (R.FEV_STAT 7 63) == 0) = true := by decide +kernel

/-- A producer's event and a software fire within 2 ns of it: one passes, and MERGE sets. -/
theorem test_merge :
    let e : Event := { face := 7, chan := 63, inst := 300, sched := true, soft := false }
    let x : Event := { e with inst := 0, sched := false, soft := true }
    let s := built [at_ 500, fl (R.FEV_CFG 7 63) FEV_CFG.EN 1, fun s => { s with rt := { s.rt with fev := [x, e] } }]
    let g := built [at_ 500, fl (R.GEV_CFG 63) GEV_CFG.EN 1, fun s => { s with rt := { s.rt with gev := [x, e] } }]
    pickEvent s.now (s.rt.fev.filter (fun x => x.face == (7 : Fin 8).val && x.chan == (63 : Fin 64).val)) = some e ∧
    after (.fevEvent 0 7 63) s (fun t => t.flag (R.FEV_STAT 7 63) FEV_STAT.MERGE && t.fld (R.FEV_STAT 7 63) FEV_STAT.EV_CNT == 1 && t.rt.fev == []) = true ∧
    pickEvent g.now (g.rt.gev.filter (fun x => x.chan == (63 : Fin 256).val)) = some e ∧
    after (.gevEvent 0 63) g (fun t => t.flag (R.GEV_STAT 63) GEV_STAT.MERGE && t.fld (R.GEV_STAT 63) GEV_STAT.EV_CNT == 1) = true := by decide +kernel

theorem test_gev :
    let e : Event := { face := 0, chan := 255, inst := 0, sched := false, soft := false }
    let s := built [fl (R.GEV_CFG 255) GEV_CFG.EN 1, fl (R.SRC_CFG 255) SRC_CFG.EN 1, fun s => { s with rt := { s.rt with gev := [e] } }]
    (s.rt.gev.find? (fun x => x.chan == (255 : Fin 256).val && x.due s.now) = some e ∧ s.md.gevLive = true ∧
      after (.gevEvent 0 255) s (fun t => t.flag (R.GEV_STAT 255) GEV_STAT.FIRED && (t.src 255).pending) = true) ∧
    (CleanWord (R.FACE_FEV_FIRE 7 1) 0x80000001 = true ∧
      after (.faceFevFire 0 pit 7 1 0x80000001) State.reset (fun t => t.rt.fev.map (fun x => x.chan) == [32, 63]) = true) ∧
    (CleanWord (R.GEV_FIRE 7) 0x80000001 = true ∧ State.reset.drivesGev 255 = true ∧ State.reset.gevLocked 255 = false ∧
      after (.gevFire 0 pit 7 0x80000001) State.reset (fun t => t.rt.gev.map (fun x => x.chan) == [224, 255]) = true) := by decide +kernel

theorem test_staging :
    let x := BitVec.ofNat 32 (stepAddr 3 31 1)
    let y := BitVec.ofNat 32 (R.CH_BRIDGE 3)
    let m := tyMask (R.CH_BRIDGE 3) .st
    (x.toNat % 4 = 0 ∧ State.reset.faceFault pit x.toNat = none ∧ (stepWordAt x.toNat).isSome = true ∧
      after (.stagingWrite 0 pit x 7) State.reset (fun t => t.stagedAt x.toNat == some 7) = true) ∧
    (y.toNat % 4 = 0 ∧ State.reset.faceFault pit y.toNat = none ∧ stepWordAt y.toNat = none ∧ m ≠ 0 ∧ CleanWord y.toNat m = true ∧
      after (.stagingWrite 0 pit y m) State.reset (fun t => t.stagedAt y.toNat == some m) = true) ∧
    after (.stagingWrite 0 pit x 7) (built [fl R.STG_STATUS STG_STATUS.BUSY 1]) (fun t => t.flag R.STG_STATUS STG_STATUS.WR_REJ) = true := by
  decide +kernel

theorem test_stagingCommands :
    let clean := fun (f : Fld) => CleanWord R.STG_CTL (f.put 0 1)
    let passed := built [fl R.STG_STATUS STG_STATUS.PASS 1]
    let armed := built [fl R.STG_STATUS STG_STATUS.ARMED 1, fun s => { s with stg := { s.stg with applyAt := 1000 } }]
    ∀ f ∈ [STG_CTL.CHECK, STG_CTL.ARM, STG_CTL.CANCEL, STG_CTL.DISCARD], clean f = true ∧ f.get 0 = 0 ∧
    armed.stgArmed = true ∧ Time.reached armed.now armed.stg.applyAt = false ∧
    after (.stgCheckCmd 0 pit 0) armed (fun t => t.flag R.STG_STATUS STG_STATUS.CMD_REJ) = true ∧
    after (.stgArmCmd 0 pit 0) State.reset (fun t => t.flag R.STG_STATUS STG_STATUS.CMD_REJ) = true ∧
    after (.stgArmCmd 0 pit 0) passed (fun t => t.flag R.STG_STATUS STG_STATUS.FROZEN && t.stgBusy) = true ∧
    after (.stgCancelCmd 0 pit 0) armed (fun t => t.flag R.STG_STATUS STG_STATUS.CANCELLED) = true ∧
    after (.stgDiscardCmd 0 pit 0) State.reset (fun t => t.stg.words == []) = true := by decide +kernel

theorem test_stagingCheck : goes (.stgCheckCmd 0 pit 0) State.reset = true := by decide +kernel

/-- This staging state, with BUSY. -/
def stgBusyWith (x : Staging) : State := built [fun s => { s with stg := x }, fl R.STG_STATUS STG_STATUS.BUSY 1]

theorem test_checkDone : after (.stgCheckDone 0) (stgBusyWith { checking := some (0, 0) }) (fun t => t.flag R.STG_STATUS STG_STATUS.PASS) = true ∧
    after (.stgCheckDone 0) (stgBusyWith { checking := some (16, 4) }) (fun t => t.flag R.STG_STATUS STG_STATUS.FAIL) = true := by decide +kernel

theorem test_armDone : (stgBusyWith { arming := some 0, cascade := true }).unconfirmed = [] ∧
    after (.stgArmDone 0) (stgBusyWith { arming := some 0, cascade := true }) (fun t => t.stgArmed) = true ∧
    after (.stgArmDone 0) (stgBusyWith { arming := some 16 }) (fun t => t.flag R.STG_STATUS STG_STATUS.FAIL) = true := by decide +kernel

theorem test_apply_premises :
    let s := built [fl R.STG_STATUS STG_STATUS.ARMED 1]
    s.stgArmed = true ∧ Time.reached s.now s.stg.applyAt = true ∧ s.boundariesDone s.stg.applyAt = true := by decide +kernel

theorem test_apply : goes (.shiftChangeApply 0) (built [fl R.STG_STATUS STG_STATUS.ARMED 1]) = true := by decide +kernel

/-- A staged word becomes active. -/
theorem test_apply_staged :
    let k := R.CH_BRIDGE 3
    let s := built [fl R.STG_STATUS STG_STATUS.ARMED 1, fun s => { s with stg := { s.stg with words := [(k, 0x70000)] } }]
    s.ecc = [] ∧ (s.stg.words.map (fun x => x.1)).Nodup ∧ s.stagedAt k = some 0x70000 ∧ AMap.get false s.undef k = false ∧ stMask k ≠ 0 ∧
    s.stgArmed = true ∧ goes (.shiftChangeApply 0) s = true := by decide +kernel

theorem test_applyOffered : after (.shiftChangeApply 0) (built [fun s => { s with stg := { s.stg with offered := some 0 } }])
    (fun t => t.flag R.STG_STATUS STG_STATUS.CANCELLED) = true := by decide +kernel

theorem test_confirmTimeout :
    let s := built [fun s => { s with stg := { s.stg with arming := some 0, cascade := true }, io := { s.io with link := { role := 1 } } },
      fl R.STG_STATUS STG_STATUS.BUSY 1, fl R.SHL_STAT SHL_STAT.PRESENT 2, at_ 4000000]
    s.stg.arming = some 0 ∧ s.stg.cascade = true ∧ s.unconfirmed = [1] ∧ 4000000 ≤ Time.since s.stg.sentAt s.now ∧
    after (.cascConfirmTimeout 0) s (fun t => t.fld R.STG_STATUS STG_STATUS.RULE == 16) = true := by decide +kernel

/-! ## Interrupts, DMA, memory integrity, Tally and Tub -/

theorem test_interrupts :
    let on := fun (i : Nat) (q : IntSource) => built [fl (R.SRC_CFG i) SRC_CFG.EN 1, fun s => s.setSrc i q, at_ 200000]
    (CleanWord R.INT_DOORBELL 0xFFF = true ∧ INT_DOORBELL.SRC.get 0xFFF = 4095 ∧
      after (.intDoorbell 0 pit 0xFFF) (on 4095 {}) (fun t => (t.src 4095).pending) = true ∧
      after (.intDoorbell 0 bank 0xFFF) (on 4095 {}) (fun t => t.flag R.INT_STAT INT_STAT.RING_REJ) = true) ∧
    (CleanWord (R.INT_PEND 127) 0x80000000 = true ∧ AMap.get 0 State.reset.hwSet (R.INT_PEND 127) = 0 ∧
      after (.intPendWrite 0 pit 127 0x80000000) (on 4095 { pending := true }) (fun t => !(t.src 4095).pending) = true) ∧
    (CleanWord (R.SRC_CFG 4095) (SRC_CFG.EN.put 0 1) = true ∧
      after (.srcCfgWrite 0 pit 4095 (SRC_CFG.EN.put 0 1)) State.reset (fun t => t.flag (R.SRC_CFG 4095) SRC_CFG.EN) = true) ∧
    (isLevelSource 256 = true ∧ (fl (R.CH_PROT_STAT 0) CH_PROT_STAT.TRIP 1 State.reset).levelCond 256 = true ∧
      State.reset.levelCond 256 = false) ∧
    (Time.reached (on 9 {}).now (0 + BitVec.ofNat 64 ((on 9 {}).coalTime 9)) = true ∧
      after (.coalesceTimeout 0 9) (on 9 { pending := true, gather := 1 }) (fun t => (t.src 9).ready) = true) ∧
    (CleanWord (R.TGT_COMPLETE 6) 9 = true ∧ TGT_COMPLETE.SRC.get 9 = 9 ∧
      after (.tgtComplete 0 pit 6 9) (on 9 { active := true, taker := 6 }) (fun t => !(t.src 9).active) = true ∧
      after (.tgtComplete 0 pit 6 9) (on 9 {}) (fun t => t.flag (R.TGT_STAT 6) TGT_STAT.CMPL_REJ) = true) := by decide +kernel

theorem test_mayDma : MayDma State.reset pit 63 ∧ MayDma State.reset pit 0 := by unfold MayDma; decide +kernel

theorem test_dmaCommands :
    let busy := fun (c : Nat) => built [fl (R.DMA_STAT c) DMA_STAT.STATE 2]
    (CleanWord (R.DMA_CFG 63) 0 = true ∧ goes (.dmaCfgWrite 0 pit 63 0) State.reset = true ∧
      after (.dmaCfgWrite 0 pit 63 0) (busy 63) (fun t => t.flag (R.DMA_STAT 63) DMA_STAT.WR_REJ) = true) ∧
    (∀ f ∈ [DMA_CTL.START, DMA_CTL.STOP, DMA_CTL.FLUSH], CleanWord (R.DMA_CTL 63) (f.put 0 1) = true ∧ f.get 0 = 0) ∧
    after (.dmaStart 0 pit 63 0) State.reset (fun t => t.dmaState 63 == 2 && (t.dma 63).active) = true ∧
    after (.dmaStart 0 pit 63 0) (busy 63) (fun t => t.flag (R.DMA_STAT 63) DMA_STAT.WR_REJ) = true ∧
    after (.dmaStop 0 pit 63 0) (busy 63) (fun t => t.dmaState 63 == 0 && t.flag (R.DMA_STAT 63) DMA_STAT.DONE) = true ∧
    after (.dmaFlush 0 pit 0 0) (built [fl (R.DMA_CFG 0) DMA_CFG.PACE 2, fl (R.DMA_STAT 0) DMA_STAT.STATE 1]) (fun t => t.dmaState 0 == 1) = true ∧
    (CleanWord (R.DMA_PUT 0) 8 = true ∧ after (.dmaPointerWrite 0 pit 0 true 8) State.reset (fun t => t.reg (R.DMA_PUT 0) == 8) = true) ∧
    (State.reset.fld (R.DMA_CFG 63) DMA_CFG.WORLD = 0 ∧ after (.dmaStart 0 bank 63 0) State.reset (fun t => (t.flow 2).storeErr.isSome) = true) ∧
    after (.dmaRequest 0 9) (built [fl (R.DMA_CFG 9) DMA_CFG.PACE 1, rg (R.DMA_COUNT 9) 4, fl (R.DMA_STAT 9) DMA_STAT.STATE 1,
      fun s => s.setDma 9 { reqs := 1 }]) (fun t => t.dmaState 9 == 2 && (t.dma 9).left == 4) = true := by decide +kernel

/-- A burst of four bytes within system RAM. -/
def burst (data : List Byte) : Burst :=
  { src := 0x20000000, dst := 0x203FFFFC, len := 4, sfix := false, dfix := false, desc := 0, data := data }

theorem test_dmaIssue :
    let s := built [fl (R.DMA_STAT 9) DMA_STAT.STATE 2, rg (R.DMA_SRC_LO 9) 0x20000000, rg (R.DMA_DST_LO 9) 0x203FFFFC,
      fun s => s.setDma 9 { left := 4, active := true }]
    let u := built [fl (R.DMA_STAT 9) DMA_STAT.STATE 2, fun s => s.setDma 9 { held := [burst [1, 2, 3, 4]] }]
    (s.dmaPick s.dmaCanRead s.mv.lastRead = some 9 ∧ s.dmaNext 9 = some (burst []) ∧ s.isRemote (burst []).src = false ∧
      after (.dmaBurstIssue 0 false) s (fun t => (t.dma 9).reads == [burst []] && (t.dma 9).left == 0) = true) ∧
    (u.dmaPick u.dmaCanWrite u.mv.lastWrite = some 9 ∧ u.isRemote (burst []).dst = false ∧
      after (.dmaBurstIssue 0 true) u (fun t => (t.dma 9).held == []) = true) := by decide +kernel

theorem test_inRam : InRam 0x20000000 4 ∧ InRam 0x203FFFFC 4 ∧ InRam 0x20000000 0x400000 := by unfold InRam; decide

theorem test_dmaResponses :
    let s := fun (d : DmaChannel) => built [fl (R.DMA_STAT 9) DMA_STAT.STATE 2, fun s => s.setDma 9 d]
    after (.dmaReadResponse 0 9) (s { reads := [burst []] }) (fun t => (t.dma 9).held == [burst [0, 0, 0, 0]]) = true ∧
    after (.dmaReadResponse 0 9) (s { reads := [{ burst [] with err := true }] }) (fun t => t.dmaState 9 == 4) = true ∧
    after (.dmaWriteResponse 0 9) (s { writes := [burst [1, 2, 3, 4]] }) (fun t => t.byte 0x203FFFFF == 4 && t.reg (R.DMA_DONE_BYTES 9) == 4) = true := by
  decide +kernel

/-- A read behind a write of its channel to the block, and the write behind the read, wait for each other in the order of their issue. -/
theorem test_dmaOrder :
    let d : DmaChannel := { reads := [{ burst [] with ord := 1 }], writes := [burst [1, 2, 3, 4]], issued := 2 }
    let s := built [fl (R.DMA_STAT 9) DMA_STAT.STATE 2, fun s => s.setDma 9 d]
    s.dmaBehind 9 false 0x20000000 4 1 = true ∧ s.dmaBehind 9 true 0x203FFFFC 4 0 = false ∧ s.dmaBehind 9 true 0x203FFFFC 4 2 = true ∧
    after (.dmaReadResponse 0 9) s (fun t => t.dma 9 == d) = true ∧
    after (.dmaWriteResponse 0 9) (s.setDma 9 { d with writes := [{ burst [1, 2, 3, 4] with ord := 2 }] })
      (fun t => (t.dma 9).writes.length == 1 && t.byte 0x203FFFFF == 0) = true := by decide +kernel

theorem test_dmaDescriptors :
    let s := fun (d : DmaChannel) => built [fl (R.DMA_STAT 63) DMA_STAT.STATE 2, fun s => s.setDma 63 d,
      fun s => s.setWord 0x2000000C 0x10000000]
    let u := s { descNext := some 0x20000000, active := true }
    (isSg 63 = true ∧ u.dmaState 63 = 2 ∧ u.dmaPace 63 = 0 ∧ u.ecc = [] ∧ (u.dma 63).visited.contains 0x20000000 = false ∧
      after (.dmaDescriptorRead 0 63) u (fun t => (t.dma 63).descNext == some 0) = true) ∧
    goes (.dmaDescriptorRead 0 63) (s { descNext := some 0x20000000, active := true, visited := [0x20000000] }) = false ∧
    -- a LINK descriptor with IRQ and LAST ends the list
    (u.dmaBehind 63 false 0x20000000 16 0 = false ∧
      after (.dmaDescriptorRead 0 63) (u.setWord 0x2000000C 0x13000000)
        (fun t => (t.dma 63).descNext == none && t.flag (R.DMA_STAT 63) DMA_STAT.DESC_IRQ) = true) := by decide +kernel

theorem test_tally :
    let r : Report := { src := 0xC8, code := 0x60, cls := 3, detail := 0, inst := 0 }
    let s := built [fun s => { s with lg := { s.lg with queue := [r] } }]
    let full := built [fun s => { s with lg := { s.lg with queue := [r] } }, fl R.TALLY_HEAD TALLY_HEAD.HEAD 256]
    let open_ := built [inMode 4, fl R.MODE_REL MODE_REL.OPEN 1, rg R.TALLY_SAFE 1]
    (s.lg.queue = [r] ∧ r.cls < 4 ∧ s.youngest r = none ∧ s.tallyUnread < 256 ∧
      after (.tallyTake 0) s (fun t => t.tallyHead == 1 && t.lg.queue == []) = true) ∧
    (full.tallyUnread = 256 ∧ full.youngest r = none ∧ after (.tallyTake 0) full (fun t => t.flag R.TALLY_STAT TALLY_STAT.DROP) = true) ∧
    after (.tallyHeldReport 0) (built [fun s => { s with lg := { s.lg with held := [r] } }]) (fun t => t.lg.queue == [r]) = true ∧
    (CleanWord R.TALLY_TAIL 1 = true ∧ after (.tallyTail 0 pit 1) State.reset (fun t => t.flag R.TALLY_STAT TALLY_STAT.TAIL_REJ) = true ∧
      after (.tallyTail 0 pit 0) State.reset (fun t => t.tallyTail == 0) = true) ∧
    (CleanWord R.TALLY_SAFE 1 = true ∧ AMap.get 0 open_.hwSet R.TALLY_SAFE = 0 ∧ open_.mode = 4 ∧ open_.flag R.MODE_REL MODE_REL.OPEN = true ∧
      after (.tallySafeWrite 0 pit 1) open_ (fun t => t.reg R.TALLY_SAFE == 0) = true ∧
      after (.tallySafeWrite 0 pit 1) (built [rg R.TALLY_SAFE 1]) (fun t => t.flag R.TALLY_STAT TALLY_STAT.SAFE_CLR_REJ) = true) := by
  decide +kernel

theorem test_tub :
    let s := built [fun s => { s with lg := { s.lg with tubFree := [2047], tubTag := [(3, some 4)] } }]
    let free := fun (w : Word) => CleanWord R.TUB_FREE w
    pit.tag = 4 ∧ (CleanWord R.TUB_CFG (TUB_CFG.COUNT.put 0 2) = true ∧
      after (.tubCfg 0 pit (TUB_CFG.COUNT.put 0 2)) State.reset (fun t => t.lg.tubFree == [0, 1]) = true ∧
      after (.tubCfg 0 pit 0) s (fun t => t.flag R.TUB_STAT TUB_STAT.CFG_REJ) = true) ∧
    (AMap.get false s.undef R.TUB_ALLOC = false ∧ after (.tubAlloc 0 pit) s (fun t => AMap.get 0 t.rdata 4 == tubAddr 2047) = true ∧
      after (.tubAlloc 0 pit) State.reset (fun t => t.flag R.TUB_STAT TUB_STAT.EMPTY) = true) ∧
    (free (tubAddr 3) = true ∧ s.tubBase (tubAddr 3) = some 3 ∧ s.tubOwner 3 = some 4 ∧
      after (.tubFree 0 pit (tubAddr 3)) s (fun t => t.lg.tubFree == [3, 2047]) = true ∧
      after (.tubFree 0 bank (tubAddr 3)) s (fun t => t.flag R.TUB_STAT TUB_STAT.NONOWNER) = true) ∧
    (free (tubAddr 2047) = true ∧ s.tubBase (tubAddr 2047) = some 2047 ∧ s.tubOwner 2047 = none ∧
      goes (.tubFree 0 pit (tubAddr 2047)) s = false) ∧
    (s.tubBase 0x20000004 = none ∧ after (.tubFree 0 pit 0x20000004) s (fun t => t.flag R.TUB_STAT TUB_STAT.BADADDR) = true) ∧
    (CleanWord R.TUB_GIVE (tubAddr 3 ||| 9) = true ∧ s.tubBase ((tubAddr 3 ||| 9) &&& 0xFFFFF800) = some 3 ∧
      after (.tubGive 0 pit (tubAddr 3 ||| 9)) s (fun t => t.tubOwner 3 == some 9) = true) := by decide +kernel

theorem test_scrubbing :
    let s := fun (r : Nat) (m : BitVec 39) => built [inMode 1, fl (R.MI_SCRUB_CFG r) MI_SCRUB_CFG.PERIOD 1, at_ 200000000,
      fun s => { s with md := { s.md with loadStep := 4 }, ecc := [(regionWordAddr 7 0, m)], pageErr := [(0, 16)] }]
    (∀ r ∈ [7, 8], (s r 1).scrubs = true ∧ (s r 1).scrubPeriod r ≠ 0 ∧ Time.reached (s r 1).now ((s r 1).scrubDue r) = true) ∧
    ((s 7 1).eccMask (regionWordAddr 7 0) = 1#39 <<< (0 : Fin 39).val ∧ after (.scrubRead 0 7) (s 7 1) (fun t => t.ecc == [] && t.flag R.MI_STAT MI_STAT.CE) = true) ∧
    ((s 7 3).eccMask (regionWordAddr 7 0) = 1#39 <<< (0 : Fin 39).val ^^^ 1#39 <<< (1 : Fin 39).val ∧
      after (.scrubRead 0 7) (s 7 3) (fun t => t.flag R.MI_STAT MI_STAT.UE) = true) ∧
    (1 ≤ AMap.get 0 (s 8 1).pageErr 0 ∧ AMap.get 0 (s 8 1).pageErr 0 ≤ 16 ∧ after (.scrubRead 0 8) (s 8 1) (fun t => t.pageErr == []) = true) ∧
    (AMap.get false (s 7 1).lg.scrubLate 7 = false ∧
      Time.reached (s 7 1).now (AMap.get 0 (s 7 1).lg.scrubFrom 7 + BitVec.ofNat 64 ((s 7 1).scrubPeriod 7)) = true ∧
      after (.scrubPassOverrun 0 7) (s 7 1) (fun t => t.flag R.MI_STAT MI_STAT.LAG) = true) := by decide +kernel

/-! ## Recorder lanes and the store -/

/-- Lane 31 in this state, with these settings and this content. -/
def lane31 (st : Nat) (q : Lane) (l : List (State → State)) : State :=
  built ([fl (R.LANE_CFG 31) LANE_CFG.EN 1, fl (R.LANE_STAT 31) LANE_STAT.STATE st, fl (R.LANE_BUF 31) LANE_BUF.LEN 1,
    fun s => s.setLane 31 q] ++ l)

theorem test_lanes_record :
    let s := lane31 lFill { pendRec := some (0, [1, 2]) } []
    (s.lane 31).pendRec = some (0, [1, 2]) ∧ s.signalRecordDue 31 = true ∧ s.laneEn 31 = true ∧ s.laneState 31 ≠ lOff ∧ 0 < s.ringRecs 31 ∧
    ¬ s.ringRecs 31 ≤ (s.lane 31).nextRec ∧
    after (.signalLaneRecord 0 31) s (fun t => (t.lane 31).nextRec == 1 && (t.lane 31).pendRec == none) = true := by decide +kernel

theorem test_lanes_trigger :
    let s := lane31 lArmed { conds := [(3, 0)] } []
    let off := lane31 lOff { conds := [(3, 0)] } []
    (s.lane 31).records.find? (fun z => Time.reached z.inst 0) = none ∧ (s.lane 31).conds.find? (fun y => y.1 == (3 : Fin 4).val) = some (3, 0) ∧ (s.lane 31).cores = [] ∧ (s.lane 31).queued = none ∧
    after (.triggerCondition 0 31 3) s (fun t => (t.lane 31).cores.length == 1) = true ∧
    after (.triggerCondition 0 31 3) off (fun t => (t.lane 31).cores == []) = true ∧
    CleanWord (R.LANE_CTL 31) (LANE_CTL.SWTRIG.put 0 1) = true ∧ LANE_CTL.REL.get 0 = 0 ∧
    after (.swtrig 0 pit 31 0) s (fun t => (t.lane 31).cores.length == 1) = true := by decide +kernel

theorem test_lanes_release :
    let s := lane31 lFill { committed := [5, 6] } [fl (R.LANE_CFG 31) LANE_CFG.RETAIN 1]
    let w := LANE_CTL.REL.put 0 1
    CleanWord (R.LANE_CTL 31) w = true ∧ LANE_CTL.SWTRIG.get w = 0 ∧ LANE_CTL.REL.get w = 1 ∧
    after (.rel 0 pit 31 w) s (fun t => (t.lane 31).committed == [6]) = true ∧ goes (.rel 0 pit 31 w) State.reset = true := by decide +kernel

theorem test_lanes_rearm :
    let s := fun (g : Option Trigger) => lane31 lRearm { queued := g } [at_ 20000000000]
    let g : Trigger := { record := none, mask := 1, time := 0 }
    (s none).laneEn 31 = true ∧ (s none).laneState 31 = lRearm ∧
    Time.reached (s none).now ((s none).lane 31).rearmFrom = true ∧
    Time.reached (s none).now (((s none).lane 31).rearmFrom +
      BitVec.ofNat 64 (Nat.max 1 ((s none).fld (R.LANE_REARM 31) LANE_REARM.US) * 200000)) = true ∧
    after (.rearmEnd 0 31) (s none) (fun t => t.laneState 31 != lRearm) = true ∧
    after (.rearmEnd 0 31) (s (some g)) (fun t => (t.lane 31).coreCnt == 1) = true := by decide +kernel

theorem test_lanes_enable :
    CleanWord (R.LANE_CFG 31) (LANE_CFG.EN.put 0 1) = true ∧ CleanWord (R.LANE_CFG 31) (LANE_CFG.EN.put 0 0) = true ∧
    State.reset.laneEn 31 = false ∧ State.reset.laneState 31 = lOff ∧
    after (.laneEnable 0 pit 31 0) State.reset (fun t => t.flag (R.LANE_STAT 31) LANE_STAT.CFG_ERR) = true ∧
    (lane31 lFill {} []).laneEn 31 = true ∧ ((lane31 lFill {} []).lane 31).reopen = false ∧
    after (.laneDisable 0 pit 31 0) (lane31 lFill {} []) (fun t => !t.laneEn 31) = true := by decide +kernel

/-- A core of lane 31 with its first codeword ready. -/
def readyCore : CoreRec := { seq := 0, trig := some 0, first := 0, pre := 0, post := 1, ended := true }

theorem test_drain :
    let path : List (State → State) := [fl R.CORER_CTL CORER_CTL.EN 1, fl R.CORER_CTL CORER_CTL.PATH 1]
    let open_ := lane31 lFill { cores := [readyCore], nextRec := 1 } path
    let g : Segment := { idx := 9, seq := 0 }
    let cw := lane31 lFill { cores := [readyCore], nextRec := 1, seg := some g } path
    let full := lane31 lFill { seg := some { g with cwUsed := 64 } } path
    let waits := lane31 lFill { cores := [readyCore], nextRec := 1, committed := [1] } (fl (R.LANE_CFG 31) LANE_CFG.RETAIN 1 :: path)
    (waits.drainWaits 31 = true ∧ after (.drainWrite 0 31) waits (fun t => t.flag (R.LANE_STAT 31) LANE_STAT.STORE_FULL) = true) ∧
    (open_.drainWaits 31 = false ∧ open_.drainTurn = some (31 : Fin 32).val ∧ open_.pageErr = [] ∧ open_.drainNext 31 = some .openSeg) ∧
    (cw.drainTurn = some (31 : Fin 32).val ∧ cw.drainNext 31 = some (.codeword readyCore)) ∧
    (full.drainTurn = some (31 : Fin 32).val ∧ full.drainNext 31 = some .commit) ∧
    after (.drainWrite 0 31) open_ (fun t => (t.lane 31).seg.isSome) = true ∧
    after (.drainWrite 0 31) full (fun t => (t.lane 31).committed == [9]) = true ∧ goes (.drainWrite 0 31) cw = true := by decide +kernel

theorem test_storePath :
    let x : StoreWrite := { lane := 31, core := none, addr := 0, bytes := [], port := 1, confirmed := true }
    let s := built [fun s => { s with path := { s.path with writes := [x], nextSeq := [(1, 1)], timer := [(1, some 0)] } }, at_ 20000000000]
    ((s.path.writes.find? (fun y => y.lane == (31 : Fin 32).val)) = some x ∧ after (.pathWriteDone 0 31) s (fun t => t.path.writes == []) = true) ∧
    (0 < ((1 : Word).toNat + 2 ^ 32 - AMap.get 0 s.path.acked 1) % 2 ^ 32 ∧
      ((1 : Word).toNat + 2 ^ 32 - AMap.get 0 s.path.acked 1) % 2 ^ 32 ≤ (AMap.get 0 s.path.nextSeq 1 + 2 ^ 32 - AMap.get 0 s.path.acked 1) % 2 ^ 32 ∧
      after (.corerAck 0 1 1) s (fun t => AMap.get 0 t.path.acked 1 == 1) = true) ∧
    (AMap.get none s.path.timer 1 = some 0 ∧ s.path.stopped = false ∧ Time.reached s.now (0 + BitVec.ofNat 64 s.corerRto) = true ∧
      after (.corerRto 0 1) s (fun t => AMap.get 0 t.path.retries 1 == 1) = true) ∧
    (CleanWord R.CORER_STAT (CORER_STAT.PATH_ERR.put 0 1) = true ∧ AMap.get 0 s.hwSet R.CORER_STAT = 0 ∧
      after (.pathErrClear 0 pit 0) s (fun t => !t.path.stopped) = true) := by decide +kernel

theorem test_readBack :
    let clean := CleanWord R.CORER_RD_CTL (CORER_RD_CTL.GO.put 0 1)
    let s := built [rg R.CORER_RD_LO 64, fl R.CORER_CTL CORER_CTL.EN 1, fl R.CORER_CTL CORER_CTL.PATH 1]
    clean = true ∧ s.flag R.CORER_RD_CTL CORER_RD_CTL.BUSY = false ∧
    after (.go 0 pit 0) s (fun t => t.flag R.CORER_RD_CTL CORER_RD_CTL.BUSY) = true ∧
    after (.go 0 pit 0) (built [rg R.CORER_RD_LO 64]) (fun t => t.fld R.CORER_RD_CTL CORER_RD_CTL.RESULT == 4) = true ∧
    after (.go 0 pit 0) State.reset (fun t => t.fld R.CORER_RD_CTL CORER_RD_CTL.RESULT == 5) = true := by decide +kernel

theorem test_readBackLate :
    let s := built [fun s => { s with path := { s.path with reading := some (0, 2, 0) } }, at_ 20000000000, fl R.CORER_RD_CTL CORER_RD_CTL.BUSY 1]
    s.path.reading = some (0, 2, 0) ∧ Time.reached s.now (0 + BitVec.ofNat 64 s.corerRto) = true ∧
    after (.storeReadDone 0 (.data [])) s (fun t => t.fld R.CORER_RD_CTL CORER_RD_CTL.RESULT == 4) = true := by decide +kernel

theorem test_readBackData :
    let s := built [fun s => { s with path := { s.path with reading := some (0, 0, 0) } }]
    s.path.reading = some (0, 0, 0) ∧ (List.replicate (codewordBytes s.corerT) (0 : Byte)).length = codewordBytes s.corerT ∧
    Time.reached s.now (0 + BitVec.ofNat 64 s.corerRto) = false ∧
    pageDecode s.corerT (List.replicate (codewordBytes s.corerT) 0#8) = .good (List.replicate 1024 0#8) :=
  ⟨rfl, List.length_replicate, by decide +kernel, pageDecode_zeros _ (by decide +kernel)⟩

/-! ## Modes, resets, LOAD and update -/

/-- A word of MODE_CTL with its key, and one without. -/
def modeKey : Word := MODE_CTL.KEY.put 0 0x6D

theorem test_modeRequests :
    let m := fun (n : Nat) => built [inMode n]
    MODE_CTL.KEY.get modeKey = 0x6D ∧ (∀ q ∈ [2, 3, 4, 5], CleanWord R.MODE_CTL (MODE_CTL.REQ.put modeKey q) = true) ∧
    CleanWord R.MODE_CTL (MODE_CTL.REQ.put 0 4) = true ∧ MODE_CTL.KEY.get 0 ≠ 0x6D ∧
    after (.modeRequestRun 0 pit modeKey) (m 1) (fun t => t.mode == 2) = true ∧
    after (.modeRequestRun 0 pit modeKey) (m 0) (fun t => t.flag R.MODE_STAT MODE_STAT.REQ_REJ) = true ∧
    after (.modeRequestLimp 0 pit modeKey) (m 2) (fun t => t.mode == 3) = true ∧
    (m 2).parkReady = true ∧ after (.modeRequestPark 0 pit modeKey) (m 2) (fun t => t.md.parkReq == some 0) = true ∧
    after (.modeRequestPark 0 pit modeKey) ((m 2).setFlow 6 { waiting := true }) (fun t => (t.flow 6).parked) = true ∧
    after (.modeRequestHold 0 pit 0) (m 2) (fun t => t.flag R.MODE_STAT MODE_STAT.REQ_REJ) = true ∧
    after (.safeNAssert 0 false) (m 2) (fun t => !t.md.safeLow) = true := by decide +kernel

theorem test_hold : goes (.modeRequestHold 0 pit modeKey) (built [inMode 2]) = true ∧ goes (.safeNAssert 0 true) (built [inMode 2]) = true := by
  decide +kernel

theorem test_release :
    let k := R.MODE_REL
    let s := built [inMode 4, fl k MODE_REL.OPEN 1, at_ 2000000000, fun s => { s with md := { s.md with relFrom := some 0 } }]
    MODE_REL.REJ.get 0 = 0 ∧ CleanWord k (MODE_REL.KEY.put 0 0x52) = true ∧ CleanWord k (MODE_REL.KEY.put 0 0x53) = true ∧
    after (.releaseOpen 0 pit 0) (built [inMode 4]) (fun t => t.flag k MODE_REL.OPEN) = true ∧
    after (.releaseOpen 0 pit 0) (built [inMode 2, fun s => (List.range 128).foldl (fun s n => s.setReg (R.BR_SAFE_STAT n) 0) s])
      (fun t => t.flag k MODE_REL.REJ) = true ∧
    (s.md.relFrom = some 0 ∧ 2000000000 ≤ Time.since 0 s.now ∧ after (.releaseWindowExpiry 0) s (fun t => t.md.relFrom == none) = true) ∧
    after (.releaseComplete 0 pit 0) s (fun t => t.fld k MODE_REL.REASON == 6) = true := by decide +kernel

theorem test_releaseReason :
    (built [inMode 4, fl R.MODE_REL MODE_REL.OPEN 1, fun s => { s with md := { s.md with relFrom := some 0 } }]).releaseReason = 0 := by
  decide +kernel

theorem test_park :
    let s := built [inMode 2, fun s => { s with md := { s.md with parkReq := some 0 } }, at_ 2000000000]
    let up := s.setCore 4 { running := true }
    (s.md.parkReq = some 0 ∧ s.mode = 2 ∧ s.allStopped = true ∧ goes (.parkEntry 0) s = true) ∧
    (up.allStopped = false ∧ 2000000000 ≤ Time.since 0 up.now ∧ after (.parkTimeout 0) up (fun t => t.flag R.MODE_STAT MODE_STAT.PARK_TO) = true) ∧
    ((built [inMode 5, rg R.WAKE_CFG 1]).reg R.WAKE_CFG).getLsbD WakeSource.ta.bit = true ∧
    goes (.wake 0 .ta) (built [inMode 5, rg R.WAKE_CFG 1]) = true ∧ goes (.wake 0 .safeN) (built [inMode 5]) = true ∧
    goes (.wake 0 .ta) State.reset = true := by decide +kernel

theorem test_park_saves :
    let s := built [inMode 2, fun s => { s with md := { s.md with parkReq := some 0 } }, rg (R.SRC_CFG 32) 1,
      fun s => s.setSrc 32 { active := true, taker := 6 }]
    s.allStopped = true ∧ (s.src 32).active = true ∧
    goes (.parkEntry 0) s = true ∧ s.saveSources.mv.savedSrc.any (fun x => x.1 == 32 && x.2.pending && !x.2.active) = true := by
  decide +kernel

theorem test_wakes :
    let s := built [inMode 5, rg R.WAKE_CFG 3, fl (R.TA_CTL 15) TA_CTL.EN 1, fl (R.ANG_CFG 15) ANG_CFG.EN 1,
      fun s => s.setFlow 6 { parked := true }, fun s => { s with mv := { s.mv with savedRegs := [(R.SRC_CFG 32, 1)] } }]
    s.mode = 5 ∧ Time.reached s.now (s.taTarget 15) = true ∧ s.wakes .ta = true ∧ s.wakes .ang = true ∧ isSavedKey (R.SRC_CFG 32) = true ∧
    true ≠ s.flag (R.ANG_CFG 15) ANG_CFG.EDGE ∧ (s.flow 6).parked = true ∧ goes (.interruptEntry 0 6) s = true ∧
    s.restoreSources.reg (R.SRC_CFG 32) = 1 ∧ s.applyDue = false ∧ goes (.wake 0 .ang) s = true ∧
    goes (.timerAlarmFire 0 15) s = true ∧ goes (.angPulse 0 15 true) s = true := by decide +kernel

/-- A subordinate, with a safe bridge whose leg had been at work. -/
theorem test_park_parts :
    let s := linked 2 [inMode 2, fl (R.BR_SAFE_STAT 0) BR_SAFE_STAT.SAFE 1, fl R.TB_STAT TB_STAT.CASC_LOCK 1,
      fun s => { s with md := { s.md with parkReq := some 0 } }]
    s.subordinate = true ∧ s.isSafe 0 = true ∧ s.allStopped = true ∧ goes (.parkEntry 0) s = true ∧
    s.linkDown.flag R.TB_STAT TB_STAT.CASC_LOCK = false ∧ (s.setMode 5).rowOf 0 = 3 := by decide +kernel

theorem test_resetFree : ResetFree (built [fun s => { s with md := { s.md with loadStep := 4, inReset := false } }]) 0 := by
  unfold ResetFree; decide +kernel

theorem test_resets :
    let s := built [fun s => { s with md := { s.md with loadStep := 4, inReset := false, wdFrom := some 0 } }, inMode 2]
    let key := RST_REQ.KEY.put 0 0x0B5E
    goes (.powerOn 0 2 7) s = true ∧ goes (.brownOut 0 (.vddaF 7)) s = true ∧ goes (.resetNAssert 0) s = true ∧
    (CleanWord R.RST_REQ (RST_REQ.SYS.put key 1) = true ∧ RST_REQ.KEY.get key = 0x0B5E ∧ RST_REQ.CORE.get key = 0 ∧
      goes (.softwareSystemReset 0 pit key) s = true) ∧
    (s.md.wdFrom = some 0 ∧ s.mode ≠ 5 ∧ s.wdogMs * 200000000 ≤ s.wdogCount 0 ∧ goes (.deviceWatchdogExpiry 0) s = true) ∧
    (CleanWord R.RST_REQ (RST_REQ.SYS.put (RST_REQ.CORE.put key 64) 0) = true ∧ s.hasCore 6 = true ∧
      after (.softwareCoreReset 0 pit (RST_REQ.CORE.put key 64)) s (fun t => (t.core 6).starting) = true) ∧
    after (.softwareCoreReset 0 pit (RST_REQ.CORE.put key 8)) (fl R.TS_FAILED_UNIT TS_FAILED_UNIT.HEWER 8 s)
      (fun t => !(t.core 3).starting && !(t.core 3).running) = true ∧
    (s.flag R.LOAD_STAT LOAD_STAT.NOIMG = false ∧
      after (.coreStart 0 6) (s.setCore 6 { starting := true }) (fun t => (t.core 6).running) = true) := by decide +kernel

theorem test_watchdogs :
    let s := built [fun s => { s with md := { s.md with wdHalf := true, wdFrom := some 0 } }, inMode 2,
      fun s => s.setFlow 4 { wdFrom := some 0 }, at_ 100000000000]
    (CleanWord R.WDOG_KICK 0x5A = true ∧ WDOG_KICK.VAL.get 0x5A = 0x5A ∧ after (.wdogKick 0 pit 0x5A) s (fun t => t.md.wdHalf) = true ∧
      after (.wdogKick 0 pit 0x5A) s (fun t => t.flag R.WDOG_STAT WDOG_STAT.BADKICK) = true ∧
      after (.wdogKick 0 pit 0xA5) s (fun t => t.md.wdFrom == some 100000000000) = true ∧
      after (.wdogKick 0 pit 0) s (fun t => t.flag R.WDOG_STAT WDOG_STAT.BADKICK) = true ∧
      after (.wdogKick 0 bank 0x5A) s (fun t => t.flag R.WDOG_STAT WDOG_STAT.FOREIGN) = true) ∧
    (CleanWord (R.CWDOG 4) (CWDOG.EN.put 0 1) = true ∧ s.flag (R.CWDOG 4) CWDOG.EN = false ∧
      after (.cwdogEnable 0 4 pit 0) s (fun t => t.flag (R.CWDOG 4) CWDOG.EN) = true) ∧
    (CleanWord (R.CWDOG_KICK 4) 0 = true ∧ after (.cwdogKick 0 4 pit 0) s (fun t => (t.flow 4).wdFrom == some 100000000000) = true) ∧
    ((s.flow 4).wdFrom = some 0 ∧ s.mode ≠ 5 ∧ (s.flow 4).held = none ∧ s.cwdogTime 4 ≤ Time.since 0 s.now ∧
      after (.coreWatchdogExpiry 0 4) s (fun t => (t.core 4).starting) = true) := by decide +kernel

/-- LOAD stands at this step, after a power-on or not. -/
def loading (step : Nat) (on : Bool) (l : List (State → State)) : State :=
  built ((fun s => { s with md := { s.md with loadStep := step, powerOn := on } }) :: l)

theorem test_load :
    let e := loading 3 false ((List.range 8).map (fun f => fl (R.FACE_VREF_STAT f) FACE_VREF_STAT.READY 1))
    (State.reset.md.inReset = true ∧ State.reset.md.loadStep = 0 ∧ State.reset.md.refBad = false ∧ goes (.loadStart 0 {}) State.reset = true) ∧
    ((loading 1 true [fl R.TB_STAT TB_STAT.CAL_OK 1]).md.loadStep = 1 ∧ (loading 1 true [fl R.TB_STAT TB_STAT.CAL_OK 1]).md.powerOn = true ∧
      after (.loadSlotCheck 0 [] []) (loading 1 true [fl R.TB_STAT TB_STAT.CAL_OK 1]) (fun t => t.flag R.LOAD_STAT LOAD_STAT.NOIMG) = true) ∧
    (e.md.loadStep = 3 ∧ e.vrefReady = true ∧ goes (.modeEntry 0) e = true) ∧ goes (.fvrefReady 0 7) e = true := by decide +kernel

theorem test_loadSections : (loading 2 false []).md.loadStep = 2 ∧ (loading 2 false []).md.chosen < 2 ∧
    ((loading 2 false []).loadSlot 0 []).1 = 0 := ⟨rfl, by decide, loadSlot_empty _ 0 _ rfl rfl⟩

/-- Slot A holds a section whose digest is wrong, and slot B loads. -/
theorem test_fallback :
    let hdr : List Byte := List.replicate 6 0 ++ [1] ++ List.replicate 313 0
    let s := loading 2 false [fun s => { s with md := { s.md with slotA := { err := 0, bytes := hdr }, slotB := { err := 0 } } }]
    let r := s.loadSlot 0 []
    let f := (r.2.slotVerdict 0 r.1).fallBack.issueFlash [(r.2.slotVerdict 0 r.1).loadRead ((r.2.slotVerdict 0 r.1).slotAt 1)]
    r.1 = 9 ∧ (s.slotInfo 1).err = 0 ∧ imgSettings (imageBytes [] (s.slotInfo 1).bytes) = [] ∧ (f.loadSlot 1 []).1 = 0 := by
  refine ⟨by decide +kernel, rfl, rfl, loadSlot_empty _ 1 _ (by decide +kernel) (by decide +kernel)⟩

theorem test_update :
    let s := built [fl R.UPD_STAT UPD_STAT.HDR_OK 1]
    s.ecc = [] ∧ s.windowAt 32764 = some 32764 ∧ (built [fl R.UPD_PAGE UPD_PAGE.PAGE 48]).windowAt 0 = none ∧
    after (.updateWindowWrite 0 pit 32764 7) s (fun t => t.byte (updBase + 32764) == 7) = true ∧
    (∀ c ∈ [1, 2, 3, 4], CleanWord R.UPD_CTL (UPD_CTL.CMD.put 0 c) = true) ∧ s.flag R.UPD_STAT UPD_STAT.BUSY = false ∧
    after (.verifyHdr 0 pit 0) s (fun t => t.up.cmd == 1) = true ∧ after (.verifySect 0 pit 0) s (fun t => t.up.cmd == 2) = true ∧
    after (.updStage 0 pit 0) s (fun t => t.fld R.UPD_STAT UPD_STAT.ERR == 16) = true ∧
    after (.updStage 0 bank 0) s (fun t => t.up.cmd == 0) = true ∧
    after (.updClear 0 pit 0) s (fun t => !t.flag R.UPD_STAT UPD_STAT.HDR_OK) = true ∧
    after (.verifyHdrDone 0) (built [fun s => { s with up := { cmd := 1 } }]) (fun t => t.up.cmd == 0) = true ∧
    after (.verifySectDone 0) (built [fun s => { s with up := { cmd := 2 } }]) (fun t => t.fld R.UPD_STAT UPD_STAT.ERR == 16) = true := by
  decide +kernel

/-- STAGE runs on section 0, which is of this type and whose data lie at offset 1,024. -/
def stagingSection (typ len : Byte) : State :=
  built [fl R.UPD_STAT UPD_STAT.HDR_OK 1, fun s => { s with up := { cmd := 3, sectOk := some (0, 1024) } },
    fun s => (s.setByte (updBase + 256) typ).setByte (updBase + 264) len]

theorem test_updStageDone : ∀ typ ∈ [(0x10 : Byte), 1],
    let s := stagingSection typ 8
    let y := imgSection (List.replicate 256 0 ++ bytesFrom s (updBase + 256) 64) 0
    s.stageError 0 y = 0 ∧ y.typ = typ.toNat ∧ y.dest % 4 = 0 ∧ y.len = 8 ∧ s.flag R.MI_INJ_CTL MI_INJ_CTL.ARM = false ∧
    goes (.updStageDone 0) s = true := by decide +kernel

/-- A SETTINGS section of two entries: a step word, and a word that is neither. -/
theorem test_updStage_words :
    let k := stepAddr 3 31 1
    let s := built [fun s => stagingSection 0x10 16, fun s => (s.setWord (updBase + 1024) (BitVec.ofNat 32 k)).setWord (updBase + 1028) 7]
    s.stgBusy = false ∧ s.stgArmed = false ∧ s.locked k = false ∧ (stepWordAt k).isSome = true ∧
    after (.updStageDone 0) s (fun t => t.stg.words == [(k, 7)]) = true := by decide +kernel

/-! ## Test and service -/

theorem test_deputy :
    let acc : DepAccess := { write := true, world := .pit, addr := 0x20000000, size := 4, data := 0 }
    let s := built [inMode 2]
    let waits := built [inMode 2, fun s => s.present none (some acc) false, at_ 200000]
    let proposes := built [inMode 2, fun s => s.present none none true, at_ 200000]
    let read : DepAccess := { acc with write := false }
    let st := fun (n : Nat) => built [inMode 2, fl R.DEP_STAT DEP_STAT.STATE n, at_ 7600000,
      fun s => { s with pr := { s.pr with deputy := { s.pr.deputy with accA := some acc, accB := some acc } } }]
    s.paired = true ∧ some acc ≠ some read ∧ (some acc).isSome ≠ (none : Option DepAccess).isSome ∧
    after (.deputyMismatch 0 (some acc) (some read) false) s (fun t => t.depState == 1) = true ∧
    after (.deputyMismatch 0 (some acc) none false) s (fun t => t.depState == 0 && t.depStopped 4) = true ∧
    after (.deputyMismatch 0 none none true) s (fun t => t.depState == 0 && t.depStopped 4) = true ∧
    waits.depWaited none (some acc) false = true ∧ waits.depStopped 4 = true ∧ goes (.loadDataReturn 0 4) waits = true ∧
    after (.storeBufferDrain 0 4) (cfl 4 (fun q => { q with stores := [buffered] }) waits) (fun t => (t.flow 4).stores == [buffered]) = true ∧
    after (.deputyTimeout 0 none (some acc) false) waits (fun t => t.flag R.DEP_STAT DEP_STAT.MISMATCH) = true ∧
    proposes.depWaited none none true = true ∧
    after (.deputyTimeout 0 none none true) proposes (fun t => t.depState == 1 && t.flag R.DEP_STAT DEP_STAT.CLASS) = true ∧
    (s.depInput .interrupt = false ∧ goes (.deputyAgreement 0 .interrupt false) s = true) ∧
    ((built [fun s => { s with pr := { s.pr with deputy := { haltReq := true } } }]).depInput .halt = true) ∧
    ((st 1).lockstep = true ∧ 7600000 ≤ Time.since (st 1).pr.deputy.since (st 1).now ∧
      after (.deputySelfTestDone 0 true true) (st 1) (fun t => t.depState == 2) = true ∧
      after (.deputySelfTestDone 0 false true) (st 1) (fun t => t.depState == 4 && (t.flow 4).stores.map (fun b => b.va) == [acc.addr]) = true ∧
      after (.deputySelfTestDone 0 true false) (st 1) (fun t => t.depState == 3) = true ∧
      after (.deputySelfTestDone 0 true false) ({ st 1 with pr := { (st 1).pr with deputy := { accA := some read } } })
        (fun t => (t.flow 4).stores == [] && (t.flow 4).load.map (fun l => l.va) == some acc.addr) = true) ∧
    after (.deputyResyncDone 0) ((st 2).setByte (privBase 4) 7)
      (fun t => t.depState == 0 && (t.core 4).starting && t.byte (privBase 5) == 7) = true := by decide +kernel

theorem test_deputy_both : goes (.deputySelfTestDone 0 false false) (built [inMode 2, fl R.DEP_STAT DEP_STAT.STATE 1, at_ 7600000]) = true := by
  decide +kernel

/-- A slice that runs or waits, with these changes. -/
def sliced (x : Slice) (l : List (State → State)) : State := built ([inMode 2, fun s => { s with ts := { s.ts with slices := [x] } }] ++ l)

theorem test_slices :
    let due := built [inMode 2, fl (R.TS_CFG 3) TS_CFG.EN 1, fun s => { s with ts := { s.ts with nextDue := [(3, some 0)] } }]
    let go : Word := TS_REQ.TYPE.put 0 3
    let z : Slice := { y := 3, target := 3, stage := 2, since := 0, begun := some 0 }
    let ended := sliced z [at_ 180000000, fun s => s.setFlow 3 { held := some 5 }]
    let wait := fun (st : Nat) => sliced { z with stage := st, begun := none } [at_ 2000000000]
    (AMap.get none due.ts.nextDue 3 = some 0 ∧ due.flag (R.TS_CFG 3) TS_CFG.EN = true ∧ Time.reached due.now 0 = true ∧
      due.nextSlice 3 = some 0 ∧ after (.sliceDue 0 3) due (fun t => t.ts.slices.length == 1) = true) ∧
    (CleanWord R.TS_REQ (TS_REQ.GO.put go 1) = true ∧ TS_REQ.TYPE.get go = 3 ∧ TS_REQ.TARGET.get go ≤ 3 ∧ (built [inMode 2]).sliceFailed 3 0 = false ∧
      after (.tsReqGo 0 pit go) (built [inMode 2]) (fun t => t.ts.slices.length == 1) = true ∧
      after (.tsReqGo 0 pit go) State.reset (fun t => t.flag R.TS_STAT TS_STAT.SKIP) = true) ∧
    (ended.ts.slices.find? (sliceOver ended 3 ended.now) = some z ∧ z.target < 128 ∧ ended.ts.waiting = none ∧ ended.budget = false ∧
      after (.sliceEnd 0 3 true true) ended (fun t => t.flag R.TS_STAT TS_STAT.DONE && (t.flow 3).held == none) = true ∧
      after (.sliceEnd 0 3 false true) ended (fun t => t.lostHewer 3) = true) ∧
    (200000000 ≤ Time.since z.since (wait 0).now ∧ after (.sliceGrantTimeout 0) (wait 0) (fun t => t.ts.slices == []) = true) ∧
    (2000000000 ≤ Time.since z.since (wait 4).now ∧ after (.sliceQuiesceTimeout 0 3) (wait 4) (fun t => t.ts.slices == []) = true) := by
  decide +kernel

theorem test_sliceEnd_channel : ∀ y ∈ [(0 : Fin 5), 1, 2],
    let z : Slice := { y := y.val, target := 127, stage := 2, since := 0, begun := some 0 }
    let s := sliced z [at_ 24000000]
    s.ts.slices.find? (sliceOver s y s.now) = some z ∧ s.ts.waiting = none ∧
    after (.sliceEnd 0 y false true) s (fun t => t.flag (R.TS_RES y) TS_RES.FAIL) = true := by decide +kernel

theorem test_service :
    let key := TS_SVC.UNIT.put (TS_SVC.KEY.put 0 0xC5) 2
    let s := built [inMode 2, fl (R.CNY_CFG 7) CNY_CFG.EN 1, fun s => { s with ts := { s.ts with outCnt := [(29, 3)] } }]
    TS_SVC.KEY.get key = 0xC5 ∧ CleanWord R.TS_SVC (TS_SVC.CMD.put key 1) = true ∧ CleanWord R.TS_SVC (TS_SVC.CMD.put key 2) = true ∧
    s.serviceBad 1 2 0 = false ∧ s.serviceBad 2 2 0 = true ∧ s.unitSliced 2 0 = false ∧ TS_SVC.UNIT.get key = 2 ∧ TS_SVC.INDEX.get key = 0 ∧
    after (.serviceWithdraw 0 pit key) s (fun t => AMap.get false t.ts.heldWait 0) = true ∧
    after (.serviceReturn 0 pit key) s (fun t => t.flag R.TS_WD_UNIT TS_WD_UNIT.REJ) = true ∧
    (s.flag (R.CNY_CFG 7) CNY_CFG.EN = true ∧ s.outOfBand 7 .vdda 1709 0 = true ∧ s.outOfBand 7 .vdda 1710 0 = false ∧
      after (.canaryMeasurement 0 7 .vdda 1709 0) s (fun t => t.flag (R.CNY_STAT 7) CNY_STAT.VDDA_OUT) = true) ∧
    (s.pinCompared 127 .lo = true ∧ (s.setChan 127 { pinLAt := some 0 }).pinCompared 127 .lo = false) ∧
    after (.loopbackMismatch 0 127 .lo) s (fun t => t.bankBit (R.TS_FAILED_CH 0) 127) = true ∧
    after (.debugAccessEnable 0 false) s (fun t => t.flag R.TS_SEC TS_SEC.CLEARED) = true ∧
    after (.debugAccessEnable 0 true) s (fun t => !t.flag R.TS_SEC TS_SEC.SCAN) = true := by decide +kernel

/-! ## The shaft link -/

/-- The frame with the CRC it has as a CTRL frame of this subtype, and as a frame of this class and type. -/
def asSub (n : Nat) (f : Frame) : Frame := { f with crc := (f.ofSub n).crcOf }
def asType (express : Bool) (type : Nat) (f : Frame) : Frame := { f with crc := (f.ofType express type).crcOf }

/-- Everything `Delivered` asks for, where no frame of the same count has come before. -/
def arrives (s : State) (u : Nat) (f : Frame) : Bool :=
  s.linkOn && s.portUp u && f.crc == f.crcOf && f.src % 8 != s.ownId && (f.bcast || f.dst % 8 == s.ownId) &&
  AMap.get none s.io.link.last f.lane == none

theorem test_delivered (s : State) (u : Nat) (f : Frame) (h : arrives s u f = true) : Delivered s u f := by
  simp only [arrives, Bool.and_eq_true, beq_iff_eq, bne_iff_ne, Bool.or_eq_true] at h
  obtain ⟨⟨⟨⟨⟨a, b⟩, c⟩, d⟩, e⟩, g⟩ := h
  exact ⟨a, b, c, d, e, fun x hx => by rw [g] at hx; cases hx⟩

theorem test_frames_arrive :
    let m := linked 1 []
    let s := linked 2 []
    (∀ n ∈ [1, 2, 4, 5, 7, 9, 10], arrives m 1 ((asSub n (bare 0 [0, 100, 0, 0, 0])).ofSub n) = true) ∧
    (∀ n ∈ [1, 2, 3, 6, 8, 9, 11], arrives s 0 ((asSub n (bare 0 [0, 1, 7, 0, 0])).ofSub n) = true) ∧
    (∀ x ∈ [(true, 1), (true, 2), (false, 0x10), (false, 0x11), (false, 0x12), (false, 0x13)],
      arrives s 0 ((asType x.1 x.2 (bare 0 [3])).ofType x.1 x.2) = true) := by decide +kernel

theorem test_notDelivered :
    let f := fun (dst ttl src : Nat) => ({ bare dst [] with express := true, type := 1, ttl := ttl, src := src } : Frame)
    let sealed := fun (f : Frame) => asType true 1 f
    let s := linked 2 [fun s => { s with io := { s.io with link := { s.io.link with last := [((f 0 8 2).lane, some 5)] } } }]
    s.linkOn = true ∧ s.portUp 0 = true ∧
    ((f 0 8 2).crc ≠ (f 0 8 2).crcOf ∧ after (.frameSig 0 0 (f 0 8 2)) s (fun t => t.flag (R.SHL_PORT 0) SHL_PORT.CRC_ERR) = true) ∧
    ((sealed (f 1 8 0)).src % 8 = s.ownId ∧ (sealed (f 1 8 0)).odir = ((0 : Fin 2).val == 1) ∧ goes (.frameSig 0 0 (sealed (f 1 8 0))) s = true) ∧
    ((sealed (f 1 8 2)).dst % 8 ≠ s.ownId ∧ after (.frameSig 0 0 (sealed (f 1 8 2))) s (fun t => (t.lport 1).fwd.length == 1) = true) ∧
    (after (.frameSig 0 0 (sealed (f 1 1 2))) s (fun t => t.flag (R.SHL_PORT 0) SHL_PORT.TTL_DROP) = true) ∧
    (AMap.get none s.io.link.last (sealed (f 0 8 2)).lane = some 5 ∧ ¬ (1 ≤ (0 % 65536 + 65536 - 5) % 65536 ∧ (0 % 65536 + 65536 - 5) % 65536 ≤ 32767) ∧
      after (.frameSig 0 0 (sealed (f 0 8 2))) s (fun t => t.fld (R.SHL_GAP 2) SHL_GAP.DUP == 1) = true) := by decide +kernel

theorem test_sharedState :
    let s := linked 2 []
    let beat := fun (role : Nat) => linked role [fun s => { s with io := { s.io with link := { s.io.link with beats := [(2, 2)], lastBeat := [(2, some 0)] } } }]
    after (.frameSig 0 0 (asType true 1 (bare 0 [0x1001FFFF, 9]))) s (fun t => (t.sig 131071).value == 9 && (t.sig 131071).published) = true ∧
    ((0x41 : Word).toNat % 256 / 32 = 2 ∧
      after (.frameGev 0 0 (asType true 2 (bare 0 [0x41]))) (fl (R.GEV_CFG 65) GEV_CFG.EN 1 s) (fun t => t.flag (R.GEV_STAT 65) GEV_STAT.FIRED) = true) ∧
    after (.frameHeartbeat 0 0 (asSub 1 (bare 0 [1, 0])) false) (beat 2) (fun t => t.fieldBit R.SHL_STAT SHL_STAT.PRESENT 2) = true ∧
    after (.frameHeartbeat 0 0 (asSub 1 (bare 0 [1, 0])) true) (beat 2) (fun t => t.io.link.master == some 2) = true ∧
    after (.frameHeartbeat 0 0 (asSub 1 (bare 0 [1, 0])) true) (beat 1) (fun t => t.flag R.SHL_STAT SHL_STAT.CONFLICT) = true ∧
    s.follows 2 = true ∧ after (.frameGmark 0 0 (asSub 2 (bare 0 [2, 0, 0, 0]))) { s with io := { s.io with link := { s.io.link with master := some 1 } } }
      (fun t => t.reg (R.FACE_CG_STAT 0) == s.reg (R.FACE_CG_STAT 0)) = true ∧ after (.frameGmark 0 0 (asSub 2 (bare 0 [2, 0, 0, 0]))) (fl (R.FACE_CG_CFG 0) FACE_CG_CFG.SYNC 2 s) (fun t => t.flag (R.FACE_CG_STAT 0) FACE_CG_STAT.SYNC_IGN)
      = true := by decide +kernel

theorem test_cascade :
    let m := linked 1 []
    let s := fun (l : List (State → State)) => linked 2 l
    let ctl := fun (n : Nat) => asSub n (bare 0 [0, 1, 7, 0, 0])
    let passed := fl R.STG_STATUS STG_STATUS.PASS 1
    let other := fun (s : State) => { s with io := { s.io with link := { s.io.link with master := some 1 } } }
    let asks := fun (s : State) => { s with ts := { s.ts with asked := [(3, 0, 0)], slices := [{ y := 3, target := 0, stage := 0, since := 0 }] } }
    goes (.frameStgCheck 0 0 (ctl 3)) (s [fl R.STG_STATUS STG_STATUS.BUSY 1]) = true ∧ goes (.frameStgCheck 0 0 (ctl 3)) (s []) = true ∧
    after (.frameStgResult 0 1 (ctl 4)) m (fun t => AMap.get none t.stg.results 2 == some 1) = true ∧
    after (.frameStgGroup 0 1 (ctl 5)) m (fun t => t.stg.groups == [(65, 7, 0)]) = true ∧
    after (.frameStgApply 0 0 (ctl 6)) (s [passed]) (fun t => t.stg.offered == some 7) = true ∧
    after (.frameStgConfirm 0 1 (ctl 7)) (fl R.STG_STATUS STG_STATUS.ARMED 1 m) (fun t => (t.reg R.STG_CASC_ARM).getLsbD 2) = true ∧
    after (.frameStgCommit 0 0 (ctl 8)) (s [fun s => { s with stg := { s.stg with offered := some 7 } }]) (fun t => t.stgArmed) = true ∧
    after (.frameStgCancel 0 0 (ctl 9)) (s [fun s => { s with stg := { s.stg with offered := some 7 } }]) (fun t => t.stg.offered == none) = true ∧
    after (.frameTsReq 0 1 (ctl 10)) m (fun t => t.ts.granted == [(2, 0, 200000)]) = true ∧
    ((s []).subordinate = true ∧ (s []).follows 2 = true ∧ (s [asks]).askedNow = [(3, 0, 0)] ∧
      after (.frameTsGrant 0 0 (ctl 11)) (s [fl R.SHL_STAT SHL_STAT.PRESENT 6, asks])
        (fun t => t.ts.slices.map (fun x => x.stage) == [4] && t.ts.asked == []) = true) ∧
    ((s [other]).follows 2 = false ∧ ∀ x ∈ [(3, Instr.frameStgCheck 0 0 (ctl 3)), (6, .frameStgApply 0 0 (ctl 6)),
      (9, .frameStgCancel 0 0 (ctl 9)), (11, .frameTsGrant 0 0 (ctl 11))],
      after x.2 (s [passed, asks, other]) (fun t => t.stg == (s [passed]).stg && t.ts == (s [asks]).ts) = true) := by decide +kernel

theorem test_blocks :
    let locked := fun (s : State) => s.setLport 0 { lanes := [(0, true), (1, true)] }
    let s := linked 2 [locked, fl (R.SHL_PORT 0) SHL_PORT.PCAL_OK 1]
    s.linkOn = true ∧ s.lanesLocked 0 = true ∧ s.timeHops 1 = none ∧ s.tb.cascSeen = false ∧
    goes (.laneLock 0 0 1) s = true ∧ after (.laneUnlock 0 0 1) s (fun t => !t.portUp 0) = true ∧ after (.portTimeout 0 0) s (fun t => !t.portUp 0) = true ∧
    ((3 : Byte).toNat % 8 ≠ s.ownId ∧ after (.shlIdle 0 0 3) s (fun t => t.fld (R.SHL_PORT 0) SHL_PORT.NBR == 3) = true ∧
      after (.shlIdle 0 0 0) s (fun t => t.flag R.SHL_STAT SHL_STAT.DUP_ID) = true) ∧
    after (.shlCal 0 0 (.request 5)) s (fun t => (t.lport 0).ctl.isSome) = true ∧ after (.shlCal 0 0 (.echo 0 0)) s (fun t => (t.lport 0).ctl == some t.pathReport) = true ∧
    s.flag R.SHL_STAT SHL_STAT.ISOLATED = false ∧
    after (.shlCal 0 1 (.report 9 true)) s (fun t => t.reg (R.SHL_PDLY 1) == 9) = true ∧
    goes (.shlTime 0 0 5 0 true) s = true ∧ goes (.shlTime 0 0 5 0 false) s = true ∧
    (s.subordinate = true ∧ after (.wakeBlock 0 0) (inMode 5 s) (fun t => (t.lport 1).ctl.isSome) = true) ∧
    after (.shlAbort 0 0 true true) s (fun t => (t.lport 1).ctl == some (abortBlock true)) = true ∧
    ((0xFF : Byte).toNat ∉ knownBlocks ∧ after (.unknownControlBlock 0 0 0xFF) s (fun t => t.flag (R.SHL_PORT 0) SHL_PORT.BAD_BLK) = true) ∧
    (({ bare 0 [] with type := 9 } : Frame).known = false ∧
      after (.unknownFrameType 0 0 { bare 0 [] with type := 9 }) s (fun t => t.flag (R.SHL_PORT 0) SHL_PORT.BAD_BLK) = true) ∧
    after (.partialFrameTimeout 0 0 true true) s (fun t => t.flag (R.SHL_PORT 0) SHL_PORT.PART) = true := by decide +kernel

theorem test_linkSends :
    let f := bare 1 []
    let m := linked 1 [at_ 6000000000000, fl R.SHL_STAT SHL_STAT.PRESENT 4,
      fun s => { s with io := { s.io with link := { s.io.link with lastBeat := [(2, some 0)] } } }]
    let q := fun (p : LinkPort) => (linked 1 []).setLport 1 p
    after (.frameTransmit 0 1) (linked 1 []) (fun t => (t.lport 1).ctl == some (linked 1 []).idleBlock) = true ∧
    after (.frameTransmit 0 1) (fl (R.SHL_PORT 1) SHL_PORT.UP 0 (linked 1 [])) (fun t => (t.lport 1).ctl.isSome) = true ∧
    m.linkOn = true ∧ after (.frameTransmit 0 1) (q { fwd := [f] }) (fun t => (t.lport 1).fwd == []) = true ∧
    after (.frameTransmit 0 1) (q { own := [f] }) (fun t => (t.lport 1).own == []) = true ∧
    after (.frameTransmit 0 1) (q { bulk := [f] }) (fun t => (t.lport 1).bulk == []) = true ∧
    (m.sendDue 0 2000000 = true ∧ after (.heartbeatSend 0) m (fun t => (t.lport 1).own.length == 1) = true) ∧
    (m.sendDue 1 200000 = true ∧ after (.timeBlockSend 0) m (fun t => (t.lport 1).ctl.isSome) = true) ∧
    (m.sendDue 2 200000000 = true ∧ after (.calRequestSend 0) m (fun t => (t.lport 0).ctl.isSome) = true) ∧
    (AMap.get none m.io.link.lastBeat 2 = some 0 ∧ m.fieldBit R.SHL_STAT SHL_STAT.PRESENT 2 = true ∧ m.lostTq ≤ Time.since 0 m.now ∧
      after (.presenceTimeout 0 2) m (fun t => t.fieldBit R.SHL_STAT SHL_STAT.LOST 2) = true) ∧
    (CleanWord R.SHL_CFG (SHL_CFG.WAKE.put 0 1) = true ∧ after (.shlWake 0 pit 0) m (fun t => (t.lport 0).ctl.isSome) = true) := by
  decide +kernel

theorem test_isolation :
    let s := linked 2 [at_ 6000000000000]
    (s.flag R.SHL_STAT SHL_STAT.ISOLATED = false ∧ s.lostTq ≤ Time.since s.io.link.masterAt s.now ∧
      goes (.isolation 0) s = true) ∧
    (s.isoHoldTq ≤ Time.since 0 s.now ∧
      goes (.isolationHoldExpiry 0) { s with io := { s.io with link := { s.io.link with isoFrom := some 0 } } } = true) := by decide +kernel

theorem test_remote :
    let bulk := fun (addr : Word) (ps : List Word) => ({ bare 0 ps with addr := addr, tag := 9 } : Frame)
    let s := linked 2 [fun s => { s with md := { s.md with inReset := false } }, fun s => s.setWord 0x20000000 77]
    let waits := fun (w : Bool) => linked 2 [fun s => { s with io := { s.io with link := { s.io.link with remotes := [⟨9, w, 0⟩] } } }, at_ 20000000]
    (s.ecc = [] ∧ (bulk 0x20000000 [4]).payload.getD 0 0 = 4 ∧
      after (.frameRd 0 0 (asType false 0x11 (bulk 0x20000000 [4]))) s (fun t => (t.lport 1).bulk.map (fun f => f.payload) == [[77]]) = true) ∧
    after (.frameWr 0 0 (asType false 0x10 (bulk 0x203FFFFC [5]))) s (fun t => t.word 0x203FFFFC == 5) = true ∧
    (channelDomain 0x20000000 = false ∧ after (.frameWr 0 0 (asType false 0x10 (bulk 0x20000000 [5]))) (linked 2 [])
      (fun t => (t.lport 1).bulk.map (fun f => f.status) == [2]) = true) ∧
    after (.frameRdRsp 0 0 (asType false 0x12 (bulk 0 [5]))) (waits false) (fun t => t.io.link.remotes == []) = true ∧
    after (.frameWrRsp 0 0 (asType false 0x13 (bulk 0 []))) (waits true) (fun t => t.io.link.remotes == []) = true ∧
    after (.remoteAccessTimeout 0 9) (waits true) (fun t => t.io.link.remotes == []) = true := by decide +kernel

/-! ## Networks, host and test ports -/

/-- MAC 0 is on, with these changes. -/
def macOn (l : List (State → State)) : State :=
  built ([fl (R.MAC_CFG 0) MAC_CFG.EN 1, fl (R.MAC_CFG 0) MAC_CFG.PROMISC 1, fl (R.MAC_STAT 0) MAC_STAT.LINK 1] ++ l)

/-- Sixty bytes, and as a frame with its FCS. -/
def sixty : List Byte := List.replicate 60 1
def good : List Byte := sixty ++ bytesOf (crc32 sixty)

/-- Ring 0 with one descriptor at the start of system RAM and a buffer of 64 bytes behind it. -/
def ring (rx : Bool) : List (State → State) :=
  [fl (ringCtl 0 rx 0) MAC_TXR_CTL.EN 1, fl (ringCtl 0 rx 0) MAC_TXR_CTL.RK 4, rg (if rx then R.MAC_RXR_LO 0 0 else R.MAC_TXR_LO 0 0) 0x20000000,
   fun s => (s.setWord 0x20000000 0x20000100).setWord 0x20000004 0x80400000]

theorem test_ringReady : RingReady (macOn (ring true)) 0 true 0 0x20000000 60 ∧ RingReady (macOn (ring false)) 0 false 0 0x20000000 64 := by
  unfold RingReady InRam; decide +kernel

theorem test_ethernet :
    let s := macOn []
    let off := built [fl (R.MAC_CFG 0) MAC_CFG.EN 1, fl (R.MAC_STAT 0) MAC_STAT.LINK 1]
    s.macOn 0 = true ∧ tagged sixty = false ∧ s.fld (R.MAC_CFG 0) MAC_CFG.UQ = 0 ∧ crc32 sixty = wordAt good 60 ∧
    good.length ≤ s.maxLen 0 ∧ etherType sixty ≠ 0x8808 ∧ s.macAccepts 0 sixty = true ∧ s.corerDatagram sixty = none ∧
    s.flag (R.MAC_RXR_CTL 0 0) MAC_RXR_CTL.EN = false ∧ off.macAccepts 0 sixty = false ∧
    (crc32 sixty ≠ wordAt (sixty ++ [0, 0, 0, 0]) 60 ∧
      after (.macFrameReceive 0 0 (sixty ++ [0, 0, 0, 0])) s (fun t => t.flag (R.MAC_STAT 0) MAC_STAT.RXERR) = true) ∧
    goes (.macFrameReceive 0 0 good) off = true ∧
    after (.macFrameReceive 0 0 good) s (fun t => t.fld (R.MAC_STAT 0) MAC_STAT.FCS_CNT == 1) = true := by decide +kernel

theorem test_macs_idle : NoMacJobs (macOn (ring true)) ∧ RingsHere (macOn (ring false)) 0 ∧ NoMacJobs (linked 2 []) :=
  ⟨fun _ => rfl, ⟨fun _ => rfl, by decide +kernel⟩, fun _ => rfl⟩

/-- Ring 0 lies with device 3 of the cascade: its descriptor is asked for. -/
theorem test_ethernet_away :
    let s := macOn [fun s => { s with io := { s.io with link := { role := 1 } } }, fl (R.MAC_RXR_CTL 0 0) MAC_RXR_CTL.EN 1,
      rg (R.MAC_RXR_LO 0 0) 0x20000000, rg (R.MAC_RXR_HI 0 0) 0x103]
    s.route (s.descAt 0 true 0) = .cascade 3 0x20000000 ∧
    after (.macFrameReceive 0 0 good) s (fun t => (t.mac 0).jobs.map (fun j => j.tag) == [some 0] && t.io.link.remotes.length == 1) = true := by
  decide +kernel

theorem test_ethernet_store : 60 ≤ ((macOn (ring true)).word 0x20000004).toNat / 65536 % 16384 ∧
    after (.macFrameReceive 0 0 good) (macOn (ring true)) (fun t => t.byte 0x20000100 == 1 && t.fld (R.MAC_RXR_CTL 0 0) MAC_RXR_CTL.NEXT == 1) = true := by
  decide +kernel

theorem test_ethernet_send :
    let s := macOn (ring false)
    let c := macOn [fun s => s.setMac 0 { corerq := [sixty] }]
    (((List.range 8).reverse).find? ((s.creditsNow 0).txReady 0) = some 0 ∧
      after (.macFrameTransmit 0 0) s (fun t => (t.mac 0).out.length == 68 && t.fld (R.MAC_TXR_CTL 0 0) MAC_TXR_CTL.NEXT == 1) = true) ∧
    (((List.range 8).reverse).find? ((c.creditsNow 0).txReady 0) = some (c.fld (R.MAC_CFG 0) MAC_CFG.CQ) ∧
      after (.macFrameTransmit 0 0) c (fun t => (t.mac 0).out == good) = true) := by decide +kernel

theorem test_mac_registers :
    CleanWord (ringCtl 1 true 7) (MAC_TXR_CTL.EN.put 0 1) = true ∧
    after (.ringEnable 0 pit 1 true 7 0) State.reset (fun t => t.flag (R.MAC_RXR_CTL 1 7) MAC_RXR_CTL.EN) = true ∧
    (State.reset.mode ≠ 5 ∧ State.reset.flag (R.MAC_STAT 1) MAC_STAT.LINK ≠ true ∧
      after (.macLinkChange 0 1 true) State.reset (fun t => t.flag (R.MAC_STAT 1) MAC_STAT.LINK_CHG) = true) := by decide +kernel

theorem test_pcie :
    let up := built [fl R.PCIE_STAT PCIE_STAT.LINK 1, fun s => { s with md := { s.md with loadStep := 4 } }]
    let o : Outbound := { tag := 9, host := 0, len := 4, since := 0, for_ := .read }
    let waits := built [fun s => { s with io := { s.io with outbound := [o] } }, at_ 60000000000]
    up.io.d3hot = false ∧ waits.io.macs = [] ∧ waits.io.outWait = [] ∧ waits.path.rdWait = false ∧
    up.flag R.PCIE_STAT PCIE_STAT.LINK = true ∧ up.fld R.PCIE_B2WIN PCIE_B2WIN.BASE = 0 ∧ up.ecc = [] ∧
    after (.pcieInboundAccess 0 .bar2 true 0x203FFFFC 4 7) up (fun t => t.word 0x203FFFFC == 7) = true ∧
    after (.pcieInboundAccess 0 .bar2 false 0x203FFFFC 4 0) up (fun t => AMap.get 7 t.rdata 0x50 == 7) = true ∧
    after (.pcieInboundAccess 0 .config true 4 4 4) up (fun t => t.io.busMaster) = true ∧
    after (.pcieInboundAccess 0 .bar0 true 0xF003FC 4 0) up (fun t => t.msixWord 63 3 == 0) = true ∧
    goes (.pcieInboundAccess 0 .bar2 true 0 4 7) State.reset = true ∧
    (waits.io.outbound.find? (fun x => x.tag == (9 : BitVec 16).toNat) = some o ∧ Time.reached waits.now (0 + BitVec.ofNat 64 waits.pcieCto) = true ∧
      after (.pcieOutboundCompletion 0 9 (.data [1, 2, 3, 4])) waits (fun t => t.io.outbound == []) = true ∧
      after (.pcieOutboundCompletion 0 9 .failed) waits (fun t => t.flag R.PCIE_STAT PCIE_STAT.OB_ERR) = true ∧
      after (.pcieCompletionTimeout 0 9) waits (fun t => t.flag R.PCIE_STAT PCIE_STAT.OB_ERR) = true) ∧
    (CleanWord R.PCIE_MSIX_SEND 63 = true ∧ after (.pcieMsixSend 0 pit 63) up (fun t => AMap.get false t.io.msixPend 63) = true) ∧
    (up.mode ≠ 5 ∧ up.md.loadStep = 4 ∧ after (.pcieLinkChange 0 true 4 2) up (fun t => t.fld R.PCIE_STAT PCIE_STAT.GEN == 4) = true ∧
      after (.pcieLinkChange 0 true 5 2) up (fun t => t.fld R.PCIE_STAT PCIE_STAT.GEN == 0) = true ∧
      after (.pcieLinkChange 0 false 0 0) up (fun t => !t.flag R.PCIE_STAT PCIE_STAT.LINK) = true) := by decide +kernel

/-- CAN controller 3 is on, with these changes. -/
def canOn (l : List (State → State)) : State := built (fl (R.CAN_CTL 3) CAN_CTL.EN 1 :: l)

theorem test_can :
    let s := canOn []
    let fr := canFr 0x123 1 [9]
    let tx := canOn [rg (R.CAN_TXREQ 3) 0x80000000]
    let off := canOn [fl (R.CAN_CTL 3) CAN_CTL.AUTO_REC 1, fl (R.CAN_STAT 3) CAN_STAT.BUS_OFF 1]
    CleanWord (R.CAN_CTL 3) (CAN_CTL.EN.put 0 1) = true ∧ goes (.canCtlEnable 0 pit 3 0) State.reset = true ∧
    after (.canTxreq 0 pit 3 5) s (fun t => t.reg (R.CAN_TXREQ 3) == 5) = true ∧ after (.canTxabort 0 pit 3 0x80000000) tx (fun t => t.reg (R.CAN_TXREQ 3) == 0) = true ∧
    ((s.can 3).fifo.length ≤ 64 ∧ goes (.canRxpop 0 pit 3 0) s = true) ∧
    (s.canOn 3 = true ∧ fr.fdf = false ∧ (∀ n, n < 32 → s.flag (R.CAN_FLT_ID 3 n) CAN_FLT_ID.EN = false) ∧
      after (.canFrameReceive 0 3 fr 5) s (fun t => (t.can 3).fifo.length == 1) = true) ∧
    ((canOn [fl (R.CAN_FLT_ID 3 31) CAN_FLT_ID.EN 1]).canPasses 3 fr 31 = true) ∧
    (tx.flag (R.CAN_CTL 3) CAN_CTL.LISTEN = false ∧ tx.canNext 3 = some 31 ∧ AMap.get 0 tx.swSet (R.CAN_TXREQ 3) = 0 ∧
      after (.canFrameSent 0 3) tx (fun t => (t.reg (R.CAN_TXSENT 3)).getLsbD 31) = true) ∧
    after (.canFrameSent 0 3) (fl (R.CAN_CTL 3) CAN_CTL.LOOP 1 tx) (fun t => (t.can 3).fifo.map (fun x => x.1) == [tx.canBuffer 3 31]) = true ∧
    after (.canBusOff 0 3) s (fun t => t.flag (R.CAN_STAT 3) CAN_STAT.BUS_OFF) = true ∧
    after (.canBusError 0 3 128 0) s (fun t => t.flag (R.CAN_STAT 3) CAN_STAT.PASSIVE) = true ∧
    after (.canBusOffRecovery 0 3) off (fun t => !t.flag (R.CAN_STAT 3) CAN_STAT.BUS_OFF) = true := by decide +kernel

theorem test_xspi :
    let s := built [fl R.LOAD_STAT LOAD_STAT.DONE 1]
    let busy := built [fun s => { s with io := { s.io with xspi := some { len := 256 } } }, fl R.XSPI_STAT XSPI_STAT.BUSY 1]
    CleanWord R.XSPI_CMD (XSPI_CMD.KIND.put 0 0) = true ∧ s.flag R.XSPI_STAT XSPI_STAT.BUSY = false ∧ s.slotRefuses false = false ∧
    State.reset.slotRefuses false = true ∧
    after (.xspiRead 0 pit 0) s (fun t => t.flag R.XSPI_STAT XSPI_STAT.BUSY) = true ∧ after (.xspiWrite 0 pit 0) s (fun t => t.flag R.XSPI_STAT XSPI_STAT.BUSY) = true ∧
    after (.xspiProgram 0 pit (XSPI_CMD.ADDR_EN.put 0 1)) (built [fl R.LOAD_STAT LOAD_STAT.DONE 1, rg R.XSPI_ADDR 0x7000000, fl R.XSPI_LEN XSPI_LEN.VAL 5,
      rg (R.XSPI_WIN 1) 0x33]) (fun t => t.io.xspi.map (fun o => (o.addr, o.out)) == some (some 0x7000000, [0, 0, 0, 0, 0x33])) = true ∧ after (.xspiErase 0 pit 0) s (fun t => t.io.xspi.isSome) = true ∧
    after (.xspiErase 0 pit 0) State.reset (fun t => t.flag R.XSPI_STAT XSPI_STAT.SLOT_REJ) = true ∧
    after (.xspiCommandDone 0 (List.replicate 256 7)) busy (fun t => t.reg (R.XSPI_WIN 63) == 0x07070707 && t.flag R.XSPI_STAT XSPI_STAT.DONE) = true := by
  decide +kernel

theorem test_spi :
    let h := GSPI_TXH.BITS.get (State.reset.reg (R.GSPI_TXH 7))
    let fr : SpiFrame := { cs := 0, bits := Nat.max 7 h + 1, hold := false, data := 5 }
    let s := built [fun s => s.setSpi 7 { tx := [fr], rx := [9], nextPoll := [(3, some 0)] }, fl (R.GSPI_POLL 7 3) GSPI_POLL.EN 1, rg (R.GSPI_PMASK 7 3) 1]
    after (.gspiTxd 0 pit 7 5) s (fun t => (t.spi 7).tx.length == 2) = true ∧
    after (.gspiTxd 0 pit 7 5) (s.setSpi 7 { tx := List.replicate 16 fr }) (fun t => t.flag (R.GSPI_STAT 7) GSPI_STAT.TX_REJ) = true ∧
    (AMap.get false s.undef (R.GSPI_RX 7) = false ∧ after (.gspiRx 0 pit 7) s (fun t => AMap.get 0 t.rdata 4 == 9) = true) ∧
    after (.gspiFrameDone 0 7 0xFF) s (fun t => (t.spi 7).rx.length == 2 && (t.spi 7).tx == []) = true ∧
    (AMap.get none (s.spi 7).nextPoll 3 = some 0 ∧ Time.reached s.now 0 = true ∧
      after (.gspiPoll 0 7 3 1) s (fun t => t.fieldBit (R.GSPI_STAT 7) GSPI_STAT.POLL_ERR 3) = true ∧ goes (.gspiPoll 0 7 3 0) s = true) := by
  decide +kernel

theorem test_dap :
    let s := built [fl R.TS_SEC TS_SEC.DBG 1, fun s => { s with md := { s.md with loadStep := 4, inReset := false } }]
    let parked := fl R.WAKE_CFG ⟨3, 1⟩ 1 (inMode 5 s)
    (s.ecc = [] ∧ after (.dapRead 0 6 .pit 0x203FFFFC) s (fun t => t.io.dapData == 0 && t.tapCapture == some (72, t.dapReg)) = true ∧
      after (.dapWrite 0 6 .bank 0x203FFFFC 7) s (fun t => t.word 0x203FFFFC == 7) = true) ∧
    (s.hasCore 6 = true ∧ goes (.dapStatus 0 6) s = true ∧ after (.dapHalt 0 6) s (fun t => (t.flow 6).halted) = true) ∧
    (s.hasCore 4 = true ∧ s.paired = true ∧ after (.dapHalt 0 4) s (fun t => t.pr.deputy.haltReq) = true) ∧
    goes (.dapResume 0 6) s = true ∧ after (.dapSingleStep 0 6) (s.setFlow 6 { halted := true }) (fun t => (t.flow 6).stepping) = true ∧
    (parked.mode = 5 ∧ (parked.reg R.WAKE_CFG).getLsbD 3 = true ∧ goes (.dapWakeRequest 0) parked = true) ∧ goes (.dapSystemReset 0) s = true ∧
    (State.reset.flag R.TS_SEC TS_SEC.DBG = false ∧ goes (.dapRead 0 6 .pit 0) State.reset = true ∧ goes (.dapWrite 0 6 .pit 0 7) State.reset = true ∧
      after (.dapHalt 0 6) State.reset (fun t => !(t.flow 6).halted) = true) ∧
    (∀ c ∈ [Instr.dapStatus 0 6, .dapResume 0 6, .dapSingleStep 0 6, .dapWakeRequest 0, .dapSystemReset 0],
      after c State.reset (fun t => t.io == State.reset.io && t.md == State.reset.md) = true) ∧
    (s.mode ≠ 5 ∧ goes (.dapWakeRequest 0) s = true ∧ (s.flow 6).halted = false ∧
      after (.dapSingleStep 0 6) s (fun t => !(t.flow 6).stepping) = true ∧ s.hasCore 5 = false ∧
      after (.dapHalt 0 5) s (fun t => !(t.flow 5).halted) = true) := by decide +kernel

theorem test_jtag :
    let s := built [fl R.TS_SEC TS_SEC.SCAN 1]
    ∀ x ∈ [(Instr.jtagIdcode 0, 1), (.jtagSamplePreload 0, 2), (.jtagExtest 0, 3), (.jtagHighz 0, 4), (.jtagClamp 0, 5), (.jtagScan 0, 0x20),
      (.jtagBypass 0, 0xFF), (.testLogicReset 0, 1)], after x.1 s (fun t => t.io.ir == x.2) = true := by decide +kernel

/-! ## The cores -/

/-- Core `p` stands at the instruction `w`, after these changes. -/
def runs (p : Nat) (w : Word) (l : List (State → State)) : State :=
  built ([fun s => s.setCore p { running := true, spPS := 0x20001000, pc := 64 }, fun s => s.setWord (privBase p + 64) w,
    rg (R.VBASE_PIT p) 0x20002000] ++ l)

/-- The instruction that `runs` places. -/
def placed (w : Word) : Fetched := { instr := decode32 w, bits := w, next := 68 }

/-- The encodings of R210 and R213. -/
theorem test_encodings :
    decode32 0x123450B7 = .lui 1 0x12345000 ∧ decode32 0xFFF00093 = .aluI 0 false 1 0 0xFFFFFFFF ∧ decode32 0x02208133 = .mulDiv 0 2 1 2 ∧
    decode32 0x0040A103 = .load 2 2 1 4 ∧ decode32 0x0020A223 = .store 2 1 2 4 ∧ decode32 0x0000000F = .fence ∧
    decode32 0x0000100F = .fenceI ∧ decode32 0x00000073 = .ecall ∧ decode32 0x00100073 = .ebreak := by decide +kernel

theorem test_ordinary_stands :
    Standing (runs 6 0x123450B7 []) 6 (placed 0x123450B7) ∧ Standing (runs 0 0x02208133 []) 0 (placed 0x02208133) ∧
    Standing (runs 4 0x0000000F []) 4 (placed 0x0000000F) := by
  unfold Standing MayRun NoneAhead
  decide +kernel

theorem test_ordinary :
    let three := crg 0 (fun c => (c.set 1 7).set 2 6)
    after (.executeInstruction 0 6) (runs 6 0x123450B7 []) (fun t => (t.core 6).get 1 == 0x12345000 && (t.core 6).pc == 68) = true ∧
    after (.executeInstruction 0 0) (runs 0 0x02208133 [three]) (fun t => (t.core 0).get 2 == 42) = true ∧
    after (.executeInstruction 0 0) (runs 0 0x008000EF []) (fun t => (t.core 0).get 1 == 68 && (t.core 0).pc == 72) = true ∧
    after (.executeInstruction 0 0) (runs 0 0x00008067 [crg 0 (fun c => c.set 1 0x101)]) (fun t => (t.core 0).pc == 0x100) = true ∧
    after (.executeInstruction 0 0) (runs 0 0x00000463 []) (fun t => (t.core 0).pc == 72) = true ∧
    after (.executeInstruction 0 0) (runs 0 0x001FD073 []) (fun t => (t.core 0).fcsr == 31) = true ∧
    after (.executeInstruction 0 0) (runs 0 0x0020F1D3 [crg 0 (fun c => (c.setFr 1 0x3F800000).setFr 2 0x40000000)])
      (fun t => (t.core 0).getF 3 == 0x40400000) = true ∧
    after (.fence 0 4) (runs 4 0x0000000F []) (fun t => (t.core 4).pc == 68) = true ∧
    after (.fenceI 0 4) (runs 4 0x0000100F []) (fun t => (t.core 4).pc == 68) = true := by decide +kernel

/-- A load from, and a store to, the last word of system RAM. -/
def ld (l : List (State → State)) : State := runs 6 0x0000A103 (crg 6 (fun c => c.set 1 0x203FFFFC) :: l)
def st (l : List (State → State)) : State := runs 6 0x0020A023 (crg 6 (fun c => (c.set 1 0x203FFFFC).set 2 9) :: l)

theorem test_accesses_stand :
    Standing (ld []) 6 (placed 0x0000A103) ∧ Standing (ld [cfl 6 (fun q => { q with stores := [buffered] })]) 6 (placed 0x0000A103) ∧
    Standing (st []) 6 (placed 0x0020A023) := by
  unfold Standing MayRun NoneAhead
  decide +kernel

theorem test_accesses :
    let l : PendLoad := { addr := 0x203FFFFC, va := 0x203FFFFC, size := 4, signed := true, float := false, rd := 2, world := .pit,
                          sup := true, next := 68 }
    let loads := fun (l : PendLoad) => ld [cfl 6 (fun q => { q with load := some l }), fun s => s.setWord 0x203FFFFC 5]
    let drains := fun (b : BufStore) => st [cfl 6 (fun q => { q with stores := [b] })]
    let refused := runs 6 0x00000013 [cfl 6 (fun q => { q with storeErr := some 0x24000000 })]
    ((ld []).levelMay 6 UREG_PIT_CFG.R 0x203FFFFC 4 = true ∧ (ld []).localToSystem 6 0x203FFFFC = 0x203FFFFC ∧
      after (.coreLoad 0 6) (ld []) (fun t => (t.flow 6).load == some l) = true ∧
      after (.coreLoad 0 6) (ld [cfl 6 (fun q => { q with stores := [buffered] })])
        (fun t => (t.flow 6).load == some { l with data := some 9 }) = true) ∧
    (l.frame = false ∧ (loads l).depStopped 6 = false ∧ (loads l).ecc = [] ∧ after (.loadDataReturn 0 6) (loads l) (fun t => (t.core 6).get 2 == 5) = true ∧
      after (.loadDataReturn 0 6) (loads { l with data := some 8 }) (fun t => (t.core 6).get 2 == 8 && (t.core 6).pc == 68) = true ∧
      after (.loadDataReturn 0 6) (loads { l with err := true }) (fun t => t.word 0x20000FE8 == 3) = true) ∧
    ((st []).levelMay 6 UREG_PIT_CFG.W 0x203FFFFC 4 = true ∧ (st []).flow 6 = {} ∧
      after (.coreStore 0 6) (st []) (fun t => (t.flow 6).stores == [buffered]) = true) ∧
    (after (.storeBufferDrain 0 6) (drains buffered) (fun t => t.word 0x203FFFFC == 9 && (t.flow 6).stores == []) = true ∧
      after (.storeBufferDrain 0 6) (drains { buffered with addr := 0x247FFFFC, va := 0x247FFFFC })
        (fun t => (t.flow 6).storeErr.isSome) = true) ∧
    (refused.atBoundary 6 = false ∧ (refused.setFlow 6 { refused.flow 6 with storeErr := none }).atBoundary 6 = true ∧
      after (.storeError 0 6) refused (fun t => t.word 0x20000FE8 == 0x80000009) = true) := by decide +kernel

theorem test_vector_load :
    let l : PendLoad := { addr := 0, va := 0, size := 4, signed := false, float := false, rd := 0, world := .pit, sup := true, vector := true }
    let s := fun (l : PendLoad) => runs 6 0x00000013 [cfl 6 (fun q => { q with load := some l })]
    after (.loadDataReturn 0 6) (s { l with data := some 101 }) (fun t => (t.core 6).pc == 100 && (t.flow 6).load == none) = true ∧
    after (.loadDataReturn 0 6) (s { l with err := true }) (fun t => (t.flow 6).load == none) = true := by decide +kernel

theorem test_entry_ready : EntryReady (runs 6 0 []) 6 .pit 1 := by
  unfold EntryReady PushFits HandlerAt ReadAt DataAt
  decide +kernel

theorem test_entry_ready_stored : EntryReady (runs 6 0x00000013 [cfl 6 (fun q => { q with storeErr := some 0 })]) 6 .pit 9 := by
  unfold EntryReady PushFits HandlerAt ReadAt DataAt
  decide +kernel

theorem test_entry_ready_hewer : EntryReady (runs 4 0 []) 4 .pit 24 ∧ HandlerAt (runs 6 0 []) 6 .pit 8 0 := by
  unfold EntryReady PushFits HandlerAt ReadAt DataAt
  decide +kernel

theorem test_raises :
    Raises 0 (runs 6 0 []) 6 (.executeInstruction 0 6) 1 0 ∧ Raises 0 (runs 6 0x00000073 []) 6 (.ecall 0 6) 6 0x00000073 := by
  unfold Raises
  refine ⟨Or.inr ⟨⟨.illegal, 0, 66⟩, ?_, ?_⟩, Or.inr ⟨placed 0x00000073, ?_, ?_⟩⟩
  · unfold Standing MayRun NoneAhead; decide +kernel
  · exact Or.inl (by decide +kernel)
  · unfold Standing MayRun NoneAhead; decide +kernel
  · exact Or.inr (Or.inr (Or.inr (Or.inl (by decide +kernel))))

/-- Source 32 is ready for the Judge at priority 3, in Pit world. -/
def interrupted : State :=
  runs 6 0x00000013 [rg (R.SRC_CFG 32) (SRC_CFG.PRIO.put (SRC_CFG.EN.put (SRC_CFG.TARGET.put 0 6) 1) 3),
    fun s => s.setSrc 32 { s.src 32 with ready := true, pending := true }]

/-- A core's write to an unmapped address, and one at User level to MODE_CTL, are met as vector 4. -/
def user : Access := { pit with master := 6, sup := false }
def userRuns : State := runs 6 0 [crg 6 (fun c => { c with sup := false })]

theorem test_store_faults_ready : EntryReady userRuns 6 .pit 4 := by
  unfold EntryReady PushFits HandlerAt ReadAt DataAt
  decide +kernel

theorem test_mayTrap : MayTrap (.modeRequestHold 0 user 0) user R.MODE_CTL :=
  ⟨0, 0, Or.inl ⟨Or.inr (Or.inr (Or.inl rfl)), rfl⟩⟩

theorem test_store_faults :
    userRuns.faultsAtIssue user R.MODE_CTL = some 6 ∧ userRuns.faultsAtIssue pit R.MODE_CTL = none ∧
    after (.registerWrite 0 user 0x0A000000 1) userRuns (fun t => t.word 0x20000FE8 == 4 && t.word 0x20000FEC == 0x0A000000) = true ∧
    after (.registerWrite 0 user 0x1FFFFFFC 1) userRuns (fun t => t.word 0x20000FE8 == 4) = true ∧
    after (.modeRequestHold 0 user 0) userRuns (fun t => t.word 0x20000FE8 == 4 && t.mode == 0) = true := by decide +kernel

theorem test_entry_waits :
    let s := runs 3 0 [cfl 3 (fun q => { q with cp := some { op := 2, fd := 31, ins := [1] } })]
    (s.flow 3).coprocAhead = true ∧ after (.executeInstruction 0 3) s (fun t => t.core 3 == s.core 3) = true := by decide +kernel

theorem test_entries :
    let bad := runs 6 0 [crg 6 (fun c => { c with spPS := 0x20001002 })]
    let nested := runs 6 0 [crg 6 (fun c => { c with emg := true, esp := 0x20003000 })]
    let lost := runs 6 0 [crg 6 (fun c => { c with emg := true, esp := 0x20003001 })]
    ((bad.flow 6).coprocAhead = false ∧ bad.io.outbound.length ≤ 24) ∧
    after (.executeInstruction 0 6) (runs 6 0 []) (fun t => t.word 0x20000FE0 == 64 && t.word 0x20000FE8 == 1) = true ∧
    after (.executeInstruction 0 6) bad (fun t => (t.core 6).emg && t.reg (R.SHF 6 2) == 1 && t.reg (R.SHF 6 8) == 0x20001002) = true ∧
    after (.executeInstruction 0 6) nested (fun t => (t.core 6).enest == 1 && (t.core 6).esp == 0x20002FE0) = true ∧
    after (.executeInstruction 0 6) lost (fun t => (t.core 6).starting && !(t.core 6).running) = true ∧
    (interrupted.atBoundary 6 = true ∧ interrupted.agreed 6 = true ∧ interrupted.deliverable 6 = some (32, 3) ∧
      after (.interruptEntry 0 6) interrupted (fun t => (t.core 6).cpl == 4 && (t.src 32).active && t.word 0x20000FE8 == 0x200013) = true) := by
  decide +kernel

theorem test_coprocessor_stands :
    Standing (runs 3 0x0401022B []) 3 (placed 0x0401022B) ∧ Standing (runs 4 0x0401022B []) 4 (placed 0x0401022B) ∧
    CoprocCommand 0 3 (.cpSqrt 0 3) 2 := by
  unfold Standing MayRun NoneAhead CoprocCommand
  decide +kernel

theorem test_coprocessor :
    let busy := fun (o : CoprocOp) => runs 3 0x00000013 [cfl 3 (fun q => { q with cp := some o })]
    let begins := runs 3 0x0401022B []
    (begins.flow 3).cp = none ∧
    after (.cpSqrt 0 3) begins (fun t => (t.flow 3).cp.isSome && (t.core 3).pc == 68) = true ∧
    after (.cpSqrt 0 3) (runs 3 0x0401022B [cfl 3 (fun q => { q with cp := some { op := 2, fd := 31, ins := [1] } })])
      (fun t => (t.flow 3).cp == some { op := 2, fd := 31, ins := [1] }) = true ∧
    after (.cpSqrt 0 4) (runs 4 0x0401022B []) (fun t => t.word 0x20000FEC == 0x0401022B) = true ∧
    after (.cpResult 0 3) (busy { op := 2, fd := 31, ins := [0x80000000] }) (fun t => (t.core 3).getF 31 == 0x80000000) = true ∧
    after (.cpResult 0 3) (busy { op := 3, fd := 0, ins := [0x80000000] }) (fun t => (t.core 3).getF 0 == 0xFF800000 && (t.core 3).fcsr == 8) = true ∧
    after (.cpResult 0 3) (busy { op := 0, fd := 30, ins := [0x7F800000] }) (fun t => (t.core 3).getF 31 == 0x7FC00000 && (t.core 3).fcsr == 16) = true ∧
    after (.cpResult 0 3) (busy { op := 1, fd := 4, ins := [0, 0] }) (fun t => (t.core 3).getF 4 == 0) = true ∧
    after (.cpResult 0 3) (busy { op := 7, fd := 4, ins := [1, 2], squashed := true }) (fun t => (t.core 3).f == [] && (t.flow 3).cp == none) = true := by
  decide +kernel

/-- A branch that is taken, to the address after it, with an instruction begun ahead of it on one path or the other. -/
theorem test_coprocessor_ahead :
    let o : CoprocOp := { op := 2, fd := 31, ins := [1], ahead := some 72 }
    let s := fun (o : CoprocOp) => runs 3 0x00000263 [cfl 3 (fun q => { q with cp := some o })]
    (placed 0x00000263).instr = .branch 0 0 0 4 ∧ MayRun (s o) 3 (placed 0x00000263) ∧ Standing (runs 3 0x00000263 []) 3 (placed 0x00000263) ∧
    goes (.cpSqrt 0 3) (runs 3 0x00000263 []) = true ∧
    after (.executeInstruction 0 3) (s o) (fun t => (t.core 3).pc == 72 && (t.flow 3).cp == some { o with ahead := none }) = true ∧
    after (.executeInstruction 0 3) (s { o with ahead := some 100 })
      (fun t => (t.core 3).pc == 68 && (t.flow 3).cp == some { o with ahead := none, squashed := true }) = true := by
  unfold Standing MayRun NoneAhead
  decide +kernel

theorem test_calls_stand_fast :
    Standing (runs 3 0x00000073 []) 3 (placed 0x00000073) ∧ Standing (runs 3 0x0010000B []) 3 (placed 0x0010000B) := by
  unfold Standing MayRun NoneAhead
  decide +kernel

theorem test_calls_stand_cross :
    Standing (runs 3 0x0170000B []) 3 (placed 0x0170000B) ∧ Standing (runs 3 0x0020000B []) 3 (placed 0x0020000B) := by
  unfold Standing MayRun NoneAhead
  decide +kernel

theorem test_calls_stand_judge :
    Standing (runs 6 0x0000000B []) 6 (placed 0x0000000B) ∧ Standing (runs 6 0x0040000B []) 6 (placed 0x0040000B) := by
  unfold Standing MayRun NoneAhead
  decide +kernel

theorem test_calls_stand_rest :
    Standing (runs 6 0x00100073 []) 6 (placed 0x00100073) ∧ Standing (runs 3 0x0030008B []) 3 (placed 0x0030008B) := by
  unfold Standing MayRun NoneAhead
  decide +kernel

theorem test_calls :
    let ret := SRET_PIT.VALID.put (SRET_PIT.PC.put (SRET_PIT.WL.put 0 1) 50) 1
    let full := ENTRY_PIT.EN.put (ENTRY_PIT.ADDR.put 0 25) 1
    after (.ecall 0 3) (runs 3 0x00000073 [rg (R.SYSENT_PIT 3) full]) (fun t => (t.core 3).pc == 100 && t.fld (R.SRET_PIT 3) SRET_PIT.PC == 34) = true ∧
    after (.srtn 0 3) (runs 3 0x0010000B [rg (R.SRET_PIT 3) ret]) (fun t => (t.core 3).pc == 100 && !t.flag (R.SRET_PIT 3) SRET_PIT.VALID) = true ∧
    after (.xcall 0 3) (runs 3 0x0170000B [rg (R.ENTRY_BANK 3 7) full]) (fun t => (t.core 3).world == .bank && t.flag (R.XRET_BANK 3) XRET_PIT.VALID) = true ∧
    after (.xrtn 0 3) (runs 3 0x0020000B [rg (R.XRET_PIT 3) ret]) (fun t => (t.core 3).world == .bank && (t.core 3).pc == 100) = true ∧
    after (.ertn 0 6) (runs 6 0x0000000B [crg 6 (fun c => { c with spPS := 0x203FFFE0 }), fun s => s.setWord 0x203FFFE0 77])
      (fun t => (t.core 6).pc == 76 && !(t.core 6).sup && (t.core 6).spPS == 0x20400000) = true ∧
    after (.ertn 0 6) (runs 6 0x0000000B [crg 6 (fun c => { c with emg := true }), rg (R.SHF 6 0) 77])
      (fun t => (t.core 6).pc == 76 && !(t.core 6).emg) = true ∧
    after (.ebreak 0 6) (runs 6 0x00100073 [fl R.TS_SEC TS_SEC.DBG 1]) (fun t => (t.flow 6).halted) = true ∧
    after (.wait 0 6) (runs 6 0x0040000B []) (fun t => (t.flow 6).waiting && (t.core 6).pc == 68) = true := by decide +kernel

theorem test_quiesce :
    let q := fun (p : Nat) (l : List (State → State)) => runs p 0x0030008B l
    let z : Slice := { y := 3, target := 3, stage := 4, since := 0 }
    let armed := HW_BANK.VERIFIED.put (HW_BANK.ARM.put 0 1) 1
    after (.quiesce 0 3) (q 3 [crg 3 (fun c => { c with cpl := 1 })]) (fun t => (t.core 3).pc == 68 && (t.core 3).get 1 == 0) = true ∧
    ((q 6 []).sliceAt 6 = none ∧ after (.quiesce 0 6) (q 6 []) (fun t => (t.core 6).pc == 68) = true) ∧
    after (.quiesce 0 3) (q 3 [fun s => { s with ts := { s.ts with heldWait := [(3, true)] } }]) (fun t => (t.flow 3).held == some 1) = true ∧
    ((q 3 [fun s => { s with ts := { s.ts with slices := [z] } }]).sliceAt 3 = some z ∧
      after (.quiesce 0 3) (q 3 [fun s => { s with ts := { s.ts with slices := [z] } }]) (fun t => (t.flow 3).held == some 1) = true) ∧
    after (.quiesce 0 3) (q 3 [rg (R.HW_BANK 3) armed, rg (R.HW_RESUME 3) (HW_RESUME.ADDR.put 0 50)])
      (fun t => (t.core 3).pc == 100 && (t.core 3).get 1 == 1 && t.flag (R.HW_BANK 3) HW_BANK.ACTIVE) = true := by decide +kernel

end Sys2Proof.Tests
end

/-! # The family "time and angle": captured reads, steering, time steps, vehicle time and timer alarms

First the state a command begins from and the one it answers, then fields after an operation, then one part for each group of
commands, and last the statement. -/

namespace Sys2Proof.Safety

open Sys2Proof.Machine

theorem RegsBut.trans {p : Nat → Prop} {s t u : State} (h : RegsBut p s t) (g : RegsBut p t u) : RegsBut p s u :=
  fun k hk => (g k hk).trans (h k hk)

theorem RegsBut.mono {p q : Nat → Prop} {s t : State} (h : RegsBut p s t) (hpq : ∀ k, p k → q k) : RegsBut q s t :=
  fun k hk => h k (fun hp => hk (hpq k hp))

end Sys2Proof.Safety

namespace Sys2Proof.Machine

open Sys2Proof Sys2Proof.Safety

/-! ## From the state before a command to the state it answers -/

/-- `u` is `s` after `dt` units of reference time, but for the record of the registers that hold undefined values: what the act
of a register write begins from. -/
structure Began (s : State) (dt : Nat) (u : State) : Prop where
  reg : ∀ k, u.reg k = s.reg k
  tb : u.tb = (s.advance dt).tb
  io : u.io = s.io

theorem began_advance (s : State) (dt : Nat) : Began s dt (s.advance dt) := ⟨by simp, rfl, by simp⟩

theorem began_undefAs (s : State) (dt : Nat) (d c : AMap Bool) : Began s dt ((s.advance dt).undefAs d c) :=
  ⟨by simp, rfl, by simp⟩

theorem Began.fld {s u : State} {dt : Nat} (h : Began s dt u) (k : Nat) (f : Fld) : u.fld k f = s.fld k f := by
  rw [State.fld_def, State.fld_def, h.reg]

theorem Began.flag {s u : State} {dt : Nat} (h : Began s dt u) (k : Nat) (f : Fld) : u.flag k f = s.flag k f := by
  rw [State.flag_def, State.flag_def, h.reg]

theorem Began.subordinate {s u : State} {dt : Nat} (h : Began s dt u) : u.subordinate = s.subordinate := by
  rw [State.subordinate, State.subordinate, h.io]

theorem Began.now {s u : State} {dt : Nat} (h : Began s dt u) : u.now = (s.advance dt).now := by
  rw [State.now, State.now, h.tb]

theorem Began.taTarget {s u : State} {dt : Nat} (h : Began s dt u) (i : Nat) : u.taTarget i = s.taTarget i := by
  rw [State.taTarget, State.taTarget, h.reg, h.reg]

theorem Began.stepAllowed {s u : State} {dt : Nat} (h : Began s dt u) : u.stepAllowed = s.stepAllowed := by
  simp only [State.stepAllowed, State.groupRuns, h.flag, h.subordinate]

/-- What is left alone from the state a command begins from is left alone from the state before it. -/
theorem Began.regsBut {s u t : State} {dt : Nat} (h : Began s dt u) {p : Nat → Prop} (ht : RegsBut p u t) : RegsBut p s t :=
  fun k hk => (ht k hk).trans (h.reg k)

/-- A Pit-world write of a clean word answers the state its act leaves. -/
theorem run_pitWrite {a : Access} {k : Nat} {w : Word} (ha : PitWord a) (hc : CleanWord k w = true) (act : Word → State → State)
    (dt : Nat) (s : State) : ∃ u, Began s dt u ∧
      run dt s (fun s => settle a k (pitOnly a k s (fun s => wordWrite a k w s (fun w s => okWr (act w s))))) =
        .next (((act w u).memoryOf s).queueOf s) := by
  obtain ⟨d, c, h⟩ := pit_write ha hc act (s.advance dt)
  exact ⟨_, began_undefAs s dt d c, by rw [run_eq, h]⟩

/-! Readers that neither the queue nor memory feeds. -/

@[simp] theorem State.answered_fld (t s : State) (k : Nat) (f : Fld) : ((t.memoryOf s).queueOf s).fld k f = t.fld k f := (rfl)
@[simp] theorem State.answered_flag (t s : State) (k : Nat) (f : Fld) : ((t.memoryOf s).queueOf s).flag k f = t.flag k f := (rfl)
@[simp] theorem State.answered_taTarget (t s : State) (i : Nat) : ((t.memoryOf s).queueOf s).taTarget i = t.taTarget i := (rfl)
@[simp] theorem regsBut_answered (p : Nat → Prop) (s t v : State) : RegsBut p s ((t.memoryOf v).queueOf v) ↔ RegsBut p s t := Iff.rfl

/-! The passage of time leaves the held writes, and the adjustment of a subordinate. -/

@[simp] theorem State.advance_vtHeld (s : State) (dt : Nat) : (s.advance dt).tb.vtHeld = s.tb.vtHeld := by
  unfold State.advance
  split
  · rfl
  · simp only [State.advanceTb]; split <;> rfl

@[simp] theorem State.advance_taHeld (s : State) (dt : Nat) : (s.advance dt).tb.taHeld = s.tb.taHeld := by
  unfold State.advance
  split
  · rfl
  · simp only [State.advanceTb]; split <;> rfl

theorem State.advance_adjRem_subordinate {s : State} (h : s.subordinate = true) (dt : Nat) :
    (s.advance dt).tb.adjRem = s.tb.adjRem := by
  unfold State.advance
  split
  · rfl
  · simp only [State.advanceTb, if_pos h]; split <;> rfl

/-! ## Fields after an operation -/

/-- Field `g` lies in the word and shares no bit with field `f`. -/
abbrev Fld.Apart (f g : Fld) : Prop := g.lo + g.width ≤ 32 ∧ (g.lo + g.width ≤ f.lo ∨ f.lo + f.width ≤ g.lo)

theorem State.put_same_reg (s : State) (k : Nat) (w : Word) : (s.put k w).reg k = w := by simp [State.put_reg]

theorem State.put_regsBut (s : State) (k : Nat) (w : Word) : RegsBut (· = k) s (s.put k w) :=
  fun j hj => by simp [State.put_reg, show j ≠ k from hj]

theorem State.setF_regsBut (s : State) (k : Nat) (f : Fld) (v : Nat) : RegsBut (· = k) s (s.setF k f v) := s.put_regsBut k _

theorem State.raise_regsBut (s : State) (k : Nat) (f : Fld) : RegsBut (· = k) s (s.raise k f) :=
  fun j hj => by simp [State.raise_reg, show j ≠ k from hj]

theorem State.raiseIf_regsBut (s : State) (c : Bool) (k : Nat) (f : Fld) : RegsBut (· = k) s (s.raiseIf c k f) :=
  fun j hj => by simp [State.raiseIf_reg, show j ≠ k from hj]

/-- What leaves a register alone leaves its fields alone. -/
theorem fld_of_reg {s t : State} {k : Nat} (h : t.reg k = s.reg k) (f : Fld) : t.fld k f = s.fld k f := by
  rw [State.fld_def, State.fld_def, h]

theorem flag_of_reg {s t : State} {k : Nat} (h : t.reg k = s.reg k) (f : Fld) : t.flag k f = s.flag k f := by
  rw [State.flag_def, State.flag_def, h]

theorem State.setF_fld_apart (s : State) (k : Nat) {f g : Fld} (v : Nat) (h : Fld.Apart f g) : (s.setF k f v).fld k g = s.fld k g := by
  rw [State.fld_def, State.setF_reg, if_pos rfl, Fld.get_put_apart f g _ v h.1 h.2, State.fld_def]

theorem State.setF_flag_apart (s : State) (k : Nat) {f g : Fld} (v : Nat) (h : Fld.Apart f g) : (s.setF k f v).flag k g = s.flag k g :=
  congrArg (· != 0) (s.setF_fld_apart k v h)

theorem State.raise_fld_apart (s : State) (k : Nat) {f g : Fld} (h : Fld.Apart f g) : (s.raise k f).fld k g = s.fld k g := by
  rw [State.fld_def, State.raise_reg, if_pos rfl, Fld.get_or_mask_apart f g _ h.1 h.2, State.fld_def]

theorem State.raise_flag_apart (s : State) (k : Nat) {f g : Fld} (h : Fld.Apart f g) : (s.raise k f).flag k g = s.flag k g :=
  congrArg (· != 0) (s.raise_fld_apart k h)

/-- A flag of one bit that has been written with a truth value. -/
theorem State.setF_flag_toNat (s : State) (k : Nat) {f : Fld} (c : Bool) (h : f.lo + f.width ≤ 32) (h1 : f.width = 1) :
    (s.setF k f c.toNat).flag k f = c := by
  rw [State.flag, State.setF_fld s k f _ h, h1]
  cases c <;> rfl

/-! ## Captured reads (R149) -/

/-- A whole read of a register that holds defined values acts, and returns what the act shows. -/
theorem readAct_defined {a : Access} {k : Nat} {s : State} {act : State → Word × State} (ha : a.size = 4)
    (hu : AMap.get false (act s).2.undef k = false) : readAct a k s act = (act s).2.returned a.master (act s).1 := by
  unfold readAct State.shown
  rw [if_pos ha]
  dsimp only
  rw [hu]
  split <;> rfl

/-- A whole read, made as a command, of a register that holds defined values, where the act changes the time base at most. -/
theorem run_readAct {a : Access} {k : Nat} {s : State} {act : State → Word × State} (dt : Nat) (ha : a.size = 4)
    (hd : AMap.get false s.undef k = false) (hu : (act (s.advance dt)).2.undef = (s.advance dt).undef)
    (hr : (act (s.advance dt)).2.regs = (s.advance dt).regs) :
    ∃ t, run dt s (fun s => readAct a k s act) = .next t ∧ AMap.get 0 t.rdata a.master = (act (s.advance dt)).1 ∧
      t.tb = (act (s.advance dt)).2.tb ∧ RegsBut (fun _ => False) s t := by
  have h := readAct_defined (k := k) ha (by rw [hu, State.advance_undef]; exact hd)
  refine ⟨_, by rw [run_eq, h], ?_, by simp, fun j _ => ?_⟩
  · exact AMap.get_set_same _ _ _ _
  · rw [State.queueOf_reg, State.memoryOf_reg, State.returned_reg, State.reg, hr, State.advance_regs, State.reg]

theorem tbTimeLoRead_captures {a : Access} {s : State} (dt : Nat) (ha : a.size = 4) (hd : AMap.get false s.undef R.TB_TIME_LO = false) :
    ∃ t, exec (.tbTimeLoRead dt a) s = .next t ∧ AMap.get 0 t.rdata a.master = (s.advance dt).now.truncate 32 ∧
      AMap.get 0 t.tb.timeHi a.master = ((s.advance dt).now >>> 32).truncate 32 ∧ RegsBut (fun _ => False) s t := by
  obtain ⟨t, h, hlo, htb, hreg⟩ := run_readAct (act := fun s => s.captureTime a.master s.now) dt ha hd rfl rfl
  exact ⟨t, h, hlo, by rw [htb]; exact AMap.get_set_same _ _ _ _, hreg⟩

theorem State.advance_vtime (s : State) (dt : Nat) : (s.advance dt).vtime = (s.advance dt).now + s.vtOfs := by
  simp [State.vtime, State.vtOfs]

theorem tbVtimeLoRead_captures {a : Access} {s : State} (dt : Nat) (ha : a.size = 4) (hd : AMap.get false s.undef R.TB_VTIME_LO = false) :
    ∃ t, exec (.tbVtimeLoRead dt a) s = .next t ∧ AMap.get 0 t.rdata a.master = ((s.advance dt).now + s.vtOfs).truncate 32 ∧
      AMap.get 0 t.tb.vtimeHi a.master = (((s.advance dt).now + s.vtOfs) >>> 32).truncate 32 ∧ RegsBut (fun _ => False) s t := by
  obtain ⟨t, h, hlo, htb, hreg⟩ := run_readAct (act := fun s => s.captureVtime a.master s.vtime) dt ha hd rfl rfl
  rw [← State.advance_vtime]
  exact ⟨t, h, hlo, by rw [htb]; exact AMap.get_set_same _ _ _ _, hreg⟩

theorem angTpLoRead_captures {a : Access} {k : Fin 16} {s : State} (dt : Nat) (ha : a.size = 4)
    (hd : AMap.get false s.undef (R.ANG_TP_LO k) = false) :
    ∃ t, exec (.angTpLoRead dt a k) s = .next t ∧ AMap.get 0 t.rdata a.master = BitVec.ofNat 32 (s.trk k).tp ∧
      AMap.get 0 t.tb.angHi (16 * a.master + k) = BitVec.ofNat 32 ((s.trk k).tp / 2 ^ 32) ∧ RegsBut (fun _ => False) s t := by
  obtain ⟨t, h, hlo, htb, hreg⟩ := run_readAct (act := fun s => s.captureTp a.master k) dt ha hd rfl rfl
  rw [← s.advance_trk dt k]
  exact ⟨t, h, hlo, by rw [htb]; exact AMap.get_set_same _ _ _ _, hreg⟩

/-! ## Rate and adjustment (R156, R157, R160) -/

/-- The registers in which the effective rate and a remaining correction show. -/
def RateReg (k : Nat) : Prop := k = R.TB_EFF_RATE ∨ k = R.TB_STAT

/-- The registers of the alarms, of angle, and those after them lie above. -/
theorem not_rateReg {k : Nat} (h : 0x60000100 ≤ k) : ¬ RateReg k := by
  simp only [RateReg, R.TB_EFF_RATE, R.TB_STAT]
  omega

@[simp] theorem State.showRate_tb (s : State) : s.showRate.tb = s.tb := by simp [State.showRate]

@[simp] theorem State.showRate_trk (s : State) (k : Nat) : s.showRate.trk k = s.trk k := by simp [State.showRate]

theorem State.showRate_regsBut (s : State) : RegsBut RateReg s s.showRate :=
  ((s.setF_regsBut _ _ _).mono fun _ h => Or.inl h).trans ((State.setF_regsBut _ _ _ _).mono fun _ h => Or.inr h)

/-- ADJ_BUSY shows whether a correction remains. -/
theorem State.showRate_adjBusy (s : State) : s.showRate.flag R.TB_STAT TB_STAT.ADJ_BUSY = decide (s.tb.adjRem ≠ 0) := by
  have h := State.setF_flag_toNat (s.setF R.TB_EFF_RATE TB_EFF_RATE.RHO (s.effRate % 2 ^ 24).toNat) R.TB_STAT
    (f := TB_STAT.ADJ_BUSY) (decide (s.tb.adjRem ≠ 0)) (by decide) rfl
  simpa [State.showRate] using h

/-- The other flags of TB_STAT stay. -/
theorem State.showRate_flag (s : State) {f : Fld} (h : Fld.Apart TB_STAT.ADJ_BUSY f) : s.showRate.flag R.TB_STAT f = s.flag R.TB_STAT f :=
  (State.setF_flag_apart _ _ _ h).trans (flag_of_reg (s.setF_regsBut _ _ _ _ (by decide)) f)

/-- A refused command of the time base sets its flag in TB_STAT and nothing else. -/
theorem raise_tbStat {s u : State} {dt : Nat} (hu : Began s dt u) (f : Fld) :
    (u.raise R.TB_STAT f).reg R.TB_STAT = s.reg R.TB_STAT ||| f.mask ∧ RegsBut (· = R.TB_STAT) s (u.raise R.TB_STAT f) := by
  refine ⟨?_, hu.regsBut (u.raise_regsBut _ f)⟩
  rw [State.raise_reg, if_pos rfl, hu.reg]

/-- The state of a rate write before the effective rate is shown. -/
def State.rateSet (s : State) (w : Word) : State :=
  (s.put R.TB_RATE w).raiseIf (decide (TB_RATE.RATE.getInt w < -2147484) || decide (2147484 < TB_RATE.RATE.getInt w))
    R.TB_STAT TB_STAT.RATE_LIM

theorem State.setRate_eq (s : State) (w : Word) :
    s.setRate w = if s.subordinate then s.raise R.TB_STAT TB_STAT.ADJ_REJ else (s.rateSet w).showRate := (rfl)

theorem State.rateSet_regsBut (s : State) (w : Word) : RegsBut (fun k => k = R.TB_RATE ∨ k = R.TB_STAT) s (s.rateSet w) :=
  ((s.put_regsBut _ _).mono fun _ h => Or.inl h).trans ((State.raiseIf_regsBut _ _ _ _).mono fun _ h => Or.inr h)

theorem State.rateSet_rate (s : State) (w : Word) : (s.rateSet w).reg R.TB_RATE = w :=
  (State.raiseIf_regsBut _ _ _ _ _ (by decide)).trans (s.put_same_reg _ _)

/-- A rate beyond 500 ppm sets RATE_LIM. -/
theorem State.rateSet_limited (s : State) {w : Word} (h : TB_RATE.RATE.getInt w < -2147484 ∨ 2147484 < TB_RATE.RATE.getInt w) :
    (s.rateSet w).flag R.TB_STAT TB_STAT.RATE_LIM = true := by
  have hc : (decide (TB_RATE.RATE.getInt w < -2147484) || decide (2147484 < TB_RATE.RATE.getInt w)) = true := by simpa using h
  rw [State.rateSet, hc]
  exact State.raise_flag _ _ _ (by decide) (by decide)

theorem tbRateWrite_answers {a : Access} {w : Word} (dt : Nat) (s : State) (ha : PitWord a) (hc : CleanWord R.TB_RATE w = true) :
    ∃ t, exec (.tbRateWrite dt a w) s = .next t ∧
      if s.subordinate then t.reg R.TB_STAT = s.reg R.TB_STAT ||| TB_STAT.ADJ_REJ.mask ∧ RegsBut (· = R.TB_STAT) s t
      else t.reg R.TB_RATE = w ∧ RegsBut (fun i => i = R.TB_RATE ∨ RateReg i) s t ∧
        ((TB_RATE.RATE.getInt w < -2147484 ∨ 2147484 < TB_RATE.RATE.getInt w) → t.flag R.TB_STAT TB_STAT.RATE_LIM = true) := by
  obtain ⟨u, hu, h⟩ := run_pitWrite ha hc (fun w s => s.setRate w) dt s
  refine ⟨_, h, ?_⟩
  simp only [State.queueOf_reg, State.memoryOf_reg, regsBut_answered, State.answered_flag]
  rw [State.setRate_eq, hu.subordinate]
  split
  · exact raise_tbStat hu _
  · refine ⟨?_, hu.regsBut ?_, fun hl => ?_⟩
    · exact (State.showRate_regsBut _ _ (by unfold RateReg; decide)).trans (u.rateSet_rate w)
    · exact ((u.rateSet_regsBut w).mono fun _ h => h.imp_right Or.inr).trans ((State.showRate_regsBut _).mono fun _ h => Or.inr h)
    · exact (State.showRate_flag _ (by decide)).trans (u.rateSet_limited hl)

/-- The model's limit is the statements'. -/
theorem clampInt_eq_limited {lo hi v : Int} (h : lo ≤ hi) : clampInt lo hi v = limited lo hi v := by
  unfold clampInt limited
  split
  · omega
  · split <;> omega

theorem tbAdjWrite_answers {a : Access} {w : Word} (dt : Nat) (s : State) (ha : PitWord a) (hc : CleanWord R.TB_ADJ w = true) :
    ∃ t, exec (.tbAdjWrite dt a w) s = .next t ∧
      if s.subordinate then t.reg R.TB_STAT = s.reg R.TB_STAT ||| TB_STAT.ADJ_REJ.mask ∧ RegsBut (· = R.TB_STAT) s t
      else t.tb.adjRem = limited (-(2 ^ 31 - 1)) (2 ^ 31 - 1) ((s.advance dt).tb.adjRem + w.toInt) ∧ RegsBut RateReg s t ∧
        t.flag R.TB_STAT TB_STAT.ADJ_BUSY = decide (t.tb.adjRem ≠ 0) := by
  obtain ⟨u, hu, h⟩ := run_pitWrite ha hc (fun w s => s.addAdj w) dt s
  refine ⟨_, h, ?_⟩
  simp only [State.queueOf_reg, State.memoryOf_reg, regsBut_answered, State.answered_flag, State.queueOf_tb, State.memoryOf_tb]
  rw [State.addAdj, hu.subordinate]
  split
  · exact raise_tbStat hu _
  · refine ⟨?_, hu.regsBut (State.showRate_regsBut _), ?_⟩
    · rw [State.showRate_tb, ← hu.tb]
      exact clampInt_eq_limited (by decide)
    · rw [State.showRate_tb]
      exact State.showRate_adjBusy _

/-- Once nothing is left to correct, ADJ_REM is zero: in a subordinate it does not move. -/
theorem adjRem_drained {s : State} {dt : Nat} (hl : (s.advance dt).adjLeft = 0) (h : s.tb.adjRem = 0 ∨ s.subordinate = false) :
    (s.advance dt).tb.adjRem = 0 := by
  have hs := (began_advance s dt).subordinate
  cases hsub : s.subordinate with
  | true => rw [State.advance_adjRem_subordinate hsub]; exact h.resolve_right (by simp [hsub])
  | false => simpa [State.adjLeft, hs, hsub] using hl

theorem exec_adjDrained (dt : Nat) (s : State) : exec (.adjDrained dt) s = execAdjDrained dt s := (rfl)

theorem adjDrained_answers {s : State} {dt : Nat} (hl : (s.advance dt).adjLeft = 0) (h : s.tb.adjRem = 0 ∨ s.subordinate = false) :
    ∃ t, exec (.adjDrained dt) s = .next t ∧ t.flag R.TB_STAT TB_STAT.ADJ_BUSY = false ∧ RegsBut RateReg s t := by
  have hnext : exec (.adjDrained dt) s = .next (((s.advance dt).showRate.memoryOf s).queueOf s) := by
    rw [exec_adjDrained, execAdjDrained, run_eq, if_pos hl]
  refine ⟨_, hnext, ?_, (began_advance s dt).regsBut (State.showRate_regsBut _)⟩
  rw [State.answered_flag, State.showRate_adjBusy, adjRem_drained hl h]
  rfl

/-! ## Time steps (R158) -/

/-- The conditions of a time step, one by one. -/
theorem State.stepAllowed_iff (s : State) : s.stepAllowed = true ↔
    (∀ g, g < 32 → s.groupRuns g = false) ∧ (∀ i, i < 16 → s.flag (R.TA_CTL i) TA_CTL.EN = false) ∧ s.subordinate = false := by
  simp [State.stepAllowed, and_assoc]

/-- What a loop makes true at each number, and no later number undoes, holds of all of them after it. -/
theorem forAll_range_each {P : Nat → State → Prop} {f : State → Nat → State} {N : Nat} (hdo : ∀ s x, x < N → P x (f s x))
    (hkeep : ∀ s x y, x < N → y < x → P y s → P y (f s x)) (s : State) :
    ∀ n, n ≤ N → ∀ y, y < n → P y (forAll (List.range n) s f) := by
  intro n
  induction n with
  | zero => exact fun _ y hy => absurd hy (Nat.not_lt_zero y)
  | succ n ih =>
    intro hn y hy
    have hlast : forAll (List.range (n + 1)) s f = f (forAll (List.range n) s f) n := by
      rw [List.range_succ]; exact List.foldl_append
    rw [hlast]
    rcases Nat.lt_succ_iff_lt_or_eq.mp hy with hlt | rfl
    · exact hkeep _ n y hn hlt (ih (by omega) y hlt)
    · exact hdo _ y hn

/-- The registers that a tracker's return to STALL may write. -/
def StallReg (a k : Nat) : Prop := k = R.ANG_STAT a ∨ k = R.ANG_POS a ∨ ∃ e, e < 8 ∧ k = R.ENC_STAT e

theorem not_stallReg_angPos {a k : Nat} (hk : k < a) : ¬ StallReg a (R.ANG_POS k) := by
  rintro (h | h | ⟨e, he, h⟩) <;> simp only [R.ANG_POS, R.ANG_STAT, R.ENC_STAT] at h <;> omega

theorem not_stallReg_angStat {a k : Nat} (hk : k < a) : ¬ StallReg a (R.ANG_STAT k) := by
  rintro (h | h | ⟨e, he, h⟩) <;> simp only [R.ANG_POS, R.ANG_STAT, R.ENC_STAT] at h <;> omega

theorem not_stallReg_stgStatus {a : Nat} (ha : a < 16) : ¬ StallReg a R.STG_STATUS := by
  rintro (h | h | ⟨e, he, h⟩) <;> simp only [R.ANG_POS, R.ANG_STAT, R.ENC_STAT, R.STG_STATUS] at h <;> omega

theorem angPos_ne_angStat (a : Nat) : R.ANG_POS a ≠ R.ANG_STAT a := by simp only [R.ANG_POS, R.ANG_STAT]; omega

theorem angPos_ne_encStat (a e : Nat) : R.ANG_POS a ≠ R.ENC_STAT e := by simp only [R.ANG_POS, R.ENC_STAT]; omega

/-- The marker outputs that follow a tracker, low. -/
def State.markersLow (s : State) (a : Nat) : State :=
  forAll (List.range 8) s (fun s e => if s.fld (R.ENC_CFG e) ENC_CFG.TRK = a then s.setF (R.ENC_STAT e) ENC_STAT.OUT_Z 0 else s)

theorem State.markersLow_reg (s : State) (a j : Nat) (h : ∀ e, e < 8 → j ≠ R.ENC_STAT e) : (s.markersLow a).reg j = s.reg j := by
  refine forAll_reg _ (fun t e he => ?_) s
  split
  · rw [State.setF_reg, if_neg (h e (List.mem_range.mp he))]
  · rfl

theorem State.markersLow_trk (s : State) (a j : Nat) : (s.markersLow a).trk j = s.trk j := by
  refine forAll_same (g := fun t => t.trk j) (fun t e => ?_) _ s
  split
  · exact State.setF_trk _ _ _ _ j
  · rfl

/-- A return to STALL in steps: what the tracker holds, then VALID, the marker outputs and the state. -/
theorem State.stallTracker_shape (s : State) (a th : Nat) (x : Time) : ∃ r : State, (∀ j, j ≠ R.ANG_STAT a → r.reg j = s.reg j) ∧
    (∀ j, j ≠ a → r.trk j = s.trk j) ∧
    s.stallTracker a th x = ((r.setF (R.ANG_POS a) ANG_POS.VALID 0).markersLow a).setF (R.ANG_STAT a) ANG_STAT.STATE 0 := by
  refine ⟨_, fun j hj => ?_, fun j hj => ?_, rfl⟩
  · rw [State.raiseIf_reg, if_neg (fun h => hj h.2)]; rfl
  · rw [State.raiseIf_trk, State.updTrk_eq, State.setTrk_trk, if_neg hj]; rfl

/-- A tracker that has returned to STALL, with no pulse that waits. -/
def Restarted (k : Nat) (s : State) : Prop :=
  s.flag (R.ANG_POS k) ANG_POS.VALID = false ∧ s.trkState k = 0 ∧ (s.trk k).pulses = []

theorem State.restartTracker_regsBut (s : State) (a th : Nat) (x : Time) : RegsBut (StallReg a) s (s.restartTracker a th x) := by
  intro j hj
  obtain ⟨hstat, hpos, henc⟩ : j ≠ R.ANG_STAT a ∧ j ≠ R.ANG_POS a ∧ ∀ e, e < 8 → j ≠ R.ENC_STAT e := by
    simpa [StallReg, not_or] using hj
  obtain ⟨r, hreg, -, h⟩ := s.stallTracker_shape a th x
  rw [State.restartTracker, State.updTrk_eq, State.setTrk_reg, h, State.setF_reg, if_neg hstat, State.markersLow_reg _ _ _ henc,
    State.setF_reg, if_neg hpos, hreg j hstat]

theorem State.restartTracker_trk (s : State) (a th : Nat) (x : Time) {j : Nat} (hj : j ≠ a) :
    (s.restartTracker a th x).trk j = s.trk j := by
  obtain ⟨r, -, htrk, h⟩ := s.stallTracker_shape a th x
  rw [State.restartTracker, State.updTrk_eq, State.setTrk_trk, if_neg hj, h, State.setF_trk, State.markersLow_trk, State.setF_trk,
    htrk j hj]

theorem State.restartTracker_restarted (s : State) (a th : Nat) (x : Time) :
    Restarted a (s.restartTracker a th x) := by
  obtain ⟨r, -, -, h⟩ := s.stallTracker_shape a th x
  have hreg : ∀ j, (s.restartTracker a th x).reg j = (s.stallTracker a th x).reg j := fun j => rfl
  refine ⟨?_, ?_, ?_⟩
  · rw [flag_of_reg (hreg _), h, flag_of_reg (State.setF_regsBut _ _ _ _ _ (angPos_ne_angStat a)),
      flag_of_reg (State.markersLow_reg _ _ _ (fun _ _ => angPos_ne_encStat a _))]
    exact State.setF_flag_toNat r _ false (by decide) rfl
  · rw [State.trkState, fld_of_reg (hreg _), h, State.setF_fld _ _ _ _ (by decide)]
    rfl
  · rw [State.restartTracker, State.updTrk_eq, State.setTrk_trk, if_pos rfl]

/-- The step of tracker `a` when device time takes the value `t`. -/
def State.stepTracker (t : Time) (s : State) (a : Nat) : State :=
  (s.restartTracker a (s.theta a) s.now).updTrk a (fun q => { q with lastPulse := q.lastPulse.map (fun x => x + (t - s.now)) })

theorem State.stepTracker_reg (t : Time) (s : State) (a j : Nat) :
    (s.stepTracker t a).reg j = (s.restartTracker a (s.theta a) s.now).reg j := by
  rw [State.stepTracker, State.updTrk_eq, State.setTrk_reg]

theorem State.stepTracker_restarted (t : Time) (s : State) (a : Nat) : Restarted a (s.stepTracker t a) := by
  obtain ⟨hvalid, hstate, hpulses⟩ := s.restartTracker_restarted a (s.theta a) s.now
  have hreg := State.stepTracker_reg t s a
  refine ⟨(flag_of_reg (hreg _) _).trans hvalid, (fld_of_reg (hreg _) _).trans hstate, ?_⟩
  rw [State.stepTracker, State.updTrk_eq, State.setTrk_trk, if_pos rfl]
  exact hpulses

/-- The step of one tracker leaves another where it stands. -/
theorem State.stepTracker_other (t : Time) (s : State) {a k : Nat} (hk : k < a) (h : Restarted k s) :
    Restarted k (s.stepTracker t a) := by
  obtain ⟨hvalid, hstate, hpulses⟩ := h
  have hreg : RegsBut (StallReg a) s (s.stepTracker t a) := fun j hj =>
    (State.stepTracker_reg t s a j).trans (s.restartTracker_regsBut a (s.theta a) s.now j hj)
  refine ⟨?_, ?_, ?_⟩
  · exact (flag_of_reg (hreg _ (not_stallReg_angPos hk)) _).trans hvalid
  · exact (fld_of_reg (hreg _ (not_stallReg_angStat hk)) _).trans hstate
  · rw [State.stepTracker, State.updTrk_eq, State.setTrk_trk, if_neg (Nat.ne_of_lt hk), State.restartTracker_trk _ _ _ _ (Nat.ne_of_lt hk)]
    exact hpulses

/-- Every tracker's step. -/
def State.stepTrackers (s : State) (t : Time) : State := forAll (List.range 16) s (State.stepTracker t)

theorem State.stepTrackers_restarted (s : State) (t : Time) {k : Nat} (hk : k < 16) : Restarted k (s.stepTrackers t) := by
  unfold State.stepTrackers
  exact forAll_range_each (P := Restarted) (fun s a _ => State.stepTracker_restarted t s a)
    (fun s _ _ _ hk h => State.stepTracker_other t s hk h) s
    16 (Nat.le_refl 16) k hk

theorem State.stepTrackers_stgStatus (s : State) (t : Time) : (s.stepTrackers t).reg R.STG_STATUS = s.reg R.STG_STATUS := by
  refine forAll_reg _ (fun u a ha => ?_) s
  rw [State.stepTracker_reg, u.restartTracker_regsBut a _ _ _ (not_stallReg_stgStatus (List.mem_range.mp ha))]

/-- The time base after a time step to `t` (R158). -/
def TimeBase.stepped (tb : TimeBase) (t : Time) : TimeBase :=
  { tb with dev := t, adjRem := 0, cascErr := 0, rateFrac := 0, slewFrac := 0 }

/-- A time step in parts: the shift change, the trackers, the time base, and the rate it shows. -/
theorem State.stepTo_eq (s : State) (t : Time) : s.stepTo t =
    (let u := s.cancelArm.stepTrackers t
     State.showRate { u with rt := { u.rt with was := [] }, tb := u.tb.stepped t }) := by
  unfold State.stepTo State.stepTrackers State.stepTracker TimeBase.stepped
  rfl

/-! An armed shift change that is cancelled (R203). -/

theorem State.noisePulse_stgStatus (s : State) (a : Nat) : (s.noisePulse a).reg R.STG_STATUS = s.reg R.STG_STATUS := by
  rw [State.noisePulse, State.count_reg, if_neg (by simp only [R.STG_STATUS, R.ANG_CNT]; omega), State.raise_reg,
    if_neg (by simp only [R.STG_STATUS, R.ANG_STAT]; omega)]

theorem State.takeEdge_stgStatus (s : State) (a : Nat) (t : Time) (level : Bool) :
    (s.takeEdge a t level).reg R.STG_STATUS = s.reg R.STG_STATUS := by
  simp only [State.takeEdge]
  split
  · rw [apply_ite (fun u : State => u.reg R.STG_STATUS), State.noisePulse_stgStatus, State.updTrk_eq, State.setTrk_reg, ite_self]
  · rfl

theorem State.takeEdges_stgStatus (s : State) : s.takeEdges.reg R.STG_STATUS = s.reg R.STG_STATUS := by
  refine forAll_same (g := fun t => t.reg R.STG_STATUS) (fun t a => ?_) _ s
  dsimp only
  split
  · rfl
  · exact forAll_same (g := fun t => t.reg R.STG_STATUS) (fun u (e : Time × Bool) => u.takeEdge_stgStatus a e.1 e.2) _ _

/-- The shift change of a state is cancelled. -/
def Cancelled (s : State) : Prop :=
  s.flag R.STG_STATUS STG_STATUS.ARMED = false ∧ s.flag R.STG_STATUS STG_STATUS.CANCELLED = true

theorem Cancelled.of_reg {s t : State} (h : Cancelled s) (hr : t.reg R.STG_STATUS = s.reg R.STG_STATUS) : Cancelled t :=
  ⟨(flag_of_reg hr _).trans h.1, (flag_of_reg hr _).trans h.2⟩

theorem State.cancelArm_cancelled {s : State} (h : s.flag R.STG_STATUS STG_STATUS.ARMED = true) : Cancelled s.cancelArm := by
  simp only [State.cancelArm, if_pos h]
  refine Cancelled.of_reg ?_ (State.takeEdges_stgStatus _)
  refine ⟨?_, State.raise_flag _ _ _ (by decide) (by decide)⟩
  rw [State.raise_flag_apart _ _ (by decide)]
  exact (State.setF_flag_apart _ _ _ (by decide)).trans ((State.setF_flag_apart _ _ _ (by decide)).trans
    (State.setF_flag_toNat _ _ false (by decide) rfl))

/-- What an accepted time step leaves. -/
theorem State.stepTo_leaves (s : State) (t : Time) :
    (s.stepTo t).now = t ∧ (s.stepTo t).tb.adjRem = 0 ∧ (∀ k, k < 16 → Restarted k (s.stepTo t)) ∧
      (s.flag R.STG_STATUS STG_STATUS.ARMED = true → Cancelled (s.stepTo t)) := by
  have h := s.stepTo_eq t
  dsimp only at h
  have hreg : ∀ k, ¬ RateReg k → (s.stepTo t).reg k = (s.cancelArm.stepTrackers t).reg k := fun k hk => by
    rw [h]; exact State.showRate_regsBut _ k hk
  refine ⟨?_, ?_, fun k hk => ?_, fun harm => ?_⟩
  · rw [h, State.now, State.showRate_tb]; rfl
  · rw [h, State.showRate_tb]; rfl
  · obtain ⟨hvalid, hstate, hpulses⟩ := s.cancelArm.stepTrackers_restarted t hk
    refine ⟨?_, ?_, ?_⟩
    · exact (flag_of_reg (hreg _ (not_rateReg (by simp only [R.ANG_POS]; omega))) _).trans hvalid
    · exact (fld_of_reg (hreg _ (not_rateReg (by simp only [R.ANG_STAT]; omega))) _).trans hstate
    · rw [h, State.showRate_trk]; exact hpulses
  · exact ((State.cancelArm_cancelled harm).of_reg (State.stepTrackers_stgStatus _ t)).of_reg (hreg _ (not_rateReg (by decide)))

theorem tbStep_answers {a : Access} {w : Word} (dt : Nat) (s : State) (ha : PitWord a)
    (hc : CleanWord R.TB_CTL (TB_CTL.STEP.put w 1) = true) :
    ∃ t, exec (.tbStep dt a w) s = .next t ∧
      (s.stepAllowed = true ↔
        (∀ g, g < 32 → s.groupRuns g = false) ∧ (∀ i, i < 16 → s.flag (R.TA_CTL i) TA_CTL.EN = false) ∧ s.subordinate = false) ∧
      if s.stepAllowed then
        t.now = s.reg R.TB_STEP_HI ++ s.reg R.TB_STEP_LO ∧ t.tb.adjRem = 0 ∧ (∀ k, k < 16 → Restarted k t) ∧
          (s.flag R.STG_STATUS STG_STATUS.ARMED = true → Cancelled t)
      else t.reg R.TB_STAT = s.reg R.TB_STAT ||| TB_STAT.STEP_REJ.mask ∧ RegsBut (· = R.TB_STAT) s t := by
  obtain ⟨u, hu, h⟩ := run_pitWrite ha hc (fun w s => s.tbCtl w) dt s
  refine ⟨_, h, s.stepAllowed_iff, ?_⟩
  have hstep : TB_CTL.STEP.get (TB_CTL.STEP.put w 1) ≠ 0 := by
    rw [Fld.get_put_same _ _ _ (by decide)]; decide
  rw [State.tbCtl, if_neg hstep, hu.stepAllowed]
  split
  · have hl := u.stepTo_leaves (wordsTime (u.reg R.TB_STEP_LO) (u.reg R.TB_STEP_HI))
    rw [hu.flag] at hl
    obtain ⟨hnow, hadj, htrk, hstg⟩ := hl
    exact ⟨by rw [← hu.reg, ← hu.reg]; exact hnow, hadj, htrk, hstg⟩
  · exact raise_tbStat hu _

/-! ## Vehicle time (R159) -/

/-- The offset of vehicle time with HI `w`, and the held LO. -/
def State.setVtOfs (s : State) (w : Word) : State :=
  State.put
    (let u := match s.tb.vtHeld with | some v => s.put R.TB_VT_OFS_LO v | none => s
     { u with tb := { u.tb with vtHeld := none } })
    R.TB_VT_OFS_HI w

theorem State.setVtOfs_lo (s : State) (w : Word) :
    (s.setVtOfs w).reg R.TB_VT_OFS_LO = s.tb.vtHeld.getD (s.reg R.TB_VT_OFS_LO) := by
  rw [State.setVtOfs, State.put_reg, if_neg (by decide)]
  cases s.tb.vtHeld with
  | none => rfl
  | some v => exact s.put_same_reg _ v

theorem State.setVtOfs_regsBut (s : State) (w : Word) :
    RegsBut (fun i => i = R.TB_VT_OFS_HI ∨ i = R.TB_VT_OFS_LO) s (s.setVtOfs w) := by
  intro k hk
  rw [State.setVtOfs, State.put_reg, if_neg (fun h => hk (Or.inl h))]
  cases s.tb.vtHeld with
  | none => rfl
  | some v => exact s.put_regsBut _ v k (fun h => hk (Or.inr h))

theorem tbVtOfsHiWrite_answers {a : Access} {w : Word} (dt : Nat) (s : State) (ha : PitWord a)
    (hc : CleanWord R.TB_VT_OFS_HI w = true) :
    ∃ t, exec (.tbVtOfsHiWrite dt a w) s = .next t ∧ t.reg R.TB_VT_OFS_HI = w ∧
      t.reg R.TB_VT_OFS_LO = s.tb.vtHeld.getD (s.reg R.TB_VT_OFS_LO) ∧
      RegsBut (fun i => i = R.TB_VT_OFS_HI ∨ i = R.TB_VT_OFS_LO) s t := by
  obtain ⟨u, hu, h⟩ := run_pitWrite ha hc (fun w s => s.setVtOfs w) dt s
  refine ⟨_, h, ?_⟩
  simp only [State.queueOf_reg, State.memoryOf_reg, regsBut_answered]
  refine ⟨State.put_same_reg _ _ _, ?_, hu.regsBut (u.setVtOfs_regsBut w)⟩
  rw [← hu.reg, ← s.advance_vtHeld dt, ← hu.tb]
  exact u.setVtOfs_lo w

/-! ## Timer alarms (R162, R163) -/

theorem wordsTime_split (t : Time) : wordsTime (t.truncate 32) ((t >>> 32).truncate 32) = t := by
  apply BitVec.eq_of_getLsbD_eq
  intro i hi
  refine (BitVec.getLsbD_append (x := (t >>> 32).truncate 32) (y := t.truncate 32)).trans ?_
  by_cases hl : i < 32
  · simp [hl]
  · simp [hl, show i - 32 < 32 by omega, show 32 + (i - 32) = i by omega]

theorem taLo_ne_taHi (i : Nat) : R.TA_LO i ≠ R.TA_HI i := by simp only [R.TA_LO, R.TA_HI]; omega

theorem taLo_ne_taCtl (i : Nat) : R.TA_LO i ≠ R.TA_CTL i := by simp only [R.TA_LO, R.TA_CTL]; omega

theorem taHi_ne_taCtl (i : Nat) : R.TA_HI i ≠ R.TA_CTL i := by simp only [R.TA_HI, R.TA_CTL]; omega

theorem taRepeat_ne_taCtl (i : Nat) : R.TA_REPEAT i ≠ R.TA_CTL i := by simp only [R.TA_REPEAT, R.TA_CTL]; omega

/-- The registers of the target of alarm `i`. -/
def TargetReg (i j : Nat) : Prop := j = R.TA_LO i ∨ j = R.TA_HI i

theorem not_targetReg_taCtl (i : Nat) : ¬ TargetReg i (R.TA_CTL i) := not_or.mpr ⟨(taLo_ne_taCtl i).symm, (taHi_ne_taCtl i).symm⟩

/-- What leaves the registers of a target alone leaves the target alone. -/
theorem taTarget_of_regsBut {s t : State} {i : Nat} (h : RegsBut (· = R.TA_CTL i) s t) : t.taTarget i = s.taTarget i := by
  rw [State.taTarget, State.taTarget, h _ (taLo_ne_taCtl i), h _ (taHi_ne_taCtl i)]

theorem State.setTaTarget_regsBut (s : State) (i : Nat) (t : Time) :
    RegsBut (TargetReg i) s (s.setTaTarget i t) :=
  ((s.put_regsBut _ _).mono fun _ h => Or.inl h).trans ((State.put_regsBut _ _ _).mono fun _ h => Or.inr h)

@[simp] theorem State.setTaTarget_tb (s : State) (i : Nat) (t : Time) : (s.setTaTarget i t).tb = s.tb := by simp [State.setTaTarget]

theorem State.setTaTarget_taTarget (s : State) (i : Nat) (t : Time) : (s.setTaTarget i t).taTarget i = t := by
  have hlo : (s.setTaTarget i t).reg (R.TA_LO i) = t.truncate 32 := by
    rw [State.setTaTarget, State.put_reg, if_neg (taLo_ne_taHi i), State.put_same_reg]
  have hhi : (s.setTaTarget i t).reg (R.TA_HI i) = (t >>> 32).truncate 32 := State.put_same_reg _ _ _
  rw [State.taTarget, hlo, hhi, wordsTime_split]

/-- An instant `n` tq after one that has been reached, from `n` and the time since. -/
theorem Time.toNat_sub_add (now x : Time) (n : Nat) :
    (now - (x + BitVec.ofNat 64 n)).toNat = (2 ^ 64 + Time.since x now - n % 2 ^ 64) % 2 ^ 64 := by
  simp only [Time.since, BitVec.toNat_sub, BitVec.toNat_add, BitVec.toNat_ofNat]
  omega

theorem Time.reached_add {now x : Time} {n : Nat} (hx : Time.reached now x = true) (hn : n ≤ Time.since x now) :
    Time.reached now (x + BitVec.ofNat 64 n) = true := by
  have hd : Time.since x now < 2 ^ 63 := of_decide_eq_true hx
  simp only [Time.reached, decide_eq_true_eq, Time.toNat_sub_add]
  omega

theorem Time.not_reached_add {now x : Time} {n : Nat} (hx : Time.reached now x = true) (hn : Time.since x now < n)
    (hb : n ≤ Time.since x now + 2 ^ 62) : Time.reached now (x + BitVec.ofNat 64 n) = false := by
  have hd : Time.since x now < 2 ^ 63 := of_decide_eq_true hx
  simp only [Time.reached, decide_eq_false_iff_not, Time.toNat_sub_add]
  omega

/-- A target moved on by the least whole number of intervals that passes the present (R163). -/
theorem Time.repeat_passes {now x : Time} {r : Nat} (hx : Time.reached now x = true) (hr : 0 < r) (hb : r ≤ 2 ^ 62) :
    Time.reached now (x + BitVec.ofNat 64 ((Time.since x now / r + 1) * r)) = false ∧
      Time.reached now (x + BitVec.ofNat 64 (Time.since x now / r * r)) = true := by
  have hdiv := Nat.div_add_mod (Time.since x now) r
  have hmod := Nat.mod_lt (Time.since x now) hr
  have hsucc : (Time.since x now / r + 1) * r = Time.since x now / r * r + r := Nat.succ_mul _ _
  rw [Nat.mul_comm] at hdiv
  exact ⟨Time.not_reached_add hx (by omega) (by omega), Time.reached_add hx (by omega)⟩

/-- The state of an alarm that has fired in time, before its repeat. -/
def State.alarmFired (s : State) (i : Nat) (x : Time) : State :=
  ((s.raise (R.TA_CTL i) TA_CTL.FIRED).countMod (R.TA_CTL i) TA_CTL.FIRE_CNT).fireAll (0xA0 + i) x true

/-- An alarm that fires in time: EN clears, or the target moves on. -/
theorem State.fireAlarm_eq (s : State) (i : Nat) (x : Time) :
    s.fireAlarm i x false =
      (let u := s.alarmFired i x
       let rep := (u.reg (R.TA_REPEAT i)).toNat
       if rep = 0 then u.setF (R.TA_CTL i) TA_CTL.EN 0
       else u.setTaTarget i (u.taTarget i +
         BitVec.ofNat 64 ((Time.since (u.taTarget i) u.now / Nat.max 10000 rep + 1) * Nat.max 10000 rep))) := (rfl)

theorem State.alarmFired_reg (s : State) (i : Nat) (x : Time) (j : Nat) :
    (s.alarmFired i x).reg j = ((s.raise (R.TA_CTL i) TA_CTL.FIRED).countMod (R.TA_CTL i) TA_CTL.FIRE_CNT).reg j := (rfl)

theorem State.alarmFired_now (s : State) (i : Nat) (x : Time) : (s.alarmFired i x).now = s.now :=
  (State.countMod_now _ _ _).trans (State.raise_now _ _ _)

theorem State.alarmFired_regsBut (s : State) (i : Nat) (x : Time) : RegsBut (· = R.TA_CTL i) s (s.alarmFired i x) :=
  (s.raise_regsBut _ _).trans (State.setF_regsBut _ _ _ _)

theorem State.alarmFired_fired (s : State) (i : Nat) (x : Time) : (s.alarmFired i x).flag (R.TA_CTL i) TA_CTL.FIRED = true := by
  rw [flag_of_reg (s.alarmFired_reg i x _), State.countMod, State.setF_flag_apart _ _ _ (by decide)]
  exact State.raise_flag _ _ _ (by decide) (by decide)

theorem State.alarmFired_fireCnt (s : State) (i : Nat) (x : Time) : (s.alarmFired i x).fld (R.TA_CTL i) TA_CTL.FIRE_CNT =
    (s.fld (R.TA_CTL i) TA_CTL.FIRE_CNT + 1) % 2 ^ TA_CTL.FIRE_CNT.width := by
  rw [fld_of_reg (s.alarmFired_reg i x _), State.countMod, State.setF_fld _ _ _ _ (by decide), State.raise_fld_apart _ _ (by decide)]

theorem State.alarmFired_en (s : State) (i : Nat) (x : Time) :
    (s.alarmFired i x).flag (R.TA_CTL i) TA_CTL.EN = s.flag (R.TA_CTL i) TA_CTL.EN := by
  rw [flag_of_reg (s.alarmFired_reg i x _), State.countMod, State.setF_flag_apart _ _ _ (by decide), State.raise_flag_apart _ _ (by decide)]

theorem State.alarmFired_taTarget (s : State) (i : Nat) (x : Time) : (s.alarmFired i x).taTarget i = s.taTarget i :=
  taTarget_of_regsBut (s.alarmFired_regsBut i x)

/-- The registers of an alarm. -/
def AlarmReg (i j : Nat) : Prop := j = R.TA_CTL i ∨ TargetReg i j

theorem not_alarmReg_modeStat (i : Fin 16) : ¬ AlarmReg i R.MODE_STAT := by
  simp only [AlarmReg, TargetReg, R.TA_CTL, R.TA_LO, R.TA_HI, R.MODE_STAT]
  omega

theorem State.fireAlarm_regsBut (s : State) (i : Nat) (x : Time) : RegsBut (AlarmReg i) s (s.fireAlarm i x false) := by
  have hf : RegsBut (AlarmReg i) s (s.alarmFired i x) := (s.alarmFired_regsBut i x).mono fun _ h => Or.inl h
  rw [State.fireAlarm_eq]
  dsimp only
  split
  · exact hf.trans ((State.setF_regsBut _ _ _ _).mono fun _ h => Or.inl h)
  · exact hf.trans ((State.setTaTarget_regsBut _ _ _).mono fun _ h => Or.inr h)

/-- Whether it repeats or not, an alarm that fires sets FIRED and counts. -/
theorem State.fireAlarm_counts (s : State) (i : Nat) (x : Time) :
    (s.fireAlarm i x false).flag (R.TA_CTL i) TA_CTL.FIRED = true ∧
      (s.fireAlarm i x false).fld (R.TA_CTL i) TA_CTL.FIRE_CNT =
        (s.fld (R.TA_CTL i) TA_CTL.FIRE_CNT + 1) % 2 ^ TA_CTL.FIRE_CNT.width := by
  rw [State.fireAlarm_eq, ← s.alarmFired_fired i x, ← s.alarmFired_fireCnt i x]
  dsimp only
  split
  · exact ⟨State.setF_flag_apart _ _ _ (by decide), State.setF_fld_apart _ _ _ (by decide)⟩
  · have h := fun t => (s.alarmFired i x).setTaTarget_regsBut i t _ (not_targetReg_taCtl i)
    exact ⟨flag_of_reg (h _) _, fld_of_reg (h _) _⟩

theorem State.fireAlarm_once {s : State} {i : Nat} (x : Time) (hr : s.reg (R.TA_REPEAT i) = 0) :
    (s.fireAlarm i x false).flag (R.TA_CTL i) TA_CTL.EN = false ∧ (s.fireAlarm i x false).taTarget i = s.taTarget i := by
  have hrep : (s.alarmFired i x).reg (R.TA_REPEAT i) = 0 := (s.alarmFired_regsBut i x _ (taRepeat_ne_taCtl i)).trans hr
  rw [State.fireAlarm_eq, ← s.alarmFired_taTarget i x]
  dsimp only
  rw [hrep, if_pos (show BitVec.toNat (0 : Word) = 0 from rfl)]
  exact ⟨State.setF_flag_toNat _ _ false (by decide) rfl, taTarget_of_regsBut (State.setF_regsBut _ _ _ _)⟩

theorem State.fireAlarm_again {s : State} {i : Nat} (x : Time) (hr : s.reg (R.TA_REPEAT i) ≠ 0) :
    (s.fireAlarm i x false).flag (R.TA_CTL i) TA_CTL.EN = s.flag (R.TA_CTL i) TA_CTL.EN ∧
      (s.fireAlarm i x false).taTarget i = s.taTarget i + BitVec.ofNat 64
        ((Time.since (s.taTarget i) s.now / max 10000 (s.reg (R.TA_REPEAT i)).toNat + 1) * max 10000 (s.reg (R.TA_REPEAT i)).toNat) := by
  have hrep : (s.alarmFired i x).reg (R.TA_REPEAT i) = s.reg (R.TA_REPEAT i) := s.alarmFired_regsBut i x _ (taRepeat_ne_taCtl i)
  rw [State.fireAlarm_eq, ← s.alarmFired_en i x, ← s.alarmFired_taTarget i x, ← s.alarmFired_now i x]
  dsimp only
  rw [hrep, if_neg (fun h : BitVec.toNat _ = 0 => hr (BitVec.eq_of_toNat_eq h))]
  exact ⟨flag_of_reg ((s.alarmFired i x).setTaTarget_regsBut i _ _ (not_targetReg_taCtl i)) _, State.setTaTarget_taTarget _ _ _⟩

theorem State.wakeBy_awake {s : State} (bit : Nat) (h : s.mode ≠ mPark) : s.wakeBy bit = s := if_neg (fun hp => h hp.1)

theorem exec_timerAlarmFire (dt : Nat) (i : Fin 16) (s : State) :
    exec (.timerAlarmFire dt i) s = execTimerAlarmFire dt i s := (rfl)

/-- An enabled alarm whose target has been reached fires, with its target as the scheduled instant. -/
theorem timerAlarmFire_next {dt : Nat} {i : Fin 16} {s : State} (hen : s.flag (R.TA_CTL i) TA_CTL.EN = true)
    (hx : Time.reached (s.advance dt).now (s.taTarget i) = true) (hm : s.mode ≠ mPark) :
    exec (.timerAlarmFire dt i) s = .next ((((s.advance dt).fireAlarm i (s.taTarget i) false).memoryOf s).queueOf s) := by
  have hu := began_advance s dt
  have hmode : ((s.advance dt).fireAlarm i (s.taTarget i) false).mode ≠ mPark := by
    rw [State.mode, fld_of_reg ((s.advance dt).fireAlarm_regsBut i _ R.MODE_STAT (not_alarmReg_modeStat i)), hu.fld]
    exact hm
  rw [exec_timerAlarmFire, execTimerAlarmFire, run_eq, hu.taTarget, hu.flag, hen, hx, Bool.and_self, if_pos rfl, State.wakeBy_awake _ hmode]

theorem timerAlarmFire_answers {dt : Nat} {i : Fin 16} {s : State} (hen : s.flag (R.TA_CTL i) TA_CTL.EN = true)
    (hx : Time.reached (s.advance dt).now (s.taTarget i) = true) (hm : s.mode ≠ mPark) :
    ∃ t, exec (.timerAlarmFire dt i) s = .next t ∧ t.flag (R.TA_CTL i) TA_CTL.FIRED = true ∧
      t.fld (R.TA_CTL i) TA_CTL.FIRE_CNT = (s.fld (R.TA_CTL i) TA_CTL.FIRE_CNT + 1) % 2 ^ TA_CTL.FIRE_CNT.width ∧
      RegsBut (AlarmReg i) s t ∧
      if s.reg (R.TA_REPEAT i) = 0 then t.flag (R.TA_CTL i) TA_CTL.EN = false ∧ t.taTarget i = s.taTarget i
      else t.flag (R.TA_CTL i) TA_CTL.EN = true ∧ Time.reached (s.advance dt).now (t.taTarget i) = false ∧
        ∃ m : Nat, 1 ≤ m ∧
          t.taTarget i = s.taTarget i + BitVec.ofNat 64 (m * max 10000 (s.reg (R.TA_REPEAT i)).toNat) ∧
          Time.reached (s.advance dt).now
            (s.taTarget i + BitVec.ofNat 64 ((m - 1) * max 10000 (s.reg (R.TA_REPEAT i)).toNat)) = true := by
  have hu := began_advance s dt
  obtain ⟨hfired, hcnt⟩ := (s.advance dt).fireAlarm_counts i (s.taTarget i)
  rw [hu.fld] at hcnt
  refine ⟨_, timerAlarmFire_next hen hx hm, ?_⟩
  simp only [State.answered_flag, State.answered_fld, State.answered_taTarget, regsBut_answered]
  refine ⟨hfired, hcnt, hu.regsBut (State.fireAlarm_regsBut _ _ _), ?_⟩
  split
  case isTrue hr =>
    obtain ⟨hoff, htgt⟩ := State.fireAlarm_once (s.taTarget i) ((hu.reg (R.TA_REPEAT i)).trans hr)
    exact ⟨hoff, htgt.trans (hu.taTarget i)⟩
  case isFalse hr =>
    have hrep := (s.reg (R.TA_REPEAT i)).isLt
    obtain ⟨hon, htgt⟩ := State.fireAlarm_again (s := s.advance dt) (i := i) (s.taTarget i) (by rw [hu.reg]; exact hr)
    rw [hu.flag] at hon
    rw [hu.taTarget, hu.reg] at htgt
    obtain ⟨hpast, hbefore⟩ := Time.repeat_passes (r := max 10000 (s.reg (R.TA_REPEAT i)).toNat) hx (by omega) (by omega)
    rw [htgt]
    exact ⟨hon.trans hen, hpast, _, Nat.le_add_left 1 _, rfl, hbefore⟩

/-! ### Writes to an alarm -/

/-- The target of alarm `i` with HI `w`, and the held LO. -/
def State.loadTa (s : State) (i : Nat) (w : Word) : State :=
  let lo := match AMap.get none s.tb.taHeld i with | some v => v | none => s.reg (R.TA_LO i)
  State.setTaTarget { s with tb := { s.tb with taHeld := AMap.set none s.tb.taHeld i none } } i (wordsTime lo w)

theorem State.loadTa_taTarget (s : State) (i : Nat) (w : Word) :
    (s.loadTa i w).taTarget i = w ++ (AMap.get none s.tb.taHeld i).getD (s.reg (R.TA_LO i)) := by
  rw [State.loadTa, State.setTaTarget_taTarget]
  cases AMap.get none s.tb.taHeld i <;> rfl

theorem State.loadTa_taHeld (s : State) (i : Nat) (w : Word) : AMap.get none (s.loadTa i w).tb.taHeld i = none := by
  rw [State.loadTa, State.setTaTarget_tb]
  dsimp only
  exact AMap.get_set_same _ _ _ _

theorem State.loadTa_now (s : State) (i : Nat) (w : Word) : (s.loadTa i w).now = s.now := by
  rw [State.now, State.loadTa, State.setTaTarget_tb]; rfl

theorem State.loadTa_regsBut (s : State) (i : Nat) (w : Word) :
    RegsBut (TargetReg i) s (s.loadTa i w) := fun k hk => State.setTaTarget_regsBut _ i _ k hk

/-- An alarm whose target lies ahead does not fire when it is armed. -/
theorem State.armAlarm_ahead {s : State} {i : Nat} (h : Time.reached s.now (s.taTarget i) = false) : s.armAlarm i = s := by
  rw [State.armAlarm, h]; rfl

theorem taHiWrite_answers {a : Access} {w : Word} {i : Fin 16} (dt : Nat) (s : State) (ha : PitWord a)
    (hc : CleanWord (R.TA_HI i) w = true) (hq : s.flag (R.TA_CTL i) TA_CTL.EN = false ∨
      Time.reached (s.advance dt).now (w ++ (AMap.get none s.tb.taHeld i).getD (s.reg (R.TA_LO i))) = false) :
    ∃ t, exec (.taHiWrite dt a i w) s = .next t ∧
      t.taTarget i = w ++ (AMap.get none s.tb.taHeld i).getD (s.reg (R.TA_LO i)) ∧ AMap.get none t.tb.taHeld i = none ∧
      RegsBut (TargetReg i) s t := by
  obtain ⟨u, hu, h⟩ := run_pitWrite ha hc
    (fun w s => if (s.loadTa i w).flag (R.TA_CTL i) TA_CTL.EN then (s.loadTa i w).armAlarm i else s.loadTa i w) dt s
  have htgt : (u.loadTa i w).taTarget i = w ++ (AMap.get none s.tb.taHeld i).getD (s.reg (R.TA_LO i)) := by
    rw [State.loadTa_taTarget, hu.tb, hu.reg, State.advance_taHeld]
  have hen : (u.loadTa i w).flag (R.TA_CTL i) TA_CTL.EN = s.flag (R.TA_CTL i) TA_CTL.EN :=
    (flag_of_reg (u.loadTa_regsBut i w _ (not_targetReg_taCtl i)) _).trans (hu.flag _ _)
  have hact : (if (u.loadTa i w).flag (R.TA_CTL i) TA_CTL.EN then (u.loadTa i w).armAlarm i else u.loadTa i w) = u.loadTa i w := by
    rw [hen]
    rcases hq with hoff | hahead
    · rw [hoff]; rfl
    · rw [State.armAlarm_ahead (by rw [State.loadTa_now, hu.now, htgt]; exact hahead), ite_self]
  rw [hact] at h
  refine ⟨_, h, ?_⟩
  simp only [State.answered_taTarget, State.queueOf_tb, State.memoryOf_tb, regsBut_answered]
  exact ⟨htgt, u.loadTa_taHeld i w, hu.regsBut (u.loadTa_regsBut i w)⟩

/-- A field reads only its own bits. -/
theorem Fld.get_congr {f : Fld} {v w : Word} (h : ∀ i, i < f.width → v.getLsbD (f.lo + i) = w.getLsbD (f.lo + i)) : f.get v = f.get w := by
  apply Nat.eq_of_testBit_eq
  intro i
  rw [Fld.get_testBit, Fld.get_testBit]
  by_cases hi : i < f.width
  · rw [h i hi]
  · simp [hi]

/-- TA_CTL in the register tables: no lock, EN read-write, FIRED and LATE cleared by writing 1, no field set by writing 1. -/
theorem taCtl_row (i : Fin 16) : (regAt (R.TA_CTL i % 0x100000000)).map (fun x => (x.1.name, x.1.lock)) = some (.TA_CTL, .unlocked) ∧
    tyMask (R.TA_CTL i) .rw = 1#32 ∧ tyMask (R.TA_CTL i) .w1s = 0#32 ∧ tyMask (R.TA_CTL i) .w1c = 0x300#32 := by
  revert i
  decide +kernel

theorem State.locked_taCtl (s : State) (i : Fin 16) : s.locked (R.TA_CTL i) = false := by
  obtain ⟨x, hx, hrow⟩ := Option.map_eq_some_iff.mp (taCtl_row i).1
  simp only [Prod.mk.injEq] at hrow
  simp only [State.locked, hx, hrow.2]

theorem clearedWith_taCtl (i : Fin 16) : clearedWith (R.TA_CTL i) = [] := by
  obtain ⟨x, hx, hrow⟩ := Option.map_eq_some_iff.mp (taCtl_row i).1
  simp only [Prod.mk.injEq] at hrow
  simp only [clearedWith, hx, hrow.1]

theorem not_clearedReg_taCtl (i : Fin 16) (j : Nat) : ¬ ClearedReg (R.TA_CTL i) j := by
  rintro ⟨x, hx, -⟩
  rw [clearedWith_taCtl] at hx
  exact List.not_mem_nil hx

/-- A write of TA_CTL stores EN, and clears at most FIRED and LATE. -/
theorem State.fieldWrite_taCtl (s : State) (i : Fin 16) (w : Word) :
    ∃ m, (s.fieldWrite (R.TA_CTL i) w).reg (R.TA_CTL i) = ((s.reg (R.TA_CTL i) &&& ~~~1#32) ||| (w &&& 1#32)) &&& ~~~(0x300#32 &&& m) := by
  obtain ⟨-, hrw, hw1s, hw1c⟩ := taCtl_row i
  unfold State.fieldWrite
  dsimp only
  rw [State.clearFlags_reg _ _ _ _ (not_clearedReg_taCtl i _), if_pos rfl, State.setFlags_reg, if_pos rfl, State.put_same_reg,
    s.locked_taCtl i, hrw, hw1s, hw1c, if_neg Bool.false_ne_true, BitVec.and_zero, BitVec.or_zero,
    BitVec.and_comm w 0x300#32, BitVec.and_assoc (0x300#32)]
  exact ⟨_, rfl⟩

theorem State.fieldWrite_taCtl_en (s : State) (i : Fin 16) (w : Word) :
    (s.fieldWrite (R.TA_CTL i) w).fld (R.TA_CTL i) TA_CTL.EN = TA_CTL.EN.get w := by
  obtain ⟨m, h⟩ := s.fieldWrite_taCtl i w
  rw [State.fld_def, h]
  refine Fld.get_congr fun j hj => ?_
  obtain rfl : j = 0 := Nat.lt_one_iff.mp hj
  simp

/-- No bit of FIRE_CNT is one that a write stores or clears. -/
theorem taCtl_masks_fireCnt : ∀ j : Fin 8,
    (1#32).getLsbD (TA_CTL.FIRE_CNT.lo + j) = false ∧ (0x300#32).getLsbD (TA_CTL.FIRE_CNT.lo + j) = false := by decide

theorem State.fieldWrite_taCtl_fireCnt (s : State) (i : Fin 16) (w : Word) :
    (s.fieldWrite (R.TA_CTL i) w).fld (R.TA_CTL i) TA_CTL.FIRE_CNT = s.fld (R.TA_CTL i) TA_CTL.FIRE_CNT := by
  obtain ⟨m, h⟩ := s.fieldWrite_taCtl i w
  rw [State.fld_def, h]
  refine Fld.get_congr fun j hj => ?_
  obtain ⟨hen, hflags⟩ := taCtl_masks_fireCnt ⟨j, hj⟩
  simp only [BitVec.getLsbD_and, BitVec.getLsbD_or, BitVec.getLsbD_not, hen, hflags, Bool.false_and, Bool.and_false, Bool.or_false,
    Bool.not_false, Bool.and_true, decide_eq_true (show TA_CTL.FIRE_CNT.lo + j < 32 from Nat.add_lt_add_left hj 24)]

theorem State.fieldWrite_taCtl_regsBut (s : State) (i : Fin 16) (w : Word) :
    RegsBut (· = R.TA_CTL i) s (s.fieldWrite (R.TA_CTL i) w) :=
  fun j hj => s.fieldWrite_reg_other _ w j hj (not_clearedReg_taCtl i j)

theorem taCtlWrite_answers {a : Access} {w : Word} {i : Fin 16} (dt : Nat) (s : State) (ha : PitWord a)
    (hc : CleanWord (R.TA_CTL i) w = true) (hq : s.flag (R.TA_CTL i) TA_CTL.EN = true ∨ TA_CTL.EN.get w = 0 ∨
      Time.reached (s.advance dt).now (s.taTarget i) = false) :
    ∃ t, exec (.taCtlWrite dt a i w) s = .next t ∧ t.fld (R.TA_CTL i) TA_CTL.EN = TA_CTL.EN.get w ∧
      t.fld (R.TA_CTL i) TA_CTL.FIRE_CNT = s.fld (R.TA_CTL i) TA_CTL.FIRE_CNT ∧ RegsBut (· = R.TA_CTL i) s t := by
  obtain ⟨u, hu, h⟩ := run_pitWrite ha hc
    (fun w s => if !s.flag (R.TA_CTL i) TA_CTL.EN && (s.fieldWrite (R.TA_CTL i) w).flag (R.TA_CTL i) TA_CTL.EN then
      (s.fieldWrite (R.TA_CTL i) w).armAlarm i else s.fieldWrite (R.TA_CTL i) w) dt s
  have hen := u.fieldWrite_taCtl_en i w
  have hreg := u.fieldWrite_taCtl_regsBut i w
  have htgt : (u.fieldWrite (R.TA_CTL i) w).taTarget i = s.taTarget i := (taTarget_of_regsBut hreg).trans (hu.taTarget i)
  have hact : (if !u.flag (R.TA_CTL i) TA_CTL.EN && (u.fieldWrite (R.TA_CTL i) w).flag (R.TA_CTL i) TA_CTL.EN then
      (u.fieldWrite (R.TA_CTL i) w).armAlarm i else u.fieldWrite (R.TA_CTL i) w) = u.fieldWrite (R.TA_CTL i) w := by
    rcases hq with hon | hoff | hahead
    · rw [hu.flag, hon]; rfl
    · rw [show (u.fieldWrite (R.TA_CTL i) w).flag (R.TA_CTL i) TA_CTL.EN = false by rw [State.flag, hen, hoff]; rfl, Bool.and_false]; rfl
    · rw [State.armAlarm_ahead (by rw [State.fieldWrite_now, hu.now, htgt]; exact hahead), ite_self]
  rw [hact] at h
  refine ⟨_, h, ?_⟩
  simp only [State.answered_fld, regsBut_answered, ← hu.fld]
  exact ⟨hen, u.fieldWrite_taCtl_fireCnt i w, hu.regsBut hreg⟩

/-! ## The statement -/

/-- Settles O21, part by part: the captured reads, the time base, and the timer alarms. -/
theorem timeReadsSteeringAndAlarms : Obligations.TimeReadsSteeringAndAlarms := by
  unfold Obligations.TimeReadsSteeringAndAlarms
  refine ⟨fun dt a k s ha => ⟨?_, ?_, ?_⟩, fun dt a w s ha => ⟨?_, ?_, ?_, ?_, ?_⟩, fun dt i s => ⟨?_, ?_, ?_⟩⟩
  · exact fun hd => tbTimeLoRead_captures dt ha hd
  · exact fun hd => tbVtimeLoRead_captures dt ha hd
  · exact fun hd => angTpLoRead_captures dt ha hd
  · exact fun hc => tbRateWrite_answers dt s ha hc
  · exact fun hc => tbAdjWrite_answers dt s ha hc
  · exact fun hc => tbStep_answers dt s ha hc
  · exact fun hc => tbVtOfsHiWrite_answers dt s ha hc
  · exact fun hl h => adjDrained_answers hl h
  · exact fun hen hx hm => timerAlarmFire_answers hen hx hm
  · exact fun a w ha hc hq => taHiWrite_answers dt s ha hc hq
  · exact fun a w ha hc hq => taCtlWrite_answers dt s ha hc hq

end Sys2Proof.Machine

/-! # The family "memory integrity": the outcomes of SEC-DED (R274, R275)

SEC-DED is a linear code: inverted positions change each parity of a codeword by their own parity, and a codeword of the encoder has
even parities, so that a read meets the syndrome and parity of the inverted positions alone. First the parities, then the syndrome,
the data positions, the codeword, and what a read delivers of it. -/

namespace Sys2Proof.Machine

open Sys2Proof Sys2Proof.Safety

/-! ## Parities -/

/-- The parity of the values of `f` below `n`. -/
def parityBelow (n : Nat) (f : Nat → Bool) : Bool := (List.range n).foldl (fun x i => x ^^ f i) false

@[simp] theorem parityBelow_zero (f : Nat → Bool) : parityBelow 0 f = false := rfl

@[simp] theorem parityBelow_succ (n : Nat) (f : Nat → Bool) : parityBelow (n + 1) f = (parityBelow n f ^^ f n) := by
  simp [parityBelow, List.range_succ]

theorem parityBelow_congr {n : Nat} {f g : Nat → Bool} (h : ∀ i < n, f i = g i) : parityBelow n f = parityBelow n g := by
  induction n with
  | zero => rfl
  | succ n ih => rw [parityBelow_succ, parityBelow_succ, ih fun i hi => h i (Nat.lt_succ_of_lt hi), h n (Nat.lt_succ_self n)]

theorem parityBelow_false (n : Nat) : parityBelow n (fun _ => false) = false := by
  induction n with
  | zero => rfl
  | succ n ih => simp [ih]

theorem parityBelow_xor (n : Nat) (f g : Nat → Bool) :
    parityBelow n (fun i => f i ^^ g i) = (parityBelow n f ^^ parityBelow n g) := by
  induction n with
  | zero => rfl
  | succ n ih => simp only [parityBelow_succ, ih, Bool.xor_assoc, Bool.xor_left_comm]

theorem parityBelow_single (n k : Nat) (f : Nat → Bool) :
    parityBelow n (fun i => f i && decide (i = k)) = (f k && decide (k < n)) := by
  induction n with
  | zero => simp
  | succ n ih =>
    rw [parityBelow_succ, ih]
    rcases Nat.lt_trichotomy n k with h | rfl | h
    · simp [show ¬ k < n by omega, show ¬ k < n + 1 by omega, show n ≠ k by omega]
    · simp
    · simp [h, show k < n + 1 by omega, show n ≠ k by omega]

theorem parityOf_eq (cw : BitVec 39) (p : Nat → Bool) : parityOf cw p = parityBelow 39 (fun i => p i && cw.getLsbD i) := by
  have hstep : (fun x i => if p i then x != cw.getLsbD i else x) = fun x i => x ^^ (p i && cw.getLsbD i) := by
    funext x i
    cases p i
    · exact (Bool.xor_false x).symm
    · rfl
  rw [parityOf, hstep, parityBelow]

theorem errorOdd_eq (m : BitVec 39) : errorOdd m = parityOf m (fun _ => true) := by
  rw [parityOf_eq]
  rfl

/-- Parities are linear. -/
theorem parityOf_xor (a b : BitVec 39) (p : Nat → Bool) : parityOf (a ^^^ b) p = (parityOf a p ^^ parityOf b p) := by
  simp only [parityOf_eq, ← parityBelow_xor, BitVec.getLsbD_xor, Bool.and_xor_distrib_left]

theorem getLsbD_position {k : Nat} (hk : k < 39) (i : Nat) : (1#39 <<< k).getLsbD i = decide (i = k) := by
  rw [← BitVec.twoPow_eq, BitVec.getLsbD_twoPow]
  simp [hk, eq_comm]

/-- One position has the parity of itself. -/
theorem parityOf_position {k : Nat} (hk : k < 39) (p : Nat → Bool) : parityOf (1#39 <<< k) p = p k := by
  simp only [parityOf_eq, getLsbD_position hk, parityBelow_single, hk, decide_true, Bool.and_true]

/-! ## The syndrome -/

/-- The positions of check `i`: those whose number has bit `i` set (R274). -/
def inCheck (i p : Nat) : Bool := p.testBit i

theorem inCheck_eq (i : Nat) : (fun p => decide (p / 2 ^ i % 2 = 1)) = inCheck i :=
  funext fun p => (Nat.testBit_eq_decide_div_mod_eq (x := p) (i := i)).symm

/-- A sum of distinct powers of two, chosen by `f`, has the bits that `f` chose. -/
theorem testBit_sum_pow (f : Nat → Bool) (n j : Nat) :
    ((List.range n).foldl (fun x i => if f i then x + 2 ^ i else x) 0).testBit j = (decide (j < n) && f j) := by
  induction n generalizing j with
  | zero => simp
  | succ n ih =>
    have hlt : (List.range n).foldl (fun x i => if f i then x + 2 ^ i else x) 0 < 2 ^ n :=
      Nat.lt_pow_two_of_testBit _ fun i hi => by rw [ih, decide_eq_false (Nat.not_lt.mpr hi), Bool.false_and]
    have hor := Nat.two_pow_add_eq_or_of_lt hlt 1
    rw [Nat.mul_one, Nat.add_comm] at hor
    rw [List.range_succ, List.foldl_append, List.foldl_cons, List.foldl_nil, hor]
    by_cases hj : j = n
    · cases hf : f n <;> simp [hj, hf, ih]
    · cases f n <;> simp [ih, Ne.symm hj, show j < n + 1 ↔ j < n by omega]

theorem testBit_secSyndrome (cw : BitVec 39) (j : Nat) :
    (secSyndrome cw).testBit j = (decide (j < 6) && parityOf cw (inCheck j)) := by
  simp only [secSyndrome, inCheck_eq]
  exact testBit_sum_pow (fun i => parityOf cw (inCheck i)) 6 j

theorem testBit_errorSyndrome (m : BitVec 39) (j : Nat) : (errorSyndrome m).testBit j = parityOf m (inCheck j) := by
  have h : ∀ n, ((List.range n).foldl (fun x i => if m.getLsbD i then x ^^^ i else x) 0).testBit j =
      parityBelow n (fun i => inCheck j i && m.getLsbD i) := fun n => by
    induction n with
    | zero => simp
    | succ n ih =>
      rw [List.range_succ, List.foldl_append, parityBelow_succ, ← ih]
      cases hm : m.getLsbD n <;> simp [hm, inCheck]
  rw [parityOf_eq]
  exact h 39

theorem errorSyndrome_xor (a b : BitVec 39) : errorSyndrome (a ^^^ b) = errorSyndrome a ^^^ errorSyndrome b :=
  Nat.eq_of_testBit_eq fun j => by simp only [Nat.testBit_xor, testBit_errorSyndrome, parityOf_xor]

theorem errorSyndrome_position {k : Nat} (hk : k < 39) : errorSyndrome (1#39 <<< k) = k :=
  Nat.eq_of_testBit_eq fun j => by rw [testBit_errorSyndrome, parityOf_position hk]; rfl

theorem errorOdd_xor (a b : BitVec 39) : errorOdd (a ^^^ b) = (errorOdd a ^^ errorOdd b) := by
  simp only [errorOdd_eq, parityOf_xor]

theorem errorOdd_position {k : Nat} (hk : k < 39) : errorOdd (1#39 <<< k) = true := by
  rw [errorOdd_eq, parityOf_position hk]

/-- No position has a number of more than six bits. -/
theorem parityOf_inCheck_eq_false {j : Nat} (hj : 6 ≤ j) (cw : BitVec 39) : parityOf cw (inCheck j) = false := by
  rw [parityOf_eq, ← parityBelow_false 39]
  refine parityBelow_congr fun i hi => ?_
  have hlt : i < 2 ^ j := Nat.lt_of_lt_of_le (by omega : i < 2 ^ 6) (Nat.pow_le_pow_right (by decide) hj)
  rw [inCheck, Nat.testBit_lt_two_pow hlt, Bool.false_and]

/-- Positions that are inverted in a codeword of even checks give the syndrome of those positions. -/
theorem secSyndrome_xor {cw : BitVec 39} (h : ∀ j < 6, parityOf cw (inCheck j) = false) (m : BitVec 39) :
    secSyndrome (cw ^^^ m) = errorSyndrome m := by
  refine Nat.eq_of_testBit_eq fun j => ?_
  rw [testBit_secSyndrome, testBit_errorSyndrome]
  by_cases hj : j < 6
  · rw [parityOf_xor, h j hj, decide_eq_true hj, Bool.true_and, Bool.false_xor]
  · rw [parityOf_inCheck_eq_false (Nat.le_of_not_lt hj) m, decide_eq_false hj, Bool.false_and]

/-! ## Data bits and their positions -/

/-- Set bit `k` of `w` when `b` holds. -/
def setIf {n : Nat} (b : Bool) (w : BitVec n) (k : Nat) : BitVec n := if b then w ||| 1#n <<< k else w

theorem getLsbD_setIf {n : Nat} (b : Bool) (w : BitVec n) (k j : Nat) :
    (setIf b w k).getLsbD j = (w.getLsbD j || (b && decide (k < n) && decide (k = j))) := by
  cases b
  · simp [setIf]
  · simp [setIf, ← BitVec.twoPow_eq, BitVec.getLsbD_or, BitVec.getLsbD_twoPow]

theorem getLsbD_setIf_of_ne {n : Nat} {b : Bool} {w : BitVec n} {k j : Nat} (h : k ≠ j) : (setIf b w k).getLsbD j = w.getLsbD j := by
  simp [getLsbD_setIf, h]

/-- The data bits as pairs: the position in the codeword and the number of the bit (R274). -/
def dataLayout : List (Nat × Nat) := dataPositions.zip (List.range 32)

theorem secData_eq (cw : BitVec 39) : secData cw = dataLayout.foldl (fun w x => setIf (cw.getLsbD x.1) w x.2) 0 := rfl

theorem placeData_eq (w : Word) : placeData w = dataLayout.foldl (fun cw x => setIf (w.getLsbD x.2) cw x.1) 0 := rfl

/-- The bits after a run through a list that sets the bit `pos x` of each `x` with `b x`. -/
theorem getLsbD_foldl_setIf {n : Nat} {α : Type} (b : α → Bool) (pos : α → Nat) (l : List α) (w : BitVec n) (j : Nat) :
    (l.foldl (fun w x => setIf (b x) w (pos x)) w).getLsbD j =
      (w.getLsbD j || l.any (fun x => b x && decide (pos x < n) && decide (pos x = j))) := by
  induction l generalizing w with
  | nil => simp
  | cons x l ih => rw [List.foldl_cons, ih, getLsbD_setIf, List.any_cons, Bool.or_assoc]

/-- Where no other member has its place, the bit of a member's place is its own. -/
theorem getLsbD_foldl_setIf_of_mem {n : Nat} {α : Type} {b : α → Bool} {pos : α → Nat} {l : List α} {x : α}
    (hl : ∀ y ∈ l, pos y = pos x → y = x) (hx : x ∈ l) (hn : pos x < n) :
    (l.foldl (fun w x => setIf (b x) w (pos x)) (0 : BitVec n)).getLsbD (pos x) = b x := by
  rw [getLsbD_foldl_setIf, Bool.eq_iff_iff]
  simp only [BitVec.ofNat_eq_ofNat, BitVec.getLsbD_zero, Bool.false_or, List.any_eq_true, Bool.and_eq_true, decide_eq_true_eq]
  constructor
  · rintro ⟨y, hy, ⟨hb, -⟩, hp⟩
    exact hl y hy hp ▸ hb
  · exact fun hb => ⟨x, hx, ⟨hb, hn⟩, rfl⟩

theorem dataLayout_lt : ∀ x ∈ dataLayout, x.1 < 39 ∧ x.2 < 32 := by decide

theorem dataLayout_ne_zero : ∀ x ∈ dataLayout, x.1 ≠ 0 := by decide

theorem dataLayout_ne_pow : ∀ x ∈ dataLayout, ∀ i < 6, 2 ^ i ≠ x.1 := by decide

theorem dataLayout_positions_inj : ∀ x ∈ dataLayout, ∀ y ∈ dataLayout, y.1 = x.1 → y = x := by decide

theorem dataLayout_bits_inj : ∀ x ∈ dataLayout, ∀ y ∈ dataLayout, y.2 = x.2 → y = x := by decide

/-- Every data bit has a position. -/
theorem exists_mem_dataLayout : ∀ k < 32, ∃ x ∈ dataLayout, x.2 = k := by decide

theorem secData_getLsbD {x : Nat × Nat} (hx : x ∈ dataLayout) (cw : BitVec 39) : (secData cw).getLsbD x.2 = cw.getLsbD x.1 := by
  rw [secData_eq]
  exact getLsbD_foldl_setIf_of_mem (pos := Prod.snd) (dataLayout_bits_inj x hx) hx (dataLayout_lt x hx).2

theorem placeData_getLsbD {x : Nat × Nat} (hx : x ∈ dataLayout) (w : Word) : (placeData w).getLsbD x.1 = w.getLsbD x.2 := by
  rw [placeData_eq]
  exact getLsbD_foldl_setIf_of_mem (pos := Prod.fst) (dataLayout_positions_inj x hx) hx (dataLayout_lt x hx).1

theorem placeData_getLsbD_of_not_mem {k : Nat} (hk : ∀ x ∈ dataLayout, x.1 ≠ k) (w : Word) : (placeData w).getLsbD k = false := by
  rw [placeData_eq, getLsbD_foldl_setIf]
  simpa using fun p i hx _ _ => hk (p, i) hx

/-- The data of a codeword is the word whose bits stand at the data positions. -/
theorem secData_eq_of_bits {cw : BitVec 39} {w : Word} (h : ∀ x ∈ dataLayout, cw.getLsbD x.1 = w.getLsbD x.2) : secData cw = w := by
  refine BitVec.eq_of_getLsbD_eq fun k hk => ?_
  obtain ⟨x, hx, rfl⟩ := exists_mem_dataLayout k hk
  rw [secData_getLsbD hx, h x hx]

/-! ## The codeword (R274) -/

/-- Set position `k`, where the positions of `p` have odd parity. -/
def evened (p : Nat → Bool) (k : Nat) (cw : BitVec 39) : BitVec 39 := setIf (parityOf cw p) cw k

/-- A clear position that is set adds its own parity. -/
theorem parityOf_evened {cw : BitVec 39} {k : Nat} (hk : k < 39) (hc : cw.getLsbD k = false) (p q : Nat → Bool) :
    parityOf (evened p k cw) q = (parityOf cw q ^^ (parityOf cw p && q k)) := by
  unfold evened setIf
  split
  case isTrue hp =>
    have hor : cw ||| 1#39 <<< k = cw ^^^ 1#39 <<< k := BitVec.eq_of_getLsbD_eq fun i _ => by
      rw [BitVec.getLsbD_or, BitVec.getLsbD_xor, getLsbD_position hk]
      by_cases hi : i = k
      · simp [hi, hc]
      · simp [hi]
    rw [hor, parityOf_xor, parityOf_position hk, hp, Bool.true_and]
  case isFalse hp => rw [Bool.eq_false_iff.mpr hp, Bool.false_and, Bool.xor_false]

/-- The codeword with its first `n` check bits. -/
def withChecks (n : Nat) (cw : BitVec 39) : BitVec 39 := (List.range n).foldl (fun cw i => evened (inCheck i) (2 ^ i) cw) cw

theorem withChecks_succ (n : Nat) (cw : BitVec 39) : withChecks (n + 1) cw = evened (inCheck n) (2 ^ n) (withChecks n cw) := by
  simp [withChecks, List.range_succ]

theorem secEncode_eq (w : Word) : secEncode w = evened (fun _ => true) 0 (withChecks 6 (placeData w)) := by
  simp only [secEncode, inCheck_eq]
  rfl

/-- Check bits leave the other positions. -/
theorem withChecks_getLsbD {n k : Nat} (hk : ∀ i < n, 2 ^ i ≠ k) (cw : BitVec 39) : (withChecks n cw).getLsbD k = cw.getLsbD k := by
  induction n with
  | zero => rfl
  | succ n ih =>
    rw [withChecks_succ, evened, getLsbD_setIf_of_ne (hk n n.lt_succ_self), ih fun i hi => hk i (Nat.lt_succ_of_lt hi)]

/-- Each check bit makes its own check even and leaves the earlier checks as they are. -/
theorem withChecks_even {n : Nat} (hn : n ≤ 6) {cw : BitVec 39} (hc : ∀ i < 6, cw.getLsbD (2 ^ i) = false) :
    ∀ j < n, parityOf (withChecks n cw) (inCheck j) = false := by
  induction n with
  | zero => exact fun j hj => absurd hj j.not_lt_zero
  | succ n ih =>
    intro j hj
    have hlt : 2 ^ n < 39 := Nat.lt_of_le_of_lt (Nat.pow_le_pow_right (by decide) (Nat.le_of_lt_succ hn)) (by decide : 2 ^ 5 < 39)
    have hclear : (withChecks n cw).getLsbD (2 ^ n) = false :=
      (withChecks_getLsbD (fun i hi h => Nat.ne_of_lt hi (Nat.pow_right_inj (by decide) |>.mp h)) cw).trans (hc n hn)
    rw [withChecks_succ, parityOf_evened hlt hclear, inCheck, Nat.testBit_two_pow]
    rcases Nat.lt_succ_iff_lt_or_eq.mp hj with h | rfl
    · simp [ih (Nat.le_of_succ_le hn) j h, Nat.ne_of_gt h]
    · simp

/-- The parity positions hold nothing before the checks are made. -/
theorem placeData_clear (w : Word) : (placeData w).getLsbD 0 = false ∧ ∀ i < 6, (placeData w).getLsbD (2 ^ i) = false :=
  ⟨placeData_getLsbD_of_not_mem dataLayout_ne_zero w,
   fun i hi => placeData_getLsbD_of_not_mem (fun x hx => (dataLayout_ne_pow x hx i hi).symm) w⟩

theorem withChecks_placeData_clear (w : Word) : (withChecks 6 (placeData w)).getLsbD 0 = false :=
  (withChecks_getLsbD (fun i _ => Nat.ne_of_gt (Nat.two_pow_pos i)) _).trans (placeData_clear w).1

theorem secEncode_checks_even (w : Word) : ∀ j < 6, parityOf (secEncode w) (inCheck j) = false := fun j hj => by
  rw [secEncode_eq, parityOf_evened (by decide) (withChecks_placeData_clear w),
    withChecks_even (Nat.le_refl 6) (placeData_clear w).2 j hj]
  simp [inCheck]

theorem secEncode_parity_even (w : Word) : parityOf (secEncode w) (fun _ => true) = false := by
  rw [secEncode_eq, parityOf_evened (by decide) (withChecks_placeData_clear w), Bool.and_true, Bool.xor_self]

theorem secEncode_getLsbD {x : Nat × Nat} (hx : x ∈ dataLayout) (w : Word) : (secEncode w).getLsbD x.1 = w.getLsbD x.2 := by
  rw [secEncode_eq, evened, getLsbD_setIf_of_ne (dataLayout_ne_zero x hx).symm, withChecks_getLsbD (dataLayout_ne_pow x hx),
    placeData_getLsbD hx]

/-! ## What a read delivers (R275) -/

/-- Inverted positions that hold no data leave the data. -/
theorem damaged_eq_of_clear {m : BitVec 39} (hm : ∀ x ∈ dataLayout, m.getLsbD x.1 = false) (w : Word) : damaged w m = w :=
  secData_eq_of_bits fun x hx => by rw [BitVec.getLsbD_xor, hm x hx, Bool.xor_false, secEncode_getLsbD hx]

theorem damaged_zero (w : Word) : damaged w 0 = w := damaged_eq_of_clear (fun _ _ => BitVec.getLsbD_zero) w

/-- The overall parity bit holds no data. -/
theorem damaged_position_zero (w : Word) : damaged w (1#39 <<< 0) = w :=
  damaged_eq_of_clear (fun x hx => by rw [getLsbD_position (by decide), decide_eq_false (dataLayout_ne_zero x hx)]) w

/-- The table of R275 by the syndrome and parity of the inverted positions. -/
theorem eccRead_eq (w : Word) (m : BitVec 39) :
    eccRead w m =
      if errorSyndrome m = 0 then (if errorOdd m then .corrected (damaged w m) else .clean (damaged w m))
      else if errorOdd m ∧ errorSyndrome m ≤ 38 then .corrected (damaged w (m ^^^ (1#39 <<< errorSyndrome m)))
      else .bad (damaged w m) := by
  have hodd : parityOf (secEncode w ^^^ m) (fun _ => true) = errorOdd m := by
    rw [parityOf_xor, secEncode_parity_even, Bool.false_xor, errorOdd_eq]
  unfold eccRead
  split
  case isTrue hm =>
    subst hm
    rw [if_pos (by decide), if_neg (by decide), damaged_zero]
  case isFalse =>
    simp only [secDecode, secSyndrome_xor (secEncode_checks_even w), hodd, damaged, BitVec.xor_assoc]

theorem eccRead_clean {m : BitVec 39} (w : Word) (hs : errorSyndrome m = 0) (ho : errorOdd m = false) :
    eccRead w m = .clean (damaged w m) := by simp [eccRead_eq, hs, ho]

theorem eccRead_parity_bit {m : BitVec 39} (w : Word) (hs : errorSyndrome m = 0) (ho : errorOdd m = true) :
    eccRead w m = .corrected (damaged w m) := by simp [eccRead_eq, hs, ho]

theorem eccRead_corrected {m : BitVec 39} (w : Word) (hpos : 1 ≤ errorSyndrome m) (hs : errorSyndrome m ≤ 38) (ho : errorOdd m = true) :
    eccRead w m = .corrected (damaged w (m ^^^ (1#39 <<< errorSyndrome m))) := by
  rw [eccRead_eq, if_neg (Nat.ne_of_gt hpos), if_pos ⟨ho, hs⟩]

theorem eccRead_beyond {m : BitVec 39} (w : Word) (hs : 39 ≤ errorSyndrome m) : eccRead w m = .bad (damaged w m) := by
  rw [eccRead_eq, if_neg (by omega), if_neg fun h => by omega]

theorem eccRead_even {m : BitVec 39} (w : Word) (hs : errorSyndrome m ≠ 0) (ho : errorOdd m = false) :
    eccRead w m = .bad (damaged w m) := by simp [eccRead_eq, hs, ho]

/-- One inverted position is corrected: the overall parity bit is delivered past, and any other is the syndrome. -/
theorem eccRead_single (w : Word) {i : Nat} (hi : i < 39) : eccRead w (1#39 <<< i) = .corrected w := by
  have hs := errorSyndrome_position hi
  have ho := errorOdd_position hi
  rcases Nat.eq_zero_or_pos i with rfl | hpos
  · rw [eccRead_parity_bit w hs ho, damaged_position_zero]
  · rw [eccRead_corrected w (by omega) (by omega) ho, hs, BitVec.xor_self]
    exact congrArg EccOut.corrected (damaged_zero w)

/-- Two inverted positions have even parity, and their numbers differ, so that the syndrome is not zero. -/
theorem eccRead_double (w : Word) {i j : Nat} (hij : i < j) (hj : j < 39) : ∃ x, eccRead w (1#39 <<< i ^^^ 1#39 <<< j) = .bad x := by
  have hi : i < 39 := Nat.lt_trans hij hj
  refine ⟨_, eccRead_even w ?_ ?_⟩
  · rw [errorSyndrome_xor, errorSyndrome_position hi, errorSyndrome_position hj]
    intro h
    have hsame : i = j := calc
      i = i ^^^ j ^^^ j := by rw [Nat.xor_assoc, Nat.xor_self, Nat.xor_zero]
      _ = j := by rw [h, Nat.zero_xor]
    exact Nat.ne_of_lt hij hsame
  · rw [errorOdd_xor, errorOdd_position hi, errorOdd_position hj, Bool.xor_self]

/-! ## The statement -/

/-- Settles O5: the table row by row, then its consequences for no, one and two inverted positions. -/
theorem secDedOutcomes : Obligations.SecDedOutcomes := by
  unfold Obligations.SecDedOutcomes
  exact fun w m => ⟨eccRead_clean w, eccRead_parity_bit w, eccRead_corrected w, fun hs _ => eccRead_beyond w hs, eccRead_even w,
    damaged_zero w, fun _ hi => eccRead_single w hi, fun _ _ hij hj => eccRead_double w hij hj⟩

end Sys2Proof.Machine
